-- ==== Sys2Proof/Word.lean ====
section
/-! DEFINITION. The word types of the Zynmin and their plainest arithmetic (R4, R162). -/

namespace Sys2Proof

/-- A 64-bit value: a register, an address, a doubleword of memory. -/
abbrev Word := BitVec 64

/-- A byte of memory. -/
abbrev Byte := BitVec 8

/-- A 16-bit parcel of code (R203). -/
abbrev Parcel := BitVec 16

/-- The bits [lo + n - 1 : lo] of a number. -/
def natBits (x lo n : Nat) : Nat := (x >>> lo) % 2 ^ n

/-- The bits [hi : lo] of a word as a number (R4). -/
def Word.bits (x : Word) (hi lo : Nat) : Nat := natBits x.toNat lo (hi + 1 - lo)

/-- A word from a number, modulo 2^64. -/
def word (n : Nat) : Word := BitVec.ofNat 64 n

/-- A word from an integer, modulo 2^64. -/
def wordI (n : Int) : Word := BitVec.ofInt 64 n

end Sys2Proof
end

