-- ==== Sys2Proof/Config.lean ====
section
/-! DEFINITION. What the spec leaves open: values that no proof can see, and constants of the part (log 4, log 5). -/

namespace Sys2Proof.Config

/-- The n-th free value of a run: a register that the spec leaves undefined takes one (R39; log 4). -/
opaque freeValue : Nat → Word

/-- Bits of a spare row of local store before anything is written to them (R536; log 5). -/
opaque spareByte : Nat → Byte

/-- The stage whose ring a task of a hearth consumes, if it consumes one: the spec says only that the scheduler knows it (R81; log 73). -/
opaque stageOf : Nat → Word → Option Nat

/-- The SHA-256 digest of a string of bytes, a public standard (R438, R440; log 6). -/
opaque sha256 : List Byte → BitVec 256

/-- The signature of an image verifies under a key, a public standard (R390, R437; log 6). -/
opaque signatureOk : List Byte → BitVec 256 → Bool

/-- The contents of an SPDM response, by its kind and request data: a public standard (R440; log 6). -/
opaque spdmAnswer : Nat → List Byte → List Byte

/-- The IDE key that KEY_EXCHANGE sets, from the requester's share (R440; log 6). -/
opaque ideKey : BitVec 256 → BitVec 256

/-- The power estimate of a core at a fetch duty (R419: the part's own model; log 7). -/
opaque coreWatts : Nat → Nat → Nat
/-- The power estimate of a cluster's anvil at its busy fraction, which a free value of the interval gives (R419; log 7). -/
opaque anvilWatts : Nat → Word → Nat
/-- The draw of the hub and the DRAM that an interval reports (R419; log 7). -/
opaque hubWatts : Word → Nat


/-- The layer, bank, row and column of a DRAM line of 64 bytes, from bit 0 on in 3, 4, 16 and 11 bits: no rule maps addresses to them
(R489-R493; log 155). -/
opaque linePlace : Nat → Word

/-- The key fused in the hub (R440; log 6). -/
opaque fusedKey : BitVec 256

end Sys2Proof.Config
end

