-- ==== Sys2Proof/Syntax.lean ====
section
/-! DEFINITION. The instructions of Draim as syntax (R203-R223), and the events of the part's other agents: one constructor
for each row of the table of operations and events. An instruction keeps its chain of prefixes in the order in which
it stands in memory, since a trap names the parcel that holds the offending field (R496). An event carries the
operands that its agent chooses. -/

namespace Sys2Proof

/-- A prefix parcel other than PXP, with its payload fields (R207). -/
inductive Prefix where
  | pxi (i : BitVec 9)
  | pxr (t : BitVec 4) (rc : BitVec 2) (sz : BitVec 3)
  | pxm (sc : BitVec 3) (ord : BitVec 2) (wt : BitVec 2) (cp : BitVec 2)
  | pxv (m : BitVec 3) (mm : BitVec 1) (et : BitVec 4) (sat : BitVec 1)
  | pxx (xs : BitVec 9)
  deriving DecidableEq, Repr

/-- Formats RR and RRI of page 0 (R205), with the chain of prefixes in memory order. -/
structure RR where
  px : List Prefix
  d : BitVec 4
  s : BitVec 4
  f : BitVec 1
  deriving DecidableEq, Repr

/-- Format RI of page 0 (R205). -/
structure RI where
  px : List Prefix
  d : BitVec 4
  i : BitVec 5
  deriving DecidableEq, Repr

/-- Formats B and Z of page 0: one field of 9 bits (R205). -/
structure Z9 where
  px : List Prefix
  z : BitVec 9
  deriving DecidableEq, Repr

/-- Operand format XA of pages 1 and 2 (R206). -/
structure XA where
  px : List Prefix
  d : BitVec 4
  s : BitVec 4
  t : BitVec 4
  i : BitVec 4
  deriving DecidableEq, Repr

/-- Operand format XR of page 1 (R206). -/
structure XR where
  px : List Prefix
  d : BitVec 4
  s : BitVec 4
  t : BitVec 4
  rm : BitVec 3
  ftz : BitVec 1
  deriving DecidableEq, Repr

/-- Operand format XB of page 1 (R206). -/
structure XB where
  px : List Prefix
  d : BitVec 4
  o : BitVec 12
  deriving DecidableEq, Repr

/-- A billet, the 160-byte image of a thread (R43): `w` holds w0 to w15. -/
structure Billet where
  pc : Word
  status : Word
  w : List Word
  taskid : Word
  link : Word
  deriving DecidableEq, Repr

/-- A frame: header and billet (R45). `kind` is 1 for a migration and 2 for an eviction. -/
structure Frame where
  barlast : BitVec 20
  kind : Nat
  hearth : Nat
  target : Nat
  handle : Word
  key : Word
  ctr : Word
  billet : Billet
  deriving DecidableEq, Repr

/-- The name of a barrier object (R57): its level as an sc value 2 to 5, the cluster (die * 256 + cluster number), die or
package that holds it, and its index. -/
structure BarId where
  lev : Nat
  unit : Nat
  idx : Nat
  deriving DecidableEq, Repr

/-- What the residue check of an anvil command finds (R516). -/
inductive AnvilCheck where
  | clean
  | recomputed
  | disagrees
  deriving DecidableEq, Repr

/-- The repairs of R492. -/
inductive RepairKind where
  | row
  | bank
  | erasure
  | exhausted
  deriving DecidableEq, Repr

/-- What a fabric error loses (R467, R481): a frame in flight, or a piece of a segment, by its place in the list. -/
inductive FabricLoss where
  | frame (n : Nat)
  | piece (n : Nat)
  deriving DecidableEq, Repr

/-- A domain with a regulator of its own (R413, R415): a core's, or a cluster's. -/
inductive Domain where
  | core (c : Nat)
  | cluster (cl : Nat)
  deriving DecidableEq, Repr

/-- What REGISTER_WRITE writes: an offset of the hub's register map, for the host, or a send context that opens for a hearth and port, with
or without a receive ring, whose base is then the value (R443; log 112). -/
inductive HubPlace where
  | reg (off : Nat)
  | context (n hearth port : Nat) (ring : Bool)
  deriving DecidableEq, Repr

/-- Every row of the table: the instructions of pages 0, 1 and 2 (R220-R222) with MOV in its five rows, then the events
of the other agents. -/
inductive Instr where
  | nop (x : Z9)
  | add (x : RR)
  | addi (x : RI)
  | sub (x : RR)
  | mul (x : RR)
  | mulh (x : RR)
  | mulhn (x : RR)
  | div (x : RR)
  | divn (x : RR)
  | rem (x : RR)
  | remn (x : RR)
  | and (x : RR)
  | andi (x : RI)
  | or (x : RR)
  | ori (x : RI)
  | xor (x : RR)
  | xori (x : RI)
  | shl (x : RR)
  | shr (x : RR)
  | sar (x : RR)
  | shli (x : RI)
  | shri (x : RI)
  | sari (x : RI)
  | rol (x : RR)
  | ror (x : RR)
  | clz (x : RR)
  | ctz (x : RR)
  | popc (x : RR)
  | bswap (x : RR)
  | sext (x : RR)
  | zext (x : RR)
  | min (x : RR)
  | max (x : RR)
  | minn (x : RR)
  | maxn (x : RR)
  | abs (x : RR)
  | cmpeq (x : RR)
  | cmplt (x : RR)
  | cmpltn (x : RR)
  | sel (x : RR)
  | mov (x : RR)
  | movToLoop (x : RR)
  | movFromLoop (x : RR)
  | movToMask (x : RR)
  | movFromMask (x : RR)
  | movi (x : RI)
  | lea (x : RR)
  | addpc (x : RI)
  | bitx (x : RR)
  | biti (x : RR)
  | fadd (x : RR)
  | fsub (x : RR)
  | fmul (x : RR)
  | fma (x : RR)
  | fdiv (x : RR)
  | fsqrt (x : RR)
  | fmin (x : RR)
  | fmax (x : RR)
  | fcmp (x : RR)
  | fcvt (x : RR)
  | fclass (x : RR)
  | br (x : Z9)
  | beqz (x : RI)
  | bnez (x : RI)
  | bltz (x : RI)
  | bgez (x : RI)
  | beq (x : RR)
  | bne (x : RR)
  | blt (x : RR)
  | bltn (x : RR)
  | bge (x : RR)
  | bgen (x : RR)
  | jmp (x : RR)
  | call (x : Z9)
  | icall (x : RR)
  | ret (x : Z9)
  | entry (x : Z9)
  | loops (x : RI)
  | loope (x : Z9)
  | spillw (x : Z9)
  | fillw (x : Z9)
  | ld (x : RR)
  | ldx (x : RR)
  | st (x : RR)
  | stx (x : RR)
  | lda (x : RI)
  | rel (x : Z9)
  | acq (x : RR)
  | fence (x : Z9)
  | amo (x : RR)
  | amov (x : RR)
  | cas (x : RR)
  | cas16 (x : RR)
  | isync (x : RR)
  | put (x : RR)
  | waitm (x : RI)
  | wait (x : Z9)
  | watch (x : RR)
  | sleep (x : RI)
  | mig (x : RR)
  | barr (x : RI)
  | bara (x : RI)
  | bard (x : RI)
  | barw (x : RI)
  | bari (x : RI)
  | futw (x : RR)
  | futs (x : RR)
  | futp (x : RR)
  | lock (x : RR)
  | unlock (x : RR)
  | qpush (x : RR)
  | qpop (x : RR)
  | vadd (x : XR)
  | vsub (x : XR)
  | vmul (x : XR)
  | vfma (x : XR)
  | vfms (x : XR)
  | vmin (x : XR)
  | vmax (x : XR)
  | vabs (x : XA)
  | vneg (x : XA)
  | vdiv (x : XR)
  | vsqrt (x : XR)
  | vrcp (x : XA)
  | vrsq (x : XA)
  | vexp2 (x : XR)
  | vlog2 (x : XR)
  | viadd (x : XA)
  | visub (x : XA)
  | vimul (x : XA)
  | vand (x : XA)
  | vor (x : XA)
  | vxor (x : XA)
  | vnot (x : XA)
  | vshl (x : XA)
  | vshr (x : XA)
  | vsar (x : XA)
  | vcmp (x : XA)
  | vsel (x : XA)
  | vsplat (x : XA)
  | vperm (x : XA)
  | vred (x : XR)
  | vscan (x : XR)
  | vcvt (x : XR)
  | vld (x : XA)
  | vst (x : XR)
  | vlds (x : XA)
  | vsts (x : XR)
  | vgath (x : XA)
  | vscat (x : XR)
  | vrel (x : XA)
  | mand (x : XA)
  | mor (x : XA)
  | mnot (x : XA)
  | mpop (x : XA)
  | mfirst (x : XA)
  | sbind (x : XA)
  | sunb (x : XA)
  | slead (x : XA)
  | vrand (x : XA)
  | xbr (x : XB)
  | xsel (x : XA)
  | xrd (x : XA)
  | xlead (x : XA)
  | xunr (x : XA)
  | xclr (x : XA)
  | xflush (x : XA)
  | tcfg (x : XA)
  | tzero (x : XA)
  | tld (x : XA)
  | tst (x : XA)
  | mma (x : XA)
  | mmax (x : XA)
  | gset (x : XA)
  | tsave (x : XA)
  | trest (x : XA)
  | mseq (x : XA)
  | swcfg (x : XA)
  | cpy (x : XA)
  | cpys (x : XA)
  | cpyn (x : XA)
  | waitc (x : XA)
  | chst (x : XA)
  | spawn (x : XA)
  | yieldc (x : XA)
  | exit (x : XA)
  | tailw (x : XA)
  | send (x : XA)
  | chan (x : XA)
  | blk (x : XA)
  | unblk (x : XA)
  | govcfg (x : XA)
  | idem (x : XA)
  | trap (x : XA)
  | rte (x : XA)
  | csrr (x : XA)
  | csrw (x : XA)
  | csrs (x : XA)
  | csrc (x : XA)
  | halt (x : XA)
  | tlbi (x : XA)
  | rqrd (x : XA)
  | rqgo (x : XA)
  | dispatch (c : Nat)
  | frameArrival (n : Nat)
  | frameRefused (n : Nat)
  | departureResend (c h : Nat)
  | evictWaiter (c k : Nat)
  | footprintLanded (c k : Nat)
  | messageArrival (n : Nat)
  | continuationResume (n : Nat)
  | governorCheck (cl : Nat)
  | preempt (c k : Nat)
  | releaseStamp (c : Nat)
  | beacon (e : Nat)
  | beaconReceipt (hm e : Nat)
  | pieceArrival (n : Nat)
  | pieceApply (n : Nat)
  | pieceAck (n : Nat)
  | homeAccess (n : Nat)
  | loadReply (n : Nat)
  | remoteStoreArrival (n : Nat)
  | storeAck (n : Nat)
  | putLanding (n : Nat)
  | atomicExecute (n : Nat)
  | clusterUnitWriteback (cl w : Nat)
  | walkComplete (e n : Nat)
  | slotFill (c h i : Nat)
  | experienceAdd (n : Nat)
  | streamFetch (c k r : Nat)
  | tongsTransfer (c ch : Nat)
  | copyComplete (c ch : Nat)
  | copyFault (c ch : Nat)
  | anvilCommandStart (cl : Nat)
  | anvilCommandComplete (cl : Nat) (check : AnvilCheck)
  | anvilFetchFault (cl : Nat)
  | sequencerQueue (c : Nat)
  | anvilWatchdog (cl : Nat)
  | barrierArrival (b : BarId) (h : Nat) (drop : Bool) (record : BitVec 20)
  | sleepExpiry (c k : Nat)
  | quarantine (c k : Nat)
  | detUpdateArrival (n : Nat)
  | exitCount (h n : Nat)
  | phaseCommit (h : Nat)
  | homeCommitMerge (hm h : Nat)
  | dramPatrol (line bad : Nat) (upset : List Nat)
  | repairComplete (hm : Nat) (r : RepairKind) (layer bank row : Nat)
  | bellowsInterval
  | fdutyWrite (c : Nat) (v : Word)
  | levelRequest (c : Nat) (v : Word)
  | voltageRampDone (d : Domain)
  | clockRestart (d : Domain)
  | logsizeWrite (c : Nat)
  | gatePrepare (c : Nat)
  | gateCommit (c : Nat)
  | gateWake (c : Nat)
  | plimitWrite (v : Word)
  | thermalTrip (e trip : Nat)
  | thermalRelease (e trip : Nat)
  | vrfail (d : Domain)
  | qtailDoorbell (h q : Nat) (tail : BitVec 32)
  | commandAccept (h q : Nat)
  | launch (h : Nat)
  | phaseDeclare (h : Nat)
  | phaseEnterDeterministic (h : Nat)
  | phaseAbort (h : Nat)
  | map (h : Nat)
  | unmap (h : Nat)
  | loadbin (h : Nat)
  | signal (h : Nat)
  | suspend (h : Nat)
  | resume (h : Nat)
  | reset (h : Nat)
  | acceptWrite (v : BitVec 128)
  | reductionCtlWrite (h j : Nat) (v : Word)
  | reductionContribute (h j pkg : Nat) (v : Word)
  | reductionGenClear (h j : Nat) (v : Word)
  | hostMemoryAccess (d : Nat) (store : Option (List Byte))
  | uetReceive (ctx : Nat) (payload : List Byte)
  | hostLoss
  | ideFailure
  | deviceReset
  | boot (images : List (List Byte)) (reinit : Bool)
  | spdmGetVersion
  | spdmGetCapabilities
  | spdmNegotiateAlgorithms
  | spdmGetDigests
  | spdmGetCertificate
  | spdmChallenge (nonce : BitVec 256)
  | spdmGetMeasurements
  | spdmKeyExchange (share : BitVec 256)
  | firmwareThreadStart (image : Nat) (slot : Option Nat) (fr : Frame)
  | bctlView (c : Nat) (v : Word)
  | bctlDone (c : Nat) (v : Word)
  | lsrepWrite (c n : Nat) (v : Word)
  | bootTimeout (c : Nat)
  | registerWrite (w : HubPlace) (v : Word)
  | podLinkFailure (link : Nat)
  | fabricError (what : FabricLoss)
  | hostLinkReturn
  deriving DecidableEq, Repr

end Sys2Proof
end

