-- ==== Sys2Proof/Machine/State.lean ====
section
/-! DEFINITION. The state of one package (R14-R28, R36, R100), as plain data. Arrays indexed by number are lists of pairs of
index and value, in rising order of index; an index that is not listed holds the default of its field. -/

namespace Sys2Proof.Machine

/-- Why the machine stops with a fault. No step of this model ends so: every failure that the spec describes is a trap, a
record or a poison, hence a next state (safe: the constructor allows nothing). -/
inductive Fault where
  /-- Raised by no step; safe. -/
  | none
  deriving DecidableEq, Repr

/-- Why an instruction has no meaning. -/
inductive Refusal where
  /-- Raised by the arm of an instruction that has no meaning yet; safe. -/
  | notModelled (mnemonic : String)
  deriving DecidableEq, Repr

/-- A vector clock: one 32-bit counter for each die (R130, R133). -/
structure Clock where
  c0 : BitVec 32 := 0
  c1 : BitVec 32 := 0
  c2 : BitVec 32 := 0
  c3 : BitVec 32 := 0
  deriving DecidableEq, Repr

/-- The fields of STATUS (R37). -/
structure Status where
  pin : Bool := false
  spillp : BitVec 25 := 0
  resid : Nat := 0
  adepth : Nat := 0
  idv : Bool := false
  det : Bool := false
  vclean : Bool := true
  priv : Nat := 0
  hearth : Nat := 0
  live : BitVec 16 := 0
  deriving DecidableEq, Repr

/-- An entry of the replay queue (R375): cause, kind, register, lane and address; for a store, the bytes that wait, and the
parameters with which the element is performed again. -/
structure Replay where
  cause : Nat
  kind : Nat
  vreg : Nat
  lane : Nat
  va : Word
  /-- The address of the element itself; va may be that of its scale pair (R114). -/
  elem : Word
  et : Nat
  sat : Nat := 0
  rm : Nat := 0
  cp : Nat := 0
  value : Word := 0
  /-- The instruction that it belongs to, the cycle at which that issued, and its load slot (R192). -/
  group : Nat := 0
  issued : Nat := 0
  xs : Option Nat := none
  deriving DecidableEq, Repr

/-- A mark on a register whose load failed at its target (R454, R487). -/
structure Mark where
  reg : Nat
  poison : Bool
  cause : Nat
  addr : Word
  /-- The core's cycle at which the load issued (R454). -/
  issued : Nat := 0
  deriving DecidableEq, Repr

/-- A deferred fault that waits to be taken (R454): the count that it belongs to (0 loads, 1 stores, 2 copies, 3 tiles), its
cause and address, the channel of a copy, whether a held channel keeps it recurring (R518), and the core's cycle at which its operation
issued. -/
structure Deferred where
  count : Nat
  cause : Nat
  addr : Word
  chan : Nat := 0
  held : Bool := false
  issued : Nat := 0
  deriving DecidableEq, Repr

/-- A bound stream (R324-R327): its record and the core's copy of it, and the vectors fetched ahead. -/
structure Stream where
  record : Word
  base : Word
  stride : Word
  count : Nat
  lead : Nat
  et : Nat
  sat : Nat
  write : Bool
  next : Nat
  xs : Option Nat
  fetched : List (Nat × List (BitVec 32))
  /-- Vectors whose fetch met a fault, which the popping instruction takes (R327). -/
  bad : List Nat := []
  /-- An instruction has found the next vector not yet arrived (R327). -/
  late : Bool := false
  /-- The faulting elements of the next vector, which park when it is popped (R327, R457). -/
  parked : List Replay := []
  rc : Clock
  deriving DecidableEq, Repr

/-- A footprint range (R75): source, offset and length. -/
structure Range where
  src : Word
  off : Nat
  len : Nat
  deriving DecidableEq, Repr

/-- What a slot waits for before its next instruction may issue (R33 conditions 1 and 6). -/
inductive Wait where
  /-- Nothing. -/
  | none
  /-- Counts at or below limits (R154, R285). -/
  | counts (loads stores copies tiles : Nat)
  /-- A mailbox counter (R284), and the address that follows the WAITM. -/
  | mail (tag n : Nat) (npc : Word)
  /-- A release of a core for a hearth (R272). -/
  | acq (core tail : Nat)
  /-- A watched word (R286): its PA, and the address that follows the WATCH. -/
  | watch (pa : Nat) (npc : Word)
  /-- A cycle of the core (R287), and the address that follows the SLEEP. -/
  | sleep (till : Nat) (npc : Word)
  /-- The end of a barrier phase (R291): destination, the phase waited past, whether a BARR waits, whose d is written already, and
  the address that follows. -/
  | barrier (b : BarId) (d : Nat) (phase : Bool) (arrived : Bool) (npc : Word)
  /-- A channel of the tongs (R360). -/
  | chan (ch : Nat)
  /-- A watch on a future, lock or queue word (R65, R294); the instruction re-executes. -/
  | obj (pa : Nat)
  /-- A permit, a reply or another unit: the instruction re-executes at the slot's next opportunity (R33). -/
  | retry
  /-- The footprint of a task that is being dispatched (R75). -/
  | footprint
  /-- A store fault during pre-emption keeps the slot (R477). -/
  | stuck
  deriving DecidableEq, Repr

/-- A barrel slot and the thread in it (R28, R36-R48). `stk` is the register stack by ring entry, `wlow` the ring frame of
w0-w7, `pendW` the ring entries and `pendV` the vector registers with a pending result. -/
structure Slot where
  busy : Bool := false
  pc : Word := 0
  st : Status := {}
  stk : List (Nat × Word) := []
  wlow : Nat := 0
  v : List (Nat × List (BitVec 32)) := []
  m : List (Nat × Word) := []
  vlive : BitVec 16 := 0
  mlive : BitVec 8 := 0
  key : Word := 0
  ctr : Word := 0
  taskid : Word := 0
  link : Word := 0
  barlast : BitVec 20 := 0
  replay : List Replay := []
  rc : Clock := {}
  loads : Nat := 0
  stores : Nat := 0
  copies : Nat := 0
  tiles : Nat := 0
  trapcause : Word := 0
  trapaddr : Word := 0
  trappc : Word := 0
  trapstat : Word := 0
  idempc : Word := 0
  idemctr : Word := 0
  idemlog : Word := 0
  restarts : Nat := 0
  streams : List (Nat × Stream) := []
  pendW : List Nat := []
  pendV : List Nat := []
  markW : List Mark := []
  markV : List Mark := []
  deferred : List Deferred := []
  wait : Wait := .none
  readyAt : Nat := 0
  /-- Inside a spill or fill handler (R468). -/
  winTrap : Bool := false
  /-- Inside an ANVILFETCH handler (R513). -/
  anvTrap : Bool := false
  /-- A trap of an anvil command to be taken at the next boundary (R510, R512): cause, address and sub. -/
  anvPend : Option (Nat × Word × Nat) := none
  /-- The next fetch is that of a trap handler's first instruction (R455). -/
  atVector : Bool := false
  /-- A replay trap to be taken at the next boundary (R457, R458). -/
  replayPend : Bool := false
  /-- The present instruction has issued and acted, and waits to complete (R31). -/
  begun : Bool := false
  /-- An adoption that has won its compare-and-swap, and waits for what the thread has under way (R84): the addresses of its own record
  and of the owner's, and the state in which that was found. -/
  adopting : Option (Word × Word × Nat) := none
  /-- The footprint ranges that are being fetched (R75), as the record gave them at the dispatch. -/
  fetch : List Range := []
  /-- A TaskAbort that waits for copies and tiles to end: its cause (R469). -/
  abort : Option Nat := none
  /-- The ring entries that QPUSH instructions have reserved and wait for (R300): the instruction's address and the entry's. -/
  pushes : List (Word × Word) := []
  deriving DecidableEq, Repr

/-- What a thread's image in memory has no field for, and its hardware keeps beside the image: the trap and region registers, which
follow their thread (R372), how its parked elements are performed again (R375), and the counts, deferred faults and marks of a
helper (R153, R454). A mark names a register of the window. -/
structure Kept where
  trapcause : Word := 0
  trapaddr : Word := 0
  trappc : Word := 0
  trapstat : Word := 0
  idempc : Word := 0
  idemctr : Word := 0
  idemlog : Word := 0
  restarts : Nat := 0
  replay : List Replay := []
  replayPend : Bool := false
  loads : Nat := 0
  stores : Nat := 0
  copies : Nat := 0
  tiles : Nat := 0
  deferred : List Deferred := []
  marks : List Mark := []
  pushes : List (Word × Word) := []
  deriving DecidableEq, Repr

/-- A log entry (R124): the word address PA[55:3], data, mask and kind, with the thread that stored it (R373, R122), whether it
did so in an idempotent region or in deterministic mode, the count of entries appended before it (R125), and once it is spilled its
place in the overflow area (R141). -/
structure LogEntry where
  wadr : Nat
  data : Word
  mask : BitVec 8
  kind : Nat
  slot : Nat
  task : Word
  own : Bool := false
  det : Bool := false
  pos : Nat := 0
  spilled : Option Nat := none
  deriving DecidableEq, Repr

/-- A closed segment that the sequencer has not stamped (R129-R131), with its marks. `slot` is the releasing thread's slot, `publish` is
false for the release that a hearth change makes (R125), `counted` that it counts as a store until it publishes (R132). -/
structure Segment where
  hearth : Nat
  sc : Nat
  slot : Option Nat
  rc : Clock
  entries : List LogEntry
  tail : Nat
  publish : Bool
  counted : Bool
  marks : Nat := 1
  /-- The tongs channel whose completion this release is (R150). -/
  chan : Option Nat := none
  /-- Requests that are sent, with the stamp, when this release is stamped (R266, R143). -/
  follow : List Nat
  /-- The cluster unit's words are written back before it publishes (R142). -/
  wb : Bool := false
  /-- The own segment of a store with ord:rel at pod or sys: shipped after the earlier releases' acknowledgements (R132). -/
  afterAcks : Bool := false
  deriving DecidableEq, Repr

/-- A core's store log (R124-R128, R140, R141). -/
structure Log where
  openHearth : Nat := 0
  openEntries : List LogEntry := []
  closed : List Segment := []
  tail : BitVec 48 := 0
  size : Nat := 2
  newSize : Option Nat := none
  pubtail : List (Nat × BitVec 48) := []
  pubstamp : List (Nat × Clock) := []
  /-- The shipped releases that still hold ring places, oldest first (R140): the release, its places, and whether it is acknowledged. -/
  shipped : List (Nat × Nat × Bool) := []
  deriving DecidableEq, Repr

/-- A mailbox counter and its clock (R283). -/
structure Mailbox where
  value : BitVec 32 := 0
  clk : Clock := {}
  deriving DecidableEq, Repr

/-- A message in flight or in a queue (R78): target core, channel, payload, clock, the sender's core and slot, and whether
it is a hearth interrupt (R450). -/
structure Msg where
  core : Nat
  hearth : Nat
  chan : Nat
  payload : List Word
  rc : Clock
  src : Option (Nat × Nat)
  irq : Bool := false
  /-- The core's cycle at which its SEND issued (R454). -/
  issued : Nat := 0
  deriving DecidableEq, Repr

/-- A TLB entry (R117): tags, the base and size of its page, and the leaf. -/
structure TlbEntry where
  hearth : Nat
  asid : Nat
  base : Nat
  size : Nat
  leaf : BitVec 128
  deriving DecidableEq, Repr

/-- An instruction-cache block of 8 bytes (R155), with the tags of the translation that it was fetched through. -/
structure CodeBlock where
  hearth : Nat
  asid : Nat
  va : Nat
  bytes : List Byte
  deriving DecidableEq, Repr

/-- A slot-cache entry (R195): base once it has arrived, pending deltas, local outcomes and the fields last written. In
deterministic mode an entry belongs to a task (R201). -/
structure XEntry where
  hearth : Nat
  idx : Nat
  task : Option Word
  base : Option Word
  kind : Nat
  c1 : Nat := 0
  c2 : Nat := 0
  k : Nat := 0
  hist : Nat := 0
  lead : Option Nat := none
  trips : List Nat := []
  /-- The least privilege of an update made before the page was known (R193, R195). -/
  chk : Option Nat := none
  deriving DecidableEq, Repr

/-- An experience add or clear in flight to its home (R197, R198). -/
structure XAdd where
  id : Nat
  hearth : Nat
  idx : Nat
  pa : Nat
  core : Nat
  task : Option Word
  clear : Bool
  kind : Nat
  c1 : Nat
  c2 : Nat
  k : Nat
  hist : Nat
  lead : Option Nat
  last : Nat := 0
  maxt : Nat := 0
  run : Nat := 0
  res8 : Nat := 0
  frozen : Bool
  deriving DecidableEq, Repr

/-- An element of an exact tile (R179): the 96-bit accumulator with its flags. -/
structure Exact where
  acc : BitVec 96 := 0
  sat : Bool := false
  inv : Bool := false
  deriving DecidableEq, Repr

/-- A tile register (R338). Elements stand in row-major order. -/
structure Tile where
  claimed : Bool := false
  slot : Nat := 0
  live : Bool := false
  sat : Bool := false
  inv : Bool := false
  exact : Bool := false
  rows : Nat := 0
  cols : Nat := 0
  fp : List (BitVec 32) := []
  ex : List Exact := []
  deriving DecidableEq, Repr

/-- A swage configuration (R351). -/
structure Swage where
  tbase : Word := 0
  dims : Word := 0
  kern : Word := 0
  deriving DecidableEq, Repr

/-- The operations of the anvil (R343). -/
inductive AnvOp where
  | zero (endClaim : Bool)
  | load (addr stride : Word) (et sat : Nat) (acq : Bool)
  | store (addr stride : Word) (et sat : Nat) (rel : Bool) (sc cp : Nat)
  | mma (desc : List Word) (gain : BitVec 32) (sw : Swage) (exact : Bool)
  | save (addr : Word) (endClaim : Bool) (gain : BitVec 32)
  | restore (addr : Word) (claim : Nat)
  deriving DecidableEq, Repr

/-- A queued anvil command with what it captured at issue (R343); `held` after an operand fault (R512). -/
structure AnvCmd where
  slot : Nat
  hearth : Nat
  task : Word
  priv : Nat
  rc : Clock
  tile : Nat
  op : AnvOp
  bind : Option BarId
  held : Bool := false
  started : Bool := false
  /-- The core's cycle at which it issued, its instruction's address, and the owner of the adopted task that issued it (R448, R454, R456). -/
  issued : Nat := 0
  pc : Word := 0
  own : Option Word := none
  deriving DecidableEq, Repr

/-- The tile sequencer (R352). -/
structure Sequence where
  slot : Nat
  record : Word
  tmpl : List Word
  sctl : Word
  da : List Word
  db : List Word
  n : List Nat
  i0 : Nat
  i1 : Nat
  i2 : Nat
  priv : Nat
  rc : Clock
  /-- The core's cycle, the address and the owner of its MSEQ. -/
  issued : Nat := 0
  pc : Word := 0
  own : Option Word := none
  deriving DecidableEq, Repr

/-- A tongs channel (R355-R360, R517-R519). The copy in it is `len` bytes for each of the runs that `counts` and the strides give
(R358); a plain copy has one run. -/
structure Channel where
  busy : Bool := false
  flt : Bool := false
  cxl : Bool := false
  /-- Held by a fault: the faulting address (R517). -/
  held : Option Word := none
  slot : Nat := 0
  hearth : Nat := 0
  priv : Nat := 0
  task : Word := 0
  det : Bool := false
  rc : Clock := {}
  src : Word := 0
  dst : Word := 0
  len : Nat := 0
  counts : List Nat := [1, 1, 1]
  ss : List Word := []
  ds : List Word := []
  /-- A strided copy, and whether its destination runs ascend (R358). -/
  strided : Bool := false
  ascending : Bool := true
  /-- The run that is next, and the bytes of it that are written. -/
  run : Nat := 0
  off : Nat := 0
  /-- Bytes of the run that have been read and not yet written: a part of a destination unit (R144, R151). -/
  buf : List Byte := []
  watermark : Word := 0
  sc : Nat := 0
  global : Bool := false
  bind : Option BarId := none
  /-- A network send: context, tag and port (R359). -/
  net : Option (Nat × Nat × Nat) := none
  /-- ord is 1: it reads the issuer's earlier stores to local store (R151), those of the requests below `before`. -/
  ordered : Bool := false
  before : Nat := 0
  /-- The stamp of the completion release, once made (R360). -/
  stamp : Option Clock := none
  /-- The core and slot of the issuing thread, which counts the command; after its YIELDC, its continuation record until it resumes
  (R79, R363). -/
  owner : Nat × Nat := (0, 0)
  away : Option Word := none
  /-- The core's cycle at which it issued, its instruction's address, and the owner of the adopted task that issued it (R448, R454, R456). -/
  issued : Nat := 0
  pc : Word := 0
  own : Option Word := none
  deriving DecidableEq, Repr

/-- An entry of a pull ring that the tongs have fetched into the core (R73): hearth and level, the count at which it stands, its TASKID,
and the words of its record or the fault that their read met. -/
structure Pulled where
  hearth : Nat
  level : Nat
  head : Word
  task : Word
  words : List Word
  bad : Option (Nat × Word) := none
  deriving DecidableEq, Repr

/-- A footprint range pinned in local store by a task (R75). -/
structure Pin where
  hearth : Nat
  task : Word
  lo : Nat
  len : Nat
  deriving DecidableEq, Repr

/-- The power state of a core (R409-R417) and the demand counted since the last interval. -/
structure CorePower where
  /-- hold and duty of FDUTY; cap follows from the die's trips and the slack scale (R409). -/
  fduty : Word := 0x10
  stallq : Word := 0
  busy : Bool := false
  fcur : Nat := 40
  vreq : Nat := 170
  freq : Nat := 40
  den : Bool := false
  vtgt : Nat := 170
  vcur : Nat := 170
  /-- The change in progress: target voltage, target frequency, and whether the voltage comes first (R414). -/
  change : Option (Nat × Nat × Bool) := none
  held : Option (Nat × Nat) := none
  paused : Bool := false
  want : Nat := 0
  stall : Nat := 0
  issued : Nat := 0
  cycles : Nat := 0
  gated : Bool := false
  preparing : Bool := false
  wake : Bool := false
  /-- The TAILs of the queues bound to the core when its gating was prepared (R418). -/
  tails : List Word := []
  vrfail : Bool := false
  deriving DecidableEq, Repr

/-- A core (R20, R28-R35). -/
structure Core where
  cycle : Word := 0
  pipe : Nat := 0
  /-- The slot that issued to the scalar pipe in this cycle (R29). -/
  issuedS : Option Nat := none
  ptrS : Nat := 15
  ptrV : Nat := 15
  slots : List (Nat × Slot) := []
  loops : List (Nat × Word) := []
  mail : List (Nat × Mailbox) := []
  chans : List (Nat × Word) := []
  msgs : List Msg := []
  log : Log := {}
  lsown0 : Word := 0
  lsown1 : Word := 0
  bankclk : List (Nat × Clock) := []
  rcache : List (Nat × Word) := []
  icache : List CodeBlock := []
  tlb : List TlbEntry := []
  xcache : List XEntry := []
  tiles : List (Nat × Tile) := []
  gains : List (Nat × BitVec 32) := []
  anvq : List AnvCmd := []
  seqr : Option Sequence := none
  swage : Swage := {}
  tongs : List (Nat × Channel) := []
  /-- The channel that the tongs served last (R355). -/
  tongsTurn : Nat := 7
  pw : CorePower := {}
  bootTest : Bool := true
  view : Bool := false
  /-- The checker will find that the first execution of the next retiring instruction does not match (R463): an input from outside. -/
  mismatch : Bool := false
  halted : Option Nat := none
  quarantined : Bool := false
  /-- The slot whose instruction had the core quarantined (R464). -/
  quarSlot : Nat := 0
  /-- The soft errors of the core, the count at which its present second began (R451), and whether its next instruction meets an error of its
  register files or its local store that hardware corrects: an input from outside. -/
  softErrs : Nat := 0
  softBase : Nat := 0
  upset : Bool := false
  resume : Clock := {}
  starve : List (Nat × Nat) := []
  lastHearth : Nat := 15
  msgTurn : List (Nat × Bool) := []
  arr : Word := 0
  /-- The departure buffers by hearth, and whether the frame is under way again (R54). -/
  departing : List (Nat × Frame × Kept × Bool) := []
  pins : List Pin := []
  stopped : List Nat := []
  conts : List (Nat × Word × Clock) := []
  /-- Entries of pull rings that the core has fetched, oldest first (R73). -/
  pulled : List Pulled := []
  deriving DecidableEq, Repr

/-- A stage governor (R81, R368): watched descriptors by stage, the stage of each core, group size and run counts. -/
structure Governor where
  enabled : Bool := false
  hearth : Nat := 0
  rings : List (Nat × Word) := []
  assign : List (Nat × Nat) := []
  g : Nat := 1
  hiRun : List (Nat × Nat) := []
  loRun : List (Nat × Nat) := []
  deriving DecidableEq, Repr

/-- A cluster (R142, R344, R415, R515, R516). -/
structure Cluster where
  aweight : Word := 0x11111111
  turnCore : Nat := 7
  turnCount : Nat := 15
  /-- The core whose head command runs. -/
  running : Option Nat := none
  stopped : Bool := false
  /-- The cluster unit's words: aligned word address, value and hearth. -/
  cu : List (Nat × Word × Nat) := []
  gov : Governor := {}
  fcur : Nat := 40
  vcur : Nat := 170
  /-- The change in progress, as a core's (R415), and whether the clock is stopped for it (R416). -/
  change : Option (Nat × Nat × Bool) := none
  paused : Bool := false
  /-- Its regulator has failed (R525). -/
  vrfail : Bool := false
  deriving DecidableEq, Repr

/-- A miss that waits for a walk, or has been answered by one (R119, R478), until the instruction that it belongs to has ended: `who` is
the slot of its core, or 32 and more for a unit of the core; `aspace` is what ASPACE held when the translation began (R103); `pre` that
a release of its thread has no stamp yet, which its required clock must reach (R118). -/
structure Miss where
  core : Nat
  who : Nat
  hearth : Nat
  aspace : Word
  va : Word
  rc : Clock
  pre : Bool := false
  cause : Option Nat := none
  leaf : Option (BitVec 128) := none
  deriving DecidableEq, Repr

/-- A walk in progress, for the first VA that it was started for (R119), with what ASPACE held then (R103). -/
structure Walk where
  id : Nat
  hearth : Nat
  aspace : Word
  va : Word
  rc : Clock
  deriving DecidableEq, Repr

/-- A compute die (R117, R119, R130, R522). -/
structure Die where
  vc : Clock := {}
  tlb : List TlbEntry := []
  misses : List Miss := []
  /-- The walkers that are at work, 64 at most (R119). -/
  walks : List Walk := []
  trip1 : Bool := false
  trip2 : Bool := false
  trip3 : Bool := false
  powerLost : Bool := false
  deriving DecidableEq, Repr

/-- A deferred update of a deterministic phase (R159, R160, R201). -/
structure DetUpd where
  pa : Nat
  size : Nat
  op : Nat
  value : Word
  task : Word
  seq : Nat
  hearth : Nat
  x : Option XAdd := none
  deriving DecidableEq, Repr

/-- A watch that a home holds (R286). -/
structure Watch where
  pa : Nat
  core : Nat
  slot : Nat
  task : Word
  deriving DecidableEq, Repr

/-- A home slice (R134, R135, R160, R286, R490-R493). `fixed` are the lines corrected, with the symbol positions that were in error, and `ues`
the lines found uncorrectable since the last repair that covers them; `corrections` counts the corrections since the last DRAMCE record. -/
structure Home where
  kh : Clock := {}
  watches : List Watch := []
  holding : List DetUpd := []
  overflow : List DetUpd := []
  erasures : List (Nat × BitVec 32) := []
  rows : List (Nat × Nat) := []
  banks : Nat := 0
  corrections : Nat := 0
  fixed : List (Nat × List Nat) := []
  ues : List Nat := []
  /-- A DRAMCE record has been written (R491). -/
  ceSent : Bool := false
  /-- The requests in the queues of the banks, oldest first: bank and request (R493). -/
  queue : List (Nat × Nat) := []
  /-- The requests that wait at their source for a place in a bank's queue. -/
  waiting : List (Nat × Nat) := []
  /-- The source that each bank admitted last. -/
  lastSrc : List (Nat × Nat) := []
  deriving DecidableEq, Repr

/-- A piece of a stamped release on its way to a home, or at it (R130, R135). -/
structure Piece where
  id : Nat
  rel : Nat
  home : Nat
  stamp : Clock
  die : Nat
  core : Nat
  hearth : Nat
  entries : List LogEntry
  /-- The piece of a store with ord:rel sc:pod (R132, R442). -/
  pod : Bool := false
  arrived : Bool := false
  /-- The number of its arrival (R136). -/
  arr : Nat := 0
  applied : Bool := false
  deriving DecidableEq, Repr

/-- A stamped release whose homes have not all acknowledged it (R132). -/
structure Release where
  id : Nat
  core : Nat
  hearth : Nat
  sc : Nat
  slot : Option Nat
  tail : Nat
  stamp : Clock
  publish : Bool
  counted : Bool
  /-- The tongs channel whose transfer it is (R150). -/
  chan : Option Nat := none
  deriving DecidableEq, Repr

/-- Where the value of a request goes. -/
inductive Dest where
  | none
  /-- A ring entry of the register stack, extended by sz. -/
  | w (entry sz : Nat)
  /-- Two ring entries (R280). -/
  | w2 (lo hi : Nat)
  /-- A lane of a vector register, decoded from a page format to et with a scale pair. -/
  | v (reg lane et fmt : Nat) (scale : Option (Nat × Nat))
  deriving DecidableEq, Repr

/-- The operations of requests that leave the core (R51, R142, R275-R282, R286, R533). -/
inductive ReqOp where
  | load (acq : Bool)
  | store (data : List Byte)
  | put (data : List Byte) (tag : Nat)
  | amo (op : Nat) (v : Word)
  | amov (op : Nat) (v : Word) (acq : Bool)
  | cas (old new : Word) (acq : Bool)
  | cas16 (old0 old1 new0 new1 : Word) (acq : Bool)
  | watch (v : Word) (npc : Word)
  | boot (data : List Byte)
  deriving DecidableEq, Repr

/-- A request in flight. `fwd` are the bytes that the log supplied at issue (R121), `stamp` the clock that a release carries
to local store (R266), `hold` that it waits for its release to be stamped, `group` the instruction that it counts with. -/
structure Req where
  id : Nat
  group : Nat
  core : Nat
  slot : Nat
  hearth : Nat
  priv : Nat
  task : Word
  det : Bool
  rc : Clock
  pc : Word
  va : Word
  pa : Nat
  size : Nat
  sc : Nat
  op : ReqOp
  dst : Dest
  fwd : List (Nat × Byte) := []
  stamp : Option Clock := none
  hold : Bool := false
  seq : Nat := 0
  /-- Fill the read cache with the reply (R110). -/
  fill : Bool := false
  /-- The cycle at which it issued, and the load slot that it updates (R192). -/
  issued : Nat := 0
  xs : Option Nat := none
  /-- The owner of the adopted task that it belongs to (R456). -/
  own : Option Word := none
  deriving DecidableEq, Repr

/-- A reply on its way to its core: the request, the value, the clock of the unit, and a cause other than 0 on failure, whose value is then
the offset of the lowest byte that failed (R447). -/
structure Reply where
  req : Req
  value : Nat
  clk : Clock
  cause : Nat
  deriving DecidableEq, Repr

/-- A frame in flight (R52, R53): where it comes from and what it carries. `resent` is that it stands in its source core's departure
buffer (R54), `dead` that its hearth has been reset since it left (R467). -/
structure Flight where
  frame : Frame
  src : Nat
  kept : Kept := {}
  resent : Bool := false
  dead : Bool := false
  /-- Its number among the requests and frames of the package, for the order on its path (R416). -/
  id : Nat := 0
  deriving DecidableEq, Repr

/-- A continuation that waits for its operation (R79, R363): a channel of a core, or a future. -/
structure ContWait where
  record : Word
  hearth : Nat
  stamp : Clock
  chan : Option (Nat × Nat)
  future : Nat
  core : Nat
  deriving DecidableEq, Repr

/-- A barrier object (R58) and its two clocks (R290). -/
structure Barrier where
  nexp : BitVec 24 := 0
  epoch : BitVec 8 := 0
  hearth : Nat := 0
  poison : Bool := false
  phase : Bool := false
  expected : BitVec 24 := 0
  arrived : BitVec 24 := 0
  now : Clock := {}
  last : Clock := {}
  deriving DecidableEq, Repr

/-- A command accepted from a queue (R431-R433): its SEQ, queue, eight words and state. -/
structure Command where
  seq : Nat
  queue : Nat
  words : List Word
  running : Bool := false
  deriving DecidableEq, Repr

/-- A reduction object of this package (R442), with the contributions of the round. -/
structure Reduction where
  ctl : Word := 0
  contrib : Word := 0
  result : Word := 0
  gen : Word := 0
  mask : Word := 0
  parts : List (Nat × Word) := []
  deriving DecidableEq, Repr

/-- A future that a task of the current phase fills or poisons when it ends: the commit writes it (R302). -/
structure Fill where
  task : Word
  pa : Nat
  state : Nat
  value : Word
  core : Nat
  deriving DecidableEq, Repr

/-- A hearth's deterministic state at the hub and the homes (R88, R89, R157-R160, R482, R542). -/
structure Det where
  on : Bool := false
  /-- The declared phase and its count. -/
  current : Option (Nat × Nat) := none
  counted : List Word := []
  created : List Word := []
  failed : Bool := false
  aborting : Bool := false
  pieces : List Piece := []
  fills : List Fill := []
  accs : List DetUpd := []
  exiting : List (Nat × Word) := []
  /-- The tasks whose end a running abort waits for (R484). -/
  awaited : List Word := []
  merged : List Nat := []
  committing : Bool := false
  reported : List Nat := []
  /-- Phases other than the current one that have failed (R470, R482). -/
  doomed : List Nat := []
  /-- The value at the phase's start of each experience slot that has changed since (R201), by word address. -/
  snap : List (Nat × Word) := []
  /-- The FP atomics that each task has issued (R160). -/
  seqs : List (Nat × Nat) := []
  deriving DecidableEq, Repr

/-- The registers and queues of a hearth (R372, R429, R430, R436, R541). -/
structure Hearth where
  xbase : Word := 0
  trbase : Word := 0
  qtbase : Word := 0
  savebase : Word := 0
  ovfbase : Word := 0
  dmovf : Word := 0
  aspace : Word := 0
  trapvec : Word := 0
  rqbase : Word := 0
  qbase : List (Nat × Word) := []
  qhead : List (Nat × BitVec 32) := []
  qtail : List (Nat × BitVec 32) := []
  hres : Word := 0
  phase : BitVec 16 := 0
  jseq : Word := 0
  hpool : Word := 0
  hpend : Word := 0
  hkey : List (Nat × BitVec 256) := []
  journal : List (Nat × BitVec 256) := []
  commands : List Command := []
  det : Det := {}
  suspended : Bool := false
  /-- The save areas in use (core, slot), with what the hardware keeps of the thread beside its image. -/
  saved : List (Nat × Nat × Kept) := []
  /-- The same for a thread whose billet stands at a VA: in a task record, a run queue or a continuation record. -/
  kept : List (Word × Kept) := []
  reductions : List (Nat × Reduction) := []
  /-- The kernels of the binaries loaded into the hearth, by name (R389). -/
  kernels : List (List Byte × Word) := []
  wasReset : Bool := true
  deriving DecidableEq, Repr

/-- A boot block (R534-R536). -/
structure BootBlock where
  bctl : Word := 0
  bstat : Word := 0
  lsrep : List (Nat × Word) := []
  deriving DecidableEq, Repr

/-- The hub (R421, R422, R427, R439-R443, R451). -/
structure Hub where
  package : Nat := 0
  features : BitVec 128 := 0x3FF
  accept : BitVec 128 := 0
  locked : Bool := false
  plimit : Word := 88
  boots : List (Nat × BootBlock) := []
  ps : Nat := 16
  freeze : Nat := 0
  lastDir : Nat := 0
  slack : Option Nat := none
  linkUp : Bool := true
  ideKey : Option (BitVec 256) := none
  measurements : List (Nat × BitVec 256) := []
  /-- The images that have verified, by their measurement's number (R440). -/
  verified : List Nat := []
  spdm : List (Nat × List Byte) := []
  ras : List (List Word) := []
  halts : List (Nat × Nat × Word) := []
  ctxs : List (Nat × Nat × Nat) := []
  rings : List (Nat × Word × Nat) := []
  netOut : List (Nat × Nat × List Byte) := []
  podLinksDown : List Nat := []
  deriving DecidableEq, Repr

/-- What a running domain has sent to a slot of a core whose clock is stopped: it takes effect after the restart (R416). -/
inductive Crossing where
  /-- The answer of a watch. -/
  | watch (clk : Clock) (w : Watch)
  /-- The end of a barrier phase, or its failure, for a waiting slot. -/
  | barrier (slot : Nat) (b : BarId) (ok phase : Bool) (clk : Clock)
  deriving DecidableEq, Repr

/-- The state of the package. The last six fields are the model's own: the events that act next, the core whose issue
opportunities run when none is listed, the core and slot of the instruction that executes, the next request number and the
index of the next free value (log 3, log 4). -/
structure State where
  mem : List Host.Cell := []
  poison : List Nat := []
  cores : List (Nat × Core) := []
  clusters : List (Nat × Cluster) := []
  dies : List (Nat × Die) := []
  homes : List (Nat × Home) := []
  hearths : List (Nat × Hearth) := []
  barriers : List (Nat × Barrier) := []
  hub : Hub := {}
  pieces : List Piece := []
  releases : List Release := []
  beacons : List (Nat × BitVec 32) := []
  reqs : List Req := []
  replies : List Reply := []
  messages : List Msg := []
  frames : List Flight := []
  refused : List Flight := []
  contWaits : List ContWait := []
  conts : List ContWait := []
  xadds : List XAdd := []
  agenda : List Instr := []
  focus : Nat := 0
  curCore : Nat := 0
  curSlot : Nat := 0
  nextId : Nat := 0
  freeCtr : Nat := 0
  /-- Defective cells of local stores (R535-R539), an input from outside: the cell's address, the bit and the value at which it is stuck. -/
  stuck : List (Nat × Nat × Bool) := []
  /-- The DRAM lines that are in error: the line of 64 bytes, and its symbol positions in error, at most 72 (R489), an input from outside. -/
  latent : List (Nat × List Nat) := []
  /-- The crossings that wait for a core's clock, in their order (R416). -/
  crossings : List (Nat × Crossing) := []
  deriving DecidableEq, Repr

/-- The package right after device reset (R529): every register at the reset value of its description, every core in boot
test (R533), no thread, nothing in flight. -/
def State.reset : State := {}

end Sys2Proof.Machine
end

