-- ==== Sys2Proof/Machine/Map.lean ====
section
/-! DEFINITION. Lists of pairs of index and value, as finite maps. `get` reads with a default; `put` keeps one entry for an
index and a rising order of indices. -/

namespace Sys2Proof.Machine

/-- The value at an index. -/
def get? {α : Type} (m : List (Nat × α)) (k : Nat) : Option α :=
  match m with
  | [] => none
  | (i, a) :: r => if i = k then some a else get? r k

/-- The value at an index, with a default for an index that is not listed. -/
def get {α : Type} (d : α) (m : List (Nat × α)) (k : Nat) : α := (get? m k).getD d

/-- The entries at other indices. -/
def del {α : Type} (m : List (Nat × α)) (k : Nat) : List (Nat × α) :=
  match m with
  | [] => []
  | (i, a) :: r => if i = k then del r k else (i, a) :: del r k

/-- Put an entry before the first larger index. -/
def place {α : Type} (m : List (Nat × α)) (k : Nat) (a : α) : List (Nat × α) :=
  match m with
  | [] => [(k, a)]
  | (i, b) :: r => if k < i then (k, a) :: (i, b) :: r else (i, b) :: place r k a

/-- Write the value at an index. -/
def put {α : Type} (m : List (Nat × α)) (k : Nat) (a : α) : List (Nat × α) := place (del m k) k a

/-- Replace element n of a list. -/
def setNth {α : Type} (l : List α) (n : Nat) (a : α) : List α :=
  match l, n with
  | [], _ => []
  | _ :: r, 0 => a :: r
  | x :: r, n + 1 => x :: setNth r n a

/-- Remove element n of a list. -/
def dropNth {α : Type} (l : List α) (n : Nat) : List α :=
  match l, n with
  | [], _ => []
  | _ :: r, 0 => r
  | x :: r, n + 1 => x :: dropNth r n

/-- The least element by a key. -/
def leastBy {α : Type} (key : α → Nat) : List α → Option α
  | [] => none
  | a :: r => match leastBy key r with
    | none => some a
    | some b => if key a ≤ key b then some a else some b
/-- The last element that satisfies p. -/
def findLast {α : Type} (p : α → Bool) (l : List α) : Option α := l.reverse.find? p

end Sys2Proof.Machine
end

