-- ==== Sys2Proof/Machine/Prefix.lean ====
section
/-! DEFINITION. The prefixes of an instruction: the kinds it carries and accepts, the fields they supply with their defaults,
and the parcel that a trap names for each field (R207-R213, R216-R219, R223, R496). -/

namespace Sys2Proof

/-- The kinds of prefix that R223 tabulates. A PXI that stands directly before PXX belongs to the PXX kind (R219). -/
inductive Kind where
  | imm
  | pxr
  | pxm
  | pxv
  | xs
  deriving DecidableEq, Repr

/-- The prefix is a PXI. -/
def Prefix.isPxi : Prefix → Bool
  | .pxi _ => true
  | _ => false

/-- The prefix is a PXR. -/
def Prefix.isPxr : Prefix → Bool
  | .pxr .. => true
  | _ => false

/-- The prefix is a PXM. -/
def Prefix.isPxm : Prefix → Bool
  | .pxm .. => true
  | _ => false

/-- The prefix is a PXV. -/
def Prefix.isPxv : Prefix → Bool
  | .pxv .. => true
  | _ => false

/-- The prefix is a PXX. -/
def Prefix.isPxx : Prefix → Bool
  | .pxx _ => true
  | _ => false

/-- The kind of each prefix of a chain, in memory order (R213 rule 4, R219). -/
def kinds : List Prefix → List Kind
  | [] => []
  | .pxi _ :: rest => (match rest with | .pxx _ :: _ => .xs | _ => .imm) :: kinds rest
  | .pxr .. :: rest => .pxr :: kinds rest
  | .pxm .. :: rest => .pxm :: kinds rest
  | .pxv .. :: rest => .pxv :: kinds rest
  | .pxx _ :: rest => .xs :: kinds rest

/-- The payloads that extend the immediate, in chain order (R216). -/
def immPayloads : List Prefix → List (BitVec 9)
  | [] => []
  | .pxi i :: rest => match rest with
    | .pxx _ :: _ => immPayloads rest
    | _ => i :: immPayloads rest
  | _ :: rest => immPayloads rest

/-- The slot index xs (R219); 0 without PXX. -/
def xsOf : List Prefix → Nat
  | [] => 0
  | .pxx x :: _ => x.toNat
  | .pxi i :: rest => match rest with
    | .pxx x :: _ => (i.toNat % 128) * 512 + x.toNat
    | _ => xsOf rest
  | _ :: rest => xsOf rest

/-- The fields of the first PXR: t, rc and the low three bits; without PXR t = 0, rc = 0, sz = 3 and rm = 0 (R212). -/
def pxrOf (px : List Prefix) : Option (Nat × Nat × Nat) :=
  px.findSome? fun p => match p with
    | .pxr t rc sz => some (t.toNat, rc.toNat, sz.toNat)
    | _ => none

/-- The fields of PXM: sc, ord, wt, cp; zero when absent (R212). -/
def pxmOf (px : List Prefix) : Nat × Nat × Nat × Nat :=
  (px.findSome? fun p => match p with
    | .pxm sc ord wt cp => some (sc.toNat, ord.toNat, wt.toNat, cp.toNat)
    | _ => none).getD (0, 0, 0, 0)

/-- The fields of PXV: m, mm, et, sat; zero when absent (R212). -/
def pxvOf (px : List Prefix) : Nat × Nat × Nat × Nat :=
  (px.findSome? fun p => match p with
    | .pxv m mm et sat => some (m.toNat, mm.toNat, et.toNat, sat.toNat)
    | _ => none).getD (0, 0, 0, 0)

/-- An immediate: its payloads before a base field of bw bits (R216), and its width. -/
def immValue (px : List Prefix) (bw base : Nat) : Nat × Nat :=
  let ps := immPayloads px
  ((ps.foldl (fun a p => a * 512 + p.toNat) 0) * 2 ^ bw + base, 9 * ps.length + bw)

/-- A value of w bits read as two's complement (R217). -/
def signed (w v : Nat) : Int := if w = 0 then 0 else if v < 2 ^ (w - 1) then (v : Int) else (v : Int) - 2 ^ w

/-- The decoded fields of an instruction, with the prefix defaults applied (R212, R229). `pos` gives for each prefix kind
the parcel number of the first prefix of that kind, and `last` that of the base or operand parcel. -/
structure Fld where
  page : Nat
  px : List Prefix
  d : Nat := 0
  s : Nat := 0
  t : Nat := 0
  f : Nat := 0
  /-- The base field that the immediate ends with, or the whole z. -/
  base : Nat := 0
  rm : Nat := 0
  ftz : Nat := 0
  rc : Nat := 0
  sz : Nat := 3
  immU : Nat := 0
  immS : Int := 0
  deriving DecidableEq, Repr

namespace Fld

/-- PXR is present. -/
def pxr (x : Fld) : Bool := x.px.any Prefix.isPxr
/-- PXX is present. -/
def pxx (x : Fld) : Bool := x.px.any Prefix.isPxx
/-- PXI extends the immediate. -/
def pxi (x : Fld) : Bool := !(immPayloads x.px).isEmpty
/-- The sc field of PXM. -/
def sc (x : Fld) : Nat := (pxmOf x.px).1
/-- The ord field of PXM. -/
def ord (x : Fld) : Nat := (pxmOf x.px).2.1
/-- The wt field of PXM. -/
def wt (x : Fld) : Nat := (pxmOf x.px).2.2.1
/-- The cp field of PXM. -/
def cp (x : Fld) : Nat := (pxmOf x.px).2.2.2
/-- The m field of PXV. -/
def m (x : Fld) : Nat := (pxvOf x.px).1
/-- The mm field of PXV. -/
def mm (x : Fld) : Nat := (pxvOf x.px).2.1
/-- The et field of PXV. -/
def et (x : Fld) : Nat := (pxvOf x.px).2.2.1
/-- The sat field of PXV. -/
def sat (x : Fld) : Nat := (pxvOf x.px).2.2.2
/-- The slot index. -/
def xs (x : Fld) : Nat := xsOf x.px

/-- The number of parcels of the instruction (R204). -/
def len (x : Fld) : Nat := x.px.length + (if x.page = 0 then 1 else 2)
/-- The parcel number of the base or operand parcel. -/
def last (x : Fld) : Nat := x.len - 1
/-- The parcel number of the base parcel, or of the PXP (R496). -/
def opPos (x : Fld) : Nat := x.px.length
/-- The parcel number of the first prefix that satisfies p, or of the last parcel where none does. -/
def posOf (x : Fld) (p : Prefix → Bool) : Nat := if x.px.any p then x.px.findIdx p else x.last
/-- The parcel that holds the immediate's upper bits: its first PXI, else the last parcel. -/
def immPos (x : Fld) : Nat := if x.pxi then (kinds x.px).findIdx (· == .imm) else x.last
/-- The parcel of PXR. -/
def pxrPos (x : Fld) : Nat := x.posOf Prefix.isPxr
/-- The parcel of PXM. -/
def pxmPos (x : Fld) : Nat := x.posOf Prefix.isPxm
/-- The parcel of PXV. -/
def pxvPos (x : Fld) : Nat := x.posOf Prefix.isPxv

end Fld

/-- The PXR values that the forms share. -/
def fldPxr (x : Fld) : Fld :=
  match pxrOf x.px with
  | none => x
  | some (t, rc, sz) => { x with t := if x.page = 0 then t else x.t, rc := rc, sz := sz }

/-- Fields of an RR or RRI instruction (R205). The low bits of PXR are both sz and rm; each instruction reads the one it has. -/
def RR.fld (x : RR) : Fld :=
  let (v, w) := immValue x.px 0 0
  let y := fldPxr { page := 0, px := x.px, d := x.d.toNat, s := x.s.toNat, f := x.f.toNat, immU := v, immS := signed w v }
  { y with rm := if y.pxr then y.sz else 0 }

/-- Fields of an RI instruction. -/
def RI.fld (x : RI) : Fld :=
  let (v, w) := immValue x.px 5 x.i.toNat
  fldPxr { page := 0, px := x.px, d := x.d.toNat, base := x.i.toNat, immU := v, immS := signed w v }

/-- Fields of a B or Z instruction. -/
def Z9.fld (x : Z9) : Fld :=
  let (v, w) := immValue x.px 9 x.z.toNat
  fldPxr { page := 0, px := x.px, base := x.z.toNat, immU := v, immS := signed w v }

/-- Fields of an XA instruction (R206). -/
def XA.fld (x : XA) (page : Nat) : Fld :=
  let (v, w) := immValue x.px 4 x.i.toNat
  fldPxr { page := page, px := x.px, d := x.d.toNat, s := x.s.toNat, t := x.t.toNat, base := x.i.toNat, rc := 1,
           immU := v, immS := signed w v }

/-- Fields of an XR instruction. -/
def XR.fld (x : XR) : Fld :=
  let (v, w) := immValue x.px 0 0
  fldPxr { page := 1, px := x.px, d := x.d.toNat, s := x.s.toNat, t := x.t.toNat, rm := x.rm.toNat, ftz := x.ftz.toNat,
           rc := 1, immU := v, immS := signed w v }

/-- Fields of an XB instruction. -/
def XB.fld (x : XB) : Fld :=
  let (v, w) := immValue x.px 12 x.o.toNat
  fldPxr { page := 1, px := x.px, d := x.d.toNat, base := x.o.toNat, rc := 1, immU := v, immS := signed w v }

/-- The prefix kinds that an instruction accepts (R223, R231-R256, R259, R307, R322, R323, R325, R330, R334, R337). A row
whose description names no kinds accepts those of its range in R223 (log 10). -/
def Instr.accepts : Instr → List Kind
  | .nop _ => []
  | .add _ => [.pxr]
  | .addi _ => [.imm, .pxr]
  | .sub _ => [.pxr]
  | .mul _ => [.pxr]
  | .mulh _ => [.pxr]
  | .mulhn _ => [.pxr]
  | .div _ => [.pxr]
  | .divn _ => [.pxr]
  | .rem _ => [.pxr]
  | .remn _ => [.pxr]
  | .and _ => [.pxr]
  | .andi _ => [.imm, .pxr]
  | .or _ => [.pxr]
  | .ori _ => [.imm, .pxr]
  | .xor _ => [.pxr]
  | .xori _ => [.imm, .pxr]
  | .shl _ => [.pxr]
  | .shr _ => [.pxr]
  | .sar _ => [.pxr]
  | .shli _ => [.imm, .pxr]
  | .shri _ => [.imm, .pxr]
  | .sari _ => [.imm, .pxr]
  | .rol _ => [.pxr]
  | .ror _ => [.pxr]
  | .clz _ => []
  | .ctz _ => []
  | .popc _ => []
  | .bswap _ => []
  | .sext _ => [.pxr]
  | .zext _ => [.pxr]
  | .min _ => [.pxr]
  | .max _ => [.pxr]
  | .minn _ => [.pxr]
  | .maxn _ => [.pxr]
  | .abs _ => []
  | .cmpeq _ => [.pxr]
  | .cmplt _ => [.pxr]
  | .cmpltn _ => [.pxr]
  | .sel _ => [.pxr]
  | .mov _ => [.pxr]
  | .movToLoop _ => [.pxr]
  | .movFromLoop _ => [.pxr]
  | .movToMask _ => [.pxr]
  | .movFromMask _ => [.pxr]
  | .movi _ => [.imm]
  | .lea _ => [.imm, .pxr]
  | .addpc _ => [.imm]
  | .bitx _ => [.imm]
  | .biti _ => [.imm]
  | .fadd _ => [.pxr]
  | .fsub _ => [.pxr]
  | .fmul _ => [.pxr]
  | .fma _ => [.pxr]
  | .fdiv _ => [.pxr]
  | .fsqrt _ => [.pxr]
  | .fmin _ => [.pxr]
  | .fmax _ => [.pxr]
  | .fcmp _ => [.pxr]
  | .fcvt _ => [.pxr]
  | .fclass _ => []
  | .br _ => [.imm]
  | .beqz _ => [.imm, .xs]
  | .bnez _ => [.imm, .xs]
  | .bltz _ => [.imm, .xs]
  | .bgez _ => [.imm, .xs]
  | .beq _ => [.imm, .xs]
  | .bne _ => [.imm, .xs]
  | .blt _ => [.imm, .xs]
  | .bltn _ => [.imm, .xs]
  | .bge _ => [.imm, .xs]
  | .bgen _ => [.imm, .xs]
  | .jmp _ => []
  | .call _ => [.imm]
  | .icall _ => []
  | .ret _ => []
  | .entry _ => [.imm]
  | .loops _ => [.imm, .xs]
  | .loope _ => [.imm]
  | .spillw _ => []
  | .fillw _ => []
  | .ld _ => [.imm, .pxr, .pxm, .xs]
  | .ldx _ => [.pxr, .pxm, .xs]
  | .st _ => [.imm, .pxr, .pxm]
  | .stx _ => [.pxr, .pxm]
  | .lda _ => [.imm, .pxr, .pxm, .xs]
  | .rel _ => [.pxm]
  | .acq _ => []
  | .fence _ => []
  | .amo _ => [.imm, .pxr, .pxm]
  | .amov _ => [.imm, .pxr, .pxm]
  | .cas _ => [.pxr, .pxm]
  | .cas16 _ => [.pxr, .pxm]
  | .isync _ => []
  | .put _ => [.pxr, .pxm]
  | .waitm _ => [.imm]
  | .wait _ => [.imm]
  | .watch _ => []
  | .sleep _ => [.imm]
  | .mig _ => []
  | .barr _ => [.imm, .pxm]
  | .bara _ => [.imm, .pxm]
  | .bard _ => [.imm, .pxm]
  | .barw _ => [.imm, .pxm]
  | .bari _ => [.imm, .pxm]
  | .futw _ => [.pxr]
  | .futs _ => []
  | .futp _ => []
  | .lock _ => []
  | .unlock _ => []
  | .qpush _ => []
  | .qpop _ => [.pxr]
  | .vadd _ => [.pxr, .pxv]
  | .vsub _ => [.pxr, .pxv]
  | .vmul _ => [.pxr, .pxv]
  | .vfma _ => [.pxr, .pxv]
  | .vfms _ => [.pxr, .pxv]
  | .vmin _ => [.pxr, .pxv]
  | .vmax _ => [.pxr, .pxv]
  | .vabs _ => [.imm, .pxr, .pxv]
  | .vneg _ => [.imm, .pxr, .pxv]
  | .vdiv _ => [.pxr, .pxv]
  | .vsqrt _ => [.pxr, .pxv]
  | .vrcp _ => [.imm, .pxr, .pxv]
  | .vrsq _ => [.imm, .pxr, .pxv]
  | .vexp2 _ => [.pxr, .pxv]
  | .vlog2 _ => [.pxr, .pxv]
  | .viadd _ => [.imm, .pxr, .pxv]
  | .visub _ => [.imm, .pxr, .pxv]
  | .vimul _ => [.imm, .pxr, .pxv]
  | .vand _ => [.imm, .pxr, .pxv]
  | .vor _ => [.imm, .pxr, .pxv]
  | .vxor _ => [.imm, .pxr, .pxv]
  | .vnot _ => [.imm, .pxr, .pxv]
  | .vshl _ => [.imm, .pxr, .pxv]
  | .vshr _ => [.imm, .pxr, .pxv]
  | .vsar _ => [.imm, .pxr, .pxv]
  | .vcmp _ => [.imm, .pxr, .pxv]
  | .vsel _ => [.imm, .pxr, .pxv]
  | .vsplat _ => [.imm, .pxr, .pxv]
  | .vperm _ => [.imm, .pxr, .pxv]
  | .vred _ => [.pxr, .pxv]
  | .vscan _ => [.pxr, .pxv]
  | .vcvt _ => [.pxr, .pxv]
  | .vld _ => [.imm, .pxr, .pxm, .pxv, .xs]
  | .vst _ => [.imm, .pxr, .pxm, .pxv]
  | .vlds _ => [.imm, .pxr, .pxm, .pxv, .xs]
  | .vsts _ => [.imm, .pxr, .pxm, .pxv]
  | .vgath _ => [.imm, .pxr, .pxm, .pxv, .xs]
  | .vscat _ => [.imm, .pxr, .pxm, .pxv]
  | .vrel _ => []
  | .mand _ => []
  | .mor _ => []
  | .mnot _ => []
  | .mpop _ => []
  | .mfirst _ => []
  | .sbind _ => [.pxv, .xs]
  | .sunb _ => [.imm, .pxr, .pxv]
  | .slead _ => [.imm, .pxr, .pxv]
  | .vrand _ => [.pxv]
  | .xbr _ => [.imm, .pxr, .xs]
  | .xsel _ => [.imm, .pxr, .xs]
  | .xrd _ => [.imm, .pxr, .xs]
  | .xlead _ => [.imm, .pxr, .xs]
  | .xunr _ => [.imm, .pxr, .xs]
  | .xclr _ => [.imm, .pxr, .xs]
  | .xflush _ => [.imm, .pxr]
  | .tcfg _ => []
  | .tzero _ => []
  | .tld _ => [.pxm, .pxv]
  | .tst _ => [.pxm, .pxv]
  | .mma _ => []
  | .mmax _ => []
  | .gset _ => []
  | .tsave _ => []
  | .trest _ => []
  | .mseq _ => []
  | .swcfg _ => []
  | .cpy _ => [.imm, .pxm]
  | .cpys _ => [.imm, .pxm]
  | .cpyn _ => [.imm, .pxm]
  | .waitc _ => [.pxm]
  | .chst _ => []
  | .spawn _ => []
  | .yieldc _ => []
  | .exit _ => []
  | .tailw _ => [.pxm]
  | .send _ => [.imm, .pxm]
  | .chan _ => [.imm]
  | .blk _ => [.imm]
  | .unblk _ => [.imm]
  | .govcfg _ => []
  | .idem _ => []
  | .trap _ => [.imm]
  | .rte _ => []
  | .csrr _ => [.imm]
  | .csrw _ => [.imm]
  | .csrs _ => [.imm]
  | .csrc _ => [.imm]
  | .halt _ => [.imm]
  | .tlbi _ => []
  | .rqrd _ => [.imm]
  | .rqgo _ => []
  | .dispatch _ | .frameArrival _ | .frameRefused _ | .departureResend _ _ | .evictWaiter _ _
    | .footprintLanded _ _ | .messageArrival _ | .continuationResume _ | .governorCheck _ | .preempt _ _
    | .releaseStamp _ | .beacon _ | .beaconReceipt _ _ | .pieceArrival _ | .pieceApply _ | .pieceAck _
    | .homeAccess _ | .loadReply _ | .remoteStoreArrival _ | .storeAck _ | .putLanding _ | .atomicExecute _
    | .clusterUnitWriteback _ _ | .walkComplete _ _ | .slotFill _ _ _ | .experienceAdd _ | .streamFetch _ _ _
    | .tongsTransfer _ _ | .copyComplete _ _ | .copyFault _ _ | .anvilCommandStart _ | .anvilCommandComplete _ _
    | .anvilFetchFault _ | .sequencerQueue _ | .anvilWatchdog _ | .barrierArrival _ _ _ _ | .sleepExpiry _ _
    | .quarantine _ _ | .detUpdateArrival _ | .exitCount _ _ | .phaseCommit _ | .homeCommitMerge _ _
    | .dramPatrol _ _ _ | .repairComplete _ _ _ _ _ | .bellowsInterval | .fdutyWrite _ _ | .levelRequest _ _
    | .voltageRampDone _ | .clockRestart _ | .logsizeWrite _ | .gatePrepare _ | .gateCommit _ | .gateWake _
    | .plimitWrite _ | .thermalTrip _ _ | .thermalRelease _ _ | .vrfail _ | .qtailDoorbell _ _ _
    | .commandAccept _ _ | .launch _ | .phaseDeclare _ | .phaseEnterDeterministic _ | .phaseAbort _ | .map _
    | .unmap _ | .loadbin _ | .signal _ | .suspend _ | .resume _ | .reset _ | .acceptWrite _
    | .reductionCtlWrite _ _ _ | .reductionContribute _ _ _ _ | .reductionGenClear _ _ _ | .hostMemoryAccess _ _
    | .uetReceive _ _ | .hostLoss | .ideFailure | .deviceReset | .boot _ _ | .spdmGetVersion | .spdmGetCapabilities
    | .spdmNegotiateAlgorithms | .spdmGetDigests | .spdmGetCertificate | .spdmChallenge _ | .spdmGetMeasurements
    | .spdmKeyExchange _ | .firmwareThreadStart _ _ _ | .bctlView _ _ | .bctlDone _ _ | .lsrepWrite _ _ _
    | .bootTimeout _ | .registerWrite _ _ | .podLinkFailure _ | .fabricError _ | .hostLinkReturn => []

/-- The chain of an encoded instruction; an event has none. -/
def Instr.px : Instr → List Prefix
  | .nop x | .br x | .call x | .ret x | .entry x | .loope x | .spillw x | .fillw x => x.px
  | .rel x | .fence x | .wait x => x.px
  | .add x | .sub x | .mul x | .mulh x | .mulhn x | .div x | .divn x | .rem x => x.px
  | .remn x | .and x | .or x | .xor x | .shl x | .shr x | .sar x | .rol x => x.px
  | .ror x | .clz x | .ctz x | .popc x | .bswap x | .sext x | .zext x | .min x => x.px
  | .max x | .minn x | .maxn x | .abs x | .cmpeq x | .cmplt x | .cmpltn x | .sel x => x.px
  | .mov x | .movToLoop x | .movFromLoop x | .movToMask x | .movFromMask x | .lea x | .bitx x | .biti x => x.px
  | .fadd x | .fsub x | .fmul x | .fma x | .fdiv x | .fsqrt x | .fmin x | .fmax x => x.px
  | .fcmp x | .fcvt x | .fclass x | .beq x | .bne x | .blt x | .bltn x | .bge x => x.px
  | .bgen x | .jmp x | .icall x | .ld x | .ldx x | .st x | .stx x | .acq x => x.px
  | .amo x | .amov x | .cas x | .cas16 x | .isync x | .put x | .watch x | .mig x => x.px
  | .futw x | .futs x | .futp x | .lock x | .unlock x | .qpush x | .qpop x => x.px
  | .addi x | .andi x | .ori x | .xori x | .shli x | .shri x | .sari x | .movi x => x.px
  | .addpc x | .beqz x | .bnez x | .bltz x | .bgez x | .loops x | .lda x | .waitm x => x.px
  | .sleep x | .barr x | .bara x | .bard x | .barw x | .bari x => x.px
  | .vadd x | .vsub x | .vmul x | .vfma x | .vfms x | .vmin x | .vmax x | .vdiv x => x.px
  | .vsqrt x | .vexp2 x | .vlog2 x | .vred x | .vscan x | .vcvt x | .vst x | .vsts x => x.px
  | .vscat x => x.px
  | .vabs x | .vneg x | .vrcp x | .vrsq x | .viadd x | .visub x | .vimul x | .vand x => x.px
  | .vor x | .vxor x | .vnot x | .vshl x | .vshr x | .vsar x | .vcmp x | .vsel x => x.px
  | .vsplat x | .vperm x | .vld x | .vlds x | .vgath x | .vrel x | .mand x | .mor x => x.px
  | .mnot x | .mpop x | .mfirst x | .sbind x | .sunb x | .slead x | .vrand x | .xsel x => x.px
  | .xrd x | .xlead x | .xunr x | .xclr x | .xflush x | .tcfg x | .tzero x | .tld x => x.px
  | .tst x | .mma x | .mmax x | .gset x | .tsave x | .trest x | .mseq x | .swcfg x => x.px
  | .cpy x | .cpys x | .cpyn x | .waitc x | .chst x | .spawn x | .yieldc x | .exit x => x.px
  | .tailw x | .send x | .chan x | .blk x | .unblk x | .govcfg x | .idem x | .trap x => x.px
  | .rte x | .csrr x | .csrw x | .csrs x | .csrc x | .halt x | .tlbi x | .rqrd x => x.px
  | .rqgo x => x.px
  | .xbr x => x.px
  | .dispatch _ | .frameArrival _ | .frameRefused _ | .departureResend _ _ | .evictWaiter _ _
    | .footprintLanded _ _ | .messageArrival _ | .continuationResume _ | .governorCheck _ | .preempt _ _
    | .releaseStamp _ | .beacon _ | .beaconReceipt _ _ | .pieceArrival _ | .pieceApply _ | .pieceAck _
    | .homeAccess _ | .loadReply _ | .remoteStoreArrival _ | .storeAck _ | .putLanding _ | .atomicExecute _
    | .clusterUnitWriteback _ _ | .walkComplete _ _ | .slotFill _ _ _ | .experienceAdd _ | .streamFetch _ _ _
    | .tongsTransfer _ _ | .copyComplete _ _ | .copyFault _ _ | .anvilCommandStart _ | .anvilCommandComplete _ _
    | .anvilFetchFault _ | .sequencerQueue _ | .anvilWatchdog _ | .barrierArrival _ _ _ _ | .sleepExpiry _ _
    | .quarantine _ _ | .detUpdateArrival _ | .exitCount _ _ | .phaseCommit _ | .homeCommitMerge _ _
    | .dramPatrol _ _ _ | .repairComplete _ _ _ _ _ | .bellowsInterval | .fdutyWrite _ _ | .levelRequest _ _
    | .voltageRampDone _ | .clockRestart _ | .logsizeWrite _ | .gatePrepare _ | .gateCommit _ | .gateWake _
    | .plimitWrite _ | .thermalTrip _ _ | .thermalRelease _ _ | .vrfail _ | .qtailDoorbell _ _ _
    | .commandAccept _ _ | .launch _ | .phaseDeclare _ | .phaseEnterDeterministic _ | .phaseAbort _ | .map _
    | .unmap _ | .loadbin _ | .signal _ | .suspend _ | .resume _ | .reset _ | .acceptWrite _
    | .reductionCtlWrite _ _ _ | .reductionContribute _ _ _ _ | .reductionGenClear _ _ _ | .hostMemoryAccess _ _
    | .uetReceive _ _ | .hostLoss | .ideFailure | .deviceReset | .boot _ _ | .spdmGetVersion | .spdmGetCapabilities
    | .spdmNegotiateAlgorithms | .spdmGetDigests | .spdmGetCertificate | .spdmChallenge _ | .spdmGetMeasurements
    | .spdmKeyExchange _ | .firmwareThreadStart _ _ _ | .bctlView _ _ | .bctlDone _ _ | .lsrepWrite _ _ _
    | .bootTimeout _ | .registerWrite _ _ | .podLinkFailure _ | .fabricError _ | .hostLinkReturn => []

/-- The row is an instruction with an encoding (R220-R222), not an event. -/
def Instr.encoded : Instr → Bool
  | .dispatch _ | .frameArrival _ | .frameRefused _ | .departureResend _ _ | .evictWaiter _ _
    | .footprintLanded _ _ | .messageArrival _ | .continuationResume _ | .governorCheck _ | .preempt _ _
    | .releaseStamp _ | .beacon _ | .beaconReceipt _ _ | .pieceArrival _ | .pieceApply _ | .pieceAck _
    | .homeAccess _ | .loadReply _ | .remoteStoreArrival _ | .storeAck _ | .putLanding _ | .atomicExecute _
    | .clusterUnitWriteback _ _ | .walkComplete _ _ | .slotFill _ _ _ | .experienceAdd _ | .streamFetch _ _ _
    | .tongsTransfer _ _ | .copyComplete _ _ | .copyFault _ _ | .anvilCommandStart _ | .anvilCommandComplete _ _
    | .anvilFetchFault _ | .sequencerQueue _ | .anvilWatchdog _ | .barrierArrival _ _ _ _ | .sleepExpiry _ _
    | .quarantine _ _ | .detUpdateArrival _ | .exitCount _ _ | .phaseCommit _ | .homeCommitMerge _ _
    | .dramPatrol _ _ _ | .repairComplete _ _ _ _ _ | .bellowsInterval | .fdutyWrite _ _ | .levelRequest _ _
    | .voltageRampDone _ | .clockRestart _ | .logsizeWrite _ | .gatePrepare _ | .gateCommit _ | .gateWake _
    | .plimitWrite _ | .thermalTrip _ _ | .thermalRelease _ _ | .vrfail _ | .qtailDoorbell _ _ _
    | .commandAccept _ _ | .launch _ | .phaseDeclare _ | .phaseEnterDeterministic _ | .phaseAbort _ | .map _
    | .unmap _ | .loadbin _ | .signal _ | .suspend _ | .resume _ | .reset _ | .acceptWrite _
    | .reductionCtlWrite _ _ _ | .reductionContribute _ _ _ _ | .reductionGenClear _ _ _ | .hostMemoryAccess _ _
    | .uetReceive _ _ | .hostLoss | .ideFailure | .deviceReset | .boot _ _ | .spdmGetVersion | .spdmGetCapabilities
    | .spdmNegotiateAlgorithms | .spdmGetDigests | .spdmGetCertificate | .spdmChallenge _ | .spdmGetMeasurements
    | .spdmKeyExchange _ | .firmwareThreadStart _ _ _ | .bctlView _ _ | .bctlDone _ _ | .lsrepWrite _ _ _
    | .bootTimeout _ | .registerWrite _ _ | .podLinkFailure _ | .fabricError _ | .hostLinkReturn => false
  | _ => true

/-- The instructions that require PXR (R498). -/
def Instr.needsPxr : Instr → Bool
  | .sel _ | .fma _ | .amo _ | .amov _ | .cas _ | .cas16 _ | .put _ => true
  | _ => false

/-- The scalar FP instructions, whose PXR carries rm (R207). -/
def Instr.scalarFp : Instr → Bool
  | .fadd _ | .fsub _ | .fmul _ | .fma _ | .fdiv _ | .fsqrt _ | .fmin _ | .fmax _ | .fcmp _ | .fcvt _
    | .fclass _ => true
  | _ => false

/-- The rounding field of an XR operand parcel; 0 for the other formats. -/
def Instr.xrRm : Instr → Nat
  | .vadd x | .vsub x | .vmul x | .vfma x | .vfms x | .vmin x | .vmax x | .vdiv x | .vsqrt x | .vexp2 x | .vlog2 x
    | .vred x | .vscan x | .vcvt x | .vst x | .vsts x | .vscat x => x.rm.toNat
  | _ => 0

/-- A prefix holds a reserved value (R209, R210, R172, R56): sz 7, or rm 6-7 on scalar FP, sc 7, et 15. -/
def Prefix.reserved (fp : Bool) : Prefix → Bool
  | .pxr _ _ sz => if fp then 6 ≤ sz.toNat else sz == 7
  | .pxm sc _ _ _ => sc == 7
  | .pxv _ _ et _ => et == 15
  | _ => false

end Sys2Proof
end

