-- ==== Sys2Proof/Machine/Ops.lean ====
section
/-! DEFINITION. The named operations on the state: cores and slots, registers, memory bytes, and the entry to and return from
a trap. -/

namespace Sys2Proof.Machine

/-- The outcome of a step or a meaning. -/
abbrev Out := Host.Outcome State Fault Refusal

/-! ## Cores, slots and other indexed parts -/

/-- The core with an identifier (R20). -/
def State.core (s : State) (c : Nat) : Core := get {} s.cores c
/-- Write a core. -/
def State.setCore (s : State) (c : Nat) (k : Core) : State := { s with cores := put s.cores c k }
/-- Change a core. -/
def State.modCore (s : State) (c : Nat) (f : Core → Core) : State := s.setCore c (f (s.core c))
/-- A slot of a core. -/
def Core.slot (k : Core) (n : Nat) : Slot := get {} k.slots n
/-- Write a slot of a core. -/
def Core.setSlot (k : Core) (n : Nat) (t : Slot) : Core := { k with slots := put k.slots n t }
/-- A slot. -/
def State.slot (s : State) (c n : Nat) : Slot := (s.core c).slot n
/-- Write a slot. -/
def State.setSlot (s : State) (c n : Nat) (t : Slot) : State := s.modCore c (·.setSlot n t)
/-- Change a slot. -/
def State.modSlot (s : State) (c n : Nat) (f : Slot → Slot) : State := s.setSlot c n (f (s.slot c n))
/-- The core that executes. -/
def State.curK (s : State) : Core := s.core s.curCore
/-- The thread that executes. -/
def State.cur (s : State) : Slot := s.slot s.curCore s.curSlot
/-- Change the thread that executes. -/
def State.modCur (s : State) (f : Slot → Slot) : State := s.modSlot s.curCore s.curSlot f
/-- Change the core that executes. -/
def State.modCurK (s : State) (f : Core → Core) : State := s.modCore s.curCore f

/-- A hearth. -/
def State.hearth (s : State) (h : Nat) : Hearth := get {} s.hearths h
/-- Change a hearth. -/
def State.modHearth (s : State) (h : Nat) (f : Hearth → Hearth) : State :=
  { s with hearths := put s.hearths h (f (s.hearth h)) }
/-- A cluster, by die * 256 + cluster number. -/
def State.cluster (s : State) (c : Nat) : Cluster := get {} s.clusters c
/-- Change a cluster. -/
def State.modCluster (s : State) (c : Nat) (f : Cluster → Cluster) : State :=
  { s with clusters := put s.clusters c (f (s.cluster c)) }
/-- A die. -/
def State.die (s : State) (d : Nat) : Die := get {} s.dies d
/-- Change a die. -/
def State.modDie (s : State) (d : Nat) (f : Die → Die) : State := { s with dies := put s.dies d (f (s.die d)) }
/-- A home slice, by 160 * die + cluster number. -/
def State.home (s : State) (h : Nat) : Home := get {} s.homes h
/-- Change a home slice. -/
def State.modHome (s : State) (h : Nat) (f : Home → Home) : State := { s with homes := put s.homes h (f (s.home h)) }
/-- A fresh number for a request, a piece or a release. -/
def State.fresh (s : State) : Nat × State := (s.nextId, { s with nextId := s.nextId + 1 })
/-- The next free value (log 4). -/
def State.free (s : State) : Word × State := (Config.freeValue s.freeCtr, { s with freeCtr := s.freeCtr + 1 })

/-- The cluster of a core identifier: [12:11] die, [10:3] cluster, [2:0] core (R20). -/
def clusterOf (c : Nat) : Nat := c / 8
/-- The die of a core identifier. -/
def dieOf (c : Nat) : Nat := c / 2048
/-- The cluster number within the die. -/
def clusterNo (c : Nat) : Nat := c / 8 % 256
/-- The core identifier names a core of the package (R20). -/
def coreExists (c : Nat) : Bool := c < 8192 && clusterNo c < 160
/-- All core identifiers of the cores that the state lists. -/
def State.coreIds (s : State) : List Nat := s.cores.map (·.1)

/-! ## Clocks -/

/-- a is at or past b, by serial-number arithmetic modulo 2^32 (R135). -/
def serialGe (a b : BitVec 32) : Bool := (a - b).toNat < 2 ^ 31
/-- The later of two counters. -/
def serialMax (a b : BitVec 32) : BitVec 32 := if serialGe a b then a else b
/-- The earlier of two counters. -/
def serialMin (a b : BitVec 32) : BitVec 32 := if serialGe a b then b else a
/-- A component of a clock. -/
def Clock.comp (x : Clock) (d : Nat) : BitVec 32 :=
  match d with
  | 0 => x.c0
  | 1 => x.c1
  | 2 => x.c2
  | _ => x.c3
/-- Write a component of a clock. -/
def Clock.setComp (x : Clock) (d : Nat) (v : BitVec 32) : Clock :=
  match d with
  | 0 => { x with c0 := v }
  | 1 => { x with c1 := v }
  | 2 => { x with c2 := v }
  | _ => { x with c3 := v }
/-- The componentwise maximum (R130). -/
def Clock.max (x y : Clock) : Clock :=
  ⟨serialMax x.c0 y.c0, serialMax x.c1 y.c1, serialMax x.c2 y.c2, serialMax x.c3 y.c3⟩
/-- Every component of x is at or past that of y. -/
def Clock.ge (x y : Clock) : Bool :=
  serialGe x.c0 y.c0 && serialGe x.c1 y.c1 && serialGe x.c2 y.c2 && serialGe x.c3 y.c3

/-! ## Scalar registers -/

/-- The ring entry of wn (R38). -/
def Slot.entry (t : Slot) (n : Nat) : Nat := (t.wlow * 8 + n) % 96
/-- The value of wn. -/
def Slot.w (t : Slot) (n : Nat) : Word := get 0 t.stk (t.entry n)
/-- Write a ring entry; a mark on it ends. -/
def Slot.setEntry (t : Slot) (e : Nat) (v : Word) : Slot :=
  { t with stk := put t.stk e v, markW := t.markW.filter (·.reg != e) }
/-- Write wn and mark it live (R39, R232). -/
def Slot.setW (t : Slot) (n : Nat) (v : Word) : Slot :=
  { t.setEntry (t.entry n) v with st := { t.st with live := t.st.live ||| (1#16 <<< n) } }
/-- Write wn of the executing thread. -/
def State.setW (s : State) (n : Nat) (v : Word) : State := s.modCur (·.setW n v)
/-- wn of the executing thread. -/
def State.w (s : State) (n : Nat) : Word := s.cur.w n

/-! ## Vector and mask registers -/

/-- 64 zero lanes. -/
def zeroVec : List (BitVec 32) := List.replicate 64 0
/-- The lanes of a vector register; a register that is not live reads as zero (R48, R306). -/
def Slot.vec (t : Slot) (n : Nat) : List (BitVec 32) := if t.vlive.getLsbD n then get zeroVec t.v n else zeroVec
/-- A lane of a register image. -/
def lane (x : List (BitVec 32)) (l : Nat) : BitVec 32 := x.getD l 0
/-- Write a vector register: it is live and the thread not vector-clean (R306). -/
def Slot.setVec (t : Slot) (n : Nat) (x : List (BitVec 32)) : Slot :=
  { t with v := put t.v n x, vlive := t.vlive ||| (1#16 <<< n), markV := t.markV.filter (·.reg != n),
           st := { t.st with vclean := false } }
/-- A mask register; not live reads as zero. -/
def Slot.mask (t : Slot) (n : Nat) : Word := if t.mlive.getLsbD n then get 0 t.m n else 0
/-- Write a mask register. -/
def Slot.setMask (t : Slot) (n : Nat) (x : Word) : Slot :=
  { t with m := put t.m n x, mlive := t.mlive ||| (1#8 <<< n), st := { t.st with vclean := false } }

/-! ## STATUS -/

/-- STATUS as a word (R37). -/
def Status.pack (x : Status) : Word :=
  word ((if x.pin then 2 ^ 57 else 0) + x.spillp.toNat * 2 ^ 32 + x.resid % 16 * 2 ^ 28 + x.adepth % 8 * 2 ^ 25 +
    (if x.idv then 2 ^ 24 else 0) + (if x.det then 2 ^ 23 else 0) + (if x.vclean then 2 ^ 22 else 0) +
    x.priv % 4 * 2 ^ 20 + x.hearth % 16 * 2 ^ 16 + x.live.toNat)
/-- The fields of a STATUS word. -/
def Status.unpack (w : Word) : Status where
  pin := w.bits 57 57 = 1
  spillp := BitVec.ofNat 25 (w.bits 56 32)
  resid := w.bits 31 28
  adepth := w.bits 27 25
  idv := w.bits 24 24 = 1
  det := w.bits 23 23 = 1
  vclean := w.bits 22 22 = 1
  priv := w.bits 21 20
  hearth := w.bits 19 16
  live := BitVec.ofNat 16 (w.bits 15 0)
/-- A write to STATUS changes pin, spillp and live, and no other field (R37, R371). -/
def Status.write (x : Status) (w : Word) : Status :=
  let y := Status.unpack w
  { x with pin := y.pin, spillp := y.spillp, live := y.live }

/-! ## Bytes and physical memory -/

/-- The canonical address with these 57 low bits (R95; log 44). -/
def va57 (n : Nat) : Word := (BitVec.ofNat 57 n).signExtend 64

/-- The number that bytes form, the first the least significant (R5). -/
def leNat : List Byte → Nat
  | [] => 0
  | b :: r => b.toNat + 256 * leNat r
/-- n bytes of a number, the least significant first (R5). -/
def leBytes : Nat → Nat → List Byte
  | 0, _ => []
  | n + 1, v => BitVec.ofNat 8 v :: leBytes n (v / 256)

/-- The local-store class address of an offset of a core (R100). -/
def lsPA (s : State) (c off : Nat) : Nat :=
  s.hub.package * 2 ^ 50 + c / 2048 * 2 ^ 48 + 2 ^ 46 + c % 2048 * 2 ^ 18 + off % 2 ^ 18
/-- The package of a PA. -/
def paPackage (pa : Nat) : Nat := pa / 2 ^ 50 % 64
/-- The die of a PA. -/
def paDie (pa : Nat) : Nat := pa / 2 ^ 48 % 4
/-- The class of a PA: 0 DRAM, 1 local store, 2 hub, 3 reserved (R100). -/
def paClass (pa : Nat) : Nat := pa / 2 ^ 46 % 4
/-- The core of a local-store PA. -/
def paCore (pa : Nat) : Nat := paDie pa * 2048 + pa / 2 ^ 18 % 2048
/-- The local-store offset of a PA. -/
def paOff (pa : Nat) : Nat := pa % 2 ^ 18
/-- The home of a DRAM PA: 160 * die + (D >> 12) mod 160 (R101). -/
def homeOf (pa : Nat) : Nat := paDie pa * 160 + pa % 2 ^ 46 / 2 ^ 12 % 160
/-- The PA names host memory (R100). -/
def paHost (pa : Nat) : Bool := paClass pa == 2 && pa / 2 ^ 45 % 2 == 0
/-- The PA names a hub register (R100). -/
def paHubReg (pa : Nat) : Bool := paClass pa == 2 && pa / 2 ^ 45 % 2 == 1
/-- The PA lies in this package. -/
def State.ownPackage (s : State) (pa : Nat) : Bool := paPackage pa == s.hub.package
/-- A physical-range fault (R100). -/
def paBad (pa : Nat) : Bool :=
  match paClass pa with
  | 0 => 0x3000000000 ≤ pa % 2 ^ 46
  | 1 => pa / 2 ^ 29 % 2 ^ 17 != 0 || 160 ≤ pa / 2 ^ 21 % 256
  | 2 => paDie pa != 0
  | _ => true

/-- The spare row that serves a local-store byte, where a valid repair entry names its row: the lowest-numbered entry of the
bank decides (R536). -/
def spareRow (b : BootBlock) (off : Nat) : Bool :=
  match (List.range 4).find? fun n =>
      let e := get 0 b.lsrep n
      e.bits 63 63 = 1 && e.bits 17 13 = off / 2 ^ 13 with
  | none => false
  | some n => (get 0 b.lsrep n).bits 12 8 = off / 256 % 32

/-- The cell that holds a byte: the byte's own PA, or that of its bank's spare row (R536). -/
def State.cell (s : State) (pa : Nat) : Nat :=
  if paClass pa = 1 ∧ s.hub.boots ≠ [] ∧ s.ownPackage pa then
    let b := get {} s.hub.boots (paCore pa)
    if spareRow b (paOff pa) then 2 ^ 56 + paCore pa * 2 ^ 13 + paOff pa / 2 ^ 13 * 256 + paOff pa % 256 else pa
  else pa

/-- What a byte that nothing has written reads as: 0 (log 2), and an undefined value in a spare row (R536, log 5). -/
def Memory.default (k : Nat) : Byte := if k < 2 ^ 56 then 0 else Config.spareByte k
/-- Read one cell. -/
def Memory.read (m : List Host.Cell) (k : Nat) : Byte := get (Memory.default k) m k
/-- Write one cell, in the canonical form. -/
def Memory.write (m : List Host.Cell) (k : Nat) (b : Byte) : List Host.Cell :=
  if b = Memory.default k then del m k else put m k b
/-- The canonical form: rising addresses, and no entry that equals what an unlisted address reads as. -/
abbrev Memory.wf (m : List Host.Cell) : Prop :=
  m.Pairwise (fun a b => a.1 < b.1) ∧ ∀ e ∈ m, e.2 ≠ Memory.default e.1

/-- A byte as its cell returns it: the bits of a defective cell read as they are stuck (R538). -/
def stuckByte (l : List (Nat × Nat × Bool)) (k : Nat) (b : Byte) : Byte :=
  l.foldl (fun b e => if e.1 = k then (if e.2.2 then b ||| 1#8 <<< e.2.1 else b &&& ~~~(1#8 <<< e.2.1)) else b) b
/-- Read a byte at a PA. -/
def State.byte (s : State) (pa : Nat) : Byte :=
  let b := Memory.read s.mem (s.cell pa)
  if s.stuck.isEmpty || paClass pa != 1 then b else stuckByte s.stuck (s.cell pa) b
/-- Write a byte at a PA. -/
def State.setByte (s : State) (pa : Nat) (b : Byte) : State := { s with mem := Memory.write s.mem (s.cell pa) b }
/-- Read n bytes at a PA. -/
def State.bytes (s : State) (pa : Nat) : Nat → List Byte
  | 0 => []
  | n + 1 => s.byte pa :: s.bytes (pa + 1) n
/-- Write bytes at a PA. -/
def State.setBytes (s : State) (pa : Nat) : List Byte → State
  | [] => s
  | b :: r => (s.setByte pa b).setBytes (pa + 1) r
/-- Read n bytes as a number. -/
def State.memNat (s : State) (pa n : Nat) : Nat := leNat (s.bytes pa n)
/-- Read 8 bytes as a word. -/
def State.memW (s : State) (pa : Nat) : Word := word (s.memNat pa 8)
/-- Write 8 bytes of a word. -/
def State.setMemW (s : State) (pa : Nat) (v : Word) : State := s.setBytes pa (leBytes 8 v.toNat)

/-! ## DRAM (R486, R489, R490) -/

/-- The layer of a DRAM line. -/
def lineLayer (line : Nat) : Nat := (Config.linePlace line).bits 2 0
/-- Its bank. -/
def lineBank (line : Nat) : Nat := (Config.linePlace line).bits 6 3
/-- Its row. -/
def lineRow (line : Nat) : Nat := (Config.linePlace line).bits 22 7
/-- Its column. -/
def lineCol (line : Nat) : Nat := (Config.linePlace line).bits 33 23
/-- The symbol positions that a read of a line applies as erasures: those of the lowest four valid entries of its rank that match its bank and
column (R490). -/
def Home.erased (q : Home) (line : Nat) : List Nat :=
  let es := (List.range 8).map fun n => (get 0 q.erasures (8 * lineLayer line + n)).toNat
  let hit (e : Nat) : Bool := natBits e 31 1 == 1 && (natBits e 19 1 == 1 || natBits e 20 4 == lineBank line) &&
    (natBits e 7 1 == 1 || natBits e 8 11 == lineCol line)
  (((es.filter hit).take 4).map fun e => natBits e 24 7).dedup
/-- The symbols of a line in error that no erasure names. -/
def State.lineErrs (s : State) (line : Nat) : List Nat :=
  (get [] s.latent line).dedup.filter fun x => !((s.home (homeOf (64 * line))).erased line).contains x
/-- The line is beyond the bound of its code (R489). -/
def State.lineBad (s : State) (line : Nat) : Bool :=
  8 < 2 * (s.lineErrs line).length + ((s.home (homeOf (64 * line))).erased line).length
/-- A word of DRAM is poisoned, or a read finds its line uncorrectable (R486, R489). -/
def State.wordPoisoned (s : State) (w : Nat) : Bool := s.poison.contains w || (!s.latent.isEmpty && s.lineBad (w / 8))
/-- No word is poisoned, and no line in error. -/
def State.sound (s : State) : Bool := s.poison.isEmpty && s.latent.isEmpty
/-- Some word that n bytes touch is poisoned (R486). -/
def State.poisoned (s : State) (pa n : Nat) : Bool :=
  !s.sound && (List.range ((pa + n + 7) / 8 - pa / 8)).any fun i => s.wordPoisoned (pa / 8 + i)
/-- The first of n bytes that lies in a poisoned word (R447). -/
def State.poisonOff (s : State) (pa n : Nat) : Option Nat :=
  if s.sound then none else (List.range n).find? fun i => s.wordPoisoned ((pa + i) / 8)
/-- The first of n bytes that lies in a poisoned word and is not forwarded from a store log (R121, R487). -/
def State.poisonPast (s : State) (pa n : Nat) (fwd : List (Nat × Byte)) : Option Nat :=
  if s.sound then none else (List.range n).find? fun i => s.wordPoisoned ((pa + i) / 8) && (get? fwd i).isNone
/-- Mark a word poisoned. -/
def State.setPoison (s : State) (w : Nat) : State :=
  if s.poison.contains w then s else { s with poison := w :: s.poison }
/-- Clear the poison of a word. -/
def State.clearPoison (s : State) (w : Nat) : State := { s with poison := s.poison.filter (· != w) }

/-! ## Local store -/

/-- The size of the log ring in bytes (R127). -/
def Log.ringSize (l : Log) : Nat := 2 ^ (14 + l.size % 4)
/-- The first offset of the log ring (R127). -/
def Log.base (l : Log) : Nat := 2 ^ 18 - l.ringSize
/-- The hearth that owns a bank (R98). -/
def Core.bankOwner (k : Core) (bank : Nat) : Nat :=
  if bank < 16 then natBits k.lsown0.toNat (4 * bank) 4 else natBits k.lsown1.toNat (4 * (bank - 16)) 4
/-- An access to a byte of a core's local store is refused (R98, R99): in the ring, at U and S and for writes; elsewhere by
the bank's owner. In boot test the core has no ring, and F may write every offset (R533). -/
def Core.lsRefused (k : Core) (off hearth priv : Nat) (write : Bool) : Bool :=
  if k.bootTest && priv == 2 then false
  else if k.log.base ≤ off && !k.bootTest then priv != 2 || write
  else k.bankOwner (off / 2 ^ 13) != hearth
/-- The first of n bytes that is refused (R447). -/
def Core.lsRefusedAt (k : Core) (off n hearth priv : Nat) (write : Bool) : Option Nat :=
  (List.range n).find? fun i => k.lsRefused (off + i) hearth priv write
/-- The check over n bytes. -/
def Core.lsRefusedN (k : Core) (off n hearth priv : Nat) (write : Bool) : Bool :=
  (List.range n).any fun i => k.lsRefused (off + i) hearth priv write

/-- A watched word is written: every slot of the core that watches it completes its WATCH (R148, R286). -/
def wakeWatch (t : Slot) (pa n : Nat) : Slot :=
  match t.wait with
  | .watch p npc => if p / 8 * 8 < pa + n ∧ pa < p / 8 * 8 + 8 then { t with wait := .none, pc := npc } else t
  | _ => t
/-- A wake event reaches a core (R417, R418): it cancels a gating that is prepared, and powers a gated core up. -/
def Core.roused (k : Core) : Core :=
  if k.pw.preparing || k.pw.gated then { k with pw := { k.pw with wake := k.pw.wake || k.pw.preparing, gated := false } } else k
/-- Write bytes of a core's local store in place (R146, R148); the write is a wake event (R418). -/
def State.writeLS (s : State) (c off : Nat) (bs : List Byte) : State :=
  let pa := lsPA s c off
  (s.setBytes pa bs).modCore c fun k => { k.roused with slots := k.slots.map fun p => (p.1, wakeWatch p.2 pa bs.length) }
/-- Read bytes of a core's local store. -/
def State.readLS (s : State) (c off n : Nat) : List Byte := s.bytes (lsPA s c off) n

/-! ## Traps -/

/-- A precise trap that an instruction takes: cause, class and TRAPADDR (R447, R495). -/
structure TrapRec where
  cause : Nat
  cls : Nat := 0
  addr : Word := 0
  sub : Nat := 0
  deriving DecidableEq, Repr

/-- The vector offset of a cause (R369, R495). -/
def trapOffset (cause : Nat) : Nat :=
  match cause with
  | 0x07 => 0x40
  | 0x08 => 0x80
  | 0x0B => 0xC0
  | 0x1C => 0x100
  | _ => 0
/-- TRAPCAUSE (R447, R456): an adopted task's thread names the owner. -/
def trapCauseWord (t : Slot) (r : TrapRec) : Word :=
  let own := 1 ≤ t.st.adepth
  word (r.cause % 256 * 2 ^ 56 + r.cls % 8 * 2 ^ 53 + (if own then 2 ^ 52 + t.taskid.bits 47 0 else 0) + r.sub % 16 * 2 ^ 48)
/-- Entry to the supervisor in the trapping slot (R369, R447): TRAPPC and TRAPSTAT are saved, priv becomes S, or F from F,
and the PC is TRAPVEC.base * 512 plus the cause's offset. Every entry but MISALIGN clears idv (R461). -/
def trapEntry (vec : Word) (r : TrapRec) (pc : Word) (t : Slot) : Slot :=
  { t with
    trapcause := trapCauseWord t r
    trapaddr := r.addr
    trappc := pc
    trapstat := t.st.pack
    st := { t.st with priv := if t.st.priv = 2 then 2 else 1, idv := t.st.idv && r.cause == 0x0B }
    pc := word (vec.bits 56 9 * 512 + trapOffset r.cause)
    winTrap := r.cause == 0x07 || r.cause == 0x08
    wait := .none
    begun := false
    atVector := true }
/-- The executing thread takes a precise trap at an address. -/
def State.trapAt (s : State) (pc : Word) (r : TrapRec) : State :=
  s.modCur (trapEntry (s.hearth s.cur.st.hearth).trapvec r pc)
/-- The executing thread takes a precise trap at its PC. -/
def State.trap (s : State) (r : TrapRec) : State := s.trapAt s.cur.pc r
/-- Return from a trap (R370). -/
def trapReturn (t : Slot) : Slot :=
  let y := Status.unpack t.trapstat
  { t with pc := t.trappc, st := { t.st with priv := y.priv, pin := y.pin }, winTrap := false }

/-- What hardware keeps of a thread beside its image: the trap and region registers (R372), the replay queue (R375), the counts, deferred
faults and marks on window registers (R153, R454), and reserved ring entries (R300). -/
def Slot.kept (t : Slot) : Kept :=
  { trapcause := t.trapcause, trapaddr := t.trapaddr, trappc := t.trappc, trapstat := t.trapstat, idempc := t.idempc,
    idemctr := t.idemctr, idemlog := t.idemlog, restarts := t.restarts, replay := t.replay, replayPend := t.replayPend, loads := t.loads, stores := t.stores,
    copies := t.copies, tiles := t.tiles, deferred := t.deferred, pushes := t.pushes,
    marks := (List.range 16).flatMap fun n => (t.markW.filter (·.reg == t.entry n)).map fun m => { m with reg := n } }
/-- A thread loaded from an image has again what was kept beside it; its window begins at ring entry 0. -/
def Slot.withKept (t : Slot) (x : Kept) : Slot :=
  { t with
    trapcause := x.trapcause, trapaddr := x.trapaddr, trappc := x.trappc, trapstat := x.trapstat, idempc := x.idempc
    idemctr := x.idemctr, idemlog := x.idemlog, restarts := x.restarts, replay := x.replay, replayPend := x.replayPend, loads := x.loads, stores := x.stores
    copies := x.copies, tiles := x.tiles, deferred := x.deferred, markW := x.marks, pushes := x.pushes }
/-- Keep what belongs to the image at a VA of a hearth. -/
def State.keep (s : State) (h : Nat) (va : Word) (x : Kept) : State :=
  s.modHearth h fun q => { q with kept := q.kept.filter (fun e => e.1 != va) ++ [(va, x)] }
/-- What is kept beside the image at a VA. -/
def State.keptAt (s : State) (h : Nat) (va : Word) : Kept :=
  (((s.hearth h).kept.find? fun e => e.1 == va).map (·.2)).getD {}
/-- An image has been loaded or discarded. -/
def State.unkeep (s : State) (h : Nat) (va : Word) : State :=
  if (s.hearth h).kept.any (fun e => e.1 == va) then s.modHearth h fun q => { q with kept := q.kept.filter fun e => e.1 != va } else s

/-- The address that follows the instruction (R204). -/
def State.npc (s : State) (x : Fld) : Word := s.cur.pc + word (2 * x.len)
/-- Go on at the next instruction. -/
def State.advance (s : State) (x : Fld) : State :=
  let n := s.npc x
  s.modCur fun t => { t with pc := n }
/-- Go on at an address. -/
def State.jump (s : State) (a : Word) : State := s.modCur fun t => { t with pc := a }
/-- Wait at the instruction, which re-executes (R33, R303). -/
def State.waitFor (s : State) (w : Wait) : State := s.modCur fun t => { t with wait := w }

/-- Clear idv, as R373 lists. -/
def State.clearIdv (s : State) : State := s.modCur fun t => { t with st := { t.st with idv := false } }

end Sys2Proof.Machine
end

