-- ==== Sys2Proof/Machine/Float.lean ====
section
/-! DEFINITION. Number formats and arithmetic (R162-R187): exact values, the formats bit by bit, one rounding, the operations,
the estimates and the transcendentals, and the spark generator. -/

namespace Sys2Proof.Machine

/-- An exact value: NaN, an infinity, or (-1)^neg * m * 2^e. Zero keeps its sign. -/
inductive Num where
  | nan
  | inf (neg : Bool)
  | fin (neg : Bool) (m : Nat) (e : Int)
  deriving DecidableEq, Repr

/-- A binary format (R164, R167): exponent and fraction bits, bias, and whether it has infinities (E4M3 has none). -/
structure Fmt where
  eb : Nat
  mb : Nat
  bias : Nat
  ieee : Bool
  deriving DecidableEq, Repr

/-- FP64 (R164). -/
def fp64 : Fmt := ⟨11, 52, 1023, true⟩
/-- FP32. -/
def fp32 : Fmt := ⟨8, 23, 127, true⟩
/-- FP16. -/
def fp16 : Fmt := ⟨5, 10, 15, true⟩
/-- BF16. -/
def bf16 : Fmt := ⟨8, 7, 127, true⟩
/-- E4M3 (R167). -/
def e4m3 : Fmt := ⟨4, 3, 7, false⟩
/-- E5M2 (R167). -/
def e5m2 : Fmt := ⟨5, 2, 15, true⟩

/-- The number of bits of a code. -/
def Fmt.bits (f : Fmt) : Nat := 1 + f.eb + f.mb
/-- The code of +infinity, or of E4M3's NaN. -/
def Fmt.top (f : Fmt) : Nat := if f.ieee then (2 ^ f.eb - 1) * 2 ^ f.mb else 2 ^ (f.eb + f.mb) - 1
/-- The code of the canonical NaN (R164, R165, R167). -/
def Fmt.nan (f : Fmt) : Nat := if f.ieee then (2 ^ f.eb - 1) * 2 ^ f.mb + 2 ^ (f.mb - 1) else f.top
/-- The sign bit of a code. -/
def Fmt.signBit (f : Fmt) (neg : Bool) : Nat := if neg then 2 ^ (f.eb + f.mb) else 0

/-- The value of a code (R164, R167). -/
def Fmt.decode (f : Fmt) (c : Nat) : Num :=
  let neg := c / 2 ^ (f.eb + f.mb) % 2 = 1
  let mag := c % 2 ^ (f.eb + f.mb)
  let ex := mag / 2 ^ f.mb
  let fr := mag % 2 ^ f.mb
  if f.ieee ∧ ex = 2 ^ f.eb - 1 then (if fr = 0 then .inf neg else .nan)
  else if !f.ieee ∧ mag = f.top then .nan
  else if ex = 0 then .fin neg fr (1 - f.bias - f.mb)
  else .fin neg (2 ^ f.mb + fr) ((ex : Int) - f.bias - f.mb)

/-- Whether a magnitude with discarded bits rem of 2^k rounds up (R172, R173). -/
def roundsUp (rm : Nat) (neg : Bool) (kept rem k : Nat) (draw : Nat) : Bool :=
  match rm with
  | 0 => 2 * rem > 2 ^ k || (2 * rem = 2 ^ k && kept % 2 = 1)
  | 1 => false
  | 2 => !neg && rem != 0
  | 3 => neg && rem != 0
  | 4 => 2 * rem ≥ 2 ^ k
  | _ => rem + (if k ≤ 32 then draw / 2 ^ (32 - k) else draw * 2 ^ (k - 32)) ≥ 2 ^ k

/-- What an overflow gives (R172). -/
def Fmt.overflow (f : Fmt) (rm sat : Nat) (neg : Bool) : Nat :=
  f.signBit neg +
    (if sat = 1 then f.top - 1
     else if rm = 1 ∨ (rm = 2 ∧ neg) ∨ (rm = 3 ∧ !neg) then f.top - 1
     else f.top)

/-- The kept magnitude and its weight after one rounding to a grid of weight 2^q. -/
def roundAt (rm : Nat) (neg : Bool) (m : Nat) (e q : Int) (draw : Nat) : Nat :=
  if q ≤ e then m * 2 ^ (e - q).toNat
  else
    let k := (q - e).toNat
    let kept := m / 2 ^ k
    kept + (if roundsUp rm neg kept (m % 2 ^ k) k draw then 1 else 0)

/-- One rounding of an exact value to a format (R172, R173), with ftz of the result (R166). That sat = 1 also makes an exact infinite result of
arithmetic the largest finite number is the model's choice (log 161). -/
def Fmt.round (f : Fmt) (rm sat ftz draw : Nat) (x : Num) : Nat :=
  match x with
  | .nan => f.nan
  | .inf neg => if sat = 1 then f.signBit neg + (f.top - 1) else if f.ieee then f.signBit neg + f.top else f.nan
  | .fin neg m e =>
    if m = 0 then f.signBit neg
    else
      let big : Int := Nat.log2 m + e
      let emin : Int := 1 - f.bias
      let q : Int := max big emin - f.mb
      let kept := roundAt rm neg m e q draw
      let code := (q + f.mb + f.bias - 1).toNat * 2 ^ f.mb + kept
      if f.top ≤ code then (if !f.ieee ∧ sat = 0 ∧ f.overflow rm sat neg % 2 ^ (f.eb + f.mb) = f.top then f.nan
        else f.overflow rm sat neg)
      else if ftz = 1 ∧ code < 2 ^ f.mb then f.signBit neg
      else f.signBit neg + code

/-- ftz of a source (R166). -/
def Fmt.flush (f : Fmt) (ftz : Nat) (c : Nat) : Nat :=
  if ftz = 1 ∧ c % 2 ^ (f.eb + f.mb) < 2 ^ f.mb then f.signBit (c / 2 ^ (f.eb + f.mb) % 2 = 1) else c

namespace Num

/-- The signed magnitude as an integer at weight 2^q, for q at or below the exponent. -/
def scaled (neg : Bool) (m : Nat) (e q : Int) : Int :=
  let v : Int := (m * 2 ^ (e - q).toNat : Nat)
  if neg then -v else v

/-- The negative. -/
def neg : Num → Num
  | .nan => .nan
  | .inf s => .inf !s
  | .fin s m e => .fin (!s) m e

/-- The exact sum. An exact zero takes the sign that IEEE 754 gives for the mode (R244). -/
def add (rm : Nat) (x y : Num) : Num :=
  match x, y with
  | .nan, _ | _, .nan => .nan
  | .inf a, .inf b => if a = b then .inf a else .nan
  | .inf a, _ => .inf a
  | _, .inf b => .inf b
  | .fin a m e, .fin b n g =>
    let q := min e g
    let v := scaled a m e q + scaled b n g q
    if v = 0 then .fin (if m = 0 ∧ n = 0 ∧ a = b then a else rm = 3) 0 0 else .fin (v < 0) v.natAbs q

/-- The exact product. -/
def mul (x y : Num) : Num :=
  match x, y with
  | .nan, _ | _, .nan => .nan
  | .inf a, .inf b => .inf (a != b)
  | .inf a, .fin b n _ => if n = 0 then .nan else .inf (a != b)
  | .fin a m _, .inf b => if m = 0 then .nan else .inf (a != b)
  | .fin a m e, .fin b n g => .fin (a != b) (m * n) (e + g)

/-- The quotient: a quotient that is not exact keeps 128 or more bits and a final one for what is dropped, so that it rounds
as the exact quotient does. -/
def div (x y : Num) : Num :=
  match x, y with
  | .nan, _ | _, .nan => .nan
  | .inf _, .inf _ => .nan
  | .inf a, .fin b _ _ => .inf (a != b)
  | .fin a _ _, .inf b => .fin (a != b) 0 0
  | .fin a m e, .fin b n g =>
    if n = 0 then (if m = 0 then .nan else .inf (a != b))
    else
      let s := 128 + Nat.log2 n
      let q := m * 2 ^ s / n
      .fin (a != b) (2 * q + if m * 2 ^ s % n = 0 then 0 else 1) (e - g - s - 1)

/-- The integer square root below 2^n, bit by bit. -/
def isqrt (x : Nat) : Nat → Nat → Nat
  | 0, r => r
  | n + 1, r => if (r + 2 ^ n) * (r + 2 ^ n) ≤ x then isqrt x n (r + 2 ^ n) else isqrt x n r

/-- The square root, with a final one for what is dropped (R244). -/
def sqrt : Num → Num
  | .nan => .nan
  | .inf true => .nan
  | .inf false => .inf false
  | .fin s m e =>
    if m = 0 then .fin s 0 e
    else if s then .nan
    else
      let odd : Nat := (e % 2).toNat
      let x := m * 2 ^ (odd + 256)
      let r := isqrt x (Nat.log2 x / 2 + 1) 0
      .fin false (2 * r + if r * r = x then 0 else 1) ((e - odd - 256) / 2 - 1)

/-- Multiply by a power of two. -/
def scale (x : Num) (k : Int) : Num :=
  match x with
  | .fin s m e => .fin s m (e + k)
  | y => y

/-- The value of an integer. -/
def ofInt (v : Int) : Num := .fin (v < 0) v.natAbs 0

/-- Compare two values that are not NaN, with -0 equal to +0: less, equal, greater. -/
def cmp (x y : Num) : Ordering :=
  match x, y with
  | .inf a, .inf b => if a = b then .eq else if a then .lt else .gt
  | .inf a, _ => if a then .lt else .gt
  | _, .inf b => if b then .gt else .lt
  | .fin a m e, .fin b n g =>
    let q := min e g
    compare (scaled a m e q) (scaled b n g q)
  | _, _ => .eq

/-- The value is NaN. -/
def isNan : Num → Bool
  | .nan => true
  | _ => false
/-- The sign of a value that is not NaN. -/
def sign : Num → Bool
  | .nan => false
  | .inf s => s
  | .fin s _ _ => s

/-- Rounded to an integer by rm (R177); infinities and NaN have none. -/
def toInt (rm : Nat) (x : Num) : Option Int :=
  match x with
  | .fin s m e =>
    let v : Int := roundAt rm s m e 0 0
    some (if s then -v else v)
  | _ => none

/-- Conversion to an integer range (R177): NaN gives 0, and values out of range the nearer bound. -/
def toRange (rm : Nat) (lo hi : Int) (x : Num) : Int :=
  match x with
  | .nan => 0
  | .inf s => if s then lo else hi
  | y => match y.toInt rm with
    | some v => max lo (min hi v)
    | none => 0

end Num

/-- The lesser of two codes (R245): -0 below +0, the other source when exactly one is NaN, the canonical NaN when both are. -/
def Fmt.min (f : Fmt) (a b : Nat) : Nat :=
  let x := f.decode a
  let y := f.decode b
  if x.isNan && y.isNan then f.nan
  else if x.isNan then b
  else if y.isNan then a
  else match x.cmp y with
    | .lt => a
    | .gt => b
    | .eq => if x.sign then a else b
/-- The greater of two codes (R245). -/
def Fmt.max (f : Fmt) (a b : Nat) : Nat :=
  let x := f.decode a
  let y := f.decode b
  if x.isNan && y.isNan then f.nan
  else if x.isNan then b
  else if y.isNan then a
  else match x.cmp y with
    | .gt => a
    | .lt => b
    | .eq => if x.sign then b else a
/-- The one-hot comparison code (R245). -/
def Fmt.compare (f : Fmt) (a b : Nat) : Nat :=
  let x := f.decode a
  let y := f.decode b
  if x.isNan || y.isNan then 8
  else match x.cmp y with
    | .lt => 1
    | .eq => 2
    | .gt => 4
/-- The class code (R245). -/
def Fmt.classify (f : Fmt) (a : Nat) : Nat :=
  let neg := a / 2 ^ (f.eb + f.mb) % 2 = 1
  let mag := a % 2 ^ (f.eb + f.mb)
  if f.top < mag then (if mag / 2 ^ (f.mb - 1) % 2 = 1 then 2 ^ 9 else 2 ^ 8)
  else if mag = f.top then (if neg then 2 ^ 0 else 2 ^ 7)
  else if mag = 0 then (if neg then 2 ^ 3 else 2 ^ 4)
  else if mag < 2 ^ f.mb then (if neg then 2 ^ 2 else 2 ^ 5)
  else (if neg then 2 ^ 1 else 2 ^ 6)

/-! ## E2M1 and blocks -/

/-- The magnitude of an E2M1 code in halves (R168). -/
def e2m1Mag (c : Nat) : Nat :=
  match c % 8 with
  | 0 => 0
  | 1 => 1
  | 2 => 2
  | 3 => 3
  | 4 => 4
  | 5 => 6
  | 6 => 8
  | _ => 12
/-- The value of a regular E2M1 code (R168). -/
def e2m1Value (c : Nat) : Num := .fin (c / 8 % 2 = 1) (e2m1Mag c) (-1)
/-- An E2M1 element of no block: code 0b1000 is NaN (R305, R315). -/
def e2m1Raw (c : Nat) : Num := if c % 16 = 8 then .nan else e2m1Value c

/-- The distance of a value from a regular code's value, in units of 2^q. -/
def distance (x y : Num) : Num :=
  match x.add 0 y.neg with
  | .fin _ m e => .fin false m e
  | z => z

/-- The nearest regular code to a value: ties to fraction bit 0, and both zeros to 0b0000 (R170). -/
def e2m1Nearest (x : Num) : Nat :=
  match x with
  | .nan => 8
  | .inf s => if s then 15 else 7
  | .fin s _ _ =>
    let better (best c : Nat) : Nat :=
      match (distance x (e2m1Value c)).cmp (distance x (e2m1Value best)) with
      | .lt => c
      | .eq => if c % 2 = 0 then c else best
      | .gt => best
    let c := ((List.range 7).map (· + 1)).foldl (fun b k => better b (if s then 8 + k else k)) 0
    c
/-- Encoding into an E2M1 block with a scale and a special value (R170); `none` is NANBLOCK. -/
def e2m1Encode (x : Num) (s : Nat) (special : Option Num) : Option Nat :=
  if x.isNan then none
  else
    let y := x.scale (127 - (s : Int))
    let c := e2m1Nearest y
    match special with
    | some q =>
      if q.isNan then some c
      else match y with
        | .inf neg => some (if q.sign = neg ∧ (distance q (.fin false 0 0)).cmp (.fin false 6 0) = .gt then 8 else c)
        | _ => some (if (distance y q).cmp (distance y (e2m1Value c)) = .lt then 8 else c)
    | none => some c

/-- The element formats of pages (R113) decode by value. -/
def pageValue (fmt c : Nat) : Num :=
  match fmt with
  | 1 => fp32.decode c
  | 2 => fp16.decode c
  | 3 => bf16.decode c
  | 4 => e4m3.decode c
  | 5 => e5m2.decode c
  | 6 => e2m1Raw c
  | _ => Num.ofInt (signed 8 (c % 256))
/-- A blocked element (R169). -/
def blockedValue (fmt c s special : Nat) : Num :=
  if s = 0xFF then .nan
  else (if fmt = 6 ∧ c % 16 = 8 then e4m3.decode special else pageValue fmt c).scale ((s : Int) - 127)

/-! ## Element types (R210) -/

/-- The bits of an element type. -/
def etBits (et : Nat) : Nat :=
  match et with
  | 0 | 9 | 13 => 32
  | 1 | 2 | 8 | 12 => 16
  | 5 => 4
  | 6 | 10 | 14 => 64
  | _ => 8
/-- The floating format of an element type, apart from E2M1. -/
def etFmt (et : Nat) : Option Fmt :=
  match et with
  | 0 => some fp32
  | 1 => some fp16
  | 2 => some bf16
  | 3 => some e4m3
  | 4 => some e5m2
  | 6 => some fp64
  | _ => none
/-- A floating type. -/
def etFloat (et : Nat) : Bool := et ≤ 6
/-- A signed integer type. -/
def etSigned (et : Nat) : Bool := 7 ≤ et && et ≤ 10
/-- The number of elements of a register (R305). -/
def etCount (et : Nat) : Nat := if etBits et = 64 then 16 else 64
/-- The integer value of an element. -/
def etInt (et c : Nat) : Int := if etSigned et then signed (etBits et) (c % 2 ^ etBits et) else ((c % 2 ^ etBits et : Nat) : Int)
/-- The range of an integer type (R162). -/
def etLo (et : Nat) : Int := if etSigned et then -(2 ^ (etBits et - 1)) else 0
/-- The largest value. -/
def etHi (et : Nat) : Int := if etSigned et then 2 ^ (etBits et - 1) - 1 else 2 ^ etBits et - 1
/-- The element of an integer, wrapping, or clamped with sat (R163). -/
def etOfInt (et sat : Nat) (v : Int) : Nat :=
  let v := if sat = 1 then max (etLo et) (min (etHi et) v) else v
  (v % 2 ^ etBits et).toNat
/-- The exact value of an element of any type. -/
def etValue (et c : Nat) : Num :=
  match etFmt et with
  | some f => f.decode c
  | none => if et = 5 then e2m1Raw c else Num.ofInt (etInt et c)
/-- A conversion of an element (R177, R315). Three points are the model's choice: ftz flushes no E2M1 element (log 158), sat = 1 makes an infinity
of a widening conversion the largest finite number (log 159), and a conversion between integers of one width clamps under it (log 160). -/
def etConvert (src dst rm sat ftz draw c : Nat) : Nat :=
  let c := match etFmt src with
    | some f => f.flush ftz c
    | none => c
  match etFmt dst with
  | some f => f.round rm sat ftz draw (etValue src c)
  | none =>
    if dst = 5 then (e2m1Encode (etValue src c) 127 none).getD 8
    else if etFloat src then etOfInt dst 0 ((etValue src c).toRange rm (etLo dst) (etHi dst))
    else etOfInt dst (if etBits src < etBits dst then 0 else sat) (etInt src c)

/-! ## Estimates and transcendentals -/

/-- Round half to even of a quotient. -/
def divHalfEven (a b : Nat) : Nat :=
  let q := a / b
  let r := a % b
  if 2 * r > b ∨ (2 * r = b ∧ q % 2 = 1) then q + 1 else q
/-- RcpTable (R185): 2^13 / (1 + (2i + 1) / 2048). -/
def rcpTable (i : Nat) : Nat := divHalfEven (2 ^ 24) (2048 + 2 * i + 1)
/-- Round half to even of sqrt(a / b). -/
def sqrtHalfEven (a b : Nat) : Nat :=
  let r := Num.isqrt (a / b) 32 0
  let l := (2 * r + 1) * (2 * r + 1) * b
  if l < 4 * a ∨ (l = 4 * a ∧ r % 2 = 1) then r + 1 else r
/-- RsqTable (R186): 2^13 / sqrt(2^p * (1 + (2f + 1) / 1024)). -/
def rsqTable (i : Nat) : Nat := sqrtHalfEven (2 ^ 36) (2 ^ (i / 512) * (1024 + 2 * (i % 512) + 1))
/-- The reciprocal estimate (R185). -/
def Num.rcp : Num → Num
  | .nan => .nan
  | .inf s => .fin s 0 0
  | .fin s m e =>
    if m = 0 then .inf s
    else
      let k := Nat.log2 m
      let i := (m * 2 ^ 10 / 2 ^ k) % 2 ^ 10
      .fin s (rcpTable i) (-(e + k) - 13)
/-- The reciprocal square root estimate (R186). -/
def Num.rsq : Num → Num
  | .nan => .nan
  | .inf s => if s then .nan else .fin false 0 0
  | .fin s m e =>
    if m = 0 then .inf s
    else if s then .nan
    else
      let k := Nat.log2 m
      let ex : Int := e + k
      let p : Nat := (ex % 2).toNat
      let f := (m * 2 ^ 9 / 2 ^ k) % 2 ^ 9
      .fin false (rsqTable (512 * p + f)) (-((ex - p) / 2) - 13)

/-- The working precision of the transcendentals, in bits (log 12). -/
def prec : Nat := 320
/-- The sum of 1 / (k * 2^k), k from n down, in units of 2^-prec. -/
def ln2Sum : Nat → Nat
  | 0 => 0
  | k + 1 => 2 ^ prec / ((k + 1) * 2 ^ (k + 1)) + ln2Sum k
/-- ln 2 in units of 2^-prec. -/
def ln2Fix : Nat := ln2Sum prec
/-- The sum of the exponential series from a term, in units of 2^-prec. -/
def expSum (y : Nat) (term k : Nat) : Nat → Nat
  | 0 => term
  | n + 1 => term + expSum y (term * y / 2 ^ prec / (k + 1)) (k + 1) n
/-- The sum of z^(2k+1) / (2k+1) from a power of z, in units of 2^-prec. -/
def atanhSum (zz : Nat) (power k : Nat) : Nat → Nat
  | 0 => power / (2 * k + 1)
  | n + 1 => power / (2 * k + 1) + atanhSum zz (power * zz / 2 ^ prec) (k + 1) n
/-- 2^x (R184). An argument beyond 8192 in magnitude overflows or underflows in every format. A result that is not exact has a
final one, so that it rounds as the exact result does (log 12). -/
def Num.exp2 : Num → Num
  | .nan => .nan
  | .inf s => if s then .fin false 0 0 else .inf false
  | .fin s m e =>
    if m = 0 then .fin false 1 0
    else if 13 < (Nat.log2 m : Int) + e then .fin false 1 (if s then -8192 else 8192)
    else
      let one : Nat := 2 ^ prec
      let v : Int := roundAt (if s then 2 else 1) s m e (-(prec : Int)) 0
      let v : Int := if s then -v else v
      let n := v / one
      let f := (v % one).toNat
      if e ≥ 0 ∨ m % 2 ^ (-e).toNat = 0 then .fin false 1 n
      else if (Nat.log2 m : Int) + e < -300 then .fin false (if s then 2 ^ 301 - 1 else 2 ^ 301 + 1) (-301)
      else .fin false (2 * expSum (f * ln2Fix / one) one 0 100 + 1) (n - prec - 1)
/-- log2 x (R184). -/
def Num.log2 : Num → Num
  | .nan => .nan
  | .inf s => if s then .nan else .inf false
  | .fin s m e =>
    if m = 0 then .inf true
    else if s then .nan
    else
      let k := Nat.log2 m
      let ex : Int := e + k
      if m = 2 ^ k then (if ex = 0 then .fin false 0 0 else Num.ofInt ex)
      else
        let one : Nat := 2 ^ prec
        let z := (m - 2 ^ k) * one / (m + 2 ^ k)
        let ln := 2 * atanhSum (z * z / one) z 0 110
        let v : Int := ex * one + (ln * one / ln2Fix : Nat)
        .fin (v < 0) (2 * v.natAbs + 1) (-(prec : Int) - 1)

/-! ## The spark generator -/

/-- One round of the draw (R175). -/
def sparkRound (key : Word) (i : Nat) (x : BitVec 32 × BitVec 32 × BitVec 32 × BitVec 32) :
    BitVec 32 × BitVec 32 × BitVec 32 × BitVec 32 :=
  let (a, b, c, d) := x
  let a := a + b
  let d := (d ^^^ a).rotateLeft 16
  let c := c + d
  let b := (b ^^^ c).rotateLeft 12
  let a := a + b
  let d := (d ^^^ a).rotateLeft 8
  let c := c + d
  let b := (b ^^^ c).rotateLeft 7
  (a + key.setWidth 32, b, c + (key >>> 32).setWidth 32 + BitVec.ofNat 32 i, d)
/-- SparkDraw (R175). -/
def sparkDraw (ctr : Word) (ln : Nat) (key : Word) : BitVec 32 :=
  let x := (ctr.setWidth 32, (ctr >>> 32).setWidth 32, BitVec.ofNat 32 ln ^^^ 0x9E3779B9#32, 0x243F6A88#32)
  let x := sparkRound key 3 (sparkRound key 2 (sparkRound key 1 (sparkRound key 0 x)))
  x.1 + x.2.2.2

end Sys2Proof.Machine
end

