-- ==== Sys2Proof/Machine/Translate.lean ====
section
/-! DEFINITION. Addresses: the local-store window, the page table and its walk, permissions and the TLBs (R95-R120), and the
clock that a home has applied (R134, R135). -/

namespace Sys2Proof.Machine

/-- Access kinds (R107). -/
inductive Acc where
  | read
  | write
  | exec
  | atomic
  deriving DecidableEq, Repr

/-- The page attributes that an access uses (R105). -/
structure Attr where
  cp : Nat := 0
  fmt : Nat := 0
  geom : Nat := 0
  sofs : Int := 0
  xa : Nat := 0
  /-- The first VA of the page. -/
  base : Nat := 0
  /-- Reached through the window (R97). -/
  window : Bool := false
  deriving DecidableEq, Repr

/-- The result of a translation: a PA with the page's attributes, a cause, or a walk that must wait (R118, R119). -/
inductive Tr where
  | ok (pa : Nat) (a : Attr)
  | fault (cause : Nat)
  | wait
  deriving DecidableEq, Repr

/-- The base of the local-store window (R97). -/
def lswin : Nat := 0x00FFFFFF80000000
/-- The canonical form (R95). -/
def canonical (va : Word) : Bool := va.bits 63 56 = 0 || va.bits 63 56 = 255
/-- The VA lies in the window (R96). -/
def inWindow (va : Word) : Bool := lswin ≤ va.toNat && va.toNat < 2 ^ 56
/-- The window address of an offset of a core (R97). -/
def windowVA (c off : Nat) : Word := word (lswin + c * 2 ^ 18 + off)

/-- The counters at or below which a home has applied every piece (R135): the beacons received, and less than any piece
received and not applied. -/
def State.appliedComp (s : State) (h e : Nat) : BitVec 32 :=
  s.pieces.foldl (fun a p =>
    if p.home = h ∧ p.die = e ∧ p.arrived ∧ !p.applied then serialMin a (p.stamp.comp e - 1) else a)
    ((s.home h).kh.comp e)
/-- AppliedClock of a home (R135). -/
def State.appliedClock (s : State) (h : Nat) : Clock :=
  ⟨s.appliedComp h 0, s.appliedComp h 1, s.appliedComp h 2, s.appliedComp h 3⟩
/-- The home answers an access with this required clock (R135), while its die has power (R522). -/
def State.homeReady (s : State) (h : Nat) (rc : Clock) : Bool := !(s.die (h / 160)).powerLost && (s.appliedClock h).ge rc

/-- The clock with which the unit that holds a PA answers (R135, R136, R266). -/
def State.unitClock (s : State) (pa : Nat) : Clock :=
  if !s.ownPackage pa then {}
  else if paClass pa = 0 then s.appliedClock (homeOf pa)
  else if paClass pa = 1 then get {} (s.core (paCore pa)).bankclk (paOff pa / 2 ^ 13)
  else {}

/-- The page size of a size field (R106). -/
def pageSize (size : Nat) : Nat :=
  match size with
  | 0 => 2 ^ 12
  | 1 => 2 ^ 14
  | 2 => 2 ^ 16
  | 3 => 2 ^ 18
  | 4 => 2 ^ 20
  | 5 => 2 ^ 21
  | 6 => 2 ^ 23
  | 7 => 2 ^ 25
  | 8 => 2 ^ 27
  | _ => 2 ^ 30
/-- The level at which a leaf of a size stands (R106). -/
def levelOfSize (size : Nat) : Nat := if size ≤ 4 then 3 else if size ≤ 8 then 2 else 1
/-- Bits of a table entry. -/
def ebits (e : BitVec 128) (hi lo : Nat) : Nat := natBits e.toNat lo (hi + 1 - lo)

/-- The frame is aligned as its interleave requires (R111). -/
def frameAligned (e : BitVec 128) : Bool :=
  let frame := ebits e 55 12 * 2 ^ 12
  let sz := pageSize (ebits e 61 58)
  if ebits e 1 0 = 0 then frame % sz = 0 else frame % 2 ^ 48 % (sz / 4) = 0 && frame / 2 ^ 48 % 4 = 0
/-- The formats and block geometries that stand together (R113). -/
def fmtGeomOk (fmt geom : Nat) : Bool :=
  match fmt with
  | 0 | 1 | 2 | 3 => geom = 0
  | 4 | 5 | 7 => geom < 3
  | 6 => geom = 1 || geom = 2
  | _ => false
/-- A leaf that a walk rejects (R108). -/
def leafInvalid (e : BitVec 128) : Bool :=
  10 ≤ ebits e 61 58 || ebits e 79 64 != 0 || ebits e 57 56 != 0 || !frameAligned e ||
  (ebits e 7 7 = 0 && ebits e 6 6 = 1) || ebits e 3 2 = 3 || (ebits e 3 2 = 2 && ebits e 5 5 = 1) ||
  ebits e 1 0 = 3 || (ebits e 1 0 = 1 && ebits e 61 58 < 1) || (ebits e 1 0 = 2 && ebits e 61 58 < 3) ||
  ebits e 119 118 = 3 || !fmtGeomOk (ebits e 117 114) (ebits e 113 112)
/-- A table entry with a reserved field set (R104). -/
def tableReserved (e : BitVec 128) : Bool := ebits e 127 64 != 0 || ebits e 61 56 != 0 || ebits e 12 0 != 0

/-- The result of a walk. -/
inductive WalkRes where
  | leaf (e : BitVec 128)
  | fault (cause : Nat)
  | wait
  deriving DecidableEq, Repr

/-- Read an entry of a table (R104): it must lie in DRAM of the package, its home must have power and have applied the required clock of a
thread's walk, and it must not be poisoned. -/
def State.tableEntry (s : State) (rc : Option Clock) (table idx : Nat) : WalkRes :=
  let pa := table + 16 * idx
  if paClass pa != 0 || paBad pa || !s.ownPackage pa then .fault 0x45
  else if !s.homeReady (homeOf pa) (rc.getD (s.appliedClock (homeOf pa))) then .wait
  else if s.poisoned pa 16 then .fault 0x47
  else .leaf (BitVec.ofNat 128 (s.memNat pa 16))

/-- The walk below the region table (R107), from level 4 - n. -/
def State.walkFrom (s : State) (rc : Option Clock) (h asid : Nat) (va : Word) (table : Nat) : Nat → WalkRes
  | 0 => .fault 0x42
  | n + 1 =>
    let level := 3 - n
    match s.tableEntry rc table (va.bits (47 - 9 * level) (39 - 9 * level)) with
    | .leaf e =>
      if ebits e 63 63 = 0 then .fault 0x41
      else if ebits e 62 62 = 1 then
        if level = 0 ∨ levelOfSize (ebits e 61 58) ≠ level ∨ leafInvalid e then .fault 0x42
        else if ebits e 11 8 ≠ h ∨ ebits e 127 120 ≠ asid then .fault 0x43
        else .leaf e
      else if tableReserved e then .fault 0x42
      else if level = 3 then .fault 0x42
      else s.walkFrom rc h asid va (ebits e 55 13 * 2 ^ 13) n
    | r => r

/-- The walk of a hearth's page table that an ASPACE value names (R103, R107), with the required clock of the thread that misses, or for
hardware (log 118). -/
def State.walk (s : State) (rc : Option Clock) (h : Nat) (a va : Word) : WalkRes :=
  match s.tableEntry rc (a.bits 55 13 * 2 ^ 13) (va.bits 56 48) with
  | .leaf e =>
    if ebits e 63 63 = 0 then .fault 0x41
    else if ebits e 62 62 = 1 ∨ tableReserved e then .fault 0x42
    else s.walkFrom rc h (a.bits 63 56) va (ebits e 55 13 * 2 ^ 13) 4
  | r => r

/-- The table entries that a walk from a table reads. -/
def State.entriesFrom (s : State) (va : Word) (table : Nat) : Nat → List Nat
  | 0 => []
  | n + 1 =>
    let level := 3 - n
    let pa := table + 16 * va.bits (47 - 9 * level) (39 - 9 * level)
    if paClass pa != 0 || paBad pa || !s.ownPackage pa then []
    else
      let e := BitVec.ofNat 128 (s.memNat pa 16)
      pa :: if ebits e 63 62 = 2 then s.entriesFrom va (ebits e 55 13 * 2 ^ 13) n else []
/-- The table entries that a walk reads. -/
def State.walkEntries (s : State) (a va : Word) : List Nat :=
  let pa := a.bits 55 13 * 2 ^ 13 + 16 * va.bits 56 48
  if paClass pa != 0 || paBad pa || !s.ownPackage pa then []
  else pa :: s.entriesFrom va (ebits (BitVec.ofNat 128 (s.memNat pa 16)) 55 13 * 2 ^ 13) 4

/-- The physical address of a VA in a leaf's page (R111). -/
def pagePhysical (e : BitVec 128) (va : Nat) : Nat :=
  let frame := ebits e 55 12 * 2 ^ 12
  let o := va % pageSize (ebits e 61 58)
  if ebits e 1 0 = 0 then (frame + o) % 2 ^ 56
  else
    let g := if ebits e 1 0 = 1 then 12 else 16
    let die := va / 2 ^ g % 4
    let within := frame % 2 ^ 48 + o / 2 ^ (g + 2) * 2 ^ g + o % 2 ^ g
    frame / 2 ^ 50 * 2 ^ 50 + die * 2 ^ 48 + within % 2 ^ 48

/-- The permission check (R109). -/
def permitted (e : BitVec 128) (priv : Nat) (k : Acc) : Bool :=
  let r := ebits e 7 7 = 1
  let w := ebits e 6 6 = 1
  let x := ebits e 5 5 = 1
  let u := ebits e 4 4 = 1
  let xa := ebits e 119 118 != 0
  (match k with
    | .read => r
    | .write => w
    | .exec => x
    | .atomic => r && w) &&
  (if priv = 0 then u && !((k == .write || k == .atomic) && xa) else !(k == .exec && u))

/-- The attributes of a leaf's page. -/
def attrOf (e : BitVec 128) (va : Nat) : Attr where
  cp := ebits e 3 2
  fmt := ebits e 117 114
  geom := ebits e 113 112
  sofs := signed 32 (ebits e 111 80)
  xa := ebits e 119 118
  base := (va57 (va / pageSize (ebits e 61 58) * pageSize (ebits e 61 58))).toNat

/-- An entry serves a VA (R117). -/
def TlbEntry.serves (t : TlbEntry) (h asid va : Nat) : Bool :=
  t.hearth == h && t.asid == asid && t.base ≤ va && va < t.base + t.size
/-- The entry that a leaf makes. -/
def tlbOf (h asid va : Nat) (e : BitVec 128) : TlbEntry :=
  let sz := pageSize (ebits e 61 58)
  ⟨h, asid, va / sz * sz, sz, e⟩

/-- The checks and the address that follow a leaf (R107). -/
def finishTr (e : BitVec 128) (va : Nat) (priv : Nat) (k : Acc) : Tr :=
  if !permitted e priv k then .fault 0x44
  else
    let pa := pagePhysical e va
    if paBad pa then .fault 0x45 else .ok pa (attrOf e va)

/-- A release of the thread that is not stamped: a later load or walk of it waits for the stamp (R118, R131). -/
def State.unstamped (s : State) (c n : Nat) : Bool := (s.core c).log.closed.any fun g => g.slot == some n && g.sc != 1

/-! ## Walks (R118, R119, R478) -/

/-- The asid of an ASPACE value (R103). -/
def asidOf (a : Word) : Nat := a.bits 63 56
/-- Who misses, and where: core and unit, hearth and VA. -/
def Miss.is (m : Miss) (c who h : Nat) (va : Word) : Bool := m.core == c && m.who == who && m.hearth == h && m.va == va
/-- The miss has had its answer. -/
def Miss.answered (m : Miss) : Bool := m.cause.isSome || m.leaf.isSome
/-- A walk is in progress for the block VA[56:21] of an address (R119). -/
def Walk.covers (w : Walk) (h asid : Nat) (va : Word) : Bool :=
  w.hearth == h && asidOf w.aspace == asid && w.va.bits 56 21 == va.bits 56 21
/-- The miss has joined the walk (R119): the walk's required clock is at least its own, which a stamp to come would raise (R118). -/
def Walk.joined (w : Walk) (m : Miss) : Bool :=
  !m.answered && !m.pre && m.aspace == w.aspace && w.covers m.hearth (asidOf m.aspace) m.va && w.rc.ge m.rc
/-- The page of an entry holds the address of a miss that has no answer. -/
def TlbEntry.answers (t : TlbEntry) (m : Miss) : Bool := !m.answered && t.serves m.hearth (asidOf m.aspace) (m.va.toNat % 2 ^ 57)
/-- A leaf answers every queued miss of its page (R119). -/
def answerAll (t : TlbEntry) (l : List Miss) : List Miss := l.map fun m => if t.answers m then { m with leaf := some t.leaf } else m
/-- The miss of a slot or unit at a VA. -/
def State.missAt (s : State) (c who h : Nat) (va : Word) : Option Miss := (s.die (dieOf c)).misses.find? (·.is c who h va)
/-- The entries of a die's queue of 1,024 that are taken (R119). -/
def Die.waiting (d : Die) : Nat := (d.misses.filter fun m => !m.answered).length
/-- A miss enters the die's queue once; a full queue gives it no entry. Once its thread's release is stamped its required clock follows
(R118). -/
def State.addMiss (s : State) (m : Miss) : State :=
  match s.missAt m.core m.who m.hearth m.va with
  | some _ => s.modDie (dieOf m.core) fun q =>
      { q with misses := q.misses.map fun o => if o.is m.core m.who m.hearth m.va && o.pre then { o with rc := m.rc, pre := m.pre } else o }
  | none =>
    if !m.answered && 1024 ≤ (s.die (dieOf m.core)).waiting then s
    else s.modDie (dieOf m.core) fun q => { q with misses := q.misses ++ [m] }
/-- A miss leaves the queue. -/
def State.dropMiss (s : State) (c who h : Nat) (va : Word) : State :=
  if (s.missAt c who h va).isSome then s.modDie (dieOf c) fun q => { q with misses := q.misses.filter fun m => !m.is c who h va } else s
/-- Every miss of a slot or unit leaves the queue: its instruction has ended. -/
def State.dropMisses (s : State) (c who : Nat) : State :=
  if (s.die (dieOf c)).misses.any (fun m => m.core == c && m.who == who) then
    s.modDie (dieOf c) fun q => { q with misses := q.misses.filter fun m => !(m.core == c && m.who == who) }
  else s
/-- The misses of a hearth leave the queues: it is reset. -/
def State.dropHearthMisses (s : State) (h : Nat) : State :=
  { s with dies := s.dies.map fun e => (e.1, { e.2 with misses := e.2.misses.filter (·.hearth != h) }) }
/-- A leaf fills a core's TLB and that of its die, and answers the queued misses of its page (R117, R119). -/
def State.fillTlb (s : State) (c : Nat) (t : TlbEntry) : State :=
  (s.modCore c fun q => { q with tlb := (t :: q.tlb).take 512 }).modDie (dieOf c)
    fun q => { q with tlb := (t :: q.tlb.filter (· != t)).take 8192, misses := answerAll t q.misses }
/-- A walker starts on a miss whose tables' homes have not applied its clock. -/
def State.startWalk (s : State) (m : Miss) : State :=
  if (s.missAt m.core m.who m.hearth m.va).isSome then
    let (id, s) := s.fresh
    s.modDie (dieOf m.core) fun q =>
      { q with walks := q.walks ++ [{ id := id, hearth := m.hearth, aspace := m.aspace, va := m.va, rc := m.rc }] }
  else s
/-- What a unit takes of an answer ends its miss; a slot keeps the answer to the end of its instruction, which may yet wait for the
translation of another element (R478). -/
def State.takeAnswer (s : State) (c who h : Nat) (va : Word) : State := if who < 32 then s else s.dropMiss c who h va
/-- A miss may start a walk (R118, R119): its thread's releases are stamped, a walker is free, and no walk for its block is in progress. -/
def State.mayWalk (s : State) (m : Miss) : Bool :=
  !m.pre && (s.die (dieOf m.core)).walks.length < 64 && !(s.die (dieOf m.core)).walks.any (·.covers m.hearth (asidOf m.aspace) m.va)
/-- A translation that neither TLB holds (R118, R119). While a walk for its block is in progress or all 64 walkers are at work, the miss
waits in the die's queue; so does one of a thread whose release has no stamp yet. With the queue full it holds no entry and waits for one.
Otherwise a walker reads the tables, at once where their homes have applied the clock. -/
def State.miss (s : State) (m : Miss) (priv : Nat) (k : Acc) : Tr × State :=
  if (s.missAt m.core m.who m.hearth m.va).isNone && 1024 ≤ (s.die (dieOf m.core)).waiting then (.wait, s)
  else if !s.mayWalk m then (.wait, s.addMiss m)
  else match s.walk (some m.rc) m.hearth m.aspace m.va with
    | .leaf e => (finishTr e (m.va.toNat % 2 ^ 57) priv k, s.fillTlb m.core (tlbOf m.hearth (asidOf m.aspace) (m.va.toNat % 2 ^ 57) e))
    | .fault n => (.fault n,
        if m.who < 32 then (s.dropMiss m.core m.who m.hearth m.va).addMiss { m with cause := some n }
        else s.dropMiss m.core m.who m.hearth m.va)
    | .wait => (.wait, (s.addMiss m).startWalk m)

/-- Translation of a VA for a slot or another unit of a core, a hearth and a privilege level (R107): the answer that its miss has had
(R478), the TLB of the core, that of its die, then a walk. -/
def State.translate (s : State) (c who h priv : Nat) (rc : Clock) (va : Word) (k : Acc) : Tr × State :=
  if !canonical va then (.fault 0x40, s)
  else if inWindow va then
    let o := va.toNat - lswin
    if coreExists (o / 2 ^ 18) then (.ok (lsPA s (o / 2 ^ 18) (o % 2 ^ 18)) { window := true }, s) else (.fault 0x45, s)
  else
    let m := s.missAt c who h va
    let a := (m.map (·.aspace)).getD (s.hearth h).aspace
    let v := va.toNat % 2 ^ 57
    match m.bind (·.cause), m.bind (·.leaf) with
    | some n, _ => (.fault n, s.takeAnswer c who h va)
    | none, some e => (finishTr e v priv k, s.takeAnswer c who h va)
    | none, none =>
      match (s.core c).tlb.find? (·.serves h (asidOf a) v) with
      | some t => (finishTr t.leaf v priv k, s.dropMiss c who h va)
      | none =>
        match (s.die (dieOf c)).tlb.find? (·.serves h (asidOf a) v) with
        | some t => (finishTr t.leaf v priv k, (s.dropMiss c who h va).modCore c fun q => { q with tlb := (t :: q.tlb).take 512 })
        | none =>
          s.miss { core := c, who := who, hearth := h, aspace := a, va := va, rc := rc, pre := s.unstamped c who } priv k

/-- The leaf of a VA for an access that hardware makes on a core (R117): from the core's TLB, that of its die, or the tables, where a walker
is free and none is at work on the block (R119, log 118). -/
def State.leafFor (s : State) (c h : Nat) (va : Word) : WalkRes :=
  let a := (s.hearth h).aspace
  let d := s.die (dieOf c)
  let v := va.toNat % 2 ^ 57
  match (s.core c).tlb.find? (·.serves h (asidOf a) v) with
  | some t => .leaf t.leaf
  | none => match d.tlb.find? (·.serves h (asidOf a) v) with
    | some t => .leaf t.leaf
    | none =>
      if 64 ≤ d.walks.length || 1024 ≤ d.waiting || d.walks.any (·.covers h (asidOf a) va) then .wait else s.walk none h a va

/-- Translation for the executing thread. -/
def State.translateCur (s : State) (va : Word) (k : Acc) : Tr × State :=
  s.translate s.curCore s.curSlot s.cur.st.hearth s.cur.st.priv s.cur.rc va k

end Sys2Proof.Machine
end

