-- ==== Sys2Proof/Machine/Homes.lean ====
section
/-! DEFINITION. What the units do to memory: writes at homes with their watches and poison (R135, R286, R486), atomics
(R142, R276), the accesses that hardware makes for a hearth, and error records (R448-R451). -/

namespace Sys2Proof.Machine

/-- A thread acquires a clock: its required clock rises and the core's read cache is invalidated (R137). -/
def State.acquireAt (s : State) (c n : Nat) (clk : Clock) : State :=
  (s.modSlot c n fun t => { t with rc := t.rc.max clk }).modCore c fun k => { k with rcache := [] }

/-- A home answers one watch: a WATCH completes and acquires; a wait on an object re-executes (R286, R294). -/
def State.fireWatch (s : State) (clk : Clock) (w : Watch) : State :=
  match (s.slot w.core w.slot).wait with
  | .watch _ npc =>
    (s.acquireAt w.core w.slot clk).modSlot w.core w.slot fun t => { t with wait := .none, pc := npc }
  | .obj _ => s.modSlot w.core w.slot fun t => { t with wait := .none }
  | _ => s

/-- A watch is on a word that n bytes at pa touch. -/
def Watch.hit (w : Watch) (pa n : Nat) : Bool := w.pa / 8 * 8 < pa + n && pa < w.pa / 8 * 8 + 8

/-- A home answers the watches on a word that it writes (R286); a core whose clock is stopped takes the answer after its restart (R416). -/
def State.wakeHome (s : State) (pa n : Nat) : State :=
  let h := homeOf pa
  let hit := (s.home h).watches.filter (·.hit pa n)
  if hit.isEmpty then s
  else
    let s := s.modHome h fun q => { q with watches := q.watches.filter fun w => !w.hit pa n }
    let clk := s.appliedClock h
    hit.foldl (fun s w => if (s.core w.core).pw.paused then { s with crossings := s.crossings ++ [(w.core, .watch clk w)] } else s.fireWatch clk w) s

/-- Clear the poison of each whole word that n bytes at pa cover (R486). -/
def State.unpoison (s : State) (pa n : Nat) : State :=
  if s.poison.isEmpty then s
  else { s with poison := s.poison.filter fun w => !(pa ≤ 8 * w && 8 * w + 8 ≤ pa + n) }

/-- A write at the unit that holds the bytes: local store in place, or a home, which wakes the word's watches. -/
def State.writeAt (s : State) (pa : Nat) (bs : List Byte) : State :=
  if paClass pa = 1 ∧ s.ownPackage pa then s.writeLS (paCore pa) (paOff pa) bs
  else if paClass pa = 0 ∧ s.ownPackage pa then ((s.setBytes pa bs).unpoison pa bs.length).wakeHome pa bs.length
  else s.setBytes pa bs

/-! ## The view of the slot files in boot test (R537) -/

/-- A byte of the slot files as slot n sees it at an offset of the window. -/
def Core.viewByte (k : Core) (n off : Nat) : Byte :=
  let t := k.slot (off / 2 ^ 13)
  let b := off % 2 ^ 13
  if 0x20000 ≤ off ∨ off / 2 ^ 13 = n then 0
  else if b < 0x1000 then BitVec.ofNat 8 (natBits (lane (get zeroVec t.v (b / 256)) (b % 256 / 4)).toNat (8 * (b % 4)) 8)
  else if b < 0x1300 then BitVec.ofNat 8 (natBits (get 0 t.stk ((b - 0x1000) / 8)).toNat (8 * (b % 8)) 8)
  else if b < 0x1340 then BitVec.ofNat 8 (natBits (get 0 t.m ((b - 0x1300) / 8)).toNat (8 * (b % 8)) 8)
  else 0
/-- Replace byte i of a number. -/
def setByteNat (x i : Nat) (b : Byte) : Nat := x - natBits x (8 * i) 8 * 2 ^ (8 * i) + b.toNat * 2 ^ (8 * i)
/-- Write a byte of the slot files; neither liveness nor STATUS changes. -/
def Core.setViewByte (k : Core) (n off : Nat) (x : Byte) : Core :=
  let w := off / 2 ^ 13
  let t := k.slot w
  let b := off % 2 ^ 13
  if 0x20000 ≤ off ∨ w = n then k
  else if b < 0x1000 then
    let v := get zeroVec t.v (b / 256)
    let l := BitVec.ofNat 32 (setByteNat (lane v (b % 256 / 4)).toNat (b % 4) x)
    k.setSlot w { t with v := put t.v (b / 256) (setNth v (b % 256 / 4) l) }
  else if b < 0x1300 then
    let e := (b - 0x1000) / 8
    k.setSlot w { t with stk := put t.stk e (word (setByteNat (get 0 t.stk e).toNat (b % 8) x)) }
  else if b < 0x1340 then
    let e := (b - 0x1300) / 8
    k.setSlot w { t with m := put t.m e (word (setByteNat (get 0 t.m e).toNat (b % 8) x)) }
  else k
/-- Read n bytes of a core's local store for one of its slots. -/
def State.coreBytes (s : State) (c slot off n : Nat) : List Byte :=
  if (s.core c).view then (List.range n).map fun i => (s.core c).viewByte slot (off + i) else s.readLS c off n
/-- Write bytes of a core's local store by one of its slots. -/
def State.coreWrite (s : State) (c slot off : Nat) (bs : List Byte) : State :=
  if (s.core c).view then
    s.modCore c fun k => (bs.foldl (fun (p : Core × Nat) b => (p.1.setViewByte slot (off + p.2) b, p.2 + 1)) (k, 0)).1
  else s.writeLS c off bs

/-- The stores of a core stall while a LOGSIZE write waits (R128); in boot test it has no log, and the write waits for the test's end
(R533). -/
def Core.storesStall (k : Core) : Bool := k.log.newSize.isSome && !k.bootTest

/-! ## Atomics -/

/-- The value that an atomic leaves (R276): codes 0 to 10 of AMO, and 16 for swap. n is the size in bytes. -/
def amoFn (op n : Nat) (m v : Nat) : Nat :=
  let w := 8 * n
  let m := m % 2 ^ w
  let v := v % 2 ^ w
  let f := if n = 4 then fp32 else fp64
  match op with
  | 0 => (m + v) % 2 ^ w
  | 1 => m &&& v
  | 2 => m ||| v
  | 3 => m ^^^ v
  | 4 => if signed w m ≤ signed w v then m else v
  | 5 => if signed w m ≥ signed w v then m else v
  | 6 => min m v
  | 7 => max m v
  | 8 => f.round 0 0 0 0 (Num.add 0 (f.decode m) (f.decode v))
  | 9 => f.min m v
  | 10 => f.max m v
  | _ => v
/-- The atomic code of AMOV's t field (R276). -/
def amovOp (t : Nat) : Nat :=
  match t with
  | 0 => 16
  | 1 => 0
  | 2 => 1
  | 3 => 2
  | n => n

/-- A compare-and-swap of 8 bytes at a home: the old value, and the new state where it succeeds. -/
def State.casAt (s : State) (pa : Nat) (old new : Word) : Word × State :=
  let m := s.memW pa
  if m = old then (m, s.writeAt pa (leBytes 8 new.toNat)) else (m, s)

/-! ## Accesses that hardware makes for a hearth -/

/-- The result of a hardware access that must wait, for a home or a copy: no cause of R446. -/
def hwWait : Nat := 0x100
/-- No core: the hub's accesses go through no TLB of a core. -/
def noCoreId : Nat := 8192
/-- The hub or a home acts: on behalf of no core. -/
def State.asHub (s : State) : State := { s with curCore := noCoreId }
/-- The PA of a VA of a hearth for an access by hardware at S, on behalf of the core that acts (R107, R449; log 118). -/
def State.hwPA (s : State) (h : Nat) (va : Word) (k : Acc) : Except Nat Nat :=
  if !canonical va then .error 0x40
  else if inWindow va then
    let o := va.toNat - lswin
    if coreExists (o / 2 ^ 18) then .ok (lsPA s (o / 2 ^ 18) (o % 2 ^ 18)) else .error 0x45
  else match s.leafFor s.curCore h va with
    | .leaf e =>
      match finishTr e (va.toNat % 2 ^ 57) 1 k with
      | .ok pa _ => .ok pa
      | .fault n => .error n
      | .wait => .error hwWait
    | .fault n => .error n
    | .wait => .error hwWait
/-- A copy that has still to write a byte of a range of local store (R149): the channel's remaining destination. -/
def State.runCovers (s : State) (h : Nat) (dst : Word) (len pa n : Nat) : Bool :=
  if inWindow dst then
    let o := lsPA s ((dst.toNat - lswin) / 2 ^ 18) ((dst.toNat - lswin) % 2 ^ 18)
    o < pa + n && pa < o + len
  else (List.range n).any fun i => (List.range (len / 8 + 1)).any fun j =>
    match s.hwPA h (dst + word (8 * j)) .write with
    | .ok p => p / 8 == (pa + i) / 8
    | .error _ => false
/-- The offset of run j of a strided copy (R358). -/
def runOffset (counts : List Nat) (st : List Word) (j : Nat) : Word :=
  let c1 := counts.getD 0 1
  let c2 := counts.getD 1 1
  word (j % c1) * st.getD 0 0 + word (j / c1 % c2) * st.getD 1 0 + word (j / c1 / c2) * st.getD 2 0
/-- The number of runs. -/
def Channel.runs (x : Channel) : Nat := x.counts.foldl (· * ·) 1
/-- A channel's destination at or above its watermark covers some of n bytes at a PA (R149). -/
def State.chanCovers (s : State) (x : Channel) (pa n : Nat) : Bool :=
  (x.busy || x.held.isSome) && !x.global && x.net.isNone &&
    (if !x.strided then x.run = 0 && s.runCovers x.hearth (x.dst + word x.off) (x.len - x.off) pa n
     else (List.range x.runs).any fun j => (!x.ascending || x.run ≤ j) && s.runCovers x.hearth (x.dst + runOffset x.counts x.ds j) x.len pa n)
/-- The clock of a core's domain is stopped: nothing in it changes (R416). -/
def State.clockStopped (s : State) (c : Nat) : Bool := (s.core c).pw.paused
/-- A cluster's domain does not run: its clock is stopped (R415, R416), its regulator has failed (R525), its die has no power, or a trip 3 has
halted it, once its threads, whose commands and atomics end before they are saved (R346, R522), have left. -/
def State.clusterStill (s : State) (cl : Nat) : Bool :=
  let q := s.cluster cl
  let d := s.die (cl / 256)
  q.vrfail || q.paused || d.powerLost || (d.trip3 && (List.range 8).all fun j => (s.core (8 * cl + j)).slots.all fun e => !e.2.busy)
/-- Accesses to n bytes of a core's local store stall at a copy's destination (R149), but for those of the copy's own channel, and while the
core's clock is stopped (R416). -/
def State.lsStalledBut (s : State) (own : Option (Nat × Nat)) (c off n : Nat) : Bool :=
  s.clockStopped c || s.cores.any fun q => q.2.tongs.any fun e => some (q.1, e.1) != own && s.chanCovers e.2 (lsPA s c off) n
/-- The same for every other agent. -/
def State.lsStalled (s : State) (c off n : Nat) : Bool := s.lsStalledBut none c off n

/-- The request is a posted write to local store (R146), or a store of a core in boot test (R533). -/
def Req.posted (r : Req) : Bool :=
  match r.op with
  | .store _ | .put _ _ | .amo _ _ => paClass r.pa == 1
  | .boot _ => true
  | _ => false
/-- A posted write of a slot to some of n bytes has not landed. -/
def State.postedOver (s : State) (c slot pa n : Nat) : Bool :=
  s.reqs.any fun r => r.posted && r.core == c && r.slot == slot && r.pa < pa + n && pa < r.pa + r.size

/-- What keeps hardware from n bytes at a place: requests wait for a core in boot test (R533) and for a gated one to power up (R418), a die
without power answers nothing (R522), local store is checked at its core (R98, R99), and a copy's destination stalls (R149). -/
def State.hwRefused (s : State) (h pa n : Nat) (write : Bool) : Option Nat :=
  if paClass pa = 1 ∧ s.ownPackage pa then
    if (((s.core (paCore pa)).bootTest || (s.core (paCore pa)).pw.gated) && paCore pa != s.curCore) || (s.die (dieOf (paCore pa))).powerLost
    then some hwWait
    else if (s.core (paCore pa)).lsRefusedN (paOff pa) n h 1 write then some 0x46
    else if s.lsStalled (paCore pa) (paOff pa) n then some hwWait
    else none
  else if paClass pa = 0 ∧ s.ownPackage pa ∧ (s.die (homeOf pa / 160)).powerLost then some hwWait
  else none
/-- Read n bytes for a hearth. A poisoned word fails (R488). -/
def State.hwRead (s : State) (h : Nat) (va : Word) (n : Nat) : Except Nat Nat :=
  match s.hwPA h va .read with
  | .error e => .error e
  | .ok pa => match s.hwRefused h pa n false with
    | some e => .error e
    | none => if s.poisoned pa n then .error 0x47 else .ok (s.memNat pa n)
/-- Write bytes for a hearth. -/
def State.hwWrite (s : State) (h : Nat) (va : Word) (bs : List Byte) : Except Nat State :=
  match s.hwPA h va .write with
  | .error e => .error e
  | .ok pa => match s.hwRefused h pa bs.length true with
    | some e => .error e
    | none => .ok (s.writeAt pa bs)
/-- Write consecutive words for a hearth, each through its own translation, until one faults: its address and cause. -/
def State.hwWords (s : State) (h : Nat) (va : Word) : List Word → Except (Nat × Word) State
  | [] => .ok s
  | w :: r => match s.hwWrite h va (leBytes 8 w.toNat) with
    | .error e => .error (e, va)
    | .ok s => s.hwWords h (va + 8) r
/-- The same where the words written before the fault stand (R477). -/
def State.hwPut (s : State) (h : Nat) (va : Word) : List Word → Option (Nat × Word) × State
  | [] => (none, s)
  | w :: r => match s.hwWrite h va (leBytes 8 w.toNat) with
    | .error e => (some (e, va), s)
    | .ok s => s.hwPut h (va + 8) r
/-- Read consecutive words for a hearth. -/
def State.hwReadWords (s : State) (h : Nat) (va : Word) : Nat → Except (Nat × Word) (List Word)
  | 0 => .ok []
  | n + 1 => match s.hwRead h va 8 with
    | .error e => .error (e, va)
    | .ok v => match s.hwReadWords h (va + 8) n with
      | .error e => .error e
      | .ok l => .ok (word v :: l)

/-! ## Error records -/

/-- The TASKID of a thread without a record (R78). -/
def noTask : Word := 0x0000FFFFFFFFFFFF

/-- An error record (R448), before its SEQ and PLACE. -/
structure Record where
  cause : Nat
  cls : Nat
  hearth : Nat
  slot : Nat := 0
  core : Nat := 0x1FFF
  task : Word := noTask
  pc : Word := 0
  addr : Word := 0
  detail : Word := 0
  owner : Option Word := none
  deriving DecidableEq, Repr

/-- HDR (R448). -/
def Record.hdr (r : Record) : Word :=
  word (r.cause % 256 * 2 ^ 56 + r.cls % 8 * 2 ^ 53 + (if r.owner.isSome then 2 ^ 52 else 0) + r.hearth % 16 * 2 ^ 48 +
    r.slot % 16 * 2 ^ 44 + r.core % 2 ^ 13 * 2 ^ 31)

/-- The fault ring of a hearth (R449). -/
def State.faultRing (s : State) (h : Nat) : Word := va57 ((s.hearth h).savebase.bits 56 12 * 4096 + 0x28000000)

/-- Write a record into its hearth's ring (R449): its address and SEQ; address 0 where the ring is full or a place of it cannot be
reached (log 13). An NSEQ of 0 counts as 1. -/
def State.ringWrite (s : State) (r : Record) : Word × Word × State :=
  let ring := s.faultRing r.hearth
  match s.hwReadWords r.hearth ring 4 with
  | .error _ => (0, 0, s)
  | .ok l =>
    let wr := l.getD 0 0
    let rd := l.getD 1 0
    let lost := l.getD 2 0
    let seq := if l.getD 3 0 = 0 then 1 else l.getD 3 0
    match s.hwWords r.hearth (ring + 24) [seq + 1] with
    | .error _ => (0, 0, s)
    | .ok s =>
      if wr - rd = 1023 then
        match s.hwWords r.hearth (ring + 16) [lost + 1] with
        | .error _ => (0, seq, s)
        | .ok s => (0, seq, s)
      else
        let at_ := ring + word (0x40 + 64 * (wr.toNat % 1023))
        match s.hwWords r.hearth ring [wr + 1] with
        | .error _ => (0, seq, s)
        | .ok s =>
          match s.hwWords r.hearth at_
              [r.hdr, r.task, r.pc, r.addr, r.detail, r.owner.getD noTask, seq, wr + 1] with
          | .error _ => (0, seq, s)
          | .ok s => (at_, seq, s)

/-- The interrupt core of a hearth (R450). -/
def State.irqCore (s : State) (h : Nat) : Option Nat :=
  (s.cores.find? fun p => let e := get 0 p.2.chans 63; e.bits 63 63 = 1 && e.bits 59 56 = h).map (·.1)

/-- A journal entry as 256 bits (R438). -/
def journalEntry (seq : Word) (digest : BitVec 128) (queue state result : Nat) (htag : BitVec 32) : BitVec 256 :=
  BitVec.ofNat 256 (seq.toNat + digest.toNat * 2 ^ 64 +
    (queue % 4 * 2 ^ 62 + state % 256 * 2 ^ 48 + result % 65536 * 2 ^ 32 + htag.toNat) * 2 ^ 192)
/-- Write a journal entry at its place (R438). -/
def State.setJournal (s : State) (h : Nat) (seq : Word) (e : BitVec 256) : State :=
  s.modHearth h fun q => { q with journal := put q.journal (seq.toNat % 1024) e }
/-- The journal entry that the housekeeping processor writes for an error (R451). -/
def State.errorJournal (s : State) (h cause : Nat) : State :=
  let seq := (s.hearth h).jseq + 1
  (s.modHearth h fun q => { q with jseq := seq }).setJournal h seq (journalEntry seq 0 0 5 cause 0xFFFFFFFF)

/-- Report an error by a record (R448-R451): the ring, the hearth interrupt except for classes 2 and 3, and for classes 2, 5 and
6 the housekeeping processor. -/
def State.report (s : State) (r : Record) : State :=
  let (a, seq, s) := s.ringWrite r
  let s := if r.cls = 2 ∨ r.cls = 3 then s
    else match s.irqCore r.hearth with
      | none => s
      | some c => { s with messages := s.messages ++
          [{ core := c, hearth := r.hearth, chan := 63, payload := [a, r.hdr, seq, 0], rc := {}, src := none, irq := true }] }
  let s := if r.cls = 2 ∨ r.cls = 6 then
      { s with hub := { s.hub with ras := s.hub.ras ++ [[r.hdr, r.task, r.pc, r.addr]] } } else s
  let s := if r.cls = 5 ∨ r.cls = 6 then s.errorJournal r.hearth r.cause else s
  if r.cls = 2 ∧ r.cause = 0x82 ∧ r.core ≠ 0x1FFF then s.modCore r.core fun k => { k with softErrs := k.softErrs + 1 } else s

/-- The owner of the adopted task that a thread runs (R456). -/
def Slot.owner (t : Slot) : Option Word := if 1 ≤ t.st.adepth then some (word (t.taskid.bits 47 0)) else none
/-- A record about a thread (R448, R456). -/
def State.threadRecord (s : State) (c n cause cls : Nat) : Record :=
  let t := s.slot c n
  { cause := cause, cls := cls, hearth := t.st.hearth, slot := n, core := c, task := t.taskid, pc := t.pc, owner := t.owner }

/-! ## DRAM reads (R486, R489-R491) -/

/-- The record that a read for a thread leaves where the line is in error: DRAMUE has class 4, or class 3 in a region, which the poison then
restarts (R491, R540). -/
def State.readFor (s : State) (c n : Nat) (va : Word) : Record :=
  { s.threadRecord c n 0 (if (s.slot c n).st.idv then 3 else 4) with addr := va }
/-- A home has corrected a line (R491): the line is written back, and a DRAMCE record is due at most once in 1 ms. Whether that time has passed
is a free value. -/
def State.lineFixed (s : State) (r : Record) (line errors erasures : Nat) (syms : List Nat) : State :=
  let h := homeOf (64 * line)
  let s := s.modHome h fun q => { q with fixed := (line, syms) :: q.fixed, corrections := q.corrections + 1 }
  let (v, s) := if (s.home h).ceSent then s.free else (1, s)
  if !v.getLsbD 0 then s
  else
    let d := errors * 2 ^ 56 + erasures * 2 ^ 48 + lineLayer line * 2 ^ 40 + lineBank line * 2 ^ 36 + (s.home h).corrections % 2 ^ 32
    (s.modHome h fun q => { q with corrections := 0, ceSent := true }).report { r with cause := 0xE0, cls := 2, detail := word d }
/-- A home reads a line that is in error (R489, R491): it corrects it, or poisons its eight words. Beyond the bound the decoder may miscorrect, as
a free value says: the words then hold free values. -/
def State.readLine (s : State) (r : Record) (line : Nat) : State :=
  match get? s.latent line with
  | none => s
  | some syms =>
    let errors := (s.lineErrs line).length
    let erasures := ((s.home (homeOf (64 * line))).erased line).length
    let s' := { s with latent := del s.latent line }
    if syms.isEmpty then s'
    else if !s.lineBad line then s'.lineFixed r line errors erasures syms
    else
      let (v, s) := s'.free
      if v.getLsbD 0 then
        ((List.range 8).foldl (fun (s : State) i =>
          let (v, s) := s.free
          s.setMemW (64 * line + 8 * i) v) s).lineFixed r line errors erasures syms
      else
        let s := (List.range 8).foldl (fun (s : State) i => s.setPoison (8 * line + i)) s
        let s := s.modHome (homeOf (64 * line)) fun q => { q with ues := line :: q.ues }
        s.report { r with cause := 0xE1, detail := word (lineLayer line * 2 ^ 40 + lineBank line * 2 ^ 36) }
/-- A home reads the lines of n bytes. -/
def State.readLines (s : State) (r : Record) (pa n : Nat) : State :=
  if s.latent.isEmpty then s
  else (List.range ((pa + n + 63) / 64 - pa / 64)).foldl (fun s i => s.readLine r (pa / 64 + i)) s

end Sys2Proof.Machine
end

