-- ==== Sys2Proof/WellFormed.lean ====
section
/-! DEFINITION. The instructions that an encoding exists for: the limits of R213 on the chain, the kinds of R223, no reserved
value, and the form of MOV that its PXR and f name (R239). -/

namespace Sys2Proof

/-- A PXI that stands directly before PXX has payload bits [8:7] clear (R213, R219). -/
def xsPayloadsOk : List Prefix → Bool
  | [] => true
  | p :: rest =>
    (match p, rest with
      | .pxi i, .pxx _ :: _ => i.toNat < 128
      | _, _ => true) && xsPayloadsOk rest

/-- The counts of R213 rule 2. -/
def countsOk (px : List Prefix) : Bool :=
  px.countP Prefix.isPxi ≤ 3 && px.countP Prefix.isPxr ≤ 1 && px.countP Prefix.isPxm ≤ 1 &&
    px.countP Prefix.isPxv ≤ 1 && px.countP Prefix.isPxx ≤ 1

/-- The forms of MOV: the class of its PXR and its f (R239). -/
def Instr.movFormOk : Instr → Bool
  | .mov x => (pxrOf x.px).all fun p => p.2.1 < 2
  | .movToLoop x => (pxrOf x.px).any (fun p => p.2.1 == 3) && x.f == 0
  | .movFromLoop x => (pxrOf x.px).any (fun p => p.2.1 == 3) && x.f == 1
  | .movToMask x => (pxrOf x.px).any (fun p => p.2.1 == 2) && x.f == 0
  | .movFromMask x => (pxrOf x.px).any (fun p => p.2.1 == 2) && x.f == 1
  | _ => true

/-- The page of an encoded instruction (R204); 0 for an event. -/
def Instr.page : Instr → Nat
  | .vabs _ | .vneg _ | .vrcp _ | .vrsq _ | .viadd _ | .visub _ | .vimul _ | .vand _ | .vor _ | .vxor _ => 1
  | .vnot _ | .vshl _ | .vshr _ | .vsar _ | .vcmp _ | .vsel _ | .vsplat _ | .vperm _ | .vld _ | .vlds _ => 1
  | .vgath _ | .vrel _ | .mand _ | .mor _ | .mnot _ | .mpop _ | .mfirst _ | .sbind _ | .sunb _ | .slead _ => 1
  | .vrand _ | .xsel _ | .xrd _ | .xlead _ | .xunr _ | .xclr _ | .xflush _ => 1
  | .xbr _ => 1
  | .vadd _ | .vsub _ | .vmul _ | .vfma _ | .vfms _ | .vmin _ | .vmax _ | .vdiv _ | .vsqrt _ | .vexp2 _ => 1
  | .vlog2 _ | .vred _ | .vscan _ | .vcvt _ | .vst _ | .vsts _ | .vscat _ => 1
  | .tcfg _ | .tzero _ | .tld _ | .tst _ | .mma _ | .mmax _ | .gset _ | .tsave _ | .trest _ | .mseq _ => 2
  | .swcfg _ | .cpy _ | .cpys _ | .cpyn _ | .waitc _ | .chst _ | .spawn _ | .yieldc _ | .exit _ | .tailw _ => 2
  | .send _ | .chan _ | .blk _ | .unblk _ | .govcfg _ | .idem _ | .trap _ | .rte _ | .csrr _ | .csrw _ => 2
  | .csrs _ | .csrc _ | .halt _ | .tlbi _ | .rqrd _ | .rqgo _ => 2
  | _ => 0

/-- The chain leaves room for the PXP of pages 1 and 2 (R204, R213 rule 1). -/
def Instr.chainFits (i : Instr) : Bool := i.px.length + (if i.page = 0 then 0 else 1) ≤ 4

/-- An instruction of the code stream, as decoding can deliver it. -/
def Instr.WellFormed (i : Instr) : Bool :=
  i.encoded && i.chainFits && countsOk i.px && xsPayloadsOk i.px &&
    (kinds i.px).all (i.accepts.contains ·) && (!i.needsPxr || i.px.any Prefix.isPxr) &&
    (i.px.all fun p => !p.reserved i.scalarFp) && i.xrRm < 6 && i.movFormOk

end Sys2Proof
end

