-- ==== Sys2Proof/Decode.lean ====
section
/-! DEFINITION. Decoding of parcels (R203-R214, R220-R222, R496-R498), and after it the encoder. -/

namespace Sys2Proof

/-- What decoding a list of parcels gives: an instruction and its length in parcels; a trap with its cause and the number of
the parcel that it names (R496); or that another parcel must be fetched first. -/
inductive Decoded where
  | ok (i : Instr) (n : Nat)
  | trap (cause idx : Nat)
  | more
  deriving DecidableEq, Repr

/-- Cause ILLOP (R495). -/
def causeIllop : Nat := 0x01
/-- Cause ILLPFX (R495). -/
def causeIllpfx : Nat := 0x02
/-- Cause ILLFLD (R495). -/
def causeIllfld : Nat := 0x03

/-- The fields of a base parcel in format RR (R205). -/
def RR.ofBits (px : List Prefix) (w : BitVec 9) : RR :=
  ⟨px, w.extractLsb' 5 4, w.extractLsb' 1 4, w.extractLsb' 0 1⟩
/-- The fields of a base parcel in format RI (R205). -/
def RI.ofBits (px : List Prefix) (w : BitVec 9) : RI := ⟨px, w.extractLsb' 5 4, w.extractLsb' 0 5⟩
/-- The field of a base parcel in format B or Z (R205). -/
def Z9.ofBits (px : List Prefix) (w : BitVec 9) : Z9 := ⟨px, w⟩
/-- The fields of an operand parcel in format XA (R206). -/
def XA.ofBits (px : List Prefix) (w : Parcel) : XA :=
  ⟨px, w.extractLsb' 12 4, w.extractLsb' 8 4, w.extractLsb' 4 4, w.extractLsb' 0 4⟩
/-- The fields of an operand parcel in format XR (R206). -/
def XR.ofBits (px : List Prefix) (w : Parcel) : XR :=
  ⟨px, w.extractLsb' 12 4, w.extractLsb' 8 4, w.extractLsb' 4 4, w.extractLsb' 1 3, w.extractLsb' 0 1⟩
/-- The fields of an operand parcel in format XB (R206). -/
def XB.ofBits (px : List Prefix) (w : Parcel) : XB := ⟨px, w.extractLsb' 12 4, w.extractLsb' 0 12⟩

/-- How a row of an opcode map makes its instruction: its format and its constructor. -/
inductive RowForm where
  | rr (mk : RR → Instr)
  | ri (mk : RI → Instr)
  | z9 (mk : Z9 → Instr)
  | xa (mk : XA → Instr)
  | xr (mk : XR → Instr)
  | xb (mk : XB → Instr)

/-- A row of an opcode map: the opcode and the form. -/
structure Row where
  op : Nat
  form : RowForm

/-- The instruction of a row, its chain and the bits of its last parcel (the low 9 bits on page 0). -/
def RowForm.make (r : RowForm) (px : List Prefix) (w : Parcel) : Instr :=
  match r with
  | .rr mk => mk (RR.ofBits px (w.extractLsb' 0 9))
  | .ri mk => mk (RI.ofBits px (w.extractLsb' 0 9))
  | .z9 mk => mk (Z9.ofBits px (w.extractLsb' 0 9))
  | .xa mk => mk (XA.ofBits px w)
  | .xr mk => mk (XR.ofBits px w)
  | .xb mk => mk (XB.ofBits px w)

/-- The five forms of MOV: PXR rc 3 and 2 name the loop and mask registers, and f gives the direction (R239). -/
def movForm (x : RR) : Instr :=
  match pxrOf x.px with
  | some (_, 3, _) => if x.f = 0 then .movToLoop x else .movFromLoop x
  | some (_, 2, _) => if x.f = 0 then .movToMask x else .movFromMask x
  | _ => .mov x

/-- Opcodes 0x00 to 0x0F of page 0 (R220). -/
def rows0a : List Row := [
  ⟨0x00, .z9 .nop⟩,
  ⟨0x01, .rr .add⟩,
  ⟨0x02, .ri .addi⟩,
  ⟨0x03, .rr .sub⟩,
  ⟨0x04, .rr .mul⟩,
  ⟨0x05, .rr .mulh⟩,
  ⟨0x06, .rr .mulhn⟩,
  ⟨0x07, .rr .div⟩,
  ⟨0x08, .rr .divn⟩,
  ⟨0x09, .rr .rem⟩,
  ⟨0x0A, .rr .remn⟩,
  ⟨0x0B, .rr .and⟩,
  ⟨0x0C, .ri .andi⟩,
  ⟨0x0D, .rr .or⟩,
  ⟨0x0E, .ri .ori⟩,
  ⟨0x0F, .rr .xor⟩]

/-- Opcodes 0x10 to 0x1F of page 0 (R220). -/
def rows0b : List Row := [
  ⟨0x10, .ri .xori⟩,
  ⟨0x11, .rr .shl⟩,
  ⟨0x12, .rr .shr⟩,
  ⟨0x13, .rr .sar⟩,
  ⟨0x14, .ri .shli⟩,
  ⟨0x15, .ri .shri⟩,
  ⟨0x16, .ri .sari⟩,
  ⟨0x17, .rr .rol⟩,
  ⟨0x18, .rr .ror⟩,
  ⟨0x19, .rr .clz⟩,
  ⟨0x1A, .rr .ctz⟩,
  ⟨0x1B, .rr .popc⟩,
  ⟨0x1C, .rr .bswap⟩,
  ⟨0x1D, .rr .sext⟩,
  ⟨0x1E, .rr .zext⟩,
  ⟨0x1F, .rr .min⟩]

/-- Opcodes 0x20 to 0x31 of page 0 (R220). -/
def rows0c : List Row := [
  ⟨0x20, .rr .max⟩,
  ⟨0x21, .rr .minn⟩,
  ⟨0x22, .rr .maxn⟩,
  ⟨0x23, .rr .abs⟩,
  ⟨0x24, .rr .cmpeq⟩,
  ⟨0x25, .rr .cmplt⟩,
  ⟨0x26, .rr .cmpltn⟩,
  ⟨0x27, .rr .sel⟩,
  ⟨0x28, .rr movForm⟩,
  ⟨0x29, .ri .movi⟩,
  ⟨0x2A, .rr .lea⟩,
  ⟨0x2B, .ri .addpc⟩,
  ⟨0x2C, .rr .bitx⟩,
  ⟨0x2D, .rr .biti⟩,
  ⟨0x30, .rr .fadd⟩,
  ⟨0x31, .rr .fsub⟩]

/-- Opcodes 0x32 to 0x46 of page 0 (R220). -/
def rows0d : List Row := [
  ⟨0x32, .rr .fmul⟩,
  ⟨0x33, .rr .fma⟩,
  ⟨0x34, .rr .fdiv⟩,
  ⟨0x35, .rr .fsqrt⟩,
  ⟨0x36, .rr .fmin⟩,
  ⟨0x37, .rr .fmax⟩,
  ⟨0x38, .rr .fcmp⟩,
  ⟨0x39, .rr .fcvt⟩,
  ⟨0x3A, .rr .fclass⟩,
  ⟨0x40, .z9 .br⟩,
  ⟨0x41, .ri .beqz⟩,
  ⟨0x42, .ri .bnez⟩,
  ⟨0x43, .ri .bltz⟩,
  ⟨0x44, .ri .bgez⟩,
  ⟨0x45, .rr .beq⟩,
  ⟨0x46, .rr .bne⟩]

/-- Opcodes 0x47 to 0x5A of page 0 (R220). -/
def rows0e : List Row := [
  ⟨0x47, .rr .blt⟩,
  ⟨0x48, .rr .bltn⟩,
  ⟨0x49, .rr .bge⟩,
  ⟨0x4A, .rr .bgen⟩,
  ⟨0x4B, .rr .jmp⟩,
  ⟨0x4C, .z9 .call⟩,
  ⟨0x4D, .rr .icall⟩,
  ⟨0x4E, .z9 .ret⟩,
  ⟨0x4F, .z9 .entry⟩,
  ⟨0x50, .ri .loops⟩,
  ⟨0x51, .z9 .loope⟩,
  ⟨0x52, .z9 .spillw⟩,
  ⟨0x53, .z9 .fillw⟩,
  ⟨0x58, .rr .ld⟩,
  ⟨0x59, .rr .ldx⟩,
  ⟨0x5A, .rr .st⟩]

/-- Opcodes 0x5B to 0x6A of page 0 (R220). -/
def rows0f : List Row := [
  ⟨0x5B, .rr .stx⟩,
  ⟨0x5C, .ri .lda⟩,
  ⟨0x5D, .z9 .rel⟩,
  ⟨0x5E, .rr .acq⟩,
  ⟨0x5F, .z9 .fence⟩,
  ⟨0x60, .rr .amo⟩,
  ⟨0x61, .rr .amov⟩,
  ⟨0x62, .rr .cas⟩,
  ⟨0x63, .rr .cas16⟩,
  ⟨0x64, .rr .isync⟩,
  ⟨0x65, .rr .put⟩,
  ⟨0x66, .ri .waitm⟩,
  ⟨0x67, .z9 .wait⟩,
  ⟨0x68, .rr .watch⟩,
  ⟨0x69, .ri .sleep⟩,
  ⟨0x6A, .rr .mig⟩]

/-- Opcodes 0x6B to 0x76 of page 0 (R220). -/
def rows0g : List Row := [
  ⟨0x6B, .ri .barr⟩,
  ⟨0x6C, .ri .bara⟩,
  ⟨0x6D, .ri .bard⟩,
  ⟨0x6E, .ri .barw⟩,
  ⟨0x6F, .ri .bari⟩,
  ⟨0x70, .rr .futw⟩,
  ⟨0x71, .rr .futs⟩,
  ⟨0x72, .rr .futp⟩,
  ⟨0x73, .rr .lock⟩,
  ⟨0x74, .rr .unlock⟩,
  ⟨0x75, .rr .qpush⟩,
  ⟨0x76, .rr .qpop⟩]

/-- The opcode map of page 0 (R220). -/
def rows0 : List Row := rows0a ++ rows0b ++ rows0c ++ rows0d ++ rows0e ++ rows0f ++ rows0g

/-- Opcodes 0x00 to 0x10 of page 1 (R221). -/
def rows1a : List Row := [
  ⟨0x00, .xr .vadd⟩,
  ⟨0x01, .xr .vsub⟩,
  ⟨0x02, .xr .vmul⟩,
  ⟨0x03, .xr .vfma⟩,
  ⟨0x04, .xr .vfms⟩,
  ⟨0x05, .xr .vmin⟩,
  ⟨0x06, .xr .vmax⟩,
  ⟨0x07, .xa .vabs⟩,
  ⟨0x08, .xa .vneg⟩,
  ⟨0x09, .xr .vdiv⟩,
  ⟨0x0A, .xr .vsqrt⟩,
  ⟨0x0B, .xa .vrcp⟩,
  ⟨0x0C, .xa .vrsq⟩,
  ⟨0x0D, .xr .vexp2⟩,
  ⟨0x0E, .xr .vlog2⟩,
  ⟨0x10, .xa .viadd⟩]

/-- Opcodes 0x11 to 0x26 of page 1 (R221). -/
def rows1b : List Row := [
  ⟨0x11, .xa .visub⟩,
  ⟨0x12, .xa .vimul⟩,
  ⟨0x13, .xa .vand⟩,
  ⟨0x14, .xa .vor⟩,
  ⟨0x15, .xa .vxor⟩,
  ⟨0x16, .xa .vnot⟩,
  ⟨0x17, .xa .vshl⟩,
  ⟨0x18, .xa .vshr⟩,
  ⟨0x19, .xa .vsar⟩,
  ⟨0x20, .xa .vcmp⟩,
  ⟨0x21, .xa .vsel⟩,
  ⟨0x22, .xa .vsplat⟩,
  ⟨0x23, .xa .vperm⟩,
  ⟨0x24, .xr .vred⟩,
  ⟨0x25, .xr .vscan⟩,
  ⟨0x26, .xr .vcvt⟩]

/-- Opcodes 0x30 to 0x43 of page 1 (R221). -/
def rows1c : List Row := [
  ⟨0x30, .xa .vld⟩,
  ⟨0x31, .xr .vst⟩,
  ⟨0x32, .xa .vlds⟩,
  ⟨0x33, .xr .vsts⟩,
  ⟨0x34, .xa .vgath⟩,
  ⟨0x35, .xr .vscat⟩,
  ⟨0x36, .xa .vrel⟩,
  ⟨0x38, .xa .mand⟩,
  ⟨0x39, .xa .mor⟩,
  ⟨0x3A, .xa .mnot⟩,
  ⟨0x3B, .xa .mpop⟩,
  ⟨0x3C, .xa .mfirst⟩,
  ⟨0x40, .xa .sbind⟩,
  ⟨0x41, .xa .sunb⟩,
  ⟨0x42, .xa .slead⟩,
  ⟨0x43, .xa .vrand⟩]

/-- Opcodes 0x50 to 0x56 of page 1 (R221). -/
def rows1d : List Row := [
  ⟨0x50, .xb .xbr⟩,
  ⟨0x51, .xa .xsel⟩,
  ⟨0x52, .xa .xrd⟩,
  ⟨0x53, .xa .xlead⟩,
  ⟨0x54, .xa .xunr⟩,
  ⟨0x55, .xa .xclr⟩,
  ⟨0x56, .xa .xflush⟩]

/-- The opcode map of page 1 (R221). -/
def rows1 : List Row := rows1a ++ rows1b ++ rows1c ++ rows1d

/-- Opcodes 0x00 to 0x14 of page 2 (R222). -/
def rows2a : List Row := [
  ⟨0x00, .xa .tcfg⟩,
  ⟨0x01, .xa .tzero⟩,
  ⟨0x02, .xa .tld⟩,
  ⟨0x03, .xa .tst⟩,
  ⟨0x04, .xa .mma⟩,
  ⟨0x05, .xa .mmax⟩,
  ⟨0x06, .xa .gset⟩,
  ⟨0x07, .xa .tsave⟩,
  ⟨0x08, .xa .trest⟩,
  ⟨0x09, .xa .mseq⟩,
  ⟨0x0A, .xa .swcfg⟩,
  ⟨0x10, .xa .cpy⟩,
  ⟨0x11, .xa .cpys⟩,
  ⟨0x12, .xa .cpyn⟩,
  ⟨0x13, .xa .waitc⟩,
  ⟨0x14, .xa .chst⟩]

/-- Opcodes 0x20 to 0x46 of page 2 (R222). -/
def rows2b : List Row := [
  ⟨0x20, .xa .spawn⟩,
  ⟨0x21, .xa .yieldc⟩,
  ⟨0x22, .xa .exit⟩,
  ⟨0x23, .xa .tailw⟩,
  ⟨0x24, .xa .send⟩,
  ⟨0x25, .xa .chan⟩,
  ⟨0x26, .xa .blk⟩,
  ⟨0x27, .xa .unblk⟩,
  ⟨0x28, .xa .govcfg⟩,
  ⟨0x40, .xa .idem⟩,
  ⟨0x41, .xa .trap⟩,
  ⟨0x42, .xa .rte⟩,
  ⟨0x43, .xa .csrr⟩,
  ⟨0x44, .xa .csrw⟩,
  ⟨0x45, .xa .csrs⟩,
  ⟨0x46, .xa .csrc⟩]

/-- Opcodes 0x47 to 0x4A of page 2 (R222). -/
def rows2c : List Row := [
  ⟨0x47, .xa .halt⟩,
  ⟨0x48, .xa .tlbi⟩,
  ⟨0x49, .xa .rqrd⟩,
  ⟨0x4A, .xa .rqgo⟩]

/-- The opcode map of page 2 (R222). -/
def rows2 : List Row := rows2a ++ rows2b ++ rows2c

/-- The row of a page and an opcode; none where the point is unassigned (R497). -/
def rowOf (page op : Nat) : Option Row :=
  (match page with
    | 0 => rows0
    | 1 => rows1
    | _ => rows2).find? (·.op == op)

/-- The index of the first element that satisfies p. -/
def firstIdx {α : Type} (p : α → Bool) (l : List α) : Option Nat :=
  match l with
  | [] => none
  | a :: r => if p a then some 0 else (firstIdx p r).map (· + 1)

/-- The checks that follow the chain, in their order (R214): the opcode, the accepted kinds, reserved values. -/
def finish (page op : Nat) (px : List Prefix) (w : Parcel) : Decoded :=
  match rowOf page op with
  | none => .trap causeIllop px.length
  | some r =>
    let i := r.form.make px w
    match firstIdx (fun k => !i.accepts.contains k) (kinds px) with
    | some n => .trap causeIllpfx n
    | none =>
      if i.needsPxr && !px.any Prefix.isPxr then .trap causeIllpfx px.length
      else match firstIdx (Prefix.reserved i.scalarFp) px with
        | some n => .trap causeIllfld n
        | none =>
          if 6 ≤ i.xrRm then .trap causeIllfld (px.length + 1)
          else .ok i (px.length + if page = 0 then 1 else 2)

/-- The last prefix of the chain is a PXI whose payload bits [8:7] are not both 0. -/
def badXsPayload (px : List Prefix) : Bool :=
  match px.getLast? with
  | some (.pxi i) => 128 ≤ i.toNat
  | _ => false

/-- One prefix parcel read after the chain px (R214): the prefix, or the trap it takes. The code is 0x78 to 0x7D but not
0x7B. -/
def prefixOf (px : List Prefix) (code : Nat) (z : BitVec 9) : Prefix ⊕ (Nat × Nat) :=
  match code with
  | 0x78 => if 3 ≤ px.countP Prefix.isPxi then .inr (causeIllpfx, px.length) else .inl (.pxi z)
  | 0x79 =>
    if px.any Prefix.isPxr then .inr (causeIllpfx, px.length)
    else .inl (.pxr (z.extractLsb' 5 4) (z.extractLsb' 3 2) (z.extractLsb' 0 3))
  | 0x7A =>
    if px.any Prefix.isPxm then .inr (causeIllpfx, px.length)
    else .inl (.pxm (z.extractLsb' 6 3) (z.extractLsb' 4 2) (z.extractLsb' 2 2) (z.extractLsb' 0 2))
  | 0x7C =>
    if px.any Prefix.isPxv then .inr (causeIllpfx, px.length)
    else .inl (.pxv (z.extractLsb' 6 3) (z.extractLsb' 5 1) (z.extractLsb' 1 4) (z.extractLsb' 0 1))
  | _ =>
    if px.any Prefix.isPxx then .inr (causeIllpfx, px.length)
    else if badXsPayload px then .inr (causeIllfld, px.length - 1) else .inl (.pxx z)

/-- Decoding after the chain px (R214). -/
def decodeFrom (px : List Prefix) : List Parcel → Decoded
  | [] => .more
  | p :: rest =>
    let code := (p.extractLsb' 9 7).toNat
    let z : BitVec 9 := p.extractLsb' 0 9
    if code < 0x78 then finish 0 code px p
    else if code = 0x7E ∨ code = 0x7F then .trap causeIllop px.length
    else if 4 ≤ px.length then .trap causeIllpfx px.length
    else if code = 0x7B then
      let page := (z.extractLsb' 7 2).toNat
      if page = 0 ∨ page = 3 then .trap causeIllfld px.length
      else match rest with
        | [] => .more
        | o :: _ => finish page (z.extractLsb' 0 7).toNat px o
    else match prefixOf px code z with
      | .inl q => decodeFrom (px ++ [q]) rest
      | .inr (c, n) => .trap c n

/-- Decoding of the parcels that stand at an instruction's address, in memory order (R214). -/
def decode (ps : List Parcel) : Decoded := decodeFrom [] ps

/-- The instruction that a list of parcels begins with, if it is one. -/
def decode? (ps : List Parcel) : Option Instr :=
  match decode ps with
  | .ok i _ => some i
  | _ => none

/-- The parcels of an instruction of nbits bits that the opcode table writes as the number w: it numbers a one-parcel
instruction's bits as R205 does, and of a two-parcel one it writes the first parcel, a prefix, in bits [31:16] (log 11). A number whose
bits [31:16] are no prefix (R207) has its first parcel in bits [15:0]. -/
def tableParcels (nbits w : Nat) : List Parcel :=
  let hi : Parcel := BitVec.ofNat 16 (w / 2 ^ 16)
  let lo : Parcel := BitVec.ofNat 16 w
  if nbits ≤ 16 then [lo] else if 0x78 ≤ hi.toNat / 2 ^ 9 then [hi, lo] else [lo, hi]

/-- The instruction that the decoder reads from a row of the opcode table. -/
def decodeTableWord (nbits w : Nat) : Option Instr := decode? (tableParcels nbits w)

/-! The encoder. -/

/-- The 9 bits of the fields in format RR (R205). -/
def RR.bits9 (x : RR) : BitVec 9 := x.d ++ x.s ++ x.f
/-- The 9 bits of the fields in format RI (R205). -/
def RI.bits9 (x : RI) : BitVec 9 := x.d ++ x.i
/-- The operand parcel in format XA (R206). -/
def XA.bits16 (x : XA) : Parcel := x.d ++ x.s ++ x.t ++ x.i
/-- The operand parcel in format XR (R206). -/
def XR.bits16 (x : XR) : Parcel := x.d ++ x.s ++ x.t ++ x.rm ++ x.ftz
/-- The operand parcel in format XB (R206). -/
def XB.bits16 (x : XB) : Parcel := x.d ++ x.o

/-- The parcel of a prefix (R207). -/
def Prefix.parcel : Prefix → Parcel
  | .pxi i => (0x78#7) ++ i
  | .pxr t rc sz => (0x79#7) ++ (t ++ rc ++ sz)
  | .pxm sc ord wt cp => (0x7A#7) ++ (sc ++ ord ++ wt ++ cp)
  | .pxv m mm et sat => (0x7C#7) ++ (m ++ mm ++ et ++ sat)
  | .pxx xs => (0x7D#7) ++ xs

/-- The parcels of a page-0 instruction (R204, R205). -/
def onPage0 (op : BitVec 7) (px : List Prefix) (w : BitVec 9) : List Parcel := px.map Prefix.parcel ++ [op ++ w]

/-- The parcels of an instruction of page 1 or 2 (R204, R206, R207). -/
def onPage (page : BitVec 2) (op : BitVec 7) (px : List Prefix) (w : Parcel) : List Parcel :=
  px.map Prefix.parcel ++ [(0x7B#7) ++ (page ++ op), w]

/-- The parcels of an instruction; an event has none (R205-R207, R220-R222). -/
def encode : Instr → List Parcel
  | .nop x => onPage0 0x00#7 x.px x.z
  | .add x => onPage0 0x01#7 x.px x.bits9
  | .addi x => onPage0 0x02#7 x.px x.bits9
  | .sub x => onPage0 0x03#7 x.px x.bits9
  | .mul x => onPage0 0x04#7 x.px x.bits9
  | .mulh x => onPage0 0x05#7 x.px x.bits9
  | .mulhn x => onPage0 0x06#7 x.px x.bits9
  | .div x => onPage0 0x07#7 x.px x.bits9
  | .divn x => onPage0 0x08#7 x.px x.bits9
  | .rem x => onPage0 0x09#7 x.px x.bits9
  | .remn x => onPage0 0x0A#7 x.px x.bits9
  | .and x => onPage0 0x0B#7 x.px x.bits9
  | .andi x => onPage0 0x0C#7 x.px x.bits9
  | .or x => onPage0 0x0D#7 x.px x.bits9
  | .ori x => onPage0 0x0E#7 x.px x.bits9
  | .xor x => onPage0 0x0F#7 x.px x.bits9
  | .xori x => onPage0 0x10#7 x.px x.bits9
  | .shl x => onPage0 0x11#7 x.px x.bits9
  | .shr x => onPage0 0x12#7 x.px x.bits9
  | .sar x => onPage0 0x13#7 x.px x.bits9
  | .shli x => onPage0 0x14#7 x.px x.bits9
  | .shri x => onPage0 0x15#7 x.px x.bits9
  | .sari x => onPage0 0x16#7 x.px x.bits9
  | .rol x => onPage0 0x17#7 x.px x.bits9
  | .ror x => onPage0 0x18#7 x.px x.bits9
  | .clz x => onPage0 0x19#7 x.px x.bits9
  | .ctz x => onPage0 0x1A#7 x.px x.bits9
  | .popc x => onPage0 0x1B#7 x.px x.bits9
  | .bswap x => onPage0 0x1C#7 x.px x.bits9
  | .sext x => onPage0 0x1D#7 x.px x.bits9
  | .zext x => onPage0 0x1E#7 x.px x.bits9
  | .min x => onPage0 0x1F#7 x.px x.bits9
  | .max x => onPage0 0x20#7 x.px x.bits9
  | .minn x => onPage0 0x21#7 x.px x.bits9
  | .maxn x => onPage0 0x22#7 x.px x.bits9
  | .abs x => onPage0 0x23#7 x.px x.bits9
  | .cmpeq x => onPage0 0x24#7 x.px x.bits9
  | .cmplt x => onPage0 0x25#7 x.px x.bits9
  | .cmpltn x => onPage0 0x26#7 x.px x.bits9
  | .sel x => onPage0 0x27#7 x.px x.bits9
  | .mov x => onPage0 0x28#7 x.px x.bits9
  | .movToLoop x => onPage0 0x28#7 x.px x.bits9
  | .movFromLoop x => onPage0 0x28#7 x.px x.bits9
  | .movToMask x => onPage0 0x28#7 x.px x.bits9
  | .movFromMask x => onPage0 0x28#7 x.px x.bits9
  | .movi x => onPage0 0x29#7 x.px x.bits9
  | .lea x => onPage0 0x2A#7 x.px x.bits9
  | .addpc x => onPage0 0x2B#7 x.px x.bits9
  | .bitx x => onPage0 0x2C#7 x.px x.bits9
  | .biti x => onPage0 0x2D#7 x.px x.bits9
  | .fadd x => onPage0 0x30#7 x.px x.bits9
  | .fsub x => onPage0 0x31#7 x.px x.bits9
  | .fmul x => onPage0 0x32#7 x.px x.bits9
  | .fma x => onPage0 0x33#7 x.px x.bits9
  | .fdiv x => onPage0 0x34#7 x.px x.bits9
  | .fsqrt x => onPage0 0x35#7 x.px x.bits9
  | .fmin x => onPage0 0x36#7 x.px x.bits9
  | .fmax x => onPage0 0x37#7 x.px x.bits9
  | .fcmp x => onPage0 0x38#7 x.px x.bits9
  | .fcvt x => onPage0 0x39#7 x.px x.bits9
  | .fclass x => onPage0 0x3A#7 x.px x.bits9
  | .br x => onPage0 0x40#7 x.px x.z
  | .beqz x => onPage0 0x41#7 x.px x.bits9
  | .bnez x => onPage0 0x42#7 x.px x.bits9
  | .bltz x => onPage0 0x43#7 x.px x.bits9
  | .bgez x => onPage0 0x44#7 x.px x.bits9
  | .beq x => onPage0 0x45#7 x.px x.bits9
  | .bne x => onPage0 0x46#7 x.px x.bits9
  | .blt x => onPage0 0x47#7 x.px x.bits9
  | .bltn x => onPage0 0x48#7 x.px x.bits9
  | .bge x => onPage0 0x49#7 x.px x.bits9
  | .bgen x => onPage0 0x4A#7 x.px x.bits9
  | .jmp x => onPage0 0x4B#7 x.px x.bits9
  | .call x => onPage0 0x4C#7 x.px x.z
  | .icall x => onPage0 0x4D#7 x.px x.bits9
  | .ret x => onPage0 0x4E#7 x.px x.z
  | .entry x => onPage0 0x4F#7 x.px x.z
  | .loops x => onPage0 0x50#7 x.px x.bits9
  | .loope x => onPage0 0x51#7 x.px x.z
  | .spillw x => onPage0 0x52#7 x.px x.z
  | .fillw x => onPage0 0x53#7 x.px x.z
  | .ld x => onPage0 0x58#7 x.px x.bits9
  | .ldx x => onPage0 0x59#7 x.px x.bits9
  | .st x => onPage0 0x5A#7 x.px x.bits9
  | .stx x => onPage0 0x5B#7 x.px x.bits9
  | .lda x => onPage0 0x5C#7 x.px x.bits9
  | .rel x => onPage0 0x5D#7 x.px x.z
  | .acq x => onPage0 0x5E#7 x.px x.bits9
  | .fence x => onPage0 0x5F#7 x.px x.z
  | .amo x => onPage0 0x60#7 x.px x.bits9
  | .amov x => onPage0 0x61#7 x.px x.bits9
  | .cas x => onPage0 0x62#7 x.px x.bits9
  | .cas16 x => onPage0 0x63#7 x.px x.bits9
  | .isync x => onPage0 0x64#7 x.px x.bits9
  | .put x => onPage0 0x65#7 x.px x.bits9
  | .waitm x => onPage0 0x66#7 x.px x.bits9
  | .wait x => onPage0 0x67#7 x.px x.z
  | .watch x => onPage0 0x68#7 x.px x.bits9
  | .sleep x => onPage0 0x69#7 x.px x.bits9
  | .mig x => onPage0 0x6A#7 x.px x.bits9
  | .barr x => onPage0 0x6B#7 x.px x.bits9
  | .bara x => onPage0 0x6C#7 x.px x.bits9
  | .bard x => onPage0 0x6D#7 x.px x.bits9
  | .barw x => onPage0 0x6E#7 x.px x.bits9
  | .bari x => onPage0 0x6F#7 x.px x.bits9
  | .futw x => onPage0 0x70#7 x.px x.bits9
  | .futs x => onPage0 0x71#7 x.px x.bits9
  | .futp x => onPage0 0x72#7 x.px x.bits9
  | .lock x => onPage0 0x73#7 x.px x.bits9
  | .unlock x => onPage0 0x74#7 x.px x.bits9
  | .qpush x => onPage0 0x75#7 x.px x.bits9
  | .qpop x => onPage0 0x76#7 x.px x.bits9
  | .vadd x => onPage 1#2 0x00#7 x.px x.bits16
  | .vsub x => onPage 1#2 0x01#7 x.px x.bits16
  | .vmul x => onPage 1#2 0x02#7 x.px x.bits16
  | .vfma x => onPage 1#2 0x03#7 x.px x.bits16
  | .vfms x => onPage 1#2 0x04#7 x.px x.bits16
  | .vmin x => onPage 1#2 0x05#7 x.px x.bits16
  | .vmax x => onPage 1#2 0x06#7 x.px x.bits16
  | .vabs x => onPage 1#2 0x07#7 x.px x.bits16
  | .vneg x => onPage 1#2 0x08#7 x.px x.bits16
  | .vdiv x => onPage 1#2 0x09#7 x.px x.bits16
  | .vsqrt x => onPage 1#2 0x0A#7 x.px x.bits16
  | .vrcp x => onPage 1#2 0x0B#7 x.px x.bits16
  | .vrsq x => onPage 1#2 0x0C#7 x.px x.bits16
  | .vexp2 x => onPage 1#2 0x0D#7 x.px x.bits16
  | .vlog2 x => onPage 1#2 0x0E#7 x.px x.bits16
  | .viadd x => onPage 1#2 0x10#7 x.px x.bits16
  | .visub x => onPage 1#2 0x11#7 x.px x.bits16
  | .vimul x => onPage 1#2 0x12#7 x.px x.bits16
  | .vand x => onPage 1#2 0x13#7 x.px x.bits16
  | .vor x => onPage 1#2 0x14#7 x.px x.bits16
  | .vxor x => onPage 1#2 0x15#7 x.px x.bits16
  | .vnot x => onPage 1#2 0x16#7 x.px x.bits16
  | .vshl x => onPage 1#2 0x17#7 x.px x.bits16
  | .vshr x => onPage 1#2 0x18#7 x.px x.bits16
  | .vsar x => onPage 1#2 0x19#7 x.px x.bits16
  | .vcmp x => onPage 1#2 0x20#7 x.px x.bits16
  | .vsel x => onPage 1#2 0x21#7 x.px x.bits16
  | .vsplat x => onPage 1#2 0x22#7 x.px x.bits16
  | .vperm x => onPage 1#2 0x23#7 x.px x.bits16
  | .vred x => onPage 1#2 0x24#7 x.px x.bits16
  | .vscan x => onPage 1#2 0x25#7 x.px x.bits16
  | .vcvt x => onPage 1#2 0x26#7 x.px x.bits16
  | .vld x => onPage 1#2 0x30#7 x.px x.bits16
  | .vst x => onPage 1#2 0x31#7 x.px x.bits16
  | .vlds x => onPage 1#2 0x32#7 x.px x.bits16
  | .vsts x => onPage 1#2 0x33#7 x.px x.bits16
  | .vgath x => onPage 1#2 0x34#7 x.px x.bits16
  | .vscat x => onPage 1#2 0x35#7 x.px x.bits16
  | .vrel x => onPage 1#2 0x36#7 x.px x.bits16
  | .mand x => onPage 1#2 0x38#7 x.px x.bits16
  | .mor x => onPage 1#2 0x39#7 x.px x.bits16
  | .mnot x => onPage 1#2 0x3A#7 x.px x.bits16
  | .mpop x => onPage 1#2 0x3B#7 x.px x.bits16
  | .mfirst x => onPage 1#2 0x3C#7 x.px x.bits16
  | .sbind x => onPage 1#2 0x40#7 x.px x.bits16
  | .sunb x => onPage 1#2 0x41#7 x.px x.bits16
  | .slead x => onPage 1#2 0x42#7 x.px x.bits16
  | .vrand x => onPage 1#2 0x43#7 x.px x.bits16
  | .xbr x => onPage 1#2 0x50#7 x.px x.bits16
  | .xsel x => onPage 1#2 0x51#7 x.px x.bits16
  | .xrd x => onPage 1#2 0x52#7 x.px x.bits16
  | .xlead x => onPage 1#2 0x53#7 x.px x.bits16
  | .xunr x => onPage 1#2 0x54#7 x.px x.bits16
  | .xclr x => onPage 1#2 0x55#7 x.px x.bits16
  | .xflush x => onPage 1#2 0x56#7 x.px x.bits16
  | .tcfg x => onPage 2#2 0x00#7 x.px x.bits16
  | .tzero x => onPage 2#2 0x01#7 x.px x.bits16
  | .tld x => onPage 2#2 0x02#7 x.px x.bits16
  | .tst x => onPage 2#2 0x03#7 x.px x.bits16
  | .mma x => onPage 2#2 0x04#7 x.px x.bits16
  | .mmax x => onPage 2#2 0x05#7 x.px x.bits16
  | .gset x => onPage 2#2 0x06#7 x.px x.bits16
  | .tsave x => onPage 2#2 0x07#7 x.px x.bits16
  | .trest x => onPage 2#2 0x08#7 x.px x.bits16
  | .mseq x => onPage 2#2 0x09#7 x.px x.bits16
  | .swcfg x => onPage 2#2 0x0A#7 x.px x.bits16
  | .cpy x => onPage 2#2 0x10#7 x.px x.bits16
  | .cpys x => onPage 2#2 0x11#7 x.px x.bits16
  | .cpyn x => onPage 2#2 0x12#7 x.px x.bits16
  | .waitc x => onPage 2#2 0x13#7 x.px x.bits16
  | .chst x => onPage 2#2 0x14#7 x.px x.bits16
  | .spawn x => onPage 2#2 0x20#7 x.px x.bits16
  | .yieldc x => onPage 2#2 0x21#7 x.px x.bits16
  | .exit x => onPage 2#2 0x22#7 x.px x.bits16
  | .tailw x => onPage 2#2 0x23#7 x.px x.bits16
  | .send x => onPage 2#2 0x24#7 x.px x.bits16
  | .chan x => onPage 2#2 0x25#7 x.px x.bits16
  | .blk x => onPage 2#2 0x26#7 x.px x.bits16
  | .unblk x => onPage 2#2 0x27#7 x.px x.bits16
  | .govcfg x => onPage 2#2 0x28#7 x.px x.bits16
  | .idem x => onPage 2#2 0x40#7 x.px x.bits16
  | .trap x => onPage 2#2 0x41#7 x.px x.bits16
  | .rte x => onPage 2#2 0x42#7 x.px x.bits16
  | .csrr x => onPage 2#2 0x43#7 x.px x.bits16
  | .csrw x => onPage 2#2 0x44#7 x.px x.bits16
  | .csrs x => onPage 2#2 0x45#7 x.px x.bits16
  | .csrc x => onPage 2#2 0x46#7 x.px x.bits16
  | .halt x => onPage 2#2 0x47#7 x.px x.bits16
  | .tlbi x => onPage 2#2 0x48#7 x.px x.bits16
  | .rqrd x => onPage 2#2 0x49#7 x.px x.bits16
  | .rqgo x => onPage 2#2 0x4A#7 x.px x.bits16
  | .dispatch _ | .frameArrival _ | .frameRefused _ | .departureResend _ _ | .evictWaiter _ _
    | .footprintLanded _ _ | .messageArrival _ | .continuationResume _ | .governorCheck _ | .preempt _ _
    | .releaseStamp _ | .beacon _ | .beaconReceipt _ _ | .pieceArrival _ | .pieceApply _ | .pieceAck _
    | .homeAccess _ | .loadReply _ | .remoteStoreArrival _ | .storeAck _ | .putLanding _ | .atomicExecute _
    | .clusterUnitWriteback _ _ | .walkComplete _ _ | .slotFill _ _ _ | .experienceAdd _ | .streamFetch _ _ _
    | .tongsTransfer _ _ | .copyComplete _ _ | .copyFault _ _ | .anvilCommandStart _ | .anvilCommandComplete _ _
    | .anvilFetchFault _ | .sequencerQueue _ | .anvilWatchdog _ | .barrierArrival _ _ _ _ | .sleepExpiry _ _
    | .quarantine _ _ | .detUpdateArrival _ | .exitCount _ _ | .phaseCommit _ | .homeCommitMerge _ _
    | .dramPatrol _ _ _ | .repairComplete _ _ _ _ _ | .bellowsInterval | .fdutyWrite _ _ | .levelRequest _ _
    | .voltageRampDone _ | .clockRestart _ | .logsizeWrite _ | .gatePrepare _ | .gateCommit _ | .gateWake _
    | .plimitWrite _ | .thermalTrip _ _ | .thermalRelease _ _ | .vrfail _ | .qtailDoorbell _ _ _
    | .commandAccept _ _ | .launch _ | .phaseDeclare _ | .phaseEnterDeterministic _ | .phaseAbort _ | .map _
    | .unmap _ | .loadbin _ | .signal _ | .suspend _ | .resume _ | .reset _ | .acceptWrite _
    | .reductionCtlWrite _ _ _ | .reductionContribute _ _ _ _ | .reductionGenClear _ _ _ | .hostMemoryAccess _ _
    | .uetReceive _ _ | .hostLoss | .ideFailure | .deviceReset | .boot _ _ | .spdmGetVersion | .spdmGetCapabilities
    | .spdmNegotiateAlgorithms | .spdmGetDigests | .spdmGetCertificate | .spdmChallenge _ | .spdmGetMeasurements
    | .spdmKeyExchange _ | .firmwareThreadStart _ _ _ | .bctlView _ _ | .bctlDone _ _ | .lsrepWrite _ _ _
    | .bootTimeout _ | .registerWrite _ _ | .podLinkFailure _ | .fabricError _ | .hostLinkReturn => []

end Sys2Proof
end

