-- ==== Sys2Proof/Machine/Operands.lean ====
section
/-! DEFINITION. Operands: the fields of an instruction, the registers that it reads and writes (R33), the privilege that it
needs (R500), and the scalar operand forms (R205, R212, R216, R226, R233, R260). -/

namespace Sys2Proof.Machine

/-- The decoded fields of an instruction; an event has none. -/
def fldOf : Instr → Fld
  | .nop x | .br x | .call x | .ret x | .entry x | .loope x | .spillw x | .fillw x => x.fld
  | .rel x | .fence x | .wait x => x.fld
  | .add x | .sub x | .mul x | .mulh x | .mulhn x | .div x | .divn x | .rem x => x.fld
  | .remn x | .and x | .or x | .xor x | .shl x | .shr x | .sar x | .rol x => x.fld
  | .ror x | .clz x | .ctz x | .popc x | .bswap x | .sext x | .zext x | .min x => x.fld
  | .max x | .minn x | .maxn x | .abs x | .cmpeq x | .cmplt x | .cmpltn x | .sel x => x.fld
  | .mov x | .movToLoop x | .movFromLoop x | .movToMask x | .movFromMask x | .lea x | .bitx x | .biti x => x.fld
  | .fadd x | .fsub x | .fmul x | .fma x | .fdiv x | .fsqrt x | .fmin x | .fmax x => x.fld
  | .fcmp x | .fcvt x | .fclass x | .beq x | .bne x | .blt x | .bltn x | .bge x => x.fld
  | .bgen x | .jmp x | .icall x | .ld x | .ldx x | .st x | .stx x | .acq x => x.fld
  | .amo x | .amov x | .cas x | .cas16 x | .isync x | .put x | .watch x | .mig x => x.fld
  | .futw x | .futs x | .futp x | .lock x | .unlock x | .qpush x | .qpop x => x.fld
  | .addi x | .andi x | .ori x | .xori x | .shli x | .shri x | .sari x | .movi x => x.fld
  | .addpc x | .beqz x | .bnez x | .bltz x | .bgez x | .loops x | .lda x | .waitm x => x.fld
  | .sleep x | .barr x | .bara x | .bard x | .barw x | .bari x => x.fld
  | .vadd x | .vsub x | .vmul x | .vfma x | .vfms x | .vmin x | .vmax x | .vdiv x => x.fld
  | .vsqrt x | .vexp2 x | .vlog2 x | .vred x | .vscan x | .vcvt x | .vst x | .vsts x => x.fld
  | .vscat x => x.fld
  | .vabs x | .vneg x | .vrcp x | .vrsq x | .viadd x | .visub x | .vimul x | .vand x => x.fld 1
  | .vor x | .vxor x | .vnot x | .vshl x | .vshr x | .vsar x | .vcmp x | .vsel x => x.fld 1
  | .vsplat x | .vperm x | .vld x | .vlds x | .vgath x | .vrel x | .mand x | .mor x => x.fld 1
  | .mnot x | .mpop x | .mfirst x | .sbind x | .sunb x | .slead x | .vrand x | .xsel x => x.fld 1
  | .xrd x | .xlead x | .xunr x | .xclr x | .xflush x => x.fld 1
  | .xbr x => x.fld
  | .tcfg x | .tzero x | .tld x | .tst x | .mma x | .mmax x | .gset x | .tsave x => x.fld 2
  | .trest x | .mseq x | .swcfg x | .cpy x | .cpys x | .cpyn x | .waitc x | .chst x => x.fld 2
  | .spawn x | .yieldc x | .exit x | .tailw x | .send x | .chan x | .blk x | .unblk x => x.fld 2
  | .govcfg x | .idem x | .trap x | .rte x | .csrr x | .csrw x | .csrs x | .csrc x => x.fld 2
  | .halt x | .tlbi x | .rqrd x | .rqgo x => x.fld 2
  | .dispatch _ | .frameArrival _ | .frameRefused _ | .departureResend _ _ | .evictWaiter _ _
    | .footprintLanded _ _ | .messageArrival _ | .continuationResume _ | .governorCheck _ | .preempt _ _
    | .releaseStamp _ | .beacon _ | .beaconReceipt _ _ | .pieceArrival _ | .pieceApply _ | .pieceAck _
    | .homeAccess _ | .loadReply _ | .remoteStoreArrival _ | .storeAck _ | .putLanding _ | .atomicExecute _
    | .clusterUnitWriteback _ _ | .walkComplete _ _ | .slotFill _ _ _ | .experienceAdd _ | .streamFetch _ _ _
    | .tongsTransfer _ _ | .copyComplete _ _ | .copyFault _ _ | .anvilCommandStart _ | .anvilCommandComplete _ _
    | .anvilFetchFault _ | .sequencerQueue _ | .anvilWatchdog _ | .barrierArrival _ _ _ _ | .sleepExpiry _ _
    | .quarantine _ _ | .detUpdateArrival _ | .exitCount _ _ | .phaseCommit _ | .homeCommitMerge _ _
    | .dramPatrol _ _ _ | .repairComplete _ _ _ _ _ | .bellowsInterval | .fdutyWrite _ _ | .levelRequest _ _
    | .voltageRampDone _ | .clockRestart _ | .logsizeWrite _ | .gatePrepare _ | .gateCommit _ | .gateWake _
    | .plimitWrite _ | .thermalTrip _ _ | .thermalRelease _ _ | .vrfail _ | .qtailDoorbell _ _ _
    | .commandAccept _ _ | .launch _ | .phaseDeclare _ | .phaseEnterDeterministic _ | .phaseAbort _ | .map _
    | .unmap _ | .loadbin _ | .signal _ | .suspend _ | .resume _ | .reset _ | .acceptWrite _
    | .reductionCtlWrite _ _ _ | .reductionContribute _ _ _ _ | .reductionGenClear _ _ _ | .hostMemoryAccess _ _
    | .uetReceive _ _ | .hostLoss | .ideFailure | .deviceReset | .boot _ _ | .spdmGetVersion | .spdmGetCapabilities
    | .spdmNegotiateAlgorithms | .spdmGetDigests | .spdmGetCertificate | .spdmChallenge _ | .spdmGetMeasurements
    | .spdmKeyExchange _ | .firmwareThreadStart _ _ _ | .bctlView _ _ | .bctlDone _ _ | .lsrepWrite _ _ _
    | .bootTimeout _ | .registerWrite _ _ | .podLinkFailure _ | .fabricError _
    | .hostLinkReturn => { page := 0, px := [] }

/-- Scalar and vector registers read and written. -/
structure Use where
  rw : List Nat
  ww : List Nat
  rv : List Nat
  wv : List Nat
  deriving DecidableEq, Repr

/-- The sources of the two- and three-operand forms (R212, R235). -/
def twoSrc (f : Fld) : List Nat := if f.pxr then [f.s, f.t] else [f.d, f.s]

/-- The registers that an instruction with fields f reads and writes, by its description. -/
def useOf (i : Instr) (f : Fld) : Use :=
  match i with
  | .nop _ | .br _ | .loope _ | .spillw _ | .fillw _ | .rel _ | .fence _ => ⟨[], [], [], []⟩
  | .waitm _ | .wait _ | .sleep _ | .vrel _ | .mand _ | .mor _ | .mnot _ | .sunb _ => ⟨[], [], [], []⟩
  | .slead _ | .xbr _ | .xlead _ | .xclr _ | .xflush _ | .tzero _ | .waitc _ | .idem _ => ⟨[], [], [], []⟩
  | .trap _ | .rte _ | .halt _ | .rqgo _ => ⟨[], [], [], []⟩
  | .add _ | .sub _ | .mul _ | .mulh _ | .mulhn _ | .div _ | .divn _ | .rem _ => ⟨twoSrc f, [f.d], [], []⟩
  | .remn _ | .and _ | .or _ | .xor _ | .shl _ | .shr _ | .sar _ | .rol _ => ⟨twoSrc f, [f.d], [], []⟩
  | .ror _ | .min _ | .max _ | .minn _ | .maxn _ | .cmpeq _ | .cmplt _ | .cmpltn _ => ⟨twoSrc f, [f.d], [], []⟩
  | .fadd _ | .fsub _ | .fmul _ | .fdiv _ | .fmin _ | .fmax _ | .fcmp _ => ⟨twoSrc f, [f.d], [], []⟩
  | .addi _ | .andi _ | .ori _ | .xori _ | .shli _ | .shri _
    | .sari _ => ⟨[if f.pxr then f.t else f.d], [f.d], [], []⟩
  | .clz _ | .ctz _ | .popc _ | .bswap _ | .sext _ | .zext _ | .abs _ | .mov _ => ⟨[f.s], [f.d], [], []⟩
  | .bitx _ | .fsqrt _ | .fcvt _ | .fclass _ => ⟨[f.s], [f.d], [], []⟩
  | .sel _ | .fma _ | .cas _ => ⟨[f.d] ++ [f.s] ++ [f.t], [f.d], [], []⟩
  | .movToLoop _ | .movToMask _ | .jmp _ | .acq _ | .mig _ | .lock _ | .unlock _ => ⟨[f.s], [], [], []⟩
  | .sbind _ | .tcfg _ | .mma _ | .mmax _ | .gset _ | .tsave _ | .mseq _ | .swcfg _ => ⟨[f.s], [], [], []⟩
  | .cpys _ | .govcfg _ | .csrw _ | .csrs _ | .csrc _ => ⟨[f.s], [], [], []⟩
  | .movFromLoop _ | .movFromMask _ | .movi _ | .addpc _ | .lda _ | .barr _ | .bara _ | .bard _ => ⟨[], [f.d], [], []⟩
  | .mpop _ | .mfirst _ | .xrd _ | .xunr _ | .chst _ | .csrr _ | .rqrd _ => ⟨[], [f.d], [], []⟩
  | .lea _ | .ld _ => ⟨[f.s] ++ (if f.pxr then [f.t] else []), [f.d], [], []⟩
  | .biti _ | .amov _ => ⟨[f.d] ++ [f.s], [f.d], [], []⟩
  | .beqz _ | .bnez _ | .bltz _ | .bgez _ | .bari _ | .exit _ | .blk _ | .unblk _ => ⟨[f.d], [], [], []⟩
  | .beq _ | .bne _ | .blt _ | .bltn _ | .bge _ | .bgen _ | .amo _ => ⟨[f.d] ++ [f.s], [], [], []⟩
  | .put _ | .watch _ | .futs _ | .futp _ | .tailw _ | .send _ | .chan _ => ⟨[f.d] ++ [f.s], [], [], []⟩
  | .call _ => ⟨[], [15], [], []⟩
  | .icall _ => ⟨[f.s], [15], [], []⟩
  | .isync _ => ⟨if f.f = 1 then [] else [f.d] ++ [f.s], [], [], []⟩
  | .ret _ => ⟨[7], [], [], []⟩
  | .entry _ => ⟨[6], [14], [], []⟩
  | .loops _ | .barw _ => ⟨[f.d], [f.d], [], []⟩
  | .ldx _ => ⟨[f.s] ++ (if f.pxr then [f.t] else []), [f.d] ++ [f.s], [], []⟩
  | .st _ => ⟨[f.d] ++ [f.s] ++ (if f.pxr then [f.t] else []), [], [], []⟩
  | .stx _ => ⟨[f.d] ++ [f.s] ++ (if f.pxr then [f.t] else []), [f.s], [], []⟩
  | .cas16 _ => ⟨[f.d, f.d + 1, f.s, f.t, f.t + 1], [f.d, f.d + 1], [], []⟩
  | .futw _ | .qpop _ => ⟨[f.s], [f.d] ++ (if f.pxr then [f.t] else []), [], []⟩
  | .qpush _ => ⟨[f.s] ++ (if f.f = 0 then [f.d] else []), (if f.f = 1 then [f.d] else []), [], []⟩
  | .vadd _ | .vsub _ | .vmul _ | .vmin _ | .vmax _ | .vdiv _ | .viadd _
    | .visub _ => ⟨(if f.rc = 0 then [f.t] else []), [], [f.s] ++ (if f.rc = 0 then [] else [f.t]), [f.d]⟩
  | .vimul _ | .vand _ | .vor _ | .vxor _ | .vshl _ | .vshr _
    | .vsar _ => ⟨(if f.rc = 0 then [f.t] else []), [], [f.s] ++ (if f.rc = 0 then [] else [f.t]), [f.d]⟩
  | .vfma _
    | .vfms _ => ⟨(if f.rc = 0 then [f.t] else []), [], [f.d] ++ [f.s] ++ (if f.rc = 0 then [] else [f.t]), [f.d]⟩
  | .vabs _ | .vneg _ | .vsqrt _ | .vrcp _ | .vrsq _ | .vexp2 _ | .vlog2 _ | .vnot _ => ⟨[], [], [f.s], [f.d]⟩
  | .vscan _ | .vcvt _ => ⟨[], [], [f.s], [f.d]⟩
  | .vcmp _ => ⟨(if f.rc = 0 then [f.t] else []), [], [f.s] ++ (if f.rc = 0 then [] else [f.t]), []⟩
  | .vsel _ | .vperm _ => ⟨[], [], [f.s] ++ [f.t], [f.d]⟩
  | .vsplat _ | .vld _ => ⟨[f.s], [], [], [f.d]⟩
  | .vred _ => ⟨[], [f.d], [f.s], []⟩
  | .vst _ => ⟨[f.s], [], [f.d], []⟩
  | .vlds _ => ⟨[f.s] ++ [f.t], [], [], [f.d]⟩
  | .vsts _ => ⟨[f.s] ++ [f.t], [], [f.d], []⟩
  | .vgath _ => ⟨[f.s], [], [f.t], [f.d]⟩
  | .vscat _ => ⟨[f.s], [], [f.t] ++ [f.d], []⟩
  | .vrand _ => ⟨[], [], [], [f.d]⟩
  | .xsel _ | .spawn _ => ⟨[f.s] ++ [f.t], [f.d], [], []⟩
  | .tld _ | .tst _ | .trest _ | .tlbi _ => ⟨[f.s] ++ [f.t], [], [], []⟩
  | .cpy _ | .cpyn _ | .yieldc _ => ⟨[f.d] ++ [f.s] ++ [f.t], [], [], []⟩
  | .dispatch _ | .frameArrival _ | .frameRefused _ | .departureResend _ _ | .evictWaiter _ _
    | .footprintLanded _ _ | .messageArrival _ | .continuationResume _ | .governorCheck _ | .preempt _ _
    | .releaseStamp _ | .beacon _ | .beaconReceipt _ _ | .pieceArrival _ | .pieceApply _ | .pieceAck _
    | .homeAccess _ | .loadReply _ | .remoteStoreArrival _ | .storeAck _ | .putLanding _ | .atomicExecute _
    | .clusterUnitWriteback _ _ | .walkComplete _ _ | .slotFill _ _ _ | .experienceAdd _ | .streamFetch _ _ _
    | .tongsTransfer _ _ | .copyComplete _ _ | .copyFault _ _ | .anvilCommandStart _ | .anvilCommandComplete _ _
    | .anvilFetchFault _ | .sequencerQueue _ | .anvilWatchdog _ | .barrierArrival _ _ _ _ | .sleepExpiry _ _
    | .quarantine _ _ | .detUpdateArrival _ | .exitCount _ _ | .phaseCommit _ | .homeCommitMerge _ _
    | .dramPatrol _ _ _ | .repairComplete _ _ _ _ _ | .bellowsInterval | .fdutyWrite _ _ | .levelRequest _ _
    | .voltageRampDone _ | .clockRestart _ | .logsizeWrite _ | .gatePrepare _ | .gateCommit _ | .gateWake _
    | .plimitWrite _ | .thermalTrip _ _ | .thermalRelease _ _ | .vrfail _ | .qtailDoorbell _ _ _
    | .commandAccept _ _ | .launch _ | .phaseDeclare _ | .phaseEnterDeterministic _ | .phaseAbort _ | .map _
    | .unmap _ | .loadbin _ | .signal _ | .suspend _ | .resume _ | .reset _ | .acceptWrite _
    | .reductionCtlWrite _ _ _ | .reductionContribute _ _ _ _ | .reductionGenClear _ _ _ | .hostMemoryAccess _ _
    | .uetReceive _ _ | .hostLoss | .ideFailure | .deviceReset | .boot _ _ | .spdmGetVersion | .spdmGetCapabilities
    | .spdmNegotiateAlgorithms | .spdmGetDigests | .spdmGetCertificate | .spdmChallenge _ | .spdmGetMeasurements
    | .spdmKeyExchange _ | .firmwareThreadStart _ _ _ | .bctlView _ _ | .bctlDone _ _ | .lsrepWrite _ _ _
    | .bootTimeout _ | .registerWrite _ _ | .podLinkFailure _ | .fabricError _ | .hostLinkReturn => ⟨[], [], [], []⟩

/-- The least privilege level that may run an instruction (R500): 0 U, 1 S, 2 F. -/
def minPriv : Instr → Nat
  | .spillw _ | .fillw _ | .bari _ | .chan _ | .govcfg _ | .rte _ | .rqrd _ | .rqgo _ | .tlbi _ => 1
  | .halt _ => 2
  | _ => 0

/-- The two sources of the two- and three-operand forms (R212). -/
def srcA (f : Fld) (t : Slot) : Word := if f.pxr then t.w f.s else t.w f.d
/-- The second source. -/
def srcB (f : Fld) (t : Slot) : Word := if f.pxr then t.w f.t else t.w f.s
/-- The source of the RI forms (R240). -/
def srcI (f : Fld) (t : Slot) : Word := if f.pxr then t.w f.t else t.w f.d

/-- The size in bytes of an sz value (R209). -/
def szBytes (sz : Nat) : Nat :=
  match sz with
  | 0 | 4 => 1
  | 1 | 5 => 2
  | 2 | 6 => 4
  | _ => 8
/-- log2 of the size. -/
def szLog (sz : Nat) : Nat :=
  match sz with
  | 0 | 4 => 0
  | 1 | 5 => 1
  | 2 | 6 => 2
  | _ => 3
/-- A loaded value extended by sz (R209, R267). -/
def extend (sz v : Nat) : Word :=
  let n := 8 * szBytes sz
  if 4 ≤ sz then wordI (signed n (v % 2 ^ n)) else word (v % 2 ^ n)
/-- The low 32 bits sign-extended (R233). -/
def sext32 (w : Word) : Word := (w.setWidth 32).signExtend 64
/-- The index of a memory operand form: W[t], scaled with f = 1 (R226, R260). -/
def index (f : Fld) (t : Slot) : Word :=
  if f.pxr then (if f.f = 1 then t.w f.t <<< szLog f.sz else t.w f.t) else 0
/-- The effective address of LD and ST (R260) and the value of LEA (R241). -/
def effAddr (f : Fld) (t : Slot) : Word := t.w f.s + index f t + wordI f.immS

end Sys2Proof.Machine
end

