-- ==== Sys2Proof/Machine/Experience.lean ====
section
/-! DEFINITION. The experience section: slots, the updates that sites make, the slot cache and the adds that it sends to the
homes (R188-R201). -/

namespace Sys2Proof.Machine

/-- Write the bits [hi : lo] of a word. -/
def setField (w : Word) (hi lo v : Nat) : Word :=
  word (w.toNat - w.bits hi lo * 2 ^ lo + v % 2 ^ (hi + 1 - lo) * 2 ^ lo)

/-- The largest count of a kind (R197). -/
def countMax (kind : Nat) : Nat := if kind = 3 then 65535 else 2 ^ 24 - 1
/-- The first count of a slot: taken, acc or exec (R191). -/
def slotC1 (kind : Nat) (w : Word) : Nat := if kind = 3 then w.bits 63 48 else w.bits 63 40
/-- The second count: ntaken or lwait; a loop slot has none. -/
def slotC2 (kind : Nat) (w : Word) : Nat := if kind = 3 then 0 else w.bits 39 16
/-- Write both counts. -/
def setCounts (kind : Nat) (w : Word) (c1 c2 : Nat) : Word :=
  if kind = 3 then setField w 63 48 c1 else setField (setField w 63 40 c1) 39 16 c2
/-- Halve both counts until the increments fit (R193, R197): the counts, and whether they were halved. -/
def ageCounts (m d1 d2 : Nat) : Nat → Nat × Nat × Bool → Nat × Nat × Bool
  | 0, r => r
  | n + 1, (c1, c2, aged) =>
    if m < c1 + d1 ∨ m < c2 + d2 then ageCounts m d1 d2 n (c1 / 2, c2 / 2, true) else (c1, c2, aged)

/-- ExpAdd (R197). -/
def expAdd (w : Word) (d : XAdd) : Word :=
  if w.bits 3 3 = 1 ∨ d.frozen then w
  else
    let w := if w.bits 7 4 = 0 then setField (setField w 63 8 0) 7 4 d.kind else w
    if w.bits 7 4 ≠ d.kind then w
    else
      let (c1, c2, aged) := ageCounts (countMax d.kind) d.c1 d.c2 25 (slotC1 d.kind w, slotC2 d.kind w, false)
      let w := if aged then setField w 2 2 1 else w
      let w := setCounts d.kind w (c1 + d.c1) (c2 + d.c2)
      match d.kind with
      | 1 => setField w 15 8 (w.bits 15 8 * 2 ^ min d.k 8 + d.hist)
      | 2 => match d.lead with
        | some l => setField w 15 8 l
        | none => w
      | _ =>
        if d.kind = 3 ∧ d.c1 ≠ 0 then
          setField (setField (setField (setField w 47 32 d.last) 15 12 d.run) 10 8 d.res8) 31 16 (max (w.bits 31 16) d.maxt)
        else w
/-- XCLR at the home (R334): every field but kind, frz and sw becomes 0. -/
def expClear (w : Word) (frozen : Bool) : Word :=
  if w.bits 3 3 = 1 ∨ frozen then w else w &&& 0xFB

/-- The non-count fields of a loop slot: last, maxt, run, res8, and whether exec is nonzero. -/
structure LoopView where
  last : Nat
  maxt : Nat
  run : Nat
  res8 : Nat
  any : Bool
  deriving DecidableEq, Repr

/-- LoopUpdate but for exec (R194). -/
def loopUpdate (v : LoopView) (n : Nat) : LoopView :=
  let t := min n 65535
  { last := t, maxt := max v.maxt t, run := if t % 8 = v.res8 ∧ v.any then min (v.run + 1) 15 else 0, res8 := t % 8,
    any := true }
/-- The loop fields that a slot holds; a slot of another kind is empty. -/
def loopView (w : Word) : LoopView :=
  if w.bits 7 4 = 3 then ⟨w.bits 47 32, w.bits 31 16, w.bits 15 12, w.bits 10 8, w.bits 63 48 != 0⟩
  else ⟨0, 0, 0, 0, false⟩

/-- The deltas of an entry as an add (R195, R197). -/
def XEntry.toAdd (e : XEntry) (id pa core : Nat) (frozen : Bool) : XAdd :=
  let v := e.trips.foldl loopUpdate (loopView (e.base.getD 0))
  { id := id, hearth := e.hearth, idx := e.idx, pa := pa, core := core, task := e.task, clear := false, kind := e.kind,
    c1 := e.c1, c2 := e.c2, k := e.k, hist := e.hist, lead := e.lead, last := v.last, maxt := v.maxt, run := v.run,
    res8 := v.res8, frozen := frozen }
/-- The entry holds deltas. -/
def XEntry.dirty (e : XEntry) : Bool := e.kind != 0
/-- The core's view of a slot (R196). -/
def XEntry.view (e : XEntry) : Word :=
  let b := e.base.getD 0
  if e.dirty then expAdd b (e.toAdd 0 0 0 false) else b
/-- An entry without deltas, on a base. -/
def XEntry.clean (e : XEntry) (base : Option Word) : XEntry :=
  { hearth := e.hearth, idx := e.idx, task := e.task, base := base, kind := 0 }

/-- The VA of a slot (R189). -/
def slotVA (q : Hearth) (idx : Nat) : Word := va57 (q.xbase.bits 56 12 * 4096 + 8 * idx)
/-- The value of a slot at the start of its hearth's phase is kept when something that the phase does not defer changes it (R161, R201). -/
def State.snapSlot (s : State) (h pa : Nat) : State :=
  let d := (s.hearth h).det
  if d.on && d.current.isSome && (get? d.snap (pa / 8)).isNone then
    s.modHearth h fun q => { q with det := { q.det with snap := put q.det.snap (pa / 8) (s.memW pa) } }
  else s
/-- The index is in range (R188). -/
def slotInRange (q : Hearth) (idx : Nat) : Bool := q.xbase.bits 4 0 ≤ 16 && idx < 2 ^ q.xbase.bits 4 0
/-- The PA and the xa field of a slot's page, for an access of a core at a privilege level (R109, R112). -/
def State.slotPlace (s : State) (c h priv idx : Nat) : Option (Nat × Nat) :=
  let va := slotVA (s.hearth h) idx
  match s.leafFor c h va with
  | .leaf e =>
    match finishTr e (va.toNat % 2 ^ 57) priv .read with
    | .ok pa a => if a.xa = 1 ∨ a.xa = 2 then some (pa, a.xa) else none
    | _ => none
  | _ => none

/-- The entry is that of a slot, and in deterministic mode of a task (R195, R201). -/
def XEntry.is (e : XEntry) (h idx : Nat) (task : Option Word) : Bool := e.hearth == h && e.idx == idx && e.task == task
/-- The place of an entry's slot, if its updates may be made there (R193). -/
def State.entryPlace (s : State) (c : Nat) (e : XEntry) : Option (Nat × Nat) := s.slotPlace c e.hearth (e.chk.getD 1) e.idx
/-- Send an entry's deltas to its home (R197). A translation that faults drops them (R195). -/
def State.sendEntry (s : State) (c : Nat) (e : XEntry) : State × XEntry :=
  if !e.dirty then (s, e)
  else
    match s.entryPlace c e with
    | none => (s, e.clean e.base)
    | some (pa, xa) =>
      let (id, s) := s.fresh
      let d := e.toAdd id pa c (xa == 2)
      ({ s with xadds := s.xadds ++ [d] }, e.clean (if e.task.isSome then e.base else e.base.map (expAdd · d)))
/-- The oldest entries beyond 256 leave the cache, and send their deltas (R195, R197). -/
def State.evictEntries (s : State) (c : Nat) : State :=
  let l := (s.core c).xcache
  let s := (l.drop 256).foldl (fun s e => (s.sendEntry c e).1) s
  s.modCore c fun k => { k with xcache := k.xcache.take 256 }
/-- Write an entry of a core's slot cache. -/
def State.putEntry (s : State) (c : Nat) (e : XEntry) : State :=
  (s.modCore c fun k => { k with xcache := e :: k.xcache.filter (fun x => !x.is e.hearth e.idx e.task) }).evictEntries c
/-- The entry of a slot, or a new one whose base has not arrived. -/
def State.entryOf (s : State) (c h idx : Nat) (task : Option Word) : XEntry :=
  ((s.core c).xcache.find? (·.is h idx task)).getD { hearth := h, idx := idx, task := task, base := none, kind := 0 }

/-- Make an update of a kind in an entry, unless the slot refuses it (R193); a count at its largest is sent at once (R197). Deltas of
another kind, made before the base arrived, are sent first: the home decides which kind the slot has. -/
def State.updateEntry (s : State) (c : Nat) (e : XEntry) (kind : Nat) (f : XEntry → XEntry) : State :=
  let v := e.view
  if e.base.isSome && (v.bits 3 3 = 1 || (v.bits 7 4 != 0 && v.bits 7 4 != kind)) then s
  else
    let (s, e) := if e.kind != 0 && e.kind != kind then s.sendEntry c e else (s, e)
    let e := f { e with kind := kind }
    if countMax kind ≤ e.c1 ∨ countMax kind ≤ e.c2 then
      let (s, e) := s.sendEntry c e
      s.putEntry c e
    else s.putEntry c e
/-- The task that an entry belongs to (R201). -/
def Slot.xtask (t : Slot) : Option Word := if t.st.det then some t.taskid else none
/-- An update of a slot by the executing thread (R192, R193): it neither faults nor waits. -/
def State.siteUpdate (s : State) (xs kind : Nat) (f : XEntry → XEntry) : State :=
  let t := s.cur
  let h := t.st.hearth
  if !slotInRange (s.hearth h) xs then s
  else
    match s.translateCur (slotVA (s.hearth h) xs) .read with
    | (.fault _, s') => s'
    | (.wait, s') => s'.updateEntry s.curCore (s'.entryOf s.curCore h xs t.xtask) kind fun e =>
        { f e with chk := some (min (e.chk.getD 3) t.st.priv) }
    | (.ok _ a, s') => if a.xa = 1 then s'.updateEntry s.curCore (s'.entryOf s.curCore h xs t.xtask) kind f else s'

/-- BranchUpdate (R192). -/
def State.branchUpdate (s : State) (xs : Nat) (taken : Bool) : State :=
  s.siteUpdate xs 1 fun e =>
    { e with c1 := e.c1 + (if taken then 1 else 0), c2 := e.c2 + (if taken then 0 else 1),
             hist := (2 * e.hist + if taken then 1 else 0) % 256, k := min (e.k + 1) 8 }
/-- The update of a loop that ends with a trip count (R192, R194). -/
def State.loopEnd (s : State) (xs n : Nat) : State :=
  s.siteUpdate xs 3 fun e => { e with c1 := e.c1 + 1, trips := e.trips ++ [n] }
/-- The update of a load when it commits (R192). -/
def State.loadUpdate (s : State) (xs : Nat) : State := s.siteUpdate xs 2 fun e => { e with c1 := e.c1 + 1 }
/-- A load's destination was pending for 64 core cycles (R192), for a slot of a core, at the privilege of the load. -/
def State.loadWaited (s : State) (c n priv xs : Nat) : State :=
  let t := s.slot c n
  if !slotInRange (s.hearth t.st.hearth) xs then s
  else
    match s.slotPlace c t.st.hearth priv xs with
    | some (_, 1) => s.updateEntry c (s.entryOf c t.st.hearth xs t.xtask) 2 fun e => { e with c2 := e.c2 + 1 }
    | _ => s

/-- Send the deltas of the entries of a core that satisfy p, and keep or drop them. -/
def State.sendEntries (s : State) (c : Nat) (p : XEntry → Bool) (keep : Bool) : State :=
  (s.core c).xcache.foldr (fun e s =>
    if p e then
      let (s, e') := s.sendEntry c e
      s.modCore c fun k => { k with xcache := if keep then k.xcache.map (fun x => if x == e then e' else x) else k.xcache.erase e }
    else s) s
/-- The adds of a deterministic task leave its core, at its end and when it leaves the core (R201; log 122). -/
def State.sendTask (s : State) (c n : Nat) : State :=
  let t := s.slot c n
  if t.st.det then s.sendEntries c (fun e => e.hearth == t.st.hearth && e.task == some t.taskid) false else s
/-- The entries of a phase's tasks end with it: their bases are those of its start (R201). -/
def State.dropPhaseEntries (s : State) (h p : Nat) : State :=
  let gone (e : XEntry) : Bool := e.hearth == h && match e.task with
    | some t => t.bits 63 48 == p
    | none => false
  { s with cores := s.cores.map fun k => if k.2.xcache.any gone then (k.1, { k.2 with xcache := k.2.xcache.filter fun e => !gone e }) else k }
/-- The entries of a hearth leave every core's slot cache: their deltas go to the section that they were made for (R188, R197). -/
def State.flushSection (s : State) (h : Nat) : State :=
  (s.coreIds).foldl (fun s c => if (s.core c).xcache.any (·.hearth == h) then s.sendEntries c (·.hearth == h) false else s) s

end Sys2Proof.Machine
end

