-- ==== Sys2Proof/Machine/Flags.lean ====
section
/-! DEFINITION. The checks of an instruction in the order of R453: privilege, deferred faults and poison of its sources (R454,
R487), and its own limits (R499). Draim keeps no condition flags (R232). -/

namespace Sys2Proof.Machine

/-! ## Deferred faults and poison -/

/-- The earliest issued of the deferred faults that satisfy p, which is taken first (R454). -/
def Slot.firstFault (t : Slot) (p : Deferred → Bool) : Option Deferred := leastBy (·.issued) (t.deferred.filter p)
/-- The deferred fault that a wait with these limits names first (R454, R475). -/
def namedFault (t : Slot) (l st cp tl : Nat) : Option Deferred :=
  t.firstFault fun d =>
    match d.count with
    | 0 => l < t.loads
    | 1 => st < t.stores
    | 2 => cp < t.copies
    | _ => tl < t.tiles

/-- A mark is one that a load's deferred fault left (R454). -/
def Mark.of (m : Mark) (d : Deferred) : Bool := m.issued == d.issued && m.addr == d.addr && m.cause == d.cause
/-- A deferred fault leaves its list, its mark and its count when its trap is taken (R153, R454); a held copy stays (R518). -/
def takeDeferred (t : Slot) (d : Deferred) : Slot :=
  if d.held then t
  else
    let t := { t with deferred := t.deferred.erase d }
    match d.count with
    | 0 => { t with loads := t.loads - 1, markW := t.markW.filter (fun m => !m.of d), markV := t.markV.filter (fun m => !m.of d) }
    | 1 => { t with stores := t.stores - 1 }
    | 2 => { t with copies := t.copies - 1 }
    | _ => { t with tiles := t.tiles - 1 }

/-- What a region restart keeps of a thread (R462): its pending loads and replay queue go, the spark counter and PC return to
the region's entry. -/
def regionSlot (t : Slot) : Slot :=
  { t with
    restarts := t.restarts + 1
    loads := 0
    pendW := []
    pendV := []
    markW := []
    markV := []
    deferred := t.deferred.filter (·.count != 0)
    replay := []
    replayPend := false
    ctr := t.idemctr
    pc := t.idempc
    wait := .none }

/-- The load slots of a thread's loads that have been pending for 64 core cycles: load, privilege and slot (R192). -/
def State.pendingSites (s : State) (c n : Nat) : List (Nat × Nat × Nat) :=
  let cycle := (s.core c).cycle.toNat
  let rs := (s.reqs ++ s.replies.map (·.req)).filter fun (r : Req) => r.core == c && r.slot == n && r.dst != Dest.none && r.issued + 64 ≤ cycle
  let parked := (s.slot c n).replay.filter fun r => (r.kind == 0 || r.kind == 2) && r.issued + 64 ≤ cycle
  ((rs.filterMap fun r => r.xs.map fun x => (r.group, r.priv, x)) ++
    parked.filterMap fun r => r.xs.map fun x => (r.group, (s.slot c n).st.priv, x)).dedup
/-- The loads that a restart discards have had their destinations pending (R192, R462): each counts once. -/
def State.discardedWaits (s : State) (c n : Nat) : State :=
  ((s.pendingSites c n).foldl (fun (p : State × List Nat) x =>
    if p.2.contains x.1 then p else (p.1.loadWaited c n x.2.1 x.2.2, x.1 :: p.2)) (s, [])).1
/-- RegionRestart (R462), for the executing thread, a cause and its address. -/
def State.restartRegion (s : State) (cause : Nat) (addr : Word) : State :=
  let c := s.curCore
  let n := s.curSlot
  let t := s.cur
  if t.restarts = 2 then s.clearIdv.trap { cause := 0x47, cls := 4, addr := addr }
  else
    let s := (s.report { s.threadRecord c n cause 3 with addr := addr }).discardedWaits c n
    let s := s.modCore c fun k =>
      { k with log := { k.log with openEntries := k.log.openEntries.filter fun e =>
          !(e.own && e.slot == n && t.idemlog.toNat ≤ e.pos) } }
    let s := { s with
      reqs := s.reqs.filter (fun r => !(r.core == c && r.slot == n && r.dst != Dest.none))
      replies := s.replies.filter (fun r => !(r.req.core == c && r.req.slot == n && r.req.dst != Dest.none)) }
    s.modCur regionSlot
/-- RegionRestart for poison that the executing thread consumes. -/
def State.regionRestart (s : State) (addr : Word) : State := s.restartRegion 0x47 addr

/-- The executing thread consumes poison (R462, R487). -/
def State.consumePoison (s : State) (addr : Word) : State :=
  if s.cur.st.idv then s.regionRestart addr else s.trap { cause := 0x47, cls := 4, addr := addr }

/-- The executing thread takes the fault of a fetch (R478, R540): poison is consumed, every other cause is a precise trap. -/
def State.fetchFault (s : State) (cause : Nat) (addr : Word) : State :=
  if cause = 0x47 then s.consumePoison addr else s.trap { cause := cause, addr := addr }

/-- The executing thread takes a deferred fault (R447, R454): POISON is consumed, every other cause is a trap of class 1. -/
def State.consume (s : State) (d : Deferred) : State :=
  let s := s.modCur fun t => takeDeferred t d
  if d.cause = 0x47 then s.consumePoison d.addr else s.trap { cause := d.cause, cls := 1, addr := d.addr }

/-- The mark on a register that an instruction reads: that of the earliest issued load (R454, R487). -/
def sourceMark (t : Slot) (u : Use) : Option Mark :=
  leastBy (·.issued) (t.markW.filter (fun m => u.rw.any fun n => t.entry n == m.reg) ++ t.markV.filter fun m => u.rv.contains m.reg)

/-- The deferred fault that a mark stands for; a mark of a parked element's register stands for none (R457). -/
def markFault (t : Slot) (m : Mark) : Option Deferred :=
  t.deferred.find? fun d => d.count == 0 && m.of d

/-- An instruction reads a marked register. -/
def State.consumeMark (s : State) (m : Mark) : State :=
  match markFault s.cur m with
  | some d => s.consume d
  | none =>
    let s := s.modCur fun t => { t with markW := t.markW.erase m, markV := t.markV.erase m }
    if m.poison then s.consumePoison m.addr else s.trap { cause := m.cause, cls := 1, addr := m.addr }

/-- What a slot takes at an instruction boundary, before its next instruction: an anvil operand fault (R512), parked elements
(R458), or the deferred fault that a committed wait names (R447). An adoption that has begun goes on first (R84). -/
def State.boundary (s : State) (c n : Nat) : Option State :=
  let s := { s with curCore := c, curSlot := n }
  let t := s.cur
  if t.adopting.isSome then none
  else match t.anvPend with
  | some (cause, a, sub) =>
    some (((s.dropMisses c n).modCur fun t => { t with anvPend := none, anvTrap := t.anvTrap || cause == 0x80 }).trap
      { cause := cause, addr := a, sub := sub })
  | none =>
    if t.replayPend && !t.replay.isEmpty then
      (t.replay.head?).map fun r => (s.modCur fun t => { t with replayPend := false }).trap { cause := r.cause, addr := r.va }
    else
      match t.wait with
      | .counts l st cp tl => (namedFault t l st cp tl).map s.consume
      | _ => none

/-! ## Limits -/

/-- The first trap of a list of checks. -/
def firstTrap (l : List (Option TrapRec)) : Option TrapRec := l.findSome? id
/-- ILLFLD at a parcel of the instruction (R496). -/
def illfld (s : State) (bad : Bool) (pos : Nat) : Option TrapRec :=
  if bad then some { cause := 0x03, addr := s.cur.pc + word (2 * pos) } else none
/-- A trap with a cause and TRAPADDR. -/
def trapIf (bad : Bool) (cause : Nat) (addr : Word) : Option TrapRec :=
  if bad then some { cause := cause, addr := addr } else none
/-- A present PXR must have rc = 0 (R231). -/
def rcZero (s : State) (f : Fld) : Option TrapRec := illfld s (f.pxr && f.rc != 0) f.pxrPos
/-- A present PXR must have sz = 0, where sz has no meaning (R212, R231). -/
def szZero (s : State) (f : Fld) : Option TrapRec := illfld s (f.pxr && f.sz != 0) f.pxrPos
/-- A present PXR must have t = 0, where t has no meaning. -/
def tZero (s : State) (f : Fld) : Option TrapRec := illfld s (f.pxr && f.t != 0) f.pxrPos

/-- The meaning of an instruction behind its checks: privilege, marked sources, its own limits, then its effect. -/
def gate (i : Instr) (chk : State → Option TrapRec) (k : State → State) (s : State) : Out :=
  if s.cur.st.priv < minPriv i then .next (s.trap { cause := 0x05 })
  else
    match sourceMark s.cur (useOf i (fldOf i)) with
    | some m => .next (s.consumeMark m)
    | none =>
      match chk s with
      | some r => .next (s.trap r)
      | none => .next (k s)

/-- Write a register and go on. -/
def State.result (s : State) (f : Fld) (n : Nat) (v : Word) : State := (s.setW n v).advance f

end Sys2Proof.Machine
end

