-- ==== Sys2Proof/Machine/Fetch.lean ====
section
/-! DEFINITION. Fetching an instruction (R155, R203, R214): parcel by parcel, each through a translation and the core's
instruction cache. -/

namespace Sys2Proof.Machine

/-- What fetching at an address gives. `page` says that a PXP naming page 1 or 2 was decoded (R29). -/
inductive Fetched where
  | instr (i : Instr) (n : Nat)
  | trap (cause idx : Nat) (page : Bool)
  | fault (cause : Nat) (addr : Word) (page : Bool)
  | wait
  deriving DecidableEq, Repr

/-- The last parcel is a PXP that names page 1 or 2. -/
def isPaged (p : Parcel) : Bool :=
  (p.extractLsb' 9 7).toNat = 0x7B && ((p.extractLsb' 7 2).toNat = 1 || (p.extractLsb' 7 2).toNat = 2)

/-- Read an aligned block of 8 code bytes from its place (R123, R155): local store as it stands, checked at its core and
after a copy's watermark (R149), or DRAM at its home. -/
def State.codeBlock (s : State) (h priv : Nat) (rc : Clock) (pa : Nat) : Except Nat (Option (List Byte)) :=
  if paHubReg pa then .error 0x45
  else if paClass pa = 1 ∧ s.ownPackage pa then
    if (s.core (paCore pa)).lsRefusedN (paOff pa) 8 h priv false then .error 0x46
    else if s.lsStalled (paCore pa) (paOff pa) 8 then .ok none
    else .ok (some (s.coreBytes (paCore pa) s.curSlot (paOff pa) 8))
  else if paClass pa = 0 ∧ s.ownPackage pa then
    if !s.homeReady (homeOf pa) rc then .ok none
    else if s.poisoned pa 8 then .error 0x47
    else .ok (some (s.bytes pa 8))
  else if paHost pa ∧ !s.hub.linkUp then .error 0x47
  else .ok (some (s.bytes pa 8))

/-- The bytes of the block that holds an address: from the instruction cache, or fetched into it. -/
def State.fetchBlock (s : State) (c n h priv : Nat) (rc : Clock) (va : Word) : Except Nat (Option (List Byte)) × State :=
  match s.translate c n h priv rc va .exec with
  | (.fault e, s) => (.error e, s)
  | (.wait, s) => (.ok none, s)
  | (.ok pa _, s) =>
    let asid := (s.hearth h).aspace.bits 63 56
    let blk := va.toNat / 8 * 8
    match (s.core c).icache.find? fun b => b.hearth == h && b.asid == asid && b.va == blk with
    | some b => (.ok (some b.bytes), s)
    | none =>
      let s := s.readLines (s.readFor c n va) (pa / 8 * 8) 8
      match s.codeBlock h priv rc (pa / 8 * 8) with
      | .ok (some bs) =>
        (.ok (some bs), s.modCore c fun k => { k with icache := (⟨h, asid, blk, bs⟩ :: k.icache).take 4096 })
      | r => (r, s)

/-- The parcel at an even address of a block. -/
def blockParcel (bs : List Byte) (off : Nat) : Parcel := bs.getD (off + 1) 0 ++ bs.getD off 0

/-- Fetch parcels and decode, after the parcels ps (R214). -/
def State.fetchFrom (s : State) (c n h priv : Nat) (rc : Clock) (pc : Word) (ps : List Parcel) : Nat → Fetched × State
  | 0 => (.wait, s)
  | m + 1 =>
    let a := pc + word (2 * ps.length)
    match s.fetchBlock c n h priv rc a with
    | (.error e, s) => (.fault e a ((ps.getLast?).any isPaged), s)
    | (.ok none, s) => (.wait, s)
    | (.ok (some bs), s) =>
      let ps := ps ++ [blockParcel bs (a.toNat % 8)]
      match decode ps with
      | .ok i k => (.instr i k, s)
      | .trap cause idx => (.trap cause idx (2 ≤ ps.length && isPaged (ps.getD (ps.length - 2) 0)), s)
      | .more => s.fetchFrom c n h priv rc pc ps m

/-- Fetch and decode the instruction at an address for a slot. An instruction has at most five parcels (R204). -/
def State.fetch (s : State) (c n h priv : Nat) (rc : Clock) (pc : Word) : Fetched × State := s.fetchFrom c n h priv rc pc [] 6

/-- Fetch for a slot at its PC. -/
def State.fetchSlot (s : State) (c n : Nat) : Fetched × State :=
  let t := s.slot c n
  s.fetch c n t.st.hearth t.st.priv t.rc t.pc

end Sys2Proof.Machine
end

