-- ==== Sys2Proof/Machine/Branch.lean ====
section
/-! DEFINITION. Branches, calls, returns, loops and the register window (R38-R42, R247-R255). -/

namespace Sys2Proof.Machine

/-- A branch target: an offset in parcels from the instruction's first parcel (R218). -/
def target (s : State) (off : Int) : Word := s.cur.pc + wordI (2 * off)

/-- A conditional branch (R247): its slot learns the outcome whether or not it is taken. -/
def condBranch (i : Instr) (f : Fld) (cond : State → Bool) (s : State) : Out :=
  gate i (fun _ => none) (fun s =>
    let taken := cond s
    let s' := if taken then s.jump (target s f.immS) else s.advance f
    if f.pxx then s'.branchUpdate f.xs taken else s') s
/-- The RRI forms compare d with s, and with f = 1 their low halves (R247). -/
def condRR (i : Instr) (f : Fld) (cond : (n : Nat) → BitVec n → BitVec n → Bool) (s : State) : Out :=
  condBranch i f (fun s =>
    if f.f = 1 then cond 32 ((s.w f.d).setWidth 32) ((s.w f.s).setWidth 32) else cond 64 (s.w f.d) (s.w f.s)) s

/-- BEQZ (R247). -/
def execBeqz (x : RI) (s : State) : Out := condBranch (.beqz x) x.fld (fun s => s.w x.fld.d == 0) s
/-- BNEZ (R247). -/
def execBnez (x : RI) (s : State) : Out := condBranch (.bnez x) x.fld (fun s => s.w x.fld.d != 0) s
/-- BLTZ (R247). -/
def execBltz (x : RI) (s : State) : Out := condBranch (.bltz x) x.fld (fun s => (s.w x.fld.d).msb) s
/-- BGEZ (R247). -/
def execBgez (x : RI) (s : State) : Out := condBranch (.bgez x) x.fld (fun s => !(s.w x.fld.d).msb) s
/-- BEQ (R247). -/
def execBeq (x : RR) (s : State) : Out := condRR (.beq x) x.fld (fun _ a b => a == b) s
/-- BNE (R247). -/
def execBne (x : RR) (s : State) : Out := condRR (.bne x) x.fld (fun _ a b => a != b) s
/-- BLT (R247). -/
def execBlt (x : RR) (s : State) : Out := condRR (.blt x) x.fld (fun _ a b => a.slt b) s
/-- BLTN (R247). -/
def execBltn (x : RR) (s : State) : Out := condRR (.bltn x) x.fld (fun _ a b => a.ult b) s
/-- BGE (R247). -/
def execBge (x : RR) (s : State) : Out := condRR (.bge x) x.fld (fun _ a b => b.sle a) s
/-- BGEN (R247). -/
def execBgen (x : RR) (s : State) : Out := condRR (.bgen x) x.fld (fun _ a b => b.ule a) s

/-- BR (R248). -/
def execBr (x : Z9) (s : State) : Out := gate (.br x) (fun _ => none) (fun s => s.jump (target s x.fld.immS)) s
/-- JMP: an odd target traps (R248). -/
def execJmp (x : RR) (s : State) : Out :=
  gate (.jmp x) (fun s => firstTrap [illfld s (x.fld.d != 0 || x.fld.f != 0) x.fld.last,
      trapIf ((s.w x.fld.s).getLsbD 0) 0x04 (s.w x.fld.s)])
    (fun s => s.jump (s.w x.fld.s)) s

/-! ## The register window -/

/-- Free values in the new upper frame, which is undefined until it is written (R39). -/
def freeUpper (s : State) : Nat → State
  | 0 => s
  | n + 1 =>
    let (v, s) := s.free
    freeUpper (s.modCur fun t => t.setEntry (t.entry (8 + n)) v) n
/-- The window moves up (R39). -/
def callWindow (t : Slot) : Slot :=
  { t with wlow := (t.wlow + 1) % 12,
           st := { t.st with resid := t.st.resid + 1, live := (t.st.live >>> 8) ||| 0x0080, idv := false } }
/-- The window moves down (R39). -/
def retWindow (t : Slot) : Slot :=
  { t with wlow := (t.wlow + 11) % 12,
           st := { t.st with resid := t.st.resid - 1, live := (t.st.live <<< 8) ||| 0x00FF, idv := false } }
/-- CallTo (R249): the check of resid, the window move, the return address in w7 and the jump. A call clears idv (R461). -/
def State.callTo (s : State) (f : Fld) (a : Word) : State :=
  if s.cur.st.resid = 10 then s.trap { cause := 0x07 }
  else
    let ra := s.npc f
    ((freeUpper (s.modCur callWindow) 8).setW 7 ra).jump a

/-- CALL (R249). -/
def execCall (x : Z9) (s : State) : Out :=
  gate (.call x) (fun _ => none) (fun s => s.callTo x.fld (target s x.fld.immS)) s
/-- ICALL: the target must be an ENTRY (R250). -/
def execIcall (x : RR) (s : State) : Out :=
  gate (.icall x) (fun s => firstTrap [illfld s (x.fld.d != 0 || x.fld.f != 0) x.fld.last,
      trapIf ((s.w x.fld.s).getLsbD 0) 0x04 (s.w x.fld.s)])
    (fun s =>
      let a := s.w x.fld.s
      match s.fetch s.curCore s.curSlot s.cur.st.hearth s.cur.st.priv s.cur.rc a with
      | (.instr (.entry _) _, s) => s.callTo x.fld a
      | (.fault cause _ _, s) => s.fetchFault cause a
      | (.wait, s) => s.waitFor .retry
      | (_, s) => s.trap { cause := 0x06, addr := a }) s
/-- RET (R252). A return clears idv (R461). -/
def execRet (x : Z9) (s : State) : Out :=
  gate (.ret x) (fun s => firstTrap [illfld s (x.fld.base != 0) x.fld.last, trapIf ((s.w 7).getLsbD 0) 0x04 (s.w 7),
      trapIf (s.cur.st.resid = 0) 0x08 0])
    (fun s =>
      let a := s.w 7
      (s.modCur retWindow).jump a) s
/-- ENTRY: the callee's frame (R251). -/
def execEntry (x : Z9) (s : State) : Out :=
  gate (.entry x) (fun _ => none) (fun s => s.result x.fld 14 (s.w 6 - word (8 * x.fld.immU))) s

/-- LOOPS (R253). -/
def execLoops (x : RI) (s : State) : Out :=
  gate (.loops x) (fun _ => none) (fun s =>
    let f := x.fld
    let idx := (s.w f.d).bits 63 32
    let bound := (s.w f.d).bits 31 0
    if idx < bound then s.result f f.d (word ((idx + 1) * 2 ^ 32 + bound))
    else
      let s' := s.jump (s.cur.pc + word (2 * f.immU))
      if f.pxx then s'.loopEnd f.xs idx else s') s
/-- LOOPE (R254). -/
def execLoope (x : Z9) (s : State) : Out :=
  gate (.loope x) (fun _ => none) (fun s => s.jump (s.cur.pc - word (2 * x.fld.immU))) s

/-! ## Spill and fill -/

/-- A fault of SPILLW or FILLW: inside a spill or fill handler TRAPPC and TRAPSTAT keep their values (R468). -/
def State.frameTrap (s : State) (r : TrapRec) : State :=
  let t := s.cur
  if t.winTrap then
    (s.trap r).modCur fun q => { q with trappc := t.trappc, trapstat := t.trapstat, winTrap := true }
  else s.trap r
/-- The ring frame of the oldest resident frame (R38). -/
def oldestFrame (t : Slot) : Nat := (t.wlow + 24 - t.st.resid) % 12
/-- The registers of a ring frame. -/
def frameWords (t : Slot) (fr : Nat) : List Word := (List.range 8).map fun i => get 0 t.stk (8 * fr + i)
/-- A result is pending in a ring frame. -/
def framePending (t : Slot) (fr : Nat) : Bool := (List.range 8).any fun i => t.pendW.contains (8 * fr + i)
/-- The check of a frame's address (R97, R98, R255). -/
def frameCheck (s : State) (frame : Nat) (write : Bool) : Option TrapRec :=
  let o := 64 * frame
  let va := word (lswin + o)
  if !coreExists (o / 2 ^ 18) then some { cause := 0x45, addr := va }
  else if (s.core (o / 2 ^ 18)).lsRefusedN (o % 2 ^ 18) 64 s.cur.st.hearth s.cur.st.priv write then
    some { cause := 0x46, addr := va }
  else none
/-- The access to a frame waits: its core is in boot test (R533), a copy has still to write it (R149), or a posted write of the thread to
it has not landed (R121). -/
def frameBusy (s : State) (frame : Nat) : Bool :=
  let o := 64 * frame
  let c := o / 2 ^ 18
  (c != s.curCore && (s.core c).bootTest) || s.lsStalled c (o % 2 ^ 18) 64 || s.postedOver s.curCore s.curSlot (lsPA s c (o % 2 ^ 18)) 64
/-- A spill of a frame waits, for its access or as every store of the core does (R128). -/
def spillBusy (s : State) (frame : Nat) : Bool := s.curK.storesStall || frameBusy s frame
/-- Write the words of a frame to its place in the spill area, as the executing core sees it (R537). -/
def State.putFrame (s : State) (frame : Nat) (ws : List Word) : State :=
  let o := 64 * frame
  s.coreWrite (o / 2 ^ 18) s.curSlot (o % 2 ^ 18) (ws.flatMap fun w => leBytes 8 w.toNat)
/-- The words of a frame in the spill area. -/
def State.frameAt (s : State) (frame : Nat) : List Word :=
  let o := 64 * frame
  (List.range 8).map fun i => word (leNat (s.coreBytes (o / 2 ^ 18) s.curSlot (o % 2 ^ 18 + 8 * i) 8))
/-- The read of a frame in another core's local store is a request that reaches that core (R418). -/
def State.rouseOwner (s : State) (frame : Nat) : State :=
  let c := 64 * frame / 2 ^ 18
  let p := (s.core c).pw
  if c = s.curCore ∨ !(p.preparing || p.gated) then s else s.modCore c Core.roused
/-- Place a frame's registers. -/
def setFrame (t : Slot) (fr : Nat) (ws : List Word) : Slot :=
  (List.range 8).foldl (fun t i => t.setEntry (8 * fr + i) (ws.getD i 0)) t

/-- SPILLW (R40, R255). The frame waits for a result that is pending in it. -/
def execSpillw (x : Z9) (s : State) : Out :=
  gate (.spillw x) (fun s => firstTrap [illfld s (x.fld.base != 0) x.fld.last, trapIf (s.cur.st.resid = 0) 0x09 0])
    (fun s =>
      let t := s.cur
      let fr := oldestFrame t
      let p := t.st.spillp.toNat
      match frameCheck s p true with
      | some r => s.frameTrap r
      | none =>
        if framePending t fr || spillBusy s p then s.waitFor .retry
        else
          ((s.putFrame p (frameWords t fr)).modCur fun t => { t with st := { t.st with spillp := t.st.spillp + 1, resid := t.st.resid - 1 } }).advance x.fld) s
/-- FILLW (R40, R255). -/
def execFillw (x : Z9) (s : State) : Out :=
  gate (.fillw x) (fun s => firstTrap [illfld s (x.fld.base != 0) x.fld.last, trapIf (s.cur.st.resid = 10) 0x09 0])
    (fun s =>
      let t := s.cur
      let fr := (oldestFrame t + 11) % 12
      let p := (t.st.spillp - 1).toNat
      match frameCheck s p false with
      | some r => s.frameTrap r
      | none =>
        if framePending t fr || frameBusy s p then s.waitFor .retry
        else
          ((s.rouseOwner p).modCur fun t =>
            setFrame { t with st := { t.st with spillp := t.st.spillp - 1, resid := t.st.resid + 1 } } fr (s.frameAt p)).advance x.fld) s

end Sys2Proof.Machine
end

