-- ==== Sys2Proof/Machine/Hub.lean ====
section
/-! DEFINITION. The hub registers: who may access them, what they read as and what a write does (R421, R429, R430, R436, R439,
R442, R534-R536, R541). -/

namespace Sys2Proof.Machine

/-- A hub register of the device (R429, R534). -/
inductive HubReg where
  | features (hi : Bool)
  | accept (hi : Bool)
  | plimit
  | qbase (h q : Nat)
  | qhead (h q : Nat)
  | hres (h : Nat)
  | hphase (h : Nat)
  | jseq (h : Nat)
  | hpool (h : Nat)
  | hpend (h : Nat)
  | reduction (h j r : Nat)
  | journal (h n w : Nat)
  | bctl (c : Nat)
  | bstat (c : Nat)
  | lsrep (c n : Nat)
  deriving DecidableEq, Repr

/-- The register in a hearth's block at an 8-byte offset. -/
def hearthReg (h r : Nat) : Option HubReg :=
  if r < 0x20 then some (.qbase h (r / 8))
  else if r < 0x40 then some (.qhead h ((r - 0x20) / 8))
  else if r = 0x60 then some (.hres h)
  else if r = 0x68 then some (.hphase h)
  else if r = 0x70 then some (.jseq h)
  else if r = 0x78 then some (.hpool h)
  else if r = 0x80 then some (.hpend h)
  else if 0x200 ≤ r ∧ r < 0x300 then some (.reduction h ((r - 0x200) / 64) (r % 64 / 8))
  else if 0x8000 ≤ r then some (.journal h ((r - 0x8000) / 32) (r % 32 / 8))
  else none
/-- The register that an aligned offset of 8 bytes names, for a device access (R429, R534). A register without device access
counts as unassigned (log 14). -/
def hubReg (off : Nat) : Option HubReg :=
  let off := off / 8 * 8
  if off < 0x10 then some (.features (off = 8))
  else if off < 0x20 then some (.accept (off = 0x18))
  else if off = 0x20 then some .plimit
  else if 0x100000 ≤ off ∧ off < 0x200000 then hearthReg ((off - 0x100000) / 0x10000) (off % 0x10000)
  else if 0x4000000 ≤ off ∧ off < 0x4000000 + 64 * 8192 then
    let c := (off - 0x4000000) / 64
    if !coreExists c then none
    else match off % 64 with
      | 0x00 => some (.bctl c)
      | 0x08 => some (.bstat c)
      | 0x10 => some (.lsrep c 0)
      | 0x18 => some (.lsrep c 1)
      | 0x20 => some (.lsrep c 2)
      | 0x28 => some (.lsrep c 3)
      | _ => none
  else none
/-- What a device access at an offset must hold before a register is looked for (R429, R453, R500): the level, and the hearth of a hearth's
block, assigned or not. -/
def hubLevel (priv hearth off : Nat) : Option Nat :=
  let r := off % 0x10000
  if priv = 2 then none
  else if 0x100000 ≤ off ∧ off < 0x200000 then
    if priv = 0 ∧ (r < 0x200 ∨ 0x300 ≤ r) then some 0x05
    else if (off - 0x100000) / 0x10000 ≠ hearth then some 0x0E
    else none
  else if 0x4000000 ≤ off ∧ off < 0x4000000 + 64 * 8192 then (if coreExists ((off - 0x4000000) / 64) then some 0x05 else none)
  else match hubReg off with
    | some .plimit => some 0x05
    | some _ => if priv = 0 then some 0x05 else none
    | none => none
/-- The check of a device access at an offset (R429, R500): a cause, or none. -/
def hubCheck (priv hearth off : Nat) : Option Nat :=
  match hubLevel priv hearth off, hubReg off with
  | some e, _ => some e
  | none, none => some 0x45
  | none, some _ => none

/-- HPHASE (R436). -/
def Hearth.hphase (q : Hearth) : Word :=
  word ((if q.det.failed then 2 ^ 17 else 0) + (if q.det.on then 2 ^ 16 else 0) + q.phase.toNat)
/-- A register of a reduction object (R442). -/
def Reduction.reg (x : Reduction) (r : Nat) : Word :=
  match r with
  | 0 => x.ctl
  | 1 => x.contrib
  | 2 => x.result
  | 3 => x.gen
  | 4 => x.mask
  | _ => 0
/-- The value of a hub register. -/
def State.hubRead (s : State) : HubReg → Word
  | .features hi => word (s.hub.features.toNat / (if hi then 2 ^ 64 else 1))
  | .accept hi => word (s.hub.accept.toNat / (if hi then 2 ^ 64 else 1))
  | .plimit => s.hub.plimit
  | .qbase h q => get 0 (s.hearth h).qbase q
  | .qhead h q => (get 0 (s.hearth h).qhead q).setWidth 64
  | .hres h => (s.hearth h).hres
  | .hphase h => (s.hearth h).hphase
  | .jseq h => (s.hearth h).jseq
  | .hpool h => (s.hearth h).hpool
  | .hpend h => (s.hearth h).hpend
  | .reduction h j r => (get {} (s.hearth h).reductions j).reg r
  | .journal h n w => (get 0 (s.hearth h).journal n).extractLsb' (64 * w) 64
  | .bctl c => (get {} s.hub.boots c).bctl
  | .bstat c => (get {} s.hub.boots c).bstat
  | .lsrep c n => get 0 (get {} s.hub.boots c).lsrep n

/-- PLIMIT: a code outside 40 to 88 is ignored (R421). -/
def State.setPlimit (s : State) (v : Word) : State :=
  if 40 ≤ v.bits 7 0 ∧ v.bits 7 0 ≤ 88 then { s with hub := { s.hub with plimit := word (v.bits 7 0) } } else s
/-- A boot block. -/
def State.modBoot (s : State) (c : Nat) (f : BootBlock → BootBlock) : State :=
  { s with hub := { s.hub with boots := put s.hub.boots c (f (get {} s.hub.boots c)) } }
/-- BCTL (R533, R534): done ends boot test and clears view, opens the log ring at LOGSIZE, empty; after it writes are ignored. -/
def State.setBctl (s : State) (c : Nat) (v : Word) : State :=
  if (get {} s.hub.boots c).bctl.bits 1 1 = 1 then s
  else if v.bits 1 1 = 1 then
    (s.modBoot c fun b => { b with bctl := 2 }).modCore c fun k =>
      { k with bootTest := false, view := false,
               log := { k.log with size := k.log.newSize.getD k.log.size, newSize := none, openEntries := [] } }
  else (s.modBoot c fun b => { b with bctl := word (v.bits 0 0) }).modCore c fun k => { k with view := v.bits 0 0 = 1 }
/-- BSTAT (R535). -/
def State.setBstat (s : State) (c : Nat) (v : Word) : State :=
  s.modBoot c fun b => { b with bstat := v &&& 0xFFFFFFFFFFFFFF00 }
/-- LSREPn (R536). -/
def State.setLsrep (s : State) (c n : Nat) (v : Word) : State :=
  s.modBoot c fun b => { b with lsrep := put b.lsrep n (v &&& 0x800000000003FF00) }

/-! ## Reductions (R442) -/

/-- The number of packages in a mask. -/
def maskCount (m : Word) : Nat := (List.range 64).countP m.getLsbD
/-- One level of the pairwise tree (R182). -/
def pairUp {α : Type} (op : α → α → α) : List α → List α
  | a :: b :: r => op a b :: pairUp op r
  | l => l
/-- The tree over 2^n leaves (R182). -/
def treeFold {α : Type} (op : α → α → α) (l : List α) : Nat → List α
  | 0 => l
  | n + 1 => treeFold op (pairUp op l) n
/-- The result of a round: the FP64 sum by the tree, with -0 for the packages outside MASK, FP64 minimum and maximum as R245 has them, or an
integer fold. No rule gives the result of another type or operation, or of a bitwise operation on FP64. -/
def reduceRound (ctl mask : Word) (parts : List (Nat × Word)) : Option Word :=
  let fold (f : Word → Word → Word) : Option Word := match parts.map (·.2) with
    | [] => none
    | a :: r => some (r.foldl f a)
  match ctl.bits 7 4, ctl.bits 3 0 with
  | 0, 0 => fold (· + ·)
  | 0, 1 => fold fun a b => if a.slt b then a else b
  | 0, 2 => fold fun a b => if b.slt a then a else b
  | 0, 3 => fold (· &&& ·)
  | 0, 4 => fold (· ||| ·)
  | 1, 0 =>
    let leaf (n : Nat) : Nat := if mask.getLsbD n then (get 0 parts n).toNat else 2 ^ 63
    some (word ((treeFold (fun a b => fp64.round 0 0 0 0 (Num.add 0 (fp64.decode a) (fp64.decode b))) ((List.range 64).map leaf) 6).getD 0 0))
  | 1, 1 => fold fun a b => word (fp64.min a.toNat b.toNat)
  | 1, 2 => fold fun a b => word (fp64.max a.toNat b.toNat)
  | _, _ => none

/-- Write a reduction object. -/
def State.setReduction (s : State) (h j : Nat) (x : Reduction) : State :=
  s.modHearth h fun q => { q with reductions := put q.reductions j x }
/-- Every package of MASK has contributed to the round. -/
def Reduction.complete (x : Reduction) : Bool :=
  x.mask != 0 && (List.range 64).all fun n => !x.mask.getLsbD n || (get? x.parts n).isSome
/-- A round that is complete, by a contribution of package `last` or by a write of MASK, delivers its result, raises GEN by 2 and reports the slack
of this package, if it takes part: 0 when it arrived last and otherwise a time that no rule fixes (R422, R442; log 4). -/
def State.endRound (s : State) (h j : Nat) (last : Option Nat) : State :=
  let x := get {} (s.hearth h).reductions j
  if !x.complete then s
  else if !x.mask.getLsbD s.hub.package then s.setReduction h j { x with parts := [] }
  else
    let (t, s) := s.free
    let (v, s) := s.free
    let s := { s with hub := { s.hub with slack := some (if last = some s.hub.package then 0 else t.toNat) } }
    s.setReduction h j { x with
      result := (reduceRound x.ctl x.mask (x.parts.filter fun p => x.mask.getLsbD p.1)).getD v, gen := x.gen + 2, parts := [] }
/-- A contribution of a package, as this package's copy of the object sees it (log 142): one from outside MASK, and a second one in a round,
are ignored and set GEN bit 0 (R442). -/
def State.contribute (s : State) (h j pkg : Nat) (v : Word) : State :=
  let x := get {} (s.hearth h).reductions j
  if !x.mask.getLsbD pkg ∨ (get? x.parts pkg).isSome then s.setReduction h j { x with gen := x.gen ||| 1 }
  else (s.setReduction h j { x with parts := put x.parts pkg v }).endRound h j (some pkg)
/-- A write of CTL or MASK is taken only while GEN is even; a CTL whose count differs from MASK sets GEN bit 0 (R442). -/
def State.setRedCtl (s : State) (h j : Nat) (v : Word) : State :=
  let x := get {} (s.hearth h).reductions j
  if x.gen.getLsbD 0 then s
  else if v.bits 63 58 + 1 ≠ maskCount x.mask then s.setReduction h j { x with gen := x.gen ||| 1 }
  else s.setReduction h j { x with ctl := v &&& 0xFC000000000000FF }
/-- A store to GEN whose bit 0 is 1 clears that bit. -/
def State.clearRedGen (s : State) (h j : Nat) (v : Word) : State :=
  let x := get {} (s.hearth h).reductions j
  if v.getLsbD 0 then s.setReduction h j { x with gen := x.gen &&& ~~~1 } else s
/-- A device write of a reduction register; `pod` is a whole store with ord:rel sc:pod, which contributes at CONTRIB. -/
def State.setReductionReg (s : State) (h j r : Nat) (v : Word) (pod : Bool) : State :=
  let x := get {} (s.hearth h).reductions j
  match r with
  | 0 => s.setRedCtl h j v
  | 1 => let s := s.setReduction h j { x with contrib := v }
         if pod then s.contribute h j s.hub.package v else s
  | 3 => s.clearRedGen h j v
  | 4 => if x.gen.getLsbD 0 then s else (s.setReduction h j { x with mask := v }).endRound h j none
  | _ => s

/-- A device write of a register. RO registers ignore it (R8). -/
def State.hubWrite (s : State) (r : HubReg) (v : Word) (pod : Bool) : State :=
  match r with
  | .plimit => s.setPlimit v
  | .hres h => s.modHearth h fun q => { q with hres := v &&& 0x01FFFFFFFFFFF000 }
  | .hpool h => s.modHearth h fun q => { q with hpool := v &&& 0x00FFFFFFFFFFF000 }
  | .hpend h => s.modHearth h fun q => { q with hpend := v &&& 0x00FFFFFFFFFFF000 }
  | .reduction h j r => s.setReductionReg h j r v pod
  | .bctl c => s.setBctl c v
  | .bstat c => s.setBstat c v
  | .lsrep c n => s.setLsrep c n v
  | _ => s

/-- Read n bytes at a hub-register PA, within one register of 8 bytes. -/
def State.hubBytes (s : State) (pa n : Nat) : List Byte :=
  match hubReg (pa % 2 ^ 45) with
  | some r => ((leBytes 8 (s.hubRead r).toNat).drop (pa % 8)).take n
  | none => List.replicate n 0
/-- Write bytes at a hub-register PA: the other bytes of the register keep their values. -/
def State.hubSetBytes (s : State) (pa : Nat) (bs : List Byte) (pod : Bool) : State :=
  match hubReg (pa % 2 ^ 45) with
  | some r =>
    let old := leBytes 8 (s.hubRead r).toNat
    s.hubWrite r (word (leNat (old.take (pa % 8) ++ bs ++ old.drop (pa % 8 + bs.length)))) (pod && bs.length == 8)
  | none => s

/-- Read n bytes at any PA: a register of this package's hub, or memory. The hub registers of another package read as free values
(R102; log 119). -/
def State.unitBytes (s : State) (pa n : Nat) : List Byte :=
  if !paHubReg pa then s.bytes pa n
  else if s.ownPackage pa then s.hubBytes pa n
  else ((leBytes 8 (Config.freeValue s.freeCtr).toNat).drop (pa % 8)).take n
/-- Write bytes at any PA. A write of a hub register of another package changes nothing here (log 119). -/
def State.unitWrite (s : State) (pa : Nat) (bs : List Byte) (pod : Bool) : State :=
  if !paHubReg pa then s.writeAt pa bs
  else if s.ownPackage pa then s.hubSetBytes pa bs pod
  else s
/-- The core of another package refuses an access to its local store (R98, R102): that package's state is none of the model's, so that the
outcome is a free value (log 106). -/
def State.farRefuses (s : State) (pa : Nat) : Bool := paClass pa == 1 && !s.ownPackage pa && (Config.freeValue s.freeCtr).getLsbD 0

end Sys2Proof.Machine
end

