-- ==== Sys2Proof/Machine/Det.lean ====
section
/-! DEFINITION. Deterministic mode at the homes: deferred stores and updates, merge conflicts and what a task reads (R156-R160,
R482, R483). -/

namespace Sys2Proof.Machine

/-- The id of a TASKID. -/
def taskNo (t : Word) : Nat := t.bits 47 0
/-- The phase of a TASKID. -/
def taskPhase (t : Word) : Nat := t.bits 63 48

/-- The bytes that an entry writes: PA and value, in rising order (R124). -/
def LogEntry.writes (e : LogEntry) : List (Nat × Byte) :=
  ((List.range 8).filter fun i => e.mask.getLsbD i).map fun i => (8 * e.wadr + i, BitVec.ofNat 8 (natBits e.data.toNat (8 * i) 8))

/-- A phase fails (R482): HPHASE.fail is set, and the unit's first failure is recorded (R483). Home n is unit n, its crucible unit 641 + n, and the
hub unit 640. -/
def State.failPhase (s : State) (h unit : Nat) (r : Record) : State :=
  let q := s.hearth h
  let s := s.modHearth h fun q => { q with det := { q.det with failed := true } }
  if q.det.reported.contains unit then s
  else (s.modHearth h fun q => { q with det := { q.det with reported := unit :: q.det.reported } }).report r

/-- A second creation of an id fails the phase of the id (R88, R470, R482), the current one or one that is not declared yet. -/
def State.dupTask (s : State) (h : Nat) (id : Word) : State :=
  let r : Record := { cause := 0x64, cls := 5, hearth := h, task := id }
  let d := (s.hearth h).det
  if d.current.map (·.1) = some (taskPhase id) then s.failPhase h 640 r
  else if d.doomed.contains (taskPhase id) then s
  else (s.modHearth h fun q => { q with det := { q.det with doomed := taskPhase id :: q.det.doomed } }).report r

/-- The task of the phase other than t that has written a byte, by a deferred store or update at its home (R158). -/
def State.otherWriter (s : State) (h : Nat) (t : Word) (pa : Nat) (atomic : Bool) : Option Word :=
  let d := (s.hearth h).det
  let st := d.pieces.findSome? fun p => p.entries.findSome? fun e =>
    if e.task != t && e.writes.any (fun w => w.1 == pa) then some e.task else none
  if atomic then st
  else
    let hit (u : DetUpd) : Bool := u.hearth == h && u.x.isNone && u.task != t && u.pa ≤ pa && pa < u.pa + u.size
    let hm := s.home (homeOf pa)
    match st with
    | some x => some x
    | none => ((d.accs ++ hm.holding ++ hm.overflow).find? hit).map (·.task)
/-- Merge conflicts, each a byte with the task that writes it now and the one that has written it: the phase fails, and the record names
the lowest byte (R158, R482, R483). -/
def State.mergeFail (s : State) (h : Nat) (cs : List (Nat × Word × Word)) : State :=
  match cs with
  | [] => s
  | c :: r =>
    let (pa, t, o) := r.foldl (fun a b => if b.1 < a.1 then b else a) c
    let (hi, lo) := if taskNo t < taskNo o then (o, t) else (t, o)
    s.failPhase h (homeOf pa) { cause := 0x65, cls := 5, hearth := h, task := hi, addr := word pa,
                                detail := word (taskPhase hi * 2 ^ 48 + taskNo lo) }
/-- The conflicts of bytes that a task writes at a home. -/
def State.checkMerge (s : State) (h : Nat) (t : Word) (pas : List Nat) (atomic : Bool) : State :=
  s.mergeFail h (pas.filterMap fun pa => (s.otherWriter h t pa atomic).map fun o => (pa, t, o))
/-- The conflicts of entries with what the home holds and with the entries before them (R158). -/
def State.pieceConflicts (s : State) (h : Nat) : List LogEntry → List LogEntry → List (Nat × Word × Word)
  | _, [] => []
  | before, e :: r =>
    let other (pa : Nat) : Option Word := match s.otherWriter h e.task pa false with
      | some o => some o
      | none => before.findSome? fun d => if d.task != e.task && d.writes.any (fun w => w.1 == pa) then some d.task else none
    (e.writes.filterMap fun w => (other w.1).map fun o => (w.1, e.task, o)) ++ s.pieceConflicts h (before ++ [e]) r
/-- A home defers entries of the current phase (R157). -/
def State.deferPiece (s : State) (p : Piece) (es : List LogEntry) : State :=
  (s.mergeFail p.hearth (s.pieceConflicts p.hearth [] es)).modHearth p.hearth fun q =>
    { q with det := { q.det with pieces := q.det.pieces ++ [{ p with entries := es }] } }

/-- The bytes at a home as a task of a deterministic hearth reads them: the snapshot overlaid by its own deferred stores (R156). -/
def State.detByte (s : State) (h : Nat) (t : Word) (pa : Nat) : Byte :=
  ((s.hearth h).det.pieces.flatMap fun p => p.entries.flatMap fun e => if e.task == t then e.writes else []).foldl
    (fun b w => if w.1 = pa then w.2 else b) (s.byte pa)

/-- Whether the location of an update is poisoned at commit (R157). -/
def updLoc (u : DetUpd) : Nat := u.pa / 8

/-- Apply the integer accumulators of a location in the order of R159: by operation, 4 bytes before 8, lowest address first.
Updates of one pair commute. -/
def State.applyInts (s : State) (us : List DetUpd) : State :=
  (List.range 8).foldl (fun s op =>
    [(4, 0), (4, 4), (8, 0)].foldl (fun s (k : Nat × Nat) =>
      (us.filter fun u => u.op == op && u.size == k.1 && u.pa % 8 == k.2).foldl
        (fun s u => s.writeAt u.pa (leBytes u.size (amoFn u.op u.size (s.memNat u.pa u.size) u.value.toNat))) s) s) s
/-- Fold FP updates in ascending order of task id and sequence (R160). -/
def State.applyFloats (s : State) (us : List DetUpd) : State :=
  (us.mergeSort fun a b => taskNo a.task < taskNo b.task || (taskNo a.task == taskNo b.task && a.seq ≤ b.seq)).foldl
    (fun s u => s.writeAt u.pa (leBytes u.size (amoFn u.op u.size (s.memNat u.pa u.size) u.value.toNat))) s

/-- The words of an overflow-log entry (R406): LOC, TASK, ORD and VAL; the last two of an experience add are free values, since no rule
gives them (log 15). -/
def DetUpd.entryWords (u : DetUpd) (free : Word × Word) : List Word :=
  match u.x with
  | some _ => [word u.pa, u.task, free.1, free.2]
  | none => [word u.pa, u.task, word ((u.op - 7) * 2 ^ 60 + (if u.size = 8 then 2 ^ 56 else 0) + u.seq % 2 ^ 48),
      word (u.value.toNat % 2 ^ (8 * u.size))]
/-- The order of the holding buffer (R405): location, task id, sequence. -/
def DetUpd.before (a b : DetUpd) : Bool :=
  a.pa < b.pa || (a.pa == b.pa && (taskNo a.task < taskNo b.task || (taskNo a.task == taskNo b.task && a.seq ≤ b.seq)))
/-- Place an update in its order. -/
def insertUpd (u : DetUpd) : List DetUpd → List DetUpd
  | [] => [u]
  | x :: r => if x.before u then x :: insertUpd u r else u :: x :: r
/-- The overflow area of a crucible, by its number (R160). -/
def Hearth.overflowVA (q : Hearth) (hm : Nat) : Word := va57 (q.dmovf.bits 56 12 * 4096 + hm * 2 ^ q.dmovf.bits 4 0)
/-- The update of the four words of an overflow-log entry (R406); an op that is not used makes none. -/
def DetUpd.ofEntry (h : Nat) (ws : List Word) : Option DetUpd :=
  let o := ws.getD 2 0
  if o.bits 63 60 = 0 ∨ 3 < o.bits 63 60 then none
  else some { pa := (ws.getD 0 0).bits 55 0, size := if o.bits 56 56 = 1 then 8 else 4, op := o.bits 63 60 + 7, value := ws.getD 3 0,
              task := ws.getD 1 0, seq := o.bits 47 0, hearth := h }
/-- Add an FP update or an experience add to a home (R160, R201, R405, R406): the holding buffer of 16 entries, then the overflow log
behind its header of 64 bytes; where neither has room, the phase fails with DMOVF (R482). None where it must wait (log 118). -/
def State.holdUpdate (s : State) (h : Nat) (u : DetUpd) : Option State :=
  let hm := homeOf u.pa
  let q := s.home hm
  let clog := (s.hearth h).dmovf.bits 4 0
  let n := q.overflow.countP fun v => v.hearth == h
  if q.holding.length < 16 then some (s.modHome hm fun q => { q with holding := insertUpd u q.holding })
  else
    let va := (s.hearth h).overflowVA hm
    let detail := word (taskPhase u.task * 2 ^ 48 + hm % 2 ^ 16 * 2 ^ 32 + n)
    let full : State :=
      s.failPhase h (641 + hm) { cause := 0x49, cls := 5, hearth := h, task := u.task, addr := word u.pa, detail := detail }
    let stop (e : Nat × Word) : Option State := if e.1 = hwWait then none else some full
    if clog < 12 ∨ 24 < clog ∨ (2 ^ clog - 64) / 32 ≤ n then some full
    else
      let (a, s1) := if u.x.isSome then s.asHub.free else (0, s.asHub)
      let (b, s1) := if u.x.isSome then s1.free else (0, s1)
      match s1.hwWords h (va + word (0x40 + 32 * n)) (u.entryWords (a, b)) with
      | .error e => stop e
      | .ok s1 => match s1.hwWords h va [word (taskPhase u.task * 2 ^ 48 + (n + 1))] with
        | .error e => stop e
        | .ok s1 => some (s1.modHome hm fun q => { q with overflow := q.overflow ++ [u] })

end Sys2Proof.Machine
end

