-- ==== Sys2Proof/Machine/Log.lean ====
section
/-! DEFINITION. The store log of a core, its releases and their pieces (R121-R136, R140-R142, R150, R480). -/

namespace Sys2Proof.Machine

/-! ## The ring -/

/-- The number of entries of the ring (R124, R127). -/
def Log.entries (l : Log) : Nat := l.ringSize / 16
/-- The first word of an entry (R124). -/
def LogEntry.word0 (e : LogEntry) : Word := word (e.mask.toNat * 2 ^ 56 + e.kind * 2 ^ 53 + e.wadr % 2 ^ 53)
/-- Write the 16 bytes of an entry into the ring at its place (R124; log 16). A core in boot test has no ring (R533). -/
def State.ringSet (s : State) (c pos : Nat) (w0 w1 : Word) : State :=
  let l := (s.core c).log
  if (s.core c).bootTest then s
  else s.setBytes (lsPA s c (l.base + 16 * (pos % l.entries))) (leBytes 8 w0.toNat ++ leBytes 8 w1.toNat)
/-- Write an entry into the ring. -/
def State.ringEntry (s : State) (c : Nat) (e : LogEntry) : State := s.ringSet c e.pos e.word0 e.data
/-- The entries that stand in the ring, not in the overflow area. -/
def inRing (es : List LogEntry) : Nat := es.countP fun e => e.spilled.isNone
/-- The places of the ring that are taken (R140): by open entries, by closed segments with their marks, and by shipped segments until
they and every older one are acknowledged. -/
def Log.used (l : Log) : Nat :=
  inRing l.openEntries + (l.closed.map fun g => inRing g.entries + g.marks).sum + (l.shipped.map fun e => e.2.1).sum
/-- A shipped release is acknowledged: the oldest segments that are give up their places (R140). -/
def Log.freed (l : Log) (id : Nat) : Log :=
  { l with shipped := (l.shipped.map fun e => if e.1 = id then (e.1, e.2.1, true) else e).dropWhile fun e => e.2.2 }

/-! ## Closing the open segment -/

/-- What closes a segment (R129). -/
structure Closing where
  sc : Nat
  slot : Option Nat := none
  rc : Clock := {}
  publish : Bool := true
  counted : Bool := false
  wb : Bool := false
  afterAcks : Bool := false
  chan : Option Nat := none
  follow : List Nat := []
  deriving DecidableEq, Repr

/-- The regions whose stores a segment takes can no longer be discarded (R373, R480): their threads lose idv. -/
def endRegions (es : List LogEntry) (n : Nat) (t : Slot) : Slot :=
  if t.st.idv && es.any (fun e => e.own && e.slot == n && t.idemlog.toNat ≤ e.pos) then
    { t with st := { t.st with idv := false } }
  else t

/-- Close the open segment with a mark (R124, R129). A release at clus or wider also takes the segments of its hearth that
releases at core scope closed before it. A release that finds the ring full does not stall as a store does (R140): its mark stands past the
ring's room, which is the model's choice (log 157). -/
def State.closeLog (s : State) (c : Nat) (x : Closing) : State :=
  let l := (s.core c).log
  let h := l.openHearth
  let held := if x.sc = 1 then [] else l.closed.filter fun g => g.sc == 1 && g.hearth == h
  let es := held.flatMap (·.entries) ++ l.openEntries
  let pos := l.tail.toNat
  let g : Segment := { hearth := h, sc := x.sc, slot := x.slot, rc := x.rc, entries := es, tail := pos + 1, publish := x.publish,
                       counted := x.counted, marks := 1 + (held.map (·.marks)).sum, chan := x.chan, follow := x.follow,
                       wb := x.wb, afterAcks := x.afterAcks }
  let s := s.ringSet c pos (word (3 * 2 ^ 53)) (word (h * 2 ^ 60 + x.sc * 2 ^ 57 + l.openEntries.length))
  s.modCore c fun k =>
    { k with log := { k.log with openEntries := [], closed := k.log.closed.filter (fun g => !held.contains g) ++ [g],
                                 tail := k.log.tail + 1 },
             slots := k.slots.map fun p => (p.1, endRegions es p.1 p.2) }

/-- The open segment is of another hearth: an implicit release at die scope closes it, and publishes nothing (R125). -/
def State.switchHearth (s : State) (c h : Nat) : State :=
  let l := (s.core c).log
  if l.openHearth = h then s
  else
    let s := if l.openEntries.isEmpty && !l.closed.any (fun g => g.sc == 1 && g.hearth == l.openHearth) then s
      else s.closeLog c { sc := 3, publish := false }
    s.modCore c fun k => { k with log := { k.log with openHearth := h } }

/-- A release by a thread (R129, R131, R132): at pod or sys it counts as a store until it publishes. It clears idv (R373). -/
def State.release (s : State) (c n sc : Nat) (follow : List Nat) : State :=
  let t := s.slot c n
  let s := (s.switchHearth c t.st.hearth).closeLog c
    { sc := sc, slot := some n, rc := t.rc, counted := 5 ≤ sc, wb := 2 ≤ sc, follow := follow }
  s.modSlot c n fun t => { t with stores := t.stores + (if 5 ≤ sc then 1 else 0), st := { t.st with idv := false } }
/-- The implicit release at die scope before an atomic at clus or wider scope (R129, R143). -/
def State.implicitRelease (s : State) (c n : Nat) (follow : List Nat) : State :=
  let t := s.slot c n
  let s := (s.switchHearth c t.st.hearth).closeLog c
    { sc := 3, slot := some n, rc := t.rc, follow := follow }
  s.modSlot c n fun t => { t with st := { t.st with idv := false } }
/-! ## Appending -/

/-- Place bytes of an aligned word: data and mask. -/
def wordParts (pa : Nat) (bs : List Byte) : Word × BitVec 8 :=
  (word (leNat bs * 2 ^ (8 * (pa % 8))), BitVec.ofNat 8 ((2 ^ bs.length - 1) * 2 ^ (pa % 8)))
/-- A byte mask as a mask of bits. -/
def maskBits (m : BitVec 8) : Word :=
  word (leNat ((List.range 8).map fun i => if m.getLsbD i then 0xFF else 0))
/-- Merge a store into an entry (R126). -/
def LogEntry.mergeStore (e : LogEntry) (data : Word) (mask : BitVec 8) : LogEntry :=
  let b := maskBits mask
  { e with data := (e.data &&& ~~~b) ||| (data &&& b), mask := e.mask ||| mask }
/-- The store of a thread may merge into an entry (R126, R373): both of kind 1, the entry still in the ring and of no other
thread's region; in a region, the entry is the region's own; in deterministic mode, the task's. -/
def mergeable (k : Core) (n : Nat) (t : Slot) (kind : Nat) (e : LogEntry) : Bool :=
  kind == 1 && e.kind == 1 && e.spilled.isNone && (!t.st.det || e.task == t.taskid) &&
    (if t.st.idv then e.own && e.slot == n && t.idemlog.toNat ≤ e.pos else !(e.own && (k.slot e.slot).st.idv))
/-- The place of the youngest entry of a word into which a store of a thread might merge: of kind 1, and in deterministic mode the
task's own (R126). -/
def lastIdx (es : List LogEntry) (t : Slot) (wadr : Nat) : Option Nat :=
  (es.reverse.findIdx? fun e => e.wadr == wadr && e.kind == 1 && (!t.st.det || e.task == t.taskid)).map fun i => es.length - 1 - i

/-- The places of a hearth's overflow area for a core that hold entries of unstamped segments (R141). -/
def Log.places (l : Log) (h : Nat) : List Nat :=
  ((l.closed.filter fun g => g.hearth == h).flatMap (·.entries) ++ (if l.openHearth = h then l.openEntries else [])).filterMap (·.spilled)
/-- The lowest place that holds none (log 120). -/
def Log.freePlace (l : Log) (h : Nat) : Nat :=
  let ps := l.places h
  ((List.range (ps.length + 1)).find? fun i => !ps.contains i).getD ps.length
/-- The overflow area is exhausted (R480): a release at die scope ships the segment, the hearth's threads on the core lose idv,
and a record is written. -/
def State.exhausted (s : State) (c n : Nat) (addr : Word) (faulted : Bool) : State :=
  let h := (s.core c).log.openHearth
  let sp := ((s.core c).log.places h).length
  let s := s.closeLog c { sc := 3, publish := false }
  let s := s.modCore c fun k =>
    { k with slots := k.slots.map fun p =>
        (p.1, if p.2.st.hearth = h then { p.2 with st := { p.2.st with idv := false } } else p.2) }
  s.report { s.threadRecord c n 0x48 5 with addr := addr, detail := word (sp * 2 ^ 32 + if faulted then 1 else 0) }
/-- Spill the oldest open entry to the overflow area of its hearth (R141); a region whose entry would spill loses idv (R373). -/
def State.spillEntry (s : State) (c n : Nat) : State :=
  let k := s.core c
  let l := k.log
  match l.openEntries.findIdx? (fun e => e.spilled.isNone) with
  | none => s
  | some i =>
    let e := l.openEntries.getD i { wadr := 0, data := 0, mask := 0, kind := 1, slot := 0, task := 0 }
    let ob := (s.hearth l.openHearth).ovfbase
    let clog := ob.bits 4 0
    let place := l.freePlace l.openHearth
    let va := va57 (ob.bits 56 12 * 4096 + c * 2 ^ clog + 16 * place)
    if clog < 16 ∨ 24 < clog ∨ 2 ^ clog < 16 * (place + 1) then s.exhausted c n va false
    else match s.hwWords l.openHearth va [e.word0, e.data] with
      | .error x => if x.1 = hwWait then s else s.exhausted c n va true
      | .ok s => s.modCore c fun k =>
          { k with log := { k.log with openEntries := setNth k.log.openEntries i { e with spilled := some place } },
                   slots := k.slots.map fun p => (p.1, endRegions [e] p.1 p.2) }

/-- A store finds no place in a full ring: an open entry is spilled, or the overflow area is found exhausted, before its thread tries again
(R140, R141, R480). -/
def State.makeRoomAt (s : State) (c n : Nat) : State :=
  let l := (s.core c).log
  if l.newSize.isSome || l.used < l.entries then s else s.spillEntry c n

/-- A store of a thread to global or host memory, within one aligned word (R124-R126, R128, R140, R141): whether it is in the
log, and the state; a store that finds no place waits. `kind` is 2 on a dev page. -/
def State.logStore (s : State) (c n pa : Nat) (bs : List Byte) (kind : Nat) : Bool × State :=
  let t := s.slot c n
  let s := s.switchHearth c t.st.hearth
  let k := s.core c
  let l := k.log
  let (data, mask) := wordParts pa bs
  let fresh (s : State) : Bool × State :=
    let e : LogEntry := { wadr := pa / 8, data := data, mask := mask, kind := kind, slot := n, task := t.taskid,
                          own := t.st.idv, det := t.st.det, pos := (s.core c).log.tail.toNat }
    (true, (s.modCore c fun k => { k with log := { k.log with openEntries := k.log.openEntries ++ [e], tail := k.log.tail + 1 } }).ringEntry c e)
  if l.newSize.isSome then (false, s)
  else
    match (if kind = 1 then lastIdx l.openEntries t (pa / 8) else none) with
    | some i =>
      match l.openEntries[i]? with
      | some e =>
        if mergeable k n t kind e then
          let e := e.mergeStore data mask
          (true, (s.modCore c fun k => { k with log := { k.log with openEntries := setNth k.log.openEntries i e } }).ringEntry c e)
        else if l.used < l.entries then fresh s else (false, s.spillEntry c n)
      | none => (false, s)
    | none => if l.used < l.entries then fresh s else (false, s.spillEntry c n)

/-! ## Forwarding -/

/-- The entries that a load of a slot forwards from, oldest first (R121, R122). -/
def State.forwardable (s : State) (c h : Nat) (t : Slot) : List LogEntry :=
  let l := (s.core c).log
  let es := (s.pieces.filter fun p => p.core == c && p.hearth == h).flatMap (·.entries) ++
    (l.closed.filter fun g => g.hearth == h).flatMap (·.entries) ++ (if l.openHearth = h then l.openEntries else [])
  if t.st.det then es.filter fun e => e.task == t.taskid else es
/-- The bytes of [pa, pa + n) that the log supplies: offset and value, the youngest entry's (R121). -/
def forwardBytes (es : List LogEntry) (pa n : Nat) : List (Nat × Byte) :=
  es.foldl (fun m e =>
    if e.wadr < (pa + n + 7) / 8 && pa / 8 ≤ e.wadr then
      e.writes.foldl (fun m w => if pa ≤ w.1 ∧ w.1 < pa + n then put m (w.1 - pa) w.2 else m) m
    else m) []

/-- The bytes that a load of a thread takes from its own stores (R121). Of a hub register they are what the register would read once
those stores have reached it (R8, R9); of a reduction object, none (log 114). -/
def State.fwdOf (s : State) (c : Nat) (t : Slot) (pa n : Nat) : List (Nat × Byte) :=
  let raw := forwardBytes (s.forwardable c t.st.hearth t) pa n
  if raw.isEmpty || !(paHubReg pa && s.ownPackage pa) then raw
  else match hubReg (pa % 2 ^ 45) with
    | none | some (.reduction ..) => []
    | some _ =>
      let bs := (List.range n).map fun i => get ((s.hubBytes pa n).getD i 0) raw i
      let out := (s.hubSetBytes pa bs false).hubBytes pa n
      raw.map fun e => (e.1, out.getD e.1 0)

/-! ## Stamping and shipping -/

/-- ReleaseStamp of a die (R130). -/
def State.stamp (s : State) (d : Nat) (rc : Clock) : Clock × State :=
  let m := (s.die d).vc.max rc
  let v := m.setComp d ((s.die d).vc.comp d + 1)
  (v, s.modDie d fun q => { q with vc := v })
/-- The home of a log word: 640 is the hub port, for host memory and hub registers; the homes and the hub port of package p are numbered
from 641 * (p + 1) on (R136). -/
def State.pieceHome (s : State) (wadr : Nat) : Nat :=
  let pa := 8 * wadr
  let h := if paClass pa = 2 then 640 else homeOf pa
  if s.ownPackage pa then h else 641 * (paPackage pa + 1) + h
/-- A log tail is at or past another, by serial-number arithmetic. -/
def tailGe (a b : BitVec 48) : Bool := (a - b).toNat < 2 ^ 47
/-- A release publishes (R127, R131, R132): PUBTAIL of its hearth on its core, unless a later release has published. -/
def State.publish (s : State) (c h tail : Nat) (v : Clock) : State :=
  s.modCore c fun k =>
    if tailGe (BitVec.ofNat 48 tail) (get 0 k.log.pubtail h) then
      { k with log := { k.log with pubtail := put k.log.pubtail h (BitVec.ofNat 48 tail), pubstamp := put k.log.pubstamp h v } }
    else k
/-- A release whose pieces are all acknowledged is complete (R132): at pod or sys it publishes, and its store count falls. -/
def State.completeRelease (s : State) (r : Release) : State :=
  let s := { s with releases := s.releases.filter fun q => q.id != r.id }
  let s := if (s.core r.core).log.shipped.isEmpty then s else s.modCore r.core fun k => { k with log := k.log.freed r.id }
  let s := if r.publish && 5 ≤ r.sc then s.publish r.core r.hearth r.tail r.stamp else s
  match r.slot with
  | some n => if r.counted then s.modSlot r.core n fun t => { t with stores := t.stores - 1 } else s
  | none => s
/-- Ship entries as pieces of a release (R130); a release without pieces is complete. -/
def State.ship (s : State) (r : Release) (pod : Bool) (es : List LogEntry) : State :=
  let hs := (es.map fun e => s.pieceHome e.wadr).dedup
  let s := { s with releases := s.releases ++ [r] }
  let s := hs.foldl (fun s hm =>
    let (id, s) := s.fresh
    { s with pieces := s.pieces ++ [{ id := id, rel := r.id, home := hm, stamp := r.stamp, die := dieOf r.core, core := r.core,
                                      hearth := r.hearth, pod := pod,
                                      entries := es.filter fun e => s.pieceHome e.wadr == hm }] }) s
  if hs.isEmpty then s.completeRelease r else s
/-- The core identifier in the pieces of a cluster unit and of the tongs, which no load forwards from (R123). -/
def noCore (d : Nat) : Nat := d * 2048 + 2047
/-- The cluster unit writes a word back as a logged store with a die-scope release of its own, and drops it (R142). No thread releases: the required clock of the stamp is zero (log 121). -/
def State.cuWriteback (s : State) (cl w : Nat) : State :=
  match get? (s.cluster cl).cu w with
  | none => s
  | some (v, h) =>
    let s := s.modCluster cl fun q => { q with cu := del q.cu w }
    let d := cl / 256
    let (st, s) := s.stamp d {}
    let (id, s) := s.fresh
    s.ship { id := id, core := noCore d, hearth := h, sc := 3, slot := none, tail := 0, stamp := st, publish := false, counted := false }
      false [{ wadr := w, data := v, mask := 0xFF, kind := 1, slot := 0, task := noTask }]
/-- Requests that a stamp lets go (R143, R266): they are no longer held, carry the stamp and at least its clock. -/
def stampReq (ids : List Nat) (v : Clock) (r : Req) : Req :=
  if ids.contains r.id then { r with hold := false, stamp := some v, rc := r.rc.max v } else r
/-- The first closed segment that the sequencer receives next; a core-scope segment waits for a wider release (R129), and a
store with ord:rel at pod or sys for the earlier releases' acknowledgements (R132). -/
def State.nextSegment (s : State) (c : Nat) : Option Segment :=
  match (s.core c).log.closed.find? (fun g => g.sc != 1) with
  | some g => if g.afterAcks && s.releases.any (fun r => r.core == c) then none else some g
  | none => none
/-- The die release sequencer stamps a core's next release and ships it (R130, R131): PUBTAIL is written and the releasing
thread's RC raised. Before it, a release that asks for it writes the cluster unit's words back (R142). -/
def State.stampRelease (s : State) (c : Nat) : State :=
  match s.nextSegment c with
  | none => s
  | some g =>
    let cl := clusterOf c
    let s := if g.wb then ((s.cluster cl).cu.map (·.1)).foldl (fun s w => s.cuWriteback cl w) s else s
    let (v, s) := s.stamp (dieOf c) g.rc
    let (id, s) := s.fresh
    let s := s.modCore c fun k =>
      { k with log := { k.log with closed := k.log.closed.erase g,
                                   shipped := k.log.shipped ++ [(id, inRing g.entries + g.marks, false)] } }
    let s := if g.publish && g.sc < 5 then s.publish c g.hearth g.tail v else s
    let s := match g.slot with
      | some n => s.modSlot c n fun t => { t with rc := t.rc.max v }
      | none => s
    let s := match g.chan with
      | some ch => s.modCore c fun k => { k with tongs := put k.tongs ch { (get {} k.tongs ch : Channel) with stamp := some v } }
      | none => s
    let s := { s with reqs := s.reqs.map (stampReq g.follow v) }
    s.ship { id := id, core := c, hearth := g.hearth, sc := g.sc, slot := g.slot, tail := g.tail, stamp := v, publish := g.publish,
             counted := g.counted, chan := g.chan.map (c * 8 + ·) } (g.afterAcks && g.sc == 5) g.entries

/-! ## Pieces at homes -/

/-- The home may apply a piece that has arrived (R135, R136), while its die has power (R522): the hub port in the order of each writer's
releases, a home of another package in the order of arrival from each writer. -/
def State.applicable (s : State) (p : Piece) : Bool :=
  p.arrived && !p.applied &&
    (if 641 ≤ p.home then !s.pieces.any fun y => y.home == p.home && y.core == p.core && y.arrived && !y.applied && y.arr < p.arr
     else if p.home = 640 then !s.pieces.any fun y => y.home == p.home && y.core == p.core && !y.applied && y.rel < p.rel
     else if (s.die (p.home / 160)).powerLost then false
     else
       let inP := s.pieces.filter fun y => y.home == p.home && y.arrived && !y.applied && y.id != p.id
       !(inP.any fun y => y.die == p.die && !serialGe (y.stamp.comp p.die) (p.stamp.comp p.die)) &&
         (List.range 4).all fun e => e == p.die ||
           (serialGe ((s.home p.home).kh.comp e) (p.stamp.comp e) &&
             !inP.any fun y => y.die == e && serialGe (p.stamp.comp e) (y.stamp.comp e)))
/-- Apply an entry of a hearth where its bytes lie (R135, R486): the merge of a partial one reads its line (R491). -/
def State.applyEntry (s : State) (h : Nat) (pod : Bool) (e : LogEntry) : State :=
  if paHubReg (8 * e.wadr) then
    if !s.ownPackage (8 * e.wadr) then s
    else match e.writes with
    | [] => s
    | w :: ws => s.hubSetBytes w.1 (w.2 :: ws.map (·.2)) pod
  else if e.mask = 0xFF then s.writeAt (8 * e.wadr) (leBytes 8 e.data.toNat)
  else e.writes.foldl (fun s w => s.writeAt w.1 [w.2])
    (s.readLines { cause := 0, cls := 5, hearth := h, addr := word (8 * e.wadr) } (8 * e.wadr) 8)
/-- The entries of a piece that its home defers: those of deterministic tasks (R157). -/
def State.deferredOf (s : State) (p : Piece) : List LogEntry :=
  if (s.hearth p.hearth).det.on && p.home < 640 then p.entries.filter (fun (e : LogEntry) => e.det) else []
/-- Apply a piece whole, entries in log order, but for those that the home defers (R135, R157). -/
def State.applyPiece (s : State) (p : Piece) : State :=
  let s := { s with pieces := s.pieces.map fun (y : Piece) => if y.id == p.id then { y with applied := true } else y }
  match s.deferredOf p with
  | [] => p.entries.foldl (fun s e => s.applyEntry p.hearth p.pod e) s
  | ds => (p.entries.filter fun e => !e.det).foldl (fun s e => s.applyEntry p.hearth p.pod e) (s.deferPiece p ds)
/-- The core receives a home's acknowledgement of a piece (R121, R132): it forwards from the piece no longer. Words of the piece
that the read cache holds are dropped, and a reply that was read before does not fill it (log 17). -/
def State.ackPiece (s : State) (p : Piece) : State :=
  let s := { s with pieces := s.pieces.filter fun y => y.id != p.id }
  let ws := p.entries.map (·.wadr)
  let s := if (s.core p.core).rcache.isEmpty then s
    else s.modCore p.core fun k => { k with rcache := k.rcache.filter fun e => !ws.contains e.1 }
  let s := { s with
    reqs := s.reqs.map fun (r : Req) => if r.core == p.core then { r with fill := false } else r
    replies := s.replies.map fun (r : Reply) => if r.req.core == p.core then { r with req := { r.req with fill := false } } else r }
  if s.pieces.any (fun y => y.rel == p.rel) then s
  else match s.releases.find? (fun (r : Release) => r.id == p.rel) with
    | some r => s.completeRelease r
    | none => s

/-- A home has heard of every release that the dies have stamped (R134). -/
def State.hearAll (s : State) (hm : Nat) : State :=
  if 640 ≤ hm then s
  else s.modHome hm fun q => { q with kh := ⟨(s.die 0).vc.c0, (s.die 1).vc.c1, (s.die 2).vc.c2, (s.die 3).vc.c3⟩ }
/-- Insert behind the elements of a lesser or equal key. -/
def insertBy {α : Type} (key : α → Nat) (a : α) : List α → List α
  | [] => [a]
  | b :: r => if key b ≤ key a then b :: insertBy key a r else a :: b :: r
/-- Sort by a key; equal keys keep their order. -/
def sortBy {α : Type} (key : α → Nat) (l : List α) : List α := l.foldl (fun m a => insertBy key a m) []
/-- Every piece in flight arrives and is applied and acknowledged, in the order of stamping (R130-R135), and at another package in that of
arrival, where it has arrived (R136); one whose home has lost power is left (R522). -/
def State.settle (s : State) : State :=
  let lost (p : Piece) : Bool := p.home < 640 && (s.die (p.home / 160)).powerLost
  let far (p : Piece) : Bool := 641 ≤ p.home
  let live := s.pieces.filter fun p => !lost p
  let l := live.filter (fun p => !far p) ++ sortBy (fun p => if p.arrived then p.arr else s.nextId) (live.filter far)
  let s := { s with pieces := s.pieces.map fun p => if lost p then p else { p with arrived := true } }
  let s := l.foldl (fun s p => if p.applied then s else s.applyPiece { p with arrived := true }) s
  let s := (l.map (·.home)).dedup.foldl (fun s hm => s.hearAll hm) s
  l.foldl (fun s p => s.ackPiece p) s
/-- Stamp and settle a core's releases, n at most. -/
def State.drainN (s : State) (c : Nat) : Nat → State
  | 0 => s
  | n + 1 => if (s.nextSegment c).isSome then ((s.stampRelease c).settle).drainN c n else s
/-- The releases of a core are stamped, applied and acknowledged, and a home has heard of them: the fabric's events that an
operation which completes in one step stands for (log 18). -/
def State.drain (s : State) (c hm : Nat) : State := (s.settle.drainN c ((s.core c).log.closed.length)).hearAll hm

end Sys2Proof.Machine
end

