-- ==== Sys2Proof/Machine/Migrate.lean ====
section
/-! DEFINITION. Billets, frames and migration (R43-R53, R138, R466). -/

namespace Sys2Proof.Machine

/-- The thread is migratable (R49). -/
def migratable (t : Slot) : Bool := t.st.vclean && !t.st.pin && t.st.priv == 0 && t.copies == 0 && t.tiles == 0

/-- The address at which a thread that leaves its slot goes on: a SLEEP is complete then (R287). -/
def Slot.resumePC (t : Slot) : Word :=
  match t.wait with
  | .sleep _ npc => npc
  | _ => t.pc
/-- The billet of a thread (R43). -/
def Slot.billet (t : Slot) : Billet :=
  { pc := t.resumePC, status := t.st.pack, w := (List.range 16).map t.w, taskid := t.taskid, link := t.link }
/-- The thread of a billet (R47): no frame is resident, and a register that is not live reads as zero. Its vector and mask
registers are not live. The reserved bits of LINK read 0 (R9, R44), and the privilege 3, which no STATUS holds, is taken as U (log 123). -/
def slotOfBillet (b : Billet) : Slot :=
  let st := Status.unpack b.status
  { busy := true, pc := b.pc, st := { st with resid := 0, vclean := true, priv := if st.priv = 3 then 0 else st.priv },
    stk := (List.range 16).foldl (fun m i => if st.live.getLsbD i then put m i (b.w.getD i 0) else m) [],
    taskid := b.taskid, link := b.link &&& ~~~0x1E00000000000000 }
/-- The words of a billet in memory (R43). -/
def billetWords (b : Billet) : List Word := [b.pc, b.status] ++ ((List.range 16).map fun i => b.w.getD i 0) ++ [b.taskid, b.link]
/-- The billet of 20 words. -/
def billetOf (ws : List Word) : Billet :=
  { pc := ws.getD 0 0, status := ws.getD 1 0, w := (ws.drop 2).take 16, taskid := ws.getD 18 0, link := ws.getD 19 0 }
/-- The words of a frame in memory (R45). -/
def wordsOfFrame (x : Frame) : List Word :=
  [word (x.barlast.toNat * 2 ^ 24 + x.kind % 16 * 2 ^ 20 + x.hearth % 16 * 2 ^ 16 + x.target % 2 ^ 13), x.handle, x.key, x.ctr] ++
    billetWords x.billet
/-- The frame of 24 words. -/
def frameOf (ws : List Word) : Frame :=
  let r := ws.getD 0 0
  { barlast := BitVec.ofNat 20 (r.bits 43 24), kind := r.bits 23 20, hearth := r.bits 19 16, target := r.bits 12 0,
    handle := ws.getD 1 0, key := ws.getD 2 0, ctr := ws.getD 3 0, billet := billetOf (ws.drop 4) }
/-- The thread of a frame: it keeps hearth, privilege, spark state and last barrier arrival (R46, R47). -/
def slotOfFrame (x : Frame) : Slot := { slotOfBillet x.billet with key := x.key, ctr := x.ctr, barlast := x.barlast }
/-- The frame of a slot's thread. -/
def State.frameOfSlot (s : State) (c n kind target : Nat) (handle : Word) : Frame :=
  let t := s.slot c n
  { barlast := t.barlast, kind := kind, hearth := t.st.hearth, target := target, handle := handle, key := t.key, ctr := t.ctr,
    billet := t.billet }
/-- A channel whose thread leaves its slot belongs to none; a channel that waits for a continuation does not stand in a slot. -/
def Channel.disown (x : Channel) (c n : Nat) : Channel := if x.owner == (c, n) && x.away.isNone then { x with owner := (c, 16) } else x
/-- What a thread has in flight when it leaves its slot goes on for no slot: number 16 names none. -/
def State.orphan (s : State) (c n : Nat) : State :=
  let mine (r : Req) : Bool := r.core == c && r.slot == n
  { s with
    reqs := s.reqs.map fun r => if mine r then { r with slot := 16 } else r
    replies := s.replies.map fun r => if mine r.req then { r with req := { r.req with slot := 16 } } else r
    messages := s.messages.map fun m => if m.src == some (c, n) then { m with src := none } else m
    releases := s.releases.map fun r => if r.core == c && r.slot == some n then { r with slot := none } else r
    cores := s.cores.map fun e =>
      let k := { e.2 with tongs := e.2.tongs.map fun x => (x.1, x.2.disown c n) }
      if e.1 == c then
        (c, { k with log := { k.log with closed := k.log.closed.map fun g => if g.slot == some n then { g with slot := none } else g } })
      else (e.1, k) }
/-- Free a slot. -/
def State.freeSlot (s : State) (c n : Nat) : State := ((s.orphan c n).dropMisses c n).setSlot c n {}
/-- The log handle of a core's latest mark (R45): its tail and the core. -/
def State.handle (s : State) (c : Nat) : Word := word ((s.core c).log.tail.toNat * 2 ^ 16 + c)

/-- Write resident frames of the executing slot to the spill area, from the i-th oldest on (R52 step 3): what keeps it from the rest, a
trap or a wait, and the state. What is written stands. -/
def State.spillFrom (s : State) (i : Nat) : Nat → Option (Option TrapRec) × State
  | 0 => (none, s)
  | n + 1 =>
    let t := s.cur
    let p := (t.st.spillp + BitVec.ofNat 25 i).toNat
    match frameCheck s p true with
    | some r => (some (some r), s)
    | none =>
      if spillBusy s p then (some none, s)
      else (s.putFrame p (frameWords t ((oldestFrame t + i) % 12))).spillFrom (i + 1) n
/-- Write every resident frame of the executing slot, oldest first; STATUS changes when all are written (R466). -/
def State.spillAll (s : State) : Option (Option TrapRec) × State :=
  match s.spillFrom 0 s.cur.st.resid with
  | (none, s) =>
    (none, s.modCur fun t => { t with st := { t.st with spillp := t.st.spillp + BitVec.ofNat 25 t.st.resid, resid := 0 } })
  | r => r

/-- The departure buffer of a thread's hearth on its core is occupied (R54). -/
def State.departureHeld (s : State) : Bool := s.curK.departing.any fun e => e.1 == s.cur.st.hearth
/-- The executing thread migrates to a core (R52, R466). It waits for its loads and stores, and for its hearth's departure
buffer (R54). -/
def State.migrate (s : State) (target : Nat) : State :=
  let c := s.curCore
  let n := s.curSlot
  let t := s.cur
  match t.firstFault (·.count < 2) with
  | some d => s.consume d
  | none =>
    if t.loads ≠ 0 ∨ t.stores ≠ 0 ∨ s.departureHeld then s.waitFor .retry
    else
      let s := s.release c n (if dieOf target = dieOf c then 3 else 4) []
      match s.spillAll with
      | (some (some r), s) => s.trap r
      | (some none, s) => s.waitFor .retry
      | (none, s) =>
        let s := s.sendTask c n
        let x := s.frameOfSlot c n 1 target (s.handle c)
        let (id, s) := s.fresh
        let s : State := { s with frames := s.frames ++ [{ frame := x, src := c, kept := s.cur.kept, id := id }] }
        s.freeSlot c n

/-- A thread that leaves its slot by eviction, parking, save, YIELDC or EXIT (R138): a release at pkg scope, and its RC joins the
core's resume clock. The adds of a deterministic task leave the core with it (log 122). -/
def State.leave (s : State) (c n : Nat) : State :=
  let s := ((s.sendTask c n).release c n 4 []).settle
  let s := s.drainN c (s.core c).log.closed.length
  s.modCore c fun k => { k with resume := k.resume.max (k.slot n).rc }

end Sys2Proof.Machine
end

