-- ==== Sys2Proof/Machine/Access.lean ====
section
/-! DEFINITION. Accesses of a thread to memory (R50, R51, R102, R121, R133, R260-R270, R429, R533): where an address lies, loads,
stores and the requests that leave the core. -/

namespace Sys2Proof.Machine

/-- Where a PA lies for a core of this package. -/
inductive Place where
  /-- The core's own local store. -/
  | own (off : Nat)
  /-- The local store of another core, or of another package. -/
  | remote (pa : Nat)
  /-- DRAM of the package. -/
  | dram (pa : Nat)
  /-- Host memory. -/
  | host (pa : Nat)
  /-- A hub register. -/
  | hub (pa : Nat)
  /-- DRAM or hub of another package. -/
  | pod (pa : Nat)
  deriving DecidableEq, Repr
/-- The place of a PA (R100, R102). -/
def State.place (s : State) (pa : Nat) : Place :=
  if paClass pa = 1 then (if s.ownPackage pa && paCore pa == s.curCore then .own (paOff pa) else .remote pa)
  else if paHubReg pa then .hub pa
  else if !s.ownPackage pa then .pod pa
  else if paClass pa = 0 then .dram pa
  else .host pa

/-- The effective cache policy (R208): the stricter of the page's and the instruction's; nm is the page's. -/
def policy (f : Fld) (a : Attr) : Nat := if f.cp = 3 then a.cp else max f.cp a.cp

/-- Go on at the next instruction, and wait for the count that wt names (R154, R264). -/
def State.finish (s : State) (f : Fld) : State :=
  let s := s.advance f
  let m := 2 ^ 64
  match f.wt with
  | 1 => s.waitFor (.counts 0 m m m)
  | 2 => s.waitFor (.counts m 0 m m)
  | 3 => s.waitFor (.counts m m 0 m)
  | _ => s

/-- Translate for the executing thread and go on with the place; a fault traps (R107, R478), and a walk that must wait keeps the
instruction waiting (R119). -/
def State.withPlace (s : State) (a : Word) (k : Acc) (go : Nat → Attr → State → State) : State :=
  match s.translateCur a k with
  | (.fault e, s) => s.fetchFault e a
  | (.wait, s) => s.waitFor .retry
  | (.ok pa at_, s) => go pa at_ s
/-- A misaligned scalar access (R502). -/
def State.misaligned (s : State) (f : Fld) (a : Word) (k : Acc) : State :=
  s.withPlace a k fun _ at_ s => s.trap { cause := if policy f at_ = 2 then 0x0A else 0x0B, addr := a }

/-- A request of the executing thread (R51, R133). -/
def State.newReq (s : State) (va : Word) (pa size sc : Nat) (op : ReqOp) (dst : Dest) : Req :=
  let t := s.cur
  { id := s.nextId, group := s.nextId, core := s.curCore, slot := s.curSlot, hearth := t.st.hearth, priv := t.st.priv,
    task := t.taskid, det := t.st.det, rc := t.rc, pc := t.pc, va := va, pa := pa, size := size, sc := sc, op := op, dst := dst,
    issued := s.curK.cycle.toNat, own := t.owner }
/-- A core's 32 outstanding-request slots are taken (R33, R493); the requests of one instruction take one. -/
def State.reqFull (s : State) (c : Nat) : Bool :=
  32 ≤ (((s.reqs.filter (·.core == c)).map (·.group) ++ (s.replies.filter (·.req.core == c)).map (·.req.group)).dedup).length
/-- The ring entries that a request will write. -/
def Dest.entries : Dest → List Nat
  | .w e _ => [e]
  | .w2 a b => [a, b]
  | _ => []
/-- The vector register that it will write. -/
def Dest.vregs : Dest → List Nat
  | .v r .. => [r]
  | _ => []
/-- Mark the registers of the window live whose ring entries are listed (R39). -/
def Slot.markLive (t : Slot) (es : List Nat) : Slot :=
  { t with st := { t.st with live := es.foldl (fun l e => l ||| (1#16 <<< ((e + 96 - t.wlow * 8) % 96))) t.st.live } }
/-- Send a request: a value-returning one counts as a load and leaves its destination pending (R51, R153); another counts as a
store. `count` is false for the further requests of one instruction. -/
def State.sendReq (s : State) (r : Req) (count : Bool) : State :=
  let s := { s with reqs := s.reqs ++ [r], nextId := s.nextId + 1 }
  s.modCur fun t =>
    let t := t.markLive r.dst.entries
    if r.dst = .none then { t with stores := t.stores + if count then 1 else 0 }
    else { t with loads := t.loads + (if count then 1 else 0), pendW := r.dst.entries ++ t.pendW,
                  pendV := (r.dst.vregs.filter fun v => !t.pendV.contains v) ++ t.pendV }

/-- An access of the executing thread to its core's own local store waits: for a copy (R149), or for an earlier posted write of the
thread to the same bytes, which it would see (R121, R266). -/
def State.ownBusy (s : State) (off n : Nat) : Bool :=
  s.lsStalled s.curCore off n || s.postedOver s.curCore s.curSlot (lsPA s s.curCore off) n

/-! ## Loads -/

/-- The bank of a local-store offset (R98). -/
def bankOf (off : Nat) : Nat := off / 2 ^ 13
/-- The read cache holds a word. -/
def State.cached (s : State) (pa : Nat) : Option Word := get? s.curK.rcache (pa / 8)
/-- The bytes of a word at pa, with those that the log supplies (R121). -/
def overlay (fwd : List (Nat × Byte)) (bs : List Byte) : List Byte :=
  (List.range bs.length).map fun i => get (bs.getD i 0) fwd i

/-- What the log or the read cache supplies to a load of n bytes within an aligned word: all its bytes, or none. -/
def State.served (s : State) (acq : Bool) (pol pa n : Nat) : Option (List Byte) :=
  let t := s.cur
  let fwd := s.fwdOf s.curCore t pa n
  if acq then none
  else if fwd.length = n then some ((List.range n).map fun i => get 0 fwd i)
  else if pol = 0 && !t.st.det then (s.cached pa).map fun w => overlay fwd (((leBytes 8 w.toNat).drop (pa % 8)).take n)
  else none
/-- A load within an aligned word from global or host memory, a hub register or another package: served from the log or the read
cache, or sent to its unit. -/
def State.globalLoad (s : State) (f : Fld) (a : Word) (pa n : Nat) (at_ : Attr) (dest : Nat) (fin : State → State) : State :=
  let t := s.cur
  let acq := f.ord = 1 ∨ f.ord = 3
  if s.unstamped s.curCore s.curSlot || (s.curK.bootTest && s.postedOver s.curCore s.curSlot pa n) then s.waitFor .retry
  else
    let pol := policy f at_
    match s.served acq pol pa n with
    | some bs => fin (s.setW dest (extend f.sz (leNat bs)))
    | none =>
      if s.reqFull s.curCore then s.waitFor .retry else
      let id := s.nextId
      let r := { s.newReq a pa n f.sc (.load acq) (.w (t.entry dest) f.sz) with
                 fwd := s.fwdOf s.curCore t pa n, hold := f.ord = 3 && 2 ≤ f.sc, fill := pol = 0 && !t.st.det && !paHubReg pa,
                 xs := if f.pxx then some f.xs else none }
      let s := if f.ord = 3 then s.release s.curCore s.curSlot f.sc (if 2 ≤ f.sc then [id] else []) else s
      fin (s.sendReq r true)
/-- A load from a bank by a request (R51): it follows its own release, and waits for the stamp (R131, R266). -/
def State.bankLoad (s : State) (f : Fld) (a : Word) (pa n dest : Nat) (fin : State → State) : State :=
  if s.reqFull s.curCore then s.waitFor .retry
  else
    let r := { s.newReq a pa n f.sc (.load (f.ord = 1 ∨ f.ord = 3)) (.w (s.cur.entry dest) f.sz) with
               hold := f.ord = 3 && 2 ≤ f.sc, xs := if f.pxx then some f.xs else none }
    let s := if f.ord = 3 then s.release s.curCore s.curSlot f.sc (if 2 ≤ f.sc then [r.id] else []) else s
    fin (s.sendReq r true)
/-- A load of n bytes into W[dest] (R267). `fin` completes the instruction. -/
def State.load (s : State) (f : Fld) (a : Word) (dest : Nat) (fin : State → State) : State :=
  let n := szBytes f.sz
  if a.toNat % n ≠ 0 then s.misaligned f a .read
  else s.withPlace a .read fun pa at_ s =>
    let t := s.cur
    match s.place pa with
    | .own off =>
      if s.curK.lsRefusedN off n t.st.hearth t.st.priv false then s.trap { cause := 0x46, addr := a }
      else if s.unstamped s.curCore s.curSlot || s.ownBusy off n then s.waitFor .retry
      else if f.ord = 3 ∧ 2 ≤ f.sc then s.bankLoad f a pa n dest fin
      else
        let s := if f.ord = 3 then s.release s.curCore s.curSlot f.sc [] else s
        let v := leNat (s.coreBytes s.curCore s.curSlot off n)
        let s := if f.ord = 1 ∨ f.ord = 3 then s.acquireAt s.curCore s.curSlot (get {} s.curK.bankclk (bankOf off)) else s
        fin (s.setW dest (extend f.sz v))
    | .remote pa =>
      if inWindow a && migratable t && f.cp != 3 then s.migrate (paCore pa)
      else if s.unstamped s.curCore s.curSlot then s.waitFor .retry
      else s.bankLoad f a pa n dest fin
    | .hub pa =>
      match hubCheck t.st.priv t.st.hearth (pa % 2 ^ 45) with
      | some e => s.trap { cause := e, addr := a }
      | none => s.globalLoad f a pa n at_ dest fin
    | .dram pa | .host pa | .pod pa => s.globalLoad f a pa n at_ dest fin

/-! ## Stores -/

/-- Before a store with ord:rel at pod or sys (R132): a segment of its own needs the open segment, unless it is empty, to be
shipped first. -/
def State.podPrepare (s : State) (c n sc : Nat) : State :=
  let t := s.slot c n
  let s := s.switchHearth c t.st.hearth
  let l := (s.core c).log
  if l.openEntries.isEmpty && !l.closed.any (fun g => g.sc == 1 && g.hearth == l.openHearth) then s
  else s.closeLog c { sc := sc, slot := some n, rc := t.rc, publish := false, wb := true }
/-- Close the one-entry segment of such a store: it is shipped after the acknowledgements, and counts until it publishes. -/
def State.podRelease (s : State) (c n sc : Nat) (follow : List Nat) : State :=
  let t := s.slot c n
  let s := s.closeLog c
    { sc := sc, slot := some n, rc := t.rc, counted := true, wb := true, afterAcks := true, follow := follow }
  s.modSlot c n fun t => { t with stores := t.stores + 1, st := { t.st with idv := false } }
/-- A store with ord:rel or acqrel whose entry has been appended: its entry ends the segment (R129, R262). -/
def State.storeRelease (s : State) (f : Fld) : State :=
  let s := if f.ord < 2 then s
    else if 5 ≤ f.sc then s.podRelease s.curCore s.curSlot f.sc []
    else s.release s.curCore s.curSlot f.sc []
  if f.ord = 3 then s.modCurK fun k => { k with rcache := [] } else s
/-- Append a store of the executing thread. -/
def State.logOwn (s : State) (pa : Nat) (bs : List Byte) (f : Fld) (kind : Nat) : Bool × State :=
  let s := if 5 ≤ f.sc then s.podPrepare s.curCore s.curSlot f.sc else s
  s.logStore s.curCore s.curSlot pa bs kind

/-- A store of bytes within an aligned word to global or host memory, a hub register or another package (R269, R533). -/
def State.globalStore (s : State) (f : Fld) (a : Word) (pa : Nat) (bs : List Byte) (at_ : Attr) (fin : State → State) : State :=
  if s.curK.bootTest then
    if s.reqFull s.curCore then s.waitFor .retry
    else fin (s.sendReq (s.newReq a pa bs.length 0 (.boot bs) .none) true)
  else
    match s.logOwn pa bs f (if policy f at_ = 2 then 2 else 1) with
    | (false, s) => s.waitFor .retry
    | (true, s) => fin (s.storeRelease f)
/-- A posted store or PUT to local store (R51, R266): with a release it waits for the stamp, or at core scope carries RC. -/
def State.postStore (s : State) (f : Fld) (r : Req) : State :=
  let rel := 2 ≤ f.ord
  let s := if rel then s.release s.curCore s.curSlot f.sc (if 2 ≤ f.sc then [r.id] else []) else s
  let s := s.sendReq { r with hold := rel && 2 ≤ f.sc, stamp := if rel && f.sc < 2 then some r.rc else none } true
  if f.ord = 3 then s.modCurK fun k => { k with rcache := [] } else s
/-- Raise the bank clock of a core (R266). -/
def State.raiseBank (s : State) (c off : Nat) (clk : Clock) : State :=
  s.modCore c fun k => { k with bankclk := put k.bankclk (bankOf off) ((get {} k.bankclk (bankOf off)).max clk) }
/-- A store of bytes at an address (R269). -/
def State.store (s : State) (f : Fld) (a : Word) (bs : List Byte) (fin : State → State) : State :=
  let n := bs.length
  if a.toNat % n ≠ 0 then s.misaligned f a .write
  else s.withPlace a .write fun pa at_ s =>
    let t := s.cur
    match s.place pa with
    | .own off =>
      if s.curK.lsRefusedN off n t.st.hearth t.st.priv true then s.trap { cause := 0x46, addr := a }
      else if s.curK.storesStall || s.ownBusy off n then s.waitFor .retry
      else if f.ord < 2 then fin (s.coreWrite s.curCore s.curSlot off bs)
      else if 2 ≤ f.sc then
        if s.reqFull s.curCore then s.waitFor .retry
        else fin (s.postStore f (s.newReq a pa n f.sc (.store bs) .none))
      else
        let s := (s.release s.curCore s.curSlot f.sc []).raiseBank s.curCore off t.rc
        let s := s.coreWrite s.curCore s.curSlot off bs
        fin (if f.ord = 3 then s.modCurK fun k => { k with rcache := [] } else s)
    | .remote pa =>
      if inWindow a && migratable t && f.cp != 3 then s.migrate (paCore pa)
      else if s.curK.storesStall || s.reqFull s.curCore then s.waitFor .retry
      else fin (s.postStore f (s.newReq a pa n f.sc (.store bs) .none))
    | .hub pa =>
      match hubCheck t.st.priv t.st.hearth (pa % 2 ^ 45) with
      | some e => s.trap { cause := e, addr := a }
      | none => s.globalStore f a pa bs at_ fin
    | .dram pa | .host pa | .pod pa => s.globalStore f a pa bs at_ fin

end Sys2Proof.Machine
end

