-- ==== Sys2Proof/Machine/Memory.lean ====
section
/-! DEFINITION. The memory instructions (R260-R288): loads, stores, releases and acquires, atomics, PUT, and the waits. -/

namespace Sys2Proof.Machine

/-- ILLFLD at the lowest-addressed parcel that holds a refused field (R496; log 19). -/
def limits (s : State) (l : List (Bool × Nat)) : Option TrapRec :=
  match (l.filter (·.1)).map (·.2) with
  | [] => none
  | p :: r => illfld s true (r.foldl min p)
/-- The ord and sc rules of loads (R262, R263). -/
def loadOrdBad (f : Fld) : Bool := f.ord == 2 || (f.ord == 0 && f.sc != 0) || (f.ord != 0 && f.sc == 0)
/-- The ord and sc rules of stores. -/
def storeOrdBad (f : Fld) : Bool := f.ord == 1 || (f.ord == 0 && f.sc != 0) || (f.ord != 0 && f.sc == 0)
/-- The limits that LD and LDX share (R507). -/
def loadLimits (f : Fld) : List (Bool × Nat) :=
  [(loadOrdBad f, f.pxmPos), (f.f == 1 && !f.pxr, f.last), (f.pxr && f.rc != 0, f.pxrPos)]
/-- The limits that ST and STX share: sz 4 to 6 trap (R261). -/
def storeLimits (f : Fld) : List (Bool × Nat) :=
  [(storeOrdBad f, f.pxmPos), (f.f == 1 && !f.pxr, f.last), (f.pxr && (f.rc != 0 || 4 ≤ f.sz), f.pxrPos)]
/-- What completes a load: its experience update, and the next instruction (R192, R264). -/
def loadFin (f : Fld) (s : State) : State := (if f.pxx then s.loadUpdate f.xs else s).finish f
/-- The step of LDX and STX (R268). -/
def stepOf (f : Fld) (t : Slot) : Word := if f.pxr then index f t else word (szBytes f.sz)
/-- The low n bytes of a register. -/
def lowBytes (n : Nat) (v : Word) : List Byte := leBytes n v.toNat

/-- LD (R267). -/
def execLd (x : RR) (s : State) : Out :=
  gate (.ld x) (fun s => limits s (loadLimits x.fld)) (fun s => s.load x.fld (effAddr x.fld s.cur) x.fld.d (loadFin x.fld)) s
/-- LDX: the base steps when the access completes (R268). -/
def execLdx (x : RR) (s : State) : Out :=
  gate (.ldx x) (fun s => limits s ((x.fld.d == x.fld.s, x.fld.last) :: loadLimits x.fld)) (fun s =>
    let f := x.fld
    let base := s.w f.s + stepOf f s.cur
    s.load f (s.w f.s) f.d fun s => loadFin f (s.setW f.s base)) s
/-- LDA: PC + Imm in bytes (R267). -/
def execLda (x : RI) (s : State) : Out :=
  gate (.lda x) (fun s => limits s [(loadOrdBad x.fld, x.fld.pxmPos), (x.fld.pxr && (x.fld.rc != 0 || x.fld.t != 0), x.fld.pxrPos)])
    (fun s => s.load x.fld (s.cur.pc + wordI x.fld.immS) x.fld.d (loadFin x.fld)) s
/-- ST (R269). -/
def execSt (x : RR) (s : State) : Out :=
  gate (.st x) (fun s => limits s (storeLimits x.fld)) (fun s =>
    s.store x.fld (effAddr x.fld s.cur) (lowBytes (szBytes x.fld.sz) (s.w x.fld.d)) fun s => s.finish x.fld) s
/-- STX (R268). -/
def execStx (x : RR) (s : State) : Out :=
  gate (.stx x) (fun s => limits s (storeLimits x.fld)) (fun s =>
    let f := x.fld
    let base := s.w f.s + stepOf f s.cur
    s.store f (s.w f.s) (lowBytes (szBytes f.sz) (s.w f.d)) fun s => (s.setW f.s base).finish f) s

/-! ## Release, acquire, fence, instruction sync -/

/-- REL (R271). -/
def execRel (x : Z9) (s : State) : Out :=
  gate (.rel x) (fun s => limits s [(x.fld.sc == 0 || x.fld.ord != 0 || x.fld.cp != 0, x.fld.pxmPos), (x.fld.base != 0, x.fld.last)])
    (fun s => (s.release s.curCore s.curSlot x.fld.sc []).finish x.fld) s
/-- ACQ (R137, R272). -/
def execAcq (x : RR) (s : State) : Out :=
  gate (.acq x) (fun s =>
      let h := s.w x.fld.s
      firstTrap [illfld s (x.fld.d != 0 || x.fld.f != 0) x.fld.last,
        trapIf (h.bits 15 13 != 0 || 160 ≤ h.bits 10 3) 0x0D h])
    (fun s =>
      let h := s.w x.fld.s
      let l := (s.core (h.bits 12 0)).log
      let hearth := s.cur.st.hearth
      if h.bits 63 16 ≤ (get 0 l.pubtail hearth).toNat then
        (s.acquireAt s.curCore s.curSlot (get {} l.pubstamp hearth)).advance x.fld
      else s.waitFor (.acq (h.bits 12 0) (h.bits 63 16))) s
/-- A request of a slot that FENCE waits for (R152): value-returning, or a write to local store. -/
def Req.fenced (r : Req) (c n : Nat) : Bool :=
  r.core == c && r.slot == n && (r.dst != Dest.none || r.posted)
/-- FENCE (R152, R273). -/
def execFence (x : Z9) (s : State) : Out :=
  gate (.fence x) (fun s => limits s [(x.fld.base != 0, x.fld.last)]) (fun s =>
    if s.reqs.any (·.fenced s.curCore s.curSlot) || s.replies.any (·.req.fenced s.curCore s.curSlot) then s.waitFor .retry
    else s.advance x.fld) s
/-- The instruction-cache lines that stay after ISYNC over a range; a range that wraps takes all (R274). -/
def isyncKeep (a n : Word) (b : CodeBlock) : Bool :=
  n == 0 || (a.toNat + n.toNat ≤ 2 ^ 64 && (b.va + 8 ≤ a.toNat || a.toNat + n.toNat ≤ b.va))
/-- ISYNC (R274). -/
def execIsync (x : RR) (s : State) : Out :=
  gate (.isync x) (fun s => limits s [(x.fld.f == 1 && (x.fld.d != 0 || x.fld.s != 0), x.fld.last)]) (fun s =>
    let a := s.w x.fld.d
    let n := s.w x.fld.s
    (s.modCurK fun k => { k with icache := if x.fld.f = 1 then [] else k.icache.filter (isyncKeep a n) }).advance x.fld) s

/-! ## Atomics -/

/-- What an atomic leaves at its location, where it writes it (R276-R280); m is the old value of n bytes. -/
def atomicNew (op : ReqOp) (n m : Nat) : Option Nat :=
  match op with
  | .amo o v => some (amoFn o n m v.toNat)
  | .amov o v _ => some (amoFn (amovOp o) n m v.toNat)
  | .cas old new _ => if m % 2 ^ (8 * n) = old.toNat % 2 ^ (8 * n) then some (new.toNat % 2 ^ (8 * n)) else none
  | .cas16 o0 o1 w0 w1 _ => if m = o1.toNat * 2 ^ 64 + o0.toNat then some (w1.toNat * 2 ^ 64 + w0.toNat) else none
  | _ => none
/-- The scope whose unit executes an atomic: its sc, or the default of its place (R275). -/
def atomicScope (f : Fld) : Place → Nat
  | .own _ | .remote _ => if f.sc = 0 then 1 else f.sc
  | .dram _ | .hub _ => if f.sc = 0 then 3 else f.sc
  | .host _ | .pod _ => if f.sc = 0 then 6 else f.sc
/-- The class of the place has a unit at this scope (R142, R275). -/
def atomicClassOk (sc : Nat) : Place → Bool
  | .own _ | .remote _ => sc == 1
  | .dram _ => 2 ≤ sc
  | .host _ => 5 ≤ sc
  | .pod pa => !paHubReg pa && (5 ≤ sc || (sc == 2 && paClass pa == 0))
  | .hub _ => false
/-- The FP atomics that the executing task has issued in its phase (R160). -/
def State.fpCount (s : State) : Nat := get 0 (s.hearth s.cur.st.hearth).det.seqs (s.cur.taskid.bits 47 0)
/-- An FP atomic of a deterministic task takes the task's next sequence number, wherever its location lies (R160, R281). -/
def State.countFp (s : State) (op : ReqOp) : State :=
  match op with
  | .amo o _ =>
    if s.cur.st.det && 8 ≤ o then
      s.modHearth s.cur.st.hearth fun q =>
        { q with det := { q.det with seqs := put q.det.seqs (s.cur.taskid.bits 47 0) (s.fpCount + 1) } }
    else s
  | _ => s
/-- An atomic at the bank of the issuing core (R266, R275): `wr` writes the value that it returns. -/
def State.atomicOwn (s : State) (f : Fld) (a : Word) (off n : Nat) (op : ReqOp) (wr : Nat → State → State) : State :=
  let t := s.cur
  let c := s.curCore
  if s.curK.lsRefusedN off n t.st.hearth t.st.priv true then s.trap { cause := 0x46, addr := a }
  else if s.ownBusy off n then s.waitFor .retry
  else
    let s := if 2 ≤ f.ord then (s.release c s.curSlot 1 []).raiseBank c off t.rc else s
    let m := leNat (s.coreBytes c s.curSlot off n)
    let s := match atomicNew op n m with
      | some v => s.coreWrite c s.curSlot off (leBytes n v)
      | none => s
    let s := if f.ord = 1 ∨ f.ord = 3 then s.acquireAt c s.curSlot (get {} s.curK.bankclk (bankOf off)) else s
    ((wr m (s.countFp op)).clearIdv).finish f
/-- Send an atomic to its unit (R51, R129, R143, R262, R277): with ord:rel or acqrel a release at its sc comes first. At clus or wider the
implicit release at die scope follows, and the atomic waits for that release's stamp. -/
def State.atomicSend (s : State) (f : Fld) (sc : Nat) (r : Req) : State :=
  let c := s.curCore
  let n := s.curSlot
  let r := { r with sc := if r.det && 2 ≤ sc && s.ownPackage r.pa then 4 else sc, seq := s.fpCount, hold := 2 ≤ sc,
                    stamp := if 2 ≤ f.ord && sc = 1 then some r.rc else none }
  let s := s.countFp r.op
  let s := if 2 ≤ f.ord then s.release c n sc [] else s
  let s := if 2 ≤ sc then s.implicitRelease c n [r.id] else s
  ((s.sendReq r true).clearIdv).finish f
/-- An atomic of n bytes at an address (R275): `wr` writes its value at once, `dst` when its reply comes. In deterministic mode one at
pod or sys scope, or to host memory, is refused first (R281, R453). -/
def State.atomic (s : State) (f : Fld) (a : Word) (n : Nat) (op : ReqOp) (wr : Nat → State → State) (dst : Dest) : State :=
  s.withPlace a .atomic fun pa _ s =>
    let p := s.place pa
    let sc := atomicScope f p
    if s.cur.st.det && (5 ≤ sc || paHost pa) then s.trap { cause := 0x16, addr := a }
    else if !atomicClassOk sc p then s.trap { cause := 0x0C, addr := a }
    else match p with
      | .own off => s.atomicOwn f a off n op wr
      | _ =>
        if inWindow a && migratable s.cur && f.cp != 3 then s.migrate (paCore pa)
        else if s.reqFull s.curCore then s.waitFor .retry
        else s.atomicSend f sc (s.newReq a pa n sc op dst)
/-- DETATOM for a value-returning atomic in deterministic mode (R161, R281). -/
def detAtom (s : State) (a : Word) : Option TrapRec := trapIf s.cur.st.det 0x16 a
/-- ALIGN (R501). -/
def alignTrap (a : Word) (n : Nat) : Option TrapRec := trapIf (a.toNat % n != 0) 0x0A a
/-- Write W[d] at once. -/
def wrW (d : Nat) (m : Nat) (s : State) : State := s.setW d (word m)

/-- AMO (R277): non-returning; ord plain or rel. -/
def execAmo (x : RR) (s : State) : Out :=
  let f := x.fld
  let addr (s : State) : Word := s.w f.s + word f.immU
  gate (.amo x) (fun s => firstTrap [
      limits s [(f.ord == 1 || f.ord == 3, f.pxmPos), (10 < f.t || f.rc != 0 || (f.sz != 2 && f.sz != 3), f.pxrPos), (f.f != 0, f.last)],
      trapIf (s.cur.st.det && 5 ≤ f.sc) 0x16 (addr s), alignTrap (addr s) (szBytes f.sz)])
    (fun s => s.atomic f (addr s) (szBytes f.sz) (.amo f.t (s.w f.d)) (fun _ s => s) .none) s
/-- AMOV (R278). -/
def execAmov (x : RR) (s : State) : Out :=
  let f := x.fld
  let addr (s : State) : Word := s.w f.s + word f.immU
  gate (.amov x) (fun s => firstTrap [
      limits s [(7 < f.t || f.rc != 0 || (f.sz != 2 && f.sz != 3), f.pxrPos), (f.f != 0, f.last)],
      detAtom s (addr s), alignTrap (addr s) (szBytes f.sz)])
    (fun s => s.atomic f (addr s) (szBytes f.sz) (.amov f.t (s.w f.d) (f.ord = 1 ∨ f.ord = 3)) (wrW f.d) (.w (s.cur.entry f.d) f.sz)) s
/-- CAS (R279). -/
def execCas (x : RR) (s : State) : Out :=
  let f := x.fld
  gate (.cas x) (fun s => firstTrap [
      limits s [(f.rc != 0 || (f.sz != 2 && f.sz != 3), f.pxrPos), (f.f != 0, f.last)],
      detAtom s (s.w f.s), alignTrap (s.w f.s) (szBytes f.sz)])
    (fun s => s.atomic f (s.w f.s) (szBytes f.sz) (.cas (s.w f.d) (s.w f.t) (f.ord = 1 ∨ f.ord = 3)) (wrW f.d)
      (.w (s.cur.entry f.d) f.sz)) s
/-- CAS16 (R280). -/
def execCas16 (x : RR) (s : State) : Out :=
  let f := x.fld
  gate (.cas16 x) (fun s => firstTrap [
      limits s [(f.rc != 0 || f.sz != 0 || f.t % 2 != 0, f.pxrPos), (f.f != 0 || f.d % 2 != 0, f.last)],
      detAtom s (s.w f.s), alignTrap (s.w f.s) 16])
    (fun s => s.atomic f (s.w f.s) 16
      (.cas16 (s.w f.d) (s.w (f.d + 1)) (s.w f.t) (s.w (f.t + 1)) (f.ord = 1 ∨ f.ord = 3))
      (fun m s => (s.setW f.d (word (m % 2 ^ 64))).setW (f.d + 1) (word (m / 2 ^ 64)))
      (.w2 (s.cur.entry f.d) (s.cur.entry (f.d + 1)))) s

/-! ## PUT, mailboxes and waits -/

/-- The PA of a PUT's target: local store of the package, else SCOPE (R282). -/
def State.putTarget (s : State) (a : Word) (k : Nat → State → State) : State :=
  s.withPlace a .write fun pa _ s =>
    if paClass pa = 1 ∧ s.ownPackage pa then k pa s else s.trap { cause := 0x0C, addr := a }
/-- Go on with the places of two accesses of one instruction, the lower address translated first (R453). -/
def State.withTwo (s : State) (a : Word) (ka : Acc) (b : Word) (kb : Acc) (go : Nat → Nat → State → State) : State :=
  if a.toNat ≤ b.toNat then s.withPlace a ka fun pa _ s => s.withPlace b kb fun pb _ s => go pa pb s
  else s.withPlace b kb fun pb _ s => s.withPlace a ka fun pa _ s => go pa pb s
/-- The local store of the issuing core that a PA lies in. -/
def State.ownOff (s : State) (pa : Nat) : Option Nat :=
  match s.place pa with
  | .own off => some off
  | _ => none
/-- PUT of 64 bytes from the issuing core's own local store (R282): translations and SCOPE of both addresses come before the check of the
source's bank (R453). -/
def State.putBlock (s : State) (d src : Word) (k : Nat → List Byte → State → State) : State :=
  s.withTwo d .write src .read fun pa spa s =>
    let badD := !(paClass pa == 1 && s.ownPackage pa)
    match s.ownOff spa with
    | none => s.trap { cause := 0x0C, addr := if badD && d.toNat ≤ src.toNat then d else src }
    | some off =>
      if badD then s.trap { cause := 0x0C, addr := d }
      else match s.curK.lsRefusedAt off 64 s.cur.st.hearth s.cur.st.priv false with
      | some i => s.trap { cause := 0x46, addr := src + word i }
      | none => if s.ownBusy off 64 then s.waitFor .retry else k pa (s.coreBytes s.curCore s.curSlot off 64) s
/-- Send a PUT (R282). -/
def State.putSend (s : State) (f : Fld) (a : Word) (pa : Nat) (bs : List Byte) : State :=
  if s.reqFull s.curCore then s.waitFor .retry
  else ((s.postStore f (s.newReq a pa bs.length f.sc (.put bs f.t) .none)).clearIdv).finish f
/-- ALIGN for the lower of two misaligned addresses (R495, R501). -/
def alignTwo (a b : Word) (n : Nat) : Option TrapRec :=
  if a.toNat % n ≠ 0 ∧ (b.toNat % n = 0 ∨ a.toNat ≤ b.toNat) then alignTrap a n else alignTrap b n
/-- PUT (R282): of two addresses that fail, the lower one's trap is reported (R453). -/
def execPut (x : RR) (s : State) : Out :=
  let f := x.fld
  gate (.put x) (fun s => firstTrap [
      limits s [(storeOrdBad f || f.ord == 3, f.pxmPos), (f.rc != 0 || 4 ≤ f.sz || (f.f == 1 && f.sz != 3), f.pxrPos)],
      if f.f = 0 then alignTrap (s.w f.d) (szBytes f.sz) else alignTwo (s.w f.d) (s.w f.s) 64])
    (fun s =>
      let d := s.w f.d
      let src := s.w f.s
      if f.f = 0 then s.putTarget d fun pa s => s.putSend f d pa (lowBytes (szBytes f.sz) src)
      else s.putBlock d src fun pa bs s => s.putSend f d pa bs) s

/-- The index of a hearth's mailbox counter (R283). -/
def mailIdx (h tag : Nat) : Nat := 16 * h + tag
/-- A waiter takes n from a counter and acquires its clock (R284). -/
def State.takeMail (s : State) (c slot tag n : Nat) (npc : Word) : State :=
  let i := mailIdx (s.slot c slot).st.hearth tag
  let b := get {} (s.core c).mail i
  let s := s.modCore c fun k => { k with mail := put k.mail i { b with value := b.value - BitVec.ofNat 32 n } }
  (s.acquireAt c slot b.clk).modSlot c slot fun t => { t with wait := .none, pc := npc }
/-- The counter holds what a waiter waits for. -/
def State.mailReady (s : State) (c slot tag n : Nat) : Bool :=
  n ≤ (get {} (s.core c).mail (mailIdx (s.slot c slot).st.hearth tag)).value.toNat
/-- Test every waiter on a counter of a hearth, in ascending slot order (R284). -/
def State.testMail (s : State) (c h tag : Nat) : State :=
  (List.range 16).foldl (fun s n =>
    match (s.slot c n).wait with
    | .mail tag' m npc =>
      if tag' = tag ∧ (s.slot c n).st.hearth = h ∧ s.mailReady c n tag m then s.takeMail c n tag m npc else s
    | _ => s) s
/-- WAITM (R284). -/
def execWaitm (x : RI) (s : State) : Out :=
  gate (.waitm x) (fun _ => none) (fun s =>
    let f := x.fld
    if s.mailReady s.curCore s.curSlot f.d f.immU then s.takeMail s.curCore s.curSlot f.d f.immU (s.npc f)
    else s.waitFor (.mail f.d f.immU (s.npc f))) s
/-- WAIT (R285): a deferred fault that it names is taken first (R453, R454). -/
def execWait (x : Z9) (s : State) : Out :=
  let f := x.fld
  let l := natBits f.immU 9 3
  let st := natBits f.immU 6 3
  let cp := natBits f.immU 3 3
  let tl := natBits f.immU 0 3
  match namedFault s.cur l st cp tl with
  | some d => .next (s.consume d)
  | none =>
    gate (.wait x) (fun s => limits s [(4096 ≤ f.immU, f.immPos)]) (fun s =>
      let t := s.cur
      if t.loads ≤ l ∧ t.stores ≤ st ∧ t.copies ≤ cp ∧ t.tiles ≤ tl then s.advance f else s.waitFor (.counts l st cp tl)) s
/-- WATCH (R286). A reduction object's GEN may be watched (R442); its watch completes at once, which R286 permits (log 20). -/
def execWatch (x : RR) (s : State) : Out :=
  let f := x.fld
  gate (.watch x) (fun s => firstTrap [limits s [(f.f != 0, f.last)], alignTrap (s.w f.s) 8]) (fun s =>
    let a := s.w f.s
    let v := s.w f.d
    s.withPlace a .read fun pa _ s =>
      let t := s.cur
      match s.place pa with
      | .own off =>
        if s.curK.lsRefusedN off 8 t.st.hearth t.st.priv false then s.trap { cause := 0x46, addr := a }
        else if s.ownBusy off 8 then s.waitFor .retry
        else if word (leNat (s.coreBytes s.curCore s.curSlot off 8)) ≠ v then s.advance f
        else s.waitFor (.watch pa (s.npc f))
      | .dram pa =>
        if s.unstamped s.curCore s.curSlot || s.reqFull s.curCore then s.waitFor .retry
        else
          let s := (s.sendReq (s.newReq a pa 8 0 (.watch v (s.npc f)) .none) false)
          s.waitFor (.watch pa (s.npc f))
      | .hub pa =>
        match if s.ownPackage pa then hubReg (pa % 2 ^ 45) else none with
        | some (.reduction _ _ 3) =>
          match hubCheck t.st.priv t.st.hearth (pa % 2 ^ 45) with
          | some e => s.trap { cause := e, addr := a }
          | none => s.advance f
        | _ => s.trap { cause := 0x0C, addr := a }
      | _ => s.trap { cause := 0x0C, addr := a }) s
/-- SLEEP (R287). -/
def execSleep (x : RI) (s : State) : Out :=
  let f := x.fld
  gate (.sleep x) (fun s => limits s [(f.d != 0, f.last)]) (fun s =>
    if f.immU = 0 then s.advance f else s.waitFor (.sleep (s.curK.cycle.toNat + 64 * f.immU) (s.npc f))) s
/-- MIG (R288). -/
def execMig (x : RR) (s : State) : Out :=
  let f := x.fld
  gate (.mig x) (fun s =>
      let a := s.w f.s
      firstTrap [limits s [(f.d != 0 || f.f != 0, f.last)],
        trapIf (inWindow a && !coreExists ((a.toNat - lswin) / 2 ^ 18)) 0x0D a,
        trapIf (!inWindow a) 0x0C a])
    (fun s =>
      let c := ((s.w f.s).toNat - lswin) / 2 ^ 18
      if c = s.curCore ∨ !migratable s.cur then s.advance f else s.migrate c) s

end Sys2Proof.Machine
end

