-- ==== Sys2Proof/Machine/Barriers.lean ====
section
/-! DEFINITION. Barrier objects and the barrier instructions (R56-R61, R289-R293). -/

namespace Sys2Proof.Machine

/-- The number of objects of a level (R56). -/
def barCount (lev : Nat) : Nat :=
  match lev with
  | 2 | 4 => 32
  | 3 => 64
  | 5 => 16
  | _ => 0
/-- The object that a level and an index name on a core (R57): the pod's stands on package 0. -/
def State.barOn (s : State) (c lev idx : Nat) : BarId :=
  { lev := lev, idx := idx,
    unit := match lev with
      | 2 => clusterOf c
      | 3 => dieOf c
      | 4 => s.hub.package
      | _ => 0 }
/-- The index of an object in the state. -/
def barKey (b : BarId) : Nat := (b.lev * 2 ^ 12 + b.unit) * 128 + b.idx
/-- An object. -/
def State.bar (s : State) (b : BarId) : Barrier := get {} s.barriers (barKey b)
/-- Write an object. -/
def State.setBar (s : State) (b : BarId) (x : Barrier) : State := { s with barriers := put s.barriers (barKey b) x }

/-- BARLAST of an arrival (R45). -/
def barRecord (x : Barrier) (b : BarId) (drop phase : Bool) : BitVec 20 :=
  BitVec.ofNat 20 (x.epoch.toNat * 2 ^ 12 + 2 ^ 11 + (if drop then 2 ^ 10 else 0) + (if phase then 2 ^ 9 else 0) + b.idx % 64 * 2 ^ 3 + b.lev % 8)
/-- The record makes this arrival an over-arrival (R59, R61): same object and epoch, after a drop or in the phase that it names. -/
def overRecord (x : Barrier) (b : BarId) (r : BitVec 20) : Bool :=
  let n := r.toNat
  natBits n 11 1 == 1 && natBits n 0 3 == b.lev && natBits n 3 6 == b.idx && natBits n 12 8 == x.epoch.toNat &&
    (natBits n 10 1 == 1 || (natBits n 9 1 == 1) == x.phase)

/-- A waiter acquires at the end of a phase (R290): at pod level it only invalidates the read cache. -/
def State.barAcquire (s : State) (c n : Nat) (b : BarId) (clk : Clock) : State :=
  s.acquireAt c n (if b.lev = 5 then {} else clk)
/-- Wake one slot that waits at an object: -1 on FAIL; on OK a BARW receives the new phase, and the waiter acquires. A core whose clock is
stopped takes this after its restart (R416). -/
def State.wakeBar (s : State) (c n : Nat) (b : BarId) (ok phase : Bool) (clk : Clock) : State :=
  match (s.slot c n).wait with
  | .barrier b' d _ arrived npc =>
    if b' ≠ b then s
    else if (s.core c).pw.paused then { s with crossings := s.crossings ++ [(c, .barrier n b ok phase clk)] }
    else
      let s := s.modSlot c n fun t =>
        let t := if !ok then t.setW d (wordI (-1)) else if arrived then t else t.setW d (if phase then 1 else 0)
        { t with wait := .none, pc := npc }
      if ok then s.barAcquire c n b clk else s
  | _ => s
/-- A core takes a crossing that has waited for its clock (R416). -/
def State.cross (s : State) (c : Nat) : Crossing → State
  | .watch clk w => s.fireWatch clk w
  | .barrier n b ok phase clk => s.wakeBar c n b ok phase clk
/-- A core whose clock has restarted takes the crossings in their order. -/
def State.takeCrossings (s : State) (c : Nat) : State :=
  let mine := s.crossings.filter (·.1 == c)
  mine.foldl (fun s e => s.cross c e.2) { s with crossings := s.crossings.filter (·.1 != c) }
/-- WakeAll (R59). -/
def State.wakeAll (s : State) (b : BarId) (ok : Bool) : State :=
  let x := s.bar b
  s.coreIds.foldl (fun s c => (List.range 16).foldl (fun s n => s.wakeBar c n b ok x.phase x.last) s) s
/-- Some slot waits at an object. -/
def State.barWaiters (s : State) (b : BarId) : Bool :=
  s.cores.any fun q => q.2.slots.any fun e => match e.2.wait with
    | .barrier b' .. => b' == b
    | _ => false

/-- The outcome of an arrival (R59). -/
inductive Arrived where
  | ok (phase : Bool)
  | fail
  | over
  deriving DecidableEq, Repr
/-- Arrive (R59), with the stamp of the arriver's release (R290). -/
def State.arrive (s : State) (b : BarId) (drop : Bool) (record : BitVec 20) (stamp : Clock) : Arrived × State :=
  let x := s.bar b
  if x.poison then (.fail, s)
  else if x.expected = 0 || overRecord x b record || (drop && x.nexp == 0) then
    (.over, (s.setBar b { x with poison := true }).wakeAll b false)
  else
    let nexp := if drop then x.nexp - 1 else x.nexp
    let now := x.now.max stamp
    if x.arrived + 1 = x.expected then
      (.ok x.phase,
        (s.setBar b { x with nexp := nexp, phase := !x.phase, arrived := 0, expected := nexp, now := {}, last := now }).wakeAll b true)
    else (.ok x.phase, s.setBar b { x with nexp := nexp, arrived := x.arrived + 1, now := now })

/-- An arrival by an engine (R60): one, without drop and without a record. -/
def State.engineArrive (s : State) (b : BarId) (stamp : Clock) : Arrived × State := s.arrive b false 0 stamp

/-- The limits of a barrier instruction (R289). -/
def barLimits (f : Fld) (s : State) : Option TrapRec :=
  let badSc := f.sc < 2 || 5 < f.sc
  limits s [(badSc || f.ord != 0 || f.wt != 0 || f.cp != 0, f.pxmPos), (!badSc && barCount f.sc ≤ f.immU, f.immPos)]
/-- The object that a barrier instruction names. -/
def State.barOf (s : State) (f : Fld) : BarId := s.barOn s.curCore f.sc f.immU
/-- HEARTH for another hearth's object (R60, R291). -/
def barHearth (s : State) (f : Fld) : Option TrapRec := trapIf ((s.bar (s.barOf f)).hearth != s.cur.st.hearth) 0x0E 0
/-- DETWAIT in deterministic mode (R293). -/
def detWait (s : State) (a : Word) : Option TrapRec := trapIf s.cur.st.det 0x17 a
/-- The checks of the arrivals and of BARW. -/
def barChk (f : Fld) (s : State) : Option TrapRec := firstTrap [barLimits f s, detWait s 0, barHearth s f]

/-- An arrival by the executing thread (R290, R291): it releases at the barrier's level, and arrives with its stamp. `wait` is BARR's. -/
def State.threadArrive (s : State) (f : Fld) (drop wait : Bool) : State :=
  let c := s.curCore
  let n := s.curSlot
  let b := s.barOf f
  let s := (s.release c n f.sc []).drain c 640
  let x := s.bar b
  match s.arrive b drop s.cur.barlast s.cur.rc with
  | (.fail, s) => s.result f f.d (wordI (-1))
  | (.over, s) => s.trap { cause := 0x18, addr := word (b.idx * 8 + b.lev) }
  | (.ok p, s) =>
    let s := (s.modCur fun t => { t with barlast := barRecord x b drop p }).setW f.d (if p then 1 else 0)
    if !wait then s.advance f
    else if (s.bar b).phase ≠ p then (s.barAcquire c n b (s.bar b).last).advance f
    else s.waitFor (.barrier b f.d p true (s.npc f))

/-- BARR: arrive and wait for the end of the phase (R291). -/
def execBarr (x : RI) (s : State) : Out := gate (.barr x) (barChk x.fld) (fun s => s.threadArrive x.fld false true) s
/-- BARA: arrive without waiting. -/
def execBara (x : RI) (s : State) : Out := gate (.bara x) (barChk x.fld) (fun s => s.threadArrive x.fld false false) s
/-- BARD: arrive and drop out. -/
def execBard (x : RI) (s : State) : Out := gate (.bard x) (barChk x.fld) (fun s => s.threadArrive x.fld true false) s
/-- BARW: wait past a phase (R291). -/
def execBarw (x : RI) (s : State) : Out :=
  gate (.barw x) (barChk x.fld) (fun s =>
    let f := x.fld
    let b := s.barOf f
    let q := s.bar b
    let w := (s.w f.d).getLsbD 0
    if q.poison then s.result f f.d (wordI (-1))
    else if q.phase ≠ w then (s.barAcquire s.curCore s.curSlot b q.last).result f f.d (if q.phase then 1 else 0)
    else s.waitFor (.barrier b f.d w false (s.npc f))) s
/-- BARI (R292). -/
def execBari (x : RI) (s : State) : Out :=
  let f := x.fld
  gate (.bari x) (fun s =>
      let b := s.barOf f
      let q := s.bar b
      firstTrap [barLimits f s, trapIf (2 ^ 24 ≤ (s.w f.d).toNat) 0x0D (s.w f.d),
        trapIf (s.cur.st.priv = 1 && q.hearth != s.cur.st.hearth && (q.expected != 0 || s.barWaiters b)) 0x0E 0])
    (fun s =>
      let b := s.barOf f
      let s := s.wakeAll b false
      let q := s.bar b
      let n := BitVec.ofNat 24 (s.w f.d).toNat
      (s.setBar b { q with expected := n, nexp := n, arrived := 0, phase := false, poison := false, hearth := s.cur.st.hearth,
                           epoch := q.epoch + 1, now := {} }).advance f) s

end Sys2Proof.Machine
end

