-- ==== Sys2Proof/Machine/Elements.lean ====
section
/-! DEFINITION. Vector registers as elements, and accesses to memory element by element (R113-R116, R305, R316-R320, R457). -/

namespace Sys2Proof.Machine

/-! ## Elements of a register image (R305) -/

/-- The code of element l of an image. -/
def elem (et : Nat) (x : List (BitVec 32)) (l : Nat) : Nat :=
  if etBits et = 64 then (lane x (2 * l)).toNat + (lane x (2 * l + 1)).toNat * 2 ^ 32 else (lane x l).toNat % 2 ^ etBits et
/-- What a store takes of element l of an image: a 64-bit element, or its whole lane, since a formatted page takes the FP32 lane (R317). -/
def storeLane (et : Nat) (x : List (BitVec 32)) (l : Nat) : Nat :=
  if etBits et = 64 then elem et x l else (lane x l).toNat
/-- The lane of an element narrower than 64 bits: i8 and i16 are sign-extended, the others zero-extended. -/
def laneOf (et c : Nat) : BitVec 32 :=
  if et = 7 ∨ et = 8 then BitVec.ofInt 32 (signed (etBits et) (c % 2 ^ etBits et)) else BitVec.ofNat 32 (c % 2 ^ etBits et)
/-- An image in which g gives the new elements; the other lanes keep their values, and a 64-bit type zeroes lanes 32 to 63. -/
def buildVec (et : Nat) (old : List (BitVec 32)) (g : Nat → Option Nat) : List (BitVec 32) :=
  (List.range 64).map fun j =>
    if etBits et = 64 then
      if 32 ≤ j then 0
      else match g (j / 2) with
        | some c => BitVec.ofNat 32 (c / 2 ^ (32 * (j % 2)))
        | none => lane old j
    else match g j with
      | some c => laneOf et c
      | none => lane old j
/-- Element l is active (R306). -/
def active (f : Fld) (t : Slot) (l : Nat) : Bool := f.m == 0 || (t.mask f.m).getLsbD l
/-- No element below n is active. -/
def noneActive (f : Fld) (t : Slot) (n : Nat) : Bool := (List.range n).all fun l => !active f t l
/-- The image that an instruction writes (R306): op on active elements, and on the others zero with mm = 1. Elements from n on keep
their values. An all-zero mask zeroes the whole register, or leaves it unchanged. -/
def vimage (f : Fld) (t : Slot) (et n : Nat) (old : List (BitVec 32)) (op : Nat → Nat) : List (BitVec 32) :=
  if noneActive f t n then (if f.mm = 1 then zeroVec else old)
  else buildVec et old fun l => if n ≤ l then none else if active f t l then some (op l) else if f.mm = 1 then some 0 else none

/-! ## Page formats (R113-R116, R317) -/

/-- The element type that names a page format. -/
def fmtEt (fmt : Nat) : Nat :=
  match fmt with
  | 1 => 0
  | 2 => 1
  | 3 => 2
  | 4 => 3
  | 5 => 4
  | 6 => 5
  | _ => 7
/-- The size of an element in memory, in bytes; an E2M1 element lies in one byte. -/
def etBytes (et : Nat) : Nat := max 1 (etBits et / 8)
/-- The elements of a block of a geometry (R105). -/
def blockOf (geom : Nat) : Nat := if geom = 1 then 16 else 32
/-- ScaleAddress (R114). -/
def scaleAddr (a : Attr) (va : Word) : Word :=
  let o := (va - word a.base).toNat
  word a.base + wordI (a.sofs * 4096) + word (2 * (o / (blockOf a.geom * etBits (fmtEt a.fmt) / 8)))
/-- The code of an element in the bytes that hold it: an E2M1 element of odd index is the high nibble (R168, R316). -/
def nibble (et l v : Nat) : Nat := if et = 5 then (if l % 2 = 1 then v / 16 else v) % 16 else v
/-- The FP32 value of an element of a formatted page (R114, R169, R177). -/
def decodeFp32 (fmt : Nat) (scale : Option (Nat × Nat)) (c : Nat) : Nat :=
  match scale with
  | some (s, sp) => fp32.round 0 0 0 0 (blockedValue fmt c s sp)
  | none => fp32.round 0 0 0 0 (pageValue fmt c)
/-- Write element l of an image from the bytes read (R305, R317). -/
def putElem (et fmt : Nat) (scale : Option (Nat × Nat)) (l v : Nat) (x : List (BitVec 32)) : List (BitVec 32) :=
  let c := nibble et l v
  if fmt ≠ 0 then setNth x l (BitVec.ofNat 32 (decodeFp32 fmt scale c))
  else if etBits et = 64 then setNth (setNth x (2 * l) (BitVec.ofNat 32 c)) (2 * l + 1) (BitVec.ofNat 32 (c / 2 ^ 32))
  else setNth x l (laneOf et c)
/-- The code that an FP32 lane encodes to on a page without blocks (R116). An FP32 page takes the lane as it is, and with sat the
largest finite value for an infinity (R172, log 113). -/
def encodePage (fmt rm sat c : Nat) : Nat :=
  let x := fp32.decode (c % 2 ^ 32)
  match fmt with
  | 1 => if sat = 1 ∧ c % 2 ^ 31 = 0x7F800000 then c % 2 ^ 32 - 1 else c % 2 ^ 32
  | 2 => fp16.round rm sat 0 0 x
  | 3 => bf16.round rm sat 0 0 x
  | 4 => e4m3.round rm sat 0 0 x
  | 5 => e5m2.round rm sat 0 0 x
  | _ => (x.toRange rm (-128) 127 % 256).toNat

/-! ## Resolving an element -/

/-- Where an element lies and how it is read, or why it cannot be accessed. -/
inductive ElemTr where
  | ok (pa : Nat) (a : Attr) (scale : Option (Nat × Nat))
  /-- A faulting element (R457): cause, and the address reported. -/
  | bad (cause : Nat) (addr : Word)
  /-- The whole instruction traps. -/
  | trap (cause : Nat) (addr : Word)
  /-- The element waits for a walk or for a home. -/
  | wait
  deriving DecidableEq, Repr

/-- Bytes as a thread of a slot reads them at this moment: own stores first (R121, R156), then local store, a home that has applied
RC, host memory or a register. None where the home has not; a cause where they cannot be read. -/
def State.readNow (s : State) (c n pa len : Nat) : Option (Except Nat (List Byte)) :=
  let t := s.slot c n
  if s.unstamped c n || s.postedOver c n pa len then none
  else if paClass pa = 1 ∧ s.ownPackage pa then
    let k := s.core (paCore pa)
    if paCore pa ≠ c ∧ k.bootTest then none
    else if k.lsRefusedN (paOff pa) len t.st.hearth t.st.priv false then some (.error 0x46)
    else if s.lsStalled (paCore pa) (paOff pa) len then none
    else some (.ok (if paCore pa = c then s.coreBytes c n (paOff pa) len else s.readLS (paCore pa) (paOff pa) len))
  else
    let fwd := s.fwdOf c t pa len
    if fwd.length = len then some (.ok ((List.range len).map fun i => get 0 fwd i))
    else if paClass pa = 0 ∧ s.ownPackage pa then
      if !s.homeReady (homeOf pa) t.rc then none
      else if (s.poisonPast pa len fwd).isSome then some (.error 0x47)
      else some (.ok (overlay fwd (if t.st.det then (List.range len).map fun i => s.detByte t.st.hearth t.taskid (pa + i)
        else s.bytes pa len)))
    else if paHost pa ∧ !s.hub.linkUp then some (.error 0x47)
    else if s.farRefuses pa then some (.error 0x46)
    else some (.ok (overlay fwd (s.unitBytes pa len)))

/-- Resolve an element at an address for the executing thread (R317, R457): translation, format, scale pair and bank owner. -/
def State.resolve (s : State) (va : Word) (k : Acc) (et : Nat) : ElemTr × State :=
  let c := s.curCore
  let n := s.curSlot
  let t := s.cur
  match s.translateCur va k with
  | (.fault e, s) => (.bad e va, s)
  | (.wait, s) => (.wait, s)
  | (.ok pa a, s) =>
    if a.fmt ≠ 0 ∧ (fmtEt a.fmt ≠ et ∨ (k = .write ∧ a.geom ≠ 0)) then (.trap 0x0F va, s)
    else
      let sz := etBytes et
      let own : Option ElemTr :=
        match s.place pa with
        | .own off =>
          if (s.core c).lsRefusedN off sz t.st.hearth t.st.priv (k = .write) then some (.bad 0x46 va)
          else if s.ownBusy off sz then some .wait else none
        | .hub pa => match hubCheck t.st.priv t.st.hearth (pa % 2 ^ 45) with
          | some e => some (if e = 0x45 then .bad e va else .trap e va)
          | none => none
        | _ => none
      match own with
      | some r => (r, s)
      | none =>
        if a.fmt = 0 ∨ a.geom = 0 ∨ k = .write then (.ok pa a none, s)
        else
          let sa := scaleAddr a va
          match s.translateCur sa .read with
          | (.fault e, s) => (.bad e sa, s)
          | (.wait, s) => (.wait, s)
          | (.ok spa b, s) =>
            if b.fmt ≠ 0 then (.trap 0x0F sa, s)
            else match s.readNow c n spa 2 with
              | none => (.wait, s)
              | some (.error e) => (.bad e sa, s)
              | some (.ok bs) => (.ok pa a (some ((bs.getD 0 0).toNat, (bs.getD 1 0).toNat)), s)

/-- An element of an access: its index, address and, for a store, its code. -/
structure Elem where
  l : Nat
  va : Word
  code : Nat := 0
  /-- The code holds both nibbles of an E2M1 byte. -/
  both : Bool := false
  deriving DecidableEq, Repr
/-- Resolve elements in order. -/
def State.resolveAll (s : State) (k : Acc) (et : Nat) : List Elem → List (Elem × ElemTr) × State
  | [] => ([], s)
  | e :: r =>
    let (x, s) := s.resolve e.va k et
    let (l, s) := s.resolveAll k et r
    ((e, x) :: l, s)

/-- What a set of elements comes to before any is accessed (R457): the elements that are accessed and those that park, or a trap of the
whole instruction, or a wait. -/
inductive Plan where
  | go (ok : List (Elem × Nat × Attr × Option (Nat × Nat))) (parked : List (Elem × Nat × Word))
  | trap (r : TrapRec)
  | wait
  /-- A walk met poison inside a region (R478). -/
  | restart (addr : Word)
  deriving DecidableEq, Repr
/-- The entries that a slot's replay queue holds, and those that the pops of its streams will add. -/
def Slot.parkedCount (t : Slot) : Nat := t.replay.length + (t.streams.map (·.2.parked.length)).sum
/-- Judge resolved elements. -/
def plan (t : Slot) (l : List (Elem × ElemTr)) : Plan :=
  match l.findSome? fun e => match e.2 with
      | .trap c a => some ({ cause := c, addr := a } : TrapRec)
      | _ => none with
  | some r => .trap r
  | none =>
    if l.any fun e => e.2 == .wait then .wait
    else
      let bad := l.filterMap fun e => match e.2 with
        | .bad c a => some (e.1, c, a)
        | _ => none
      match bad.find? (fun b => b.2.1 == 0x47 && t.st.idv) with
      | some b => .restart b.2.2
      | none =>
        match bad with
        | b :: _ =>
          if 32 < t.parkedCount + bad.length then
            .trap { cause := b.2.1, addr := b.2.2, cls := if b.2.1 = 0x47 then 4 else 0 }
          else .go (l.filterMap fun e => match e.2 with
            | .ok pa a sc => some (e.1, pa, a, sc)
            | _ => none) bad
        | [] => .go (l.filterMap fun e => match e.2 with
            | .ok pa a sc => some (e.1, pa, a, sc)
            | _ => none) []
/-- ALIGN at the lowest misaligned address of some elements (R316, R501). -/
def elemAlign (et : Nat) (es : List Elem) : Option TrapRec :=
  match (es.filter fun e => e.va.toNat % etBytes et != 0).map (fun e => e.va.toNat) with
  | [] => none
  | a :: r => some { cause := 0x0A, addr := word (r.foldl min a) }
/-- The entries of faulting elements (R375), of an instruction that counts with a group and updates a load slot (R192). -/
def State.replays (s : State) (kind vreg et sat rm cp group : Nat) (xs : Option Nat) (bad : List (Elem × Nat × Word)) : List Replay :=
  bad.map fun b =>
    { cause := b.2.1, kind := kind, vreg := vreg, lane := b.1.l, va := b.2.2, elem := b.1.va, et := et, sat := sat, rm := rm,
      cp := cp, value := word b.1.code, group := group, issued := s.curK.cycle.toNat, xs := xs }
/-- Park entries in the replay queue (R375, R457): the slot traps at its next boundary (R458). -/
def Slot.park (t : Slot) (es : List Replay) : Slot :=
  if es = [] then t else { t with replay := t.replay ++ es, replayPend := true, st := { t.st with vclean := false } }
/-- Park the elements of a store. -/
def State.parkStores (s : State) (kind vreg et sat rm cp : Nat) (bad : List (Elem × Nat × Word)) : State :=
  if bad = [] then s
  else
    let es := s.replays kind vreg et sat rm cp 0 none bad
    s.modCur (·.park es)
/-- What the faults that reading elements has met add to those of a plan (R457). -/
inductive Judged where
  | go (parked : List (Elem × Nat × Word))
  | trap (r : TrapRec)
  | restart (addr : Word)
  deriving DecidableEq, Repr
/-- Judge the elements of a register that cannot be read later: those whose bank check fails are faulting elements, and those that read
poison restart a region or park, and with no free entry are consumed at once (log 25). -/
def judge (t : Slot) (bad bad2 : List (Elem × Nat × Word)) : Judged :=
  let hard := sortBy (fun b => b.1.l) (bad ++ bad2.filter fun b => b.2.1 != 0x47)
  let all := sortBy (fun b => b.1.l) (bad ++ bad2)
  match hard with
  | b :: _ =>
    if 32 < t.parkedCount + hard.length then .trap { cause := b.2.1, addr := b.2.2, cls := if b.2.1 = 0x47 then 4 else 0 }
    else match bad2.find? fun b => b.2.1 == 0x47 with
      | some p => if t.st.idv then .restart p.2.2
        else if 32 < t.parkedCount + all.length then .trap { cause := 0x47, cls := 4, addr := p.2.2 } else .go all
      | none => .go all
  | [] => match bad2 with
    | p :: _ => if t.st.idv then .restart p.2.2
      else if 32 < t.parkedCount + bad2.length then .trap { cause := 0x47, cls := 4, addr := p.2.2 } else .go all
    | [] => .go []
/-- Some of an instruction's elements have not arrived (R192): a request or reply of its group, or a parked element. -/
def State.groupLeft (s : State) (c n group : Nat) : Bool :=
  let hit (r : Req) : Bool := r.core == c && r.slot == n && r.group == group
  s.reqs.any hit || s.replies.any (fun p => hit p.req) || (s.slot c n).replay.any fun r => r.group == group && (r.kind == 0 || r.kind == 2)

/-! ## Storing elements -/

/-- Two E2M1 elements of one instruction that share a byte are stored together (R319). -/
def pairNibbles : List (Elem × Nat × Attr × Option (Nat × Nat)) → List (Elem × Nat × Attr × Option (Nat × Nat))
  | x :: y :: r =>
    if x.2.1 = y.2.1 ∧ x.1.l % 2 = 0 ∧ y.1.l = x.1.l + 1 then
      ({ x.1 with code := x.1.code % 16 + y.1.code % 16 * 16, both := true }, x.2) :: pairNibbles r
    else x :: pairNibbles (y :: r)
  | l => l
/-- The bytes of an element's store; a lone E2M1 element keeps the other nibble as the thread reads it at this moment (log 24). -/
def State.elemBytes (s : State) (et rm sat : Nat) (e : Elem) (pa : Nat) (a : Attr) : Option (List Byte) :=
  if a.fmt ≠ 0 then some (leBytes (etBytes et) (encodePage a.fmt rm sat e.code))
  else if et = 5 ∧ e.both then some [BitVec.ofNat 8 e.code]
  else if et = 5 then
    match s.readNow s.curCore s.curSlot pa 1 with
    | some (.ok bs) =>
      let o := (bs.getD 0 0).toNat
      some [BitVec.ofNat 8 (if e.l % 2 = 1 then o % 16 + e.code % 16 * 16 else o / 16 * 16 + e.code % 16)]
    | _ => none
  else some (leBytes (etBytes et) e.code)
/-- Append a store to the log, spilling for it where the ring has open entries to spill (R140, R141). -/
def State.logForce (s : State) (pa : Nat) (bs : List Byte) (kind : Nat) : Option State :=
  match s.logStore s.curCore s.curSlot pa bs kind with
  | (true, s) => some s
  | (false, s) => match s.logStore s.curCore s.curSlot pa bs kind with
    | (true, s) => some s
    | (false, _) => none
/-- How the elements of one instruction are stored. -/
structure StoreMode where
  et : Nat
  rm : Nat := 0
  sat : Nat := 0
  rel : Bool := false
  sc : Nat := 0
  cp : Nat := 3
  deriving DecidableEq, Repr
/-- An element's store leaves as a request: to another core's bank, with a release to the own one, or in boot test. -/
def State.posts (s : State) (m : StoreMode) (pa : Nat) : Bool :=
  match s.place pa with
  | .own _ => m.rel
  | .remote _ => true
  | _ => s.curK.bootTest
/-- Store one element (R319): in place, in the log, or posted to another core's bank or, with a release, to the own one (R266). The
flag says that a request of the instruction is counted already. -/
def State.storeElem (s : State) (m : StoreMode) (group : Nat) (counted : Bool) (e : Elem) (pa : Nat) (a : Attr) : Option (Bool × State) :=
  let c := s.curCore
  let n := s.curSlot
  match s.elemBytes m.et m.rm m.sat e pa a with
  | none => none
  | some bs =>
    let post (s : State) (op : ReqOp) : Option (Bool × State) :=
      let r := { s.newReq e.va pa bs.length m.sc op .none with
                 group := group, hold := m.rel && 2 ≤ m.sc, stamp := if m.rel && m.sc < 2 then some s.cur.rc else none }
      some (true, s.sendReq r (!counted))
    match s.place pa with
    | .own off => if m.rel then post s (.store bs) else some (counted, s.coreWrite c n off bs)
    | .remote _ => post s (.store bs)
    | _ =>
      if s.curK.bootTest then post s (.boot bs)
      else (s.logForce pa bs (if (if m.cp = 3 then a.cp else max m.cp a.cp) = 2 then 2 else 1)).map fun s => (counted, s)
/-- Store elements in order; none where one must wait. -/
def State.storeAll (s : State) (m : StoreMode) (group : Nat) : Bool → List (Elem × Nat × Attr × Option (Nat × Nat)) → Option State
  | _, [] => some s
  | counted, (e, pa, a, _) :: r => match s.storeElem m group counted e pa a with
    | none => none
    | some (counted, s) => s.storeAll m group counted r
/-- After the entries of a store with ord:rel the segment ends (R319); the requests that it posted follow the stamp. -/
def State.endStores (s : State) (m : StoreMode) (group : Nat) : State :=
  if !m.rel then s
  else
    let ids := ((s.reqs.filter fun r => r.group == group && r.core == s.curCore).map (·.id))
    if 5 ≤ m.sc then s.podRelease s.curCore s.curSlot m.sc ids
    else s.release s.curCore s.curSlot m.sc (if 2 ≤ m.sc then ids else [])

/-- The result of storing elements. -/
inductive Stored where
  | ok (s : State)
  | trap (r : TrapRec) (s : State)
  | wait (s : State)
  | restart (addr : Word) (s : State)
  deriving DecidableEq, Repr
/-- Store elements of an instruction whose register is vreg (R319, R320, R457). rm = sr is illegal on a formatted page (R317): it is
refused at the operand parcel. -/
def State.storeElems (s : State) (m : StoreMode) (kind vreg : Nat) (srPos : Word) (es : List Elem) : Stored :=
  match elemAlign m.et es with
  | some r => .trap r s
  | none =>
    let (l, s') := s.resolveAll .write m.et es
    match plan s.cur l with
    | .trap r => .trap r s'
    | .wait => .wait s'
    | .restart a => .restart a s'
    | .go ok bad =>
      if m.rm = 5 ∧ ok.any (fun x => x.2.2.1.fmt != 0) then .trap { cause := 0x03, addr := srPos } s'
      else if (s'.curK.storesStall && !ok.isEmpty) || (s'.reqFull s.curCore && ok.any (fun x => s'.posts m x.2.1)) then .wait s'
      else
        let s' := if m.rel && 5 ≤ m.sc then s'.podPrepare s'.curCore s'.curSlot m.sc else s'
        let group := s'.nextId
        match s'.storeAll m group false (if m.et = 5 then pairNibbles ok else ok) with
        | none => .wait (s'.makeRoomAt s'.curCore s'.curSlot)
        | some s => .ok ((s.endStores m group).parkStores kind vreg m.et m.sat m.rm m.cp bad)

/-! ## Loading elements -/

/-- The pages of a load that decode say so in its destination. -/
def elemDest (vreg et : Nat) (e : Elem) (a : Attr) (scale : Option (Nat × Nat)) : Dest := .v vreg e.l et a.fmt scale
/-- The homes of an instruction's elements read their lines (R489). -/
def State.readElems (s : State) (l : List (Elem × Nat × Attr × Option (Nat × Nat))) : State :=
  if s.latent.isEmpty then s else l.foldl (fun s e => s.readLines (s.readFor s.curCore s.curSlot e.1.va) e.2.1 8) s
/-- Read elements now into an image (R318): the image with the parked ones, or a wait. -/
def State.loadNow (s : State) (et : Nat) (x : List (BitVec 32)) :
    List (Elem × Nat × Attr × Option (Nat × Nat)) → Option (List (BitVec 32) × List (Elem × Nat × Word))
  | [] => some (x, [])
  | (e, pa, a, sc) :: r =>
    match s.readNow s.curCore s.curSlot pa (etBytes et) with
    | none => none
    | some (.error c) => (s.loadNow et x r).map fun p => (p.1, (e, c, e.va) :: p.2)
    | some (.ok bs) => s.loadNow et (putElem et a.fmt sc e.l (leNat bs) x) r

end Sys2Proof.Machine
end

