-- ==== Sys2Proof/Machine/Streams.lean ====
section
/-! DEFINITION. Bound streams (R324-R329), and how a vector instruction reads and writes its registers through them. -/

namespace Sys2Proof.Machine

/-- The address of element l of a run of elements with a type (R316, R324). -/
def elemAt (et : Nat) (base : Word) (l : Nat) : Word := base + word (if et = 5 then l / 2 else l * etBytes et)
/-- The elements of vector k of a stream. -/
def streamElems (b : Stream) (k : Nat) : List Elem :=
  (List.range (etCount b.et)).map fun l => { l := l, va := elemAt b.et (b.base + word k * b.stride) l }
/-- STREAM with the record's address (R326, R495). -/
def streamTrap (b : Stream) : TrapRec := { cause := 0x10, addr := b.record }
/-- The stream checks of an instruction (R326). -/
def State.streamChk (s : State) (u : Use) : Option TrapRec :=
  let t := s.cur
  match u.rv.findSome? fun n => match get? t.streams n with
      | some b => if b.write || b.count ≤ b.next then some (streamTrap b) else none
      | none => none with
  | some r => some r
  | none => u.wv.findSome? fun n => match get? t.streams n with
      | some b => if !b.write || b.count ≤ b.next then some (streamTrap b) else none
      | none => none
/-- Change a stream of the executing thread. -/
def State.modStream (s : State) (n : Nat) (f : Stream → Stream) : State :=
  s.modCur fun t => match get? t.streams n with
    | some b => { t with streams := put t.streams n (f b) }
    | none => t
/-- A vector register as an instruction reads it: the next vector of a bound read stream (R326). -/
def State.vread (s : State) (n : Nat) : List (BitVec 32) :=
  match get? s.cur.streams n with
  | some b => get zeroVec b.fetched b.next
  | none => s.cur.vec n

/-- Write free values to the lanes of parked elements of a pop: no rule states what the popping instruction computes from them
(log 25). -/
def freeLanes (et : Nat) (x : List (BitVec 32)) (s : State) : List (Elem × Nat × Word) → List (BitVec 32) × State
  | [] => (x, s)
  | b :: r =>
    let (v, s) := s.free
    freeLanes et (putElem et 0 none b.1.l v.toNat x) s r
/-- A fetched element vector updates the stream's load slot (R192, R327), for the executing thread. -/
def State.streamUpdate (s : State) (b : Stream) : State :=
  match b.xs with
  | some xs => s.siteUpdate xs 2 fun e => { e with c1 := e.c1 + 1, lead := some b.lead }
  | none => s
/-- The popping instruction takes the faults of its stream's next vector (R327, R457); its elements park when it commits (R230). -/
def State.popLoad (s : State) (n : Nat) (b : Stream) (go : State → State) : State :=
  match elemAlign b.et (streamElems b b.next) with
  | some r => s.trap r
  | none =>
  let (l, s') := s.resolveAll .read b.et (streamElems b b.next)
  match plan s.cur l with
  | .trap r => s'.trap r
  | .wait => s'.waitFor .retry
  | .restart a => s'.consumePoison a
  | .go ok bad =>
    let s' := s'.readElems ok
    match s'.loadNow b.et zeroVec ok with
    | none => s'.waitFor .retry
    | some (x, bad2) =>
      match judge s.cur bad bad2 with
      | .restart a => s'.consumePoison a
      | .trap r => s'.trap r
      | .go bad =>
        let (x, s) := freeLanes b.et x s' bad
        let es := s.replays 4 n b.et 0 0 3 0 none bad
        go ((if b.bad.contains b.next then s else s.streamUpdate b).modStream n fun b =>
          { b with fetched := put b.fetched b.next x, parked := es })
/-- Go on with every bound read stream of a list holding its next vector. -/
def State.withPops (go : State → State) : List Nat → State → State
  | [], s => go s
  | n :: r, s =>
    match get? s.cur.streams n with
    | some b => if (get? b.fetched b.next).isSome then s.withPops go r else s.popLoad n b (fun s => s.withPops go r)
    | none => s.withPops go r
/-- Pop one bound read stream (R326, R327). -/
def State.popOne (s : State) (n : Nat) : State :=
  match get? s.cur.streams n with
  | some b =>
    let s := (s.modCur (·.park b.parked)).modStream n fun b =>
      { b with next := b.next + 1, fetched := del b.fetched b.next, bad := b.bad.filter (· != b.next), late := false, parked := [] }
    match b.xs with
    | some xs => if b.late then s.siteUpdate xs 2 (fun e => { e with c2 := e.c2 + 1, lead := some b.lead }) else s
    | none => s
  | none => s
/-- Pop every bound stream that the instruction reads, once each. -/
def State.popAll (s : State) (u : Use) : State := u.rv.dedup.foldl (fun s n => s.popOne n) s

/-- Write an image to a vector register, or append it to a bound write stream under the instruction's mask (R326), and go on. -/
def State.vwrite (s : State) (f : Fld) (d : Nat) (x : List (BitVec 32)) (fin : State → State) : State :=
  match get? s.cur.streams d with
  | none => fin (s.modCur fun t => t.setVec d x)
  | some b =>
    let t := s.cur
    let es := (streamElems b b.next).filterMap fun e =>
      if active f t e.l then some { e with code := storeLane b.et x e.l } else if f.mm = 1 then some e else none
    match s.storeElems { et := b.et, sat := b.sat } 1 d 0 es with
    | .ok s => fin (s.modStream d fun b => { b with next := b.next + 1 })
    | .trap r s => s.trap r
    | .wait s => s.waitFor .retry
    | .restart a s => s.consumePoison a

/-- A present PXR on page 1 (R307): its own t and sz are 0, and rc = 0 needs a scalar form. -/
def pxrBad (f : Fld) (scalar : Bool) : Bool :=
  match pxrOf f.px with
  | some (t, rc, sz) => t != 0 || sz != 0 || 2 ≤ rc || (rc == 0 && !scalar)
  | none => false
/-- A page-1 instruction behind its limits and its streams. -/
def vgate (i : Instr) (lims : Fld → List (Bool × Nat)) (extra : State → Option TrapRec) (go : State → State) (s : State) : Out :=
  let f := fldOf i
  let u := useOf i f
  gate i (fun s => firstTrap [limits s (lims f), extra s, s.streamChk u]) (fun s => s.withPops go u.rv.dedup) s
/-- A vector instruction has committed: its streams pop, and the next instruction follows. -/
def State.vdone (s : State) (i : Instr) : State := (s.popAll (useOf i (fldOf i))).advance (fldOf i)

/-! ## Stream instructions -/

/-- The words of a stream record in the issuing core's own local store (R325): else SCOPE. -/
def State.withRecord (s : State) (a : Word) (n : Nat) (go : Nat → List Word → State → State) : State :=
  s.withPlace a .read fun pa _ s =>
    match s.place pa with
    | .own off =>
      if s.curK.lsRefusedN off (8 * n) s.cur.st.hearth s.cur.st.priv false then s.trap { cause := 0x46, addr := a }
      else if s.ownBusy off (8 * n) then s.waitFor .retry
      else go off ((List.range n).map fun i => word (leNat (s.coreBytes s.curCore s.curSlot (off + 8 * i) 8))) s
    | _ => s.trap { cause := 0x0C, addr := a }
/-- The reserved fields of a stream record are zero (R324). -/
def streamReserved (ctl pos : Word) : Bool := ctl.bits 31 24 != 0 || ctl.bits 10 9 != 0 || ctl.bits 7 0 != 0 || pos.bits 31 17 != 0
/-- Some page of a list of elements is raw; none while a translation must wait. -/
def State.someRaw (s : State) : List Elem → Option Bool × State
  | [] => (some false, s)
  | e :: r => match s.translateCur e.va .read with
    | (.wait, s) => (none, s)
    | (.ok _ a, s) => if a.fmt = 0 then (some true, s) else s.someRaw r
    | (.fault _, s) => s.someRaw r
/-- A page of the next vector of an E2M1 read stream is raw (R325). -/
def State.streamRaw (s : State) (b : Stream) : Option Bool × State :=
  if b.et = 5 && !b.write && b.next < b.count then s.someRaw (streamElems b b.next) else (some false, s)
/-- The stream that a record and SBIND's prefixes describe (R325). -/
def streamOf (record : Word) (ws : List Word) (et sat : Nat) (xs : Option Nat) (rc : Clock) : Stream :=
  let ctl := ws.getD 2 0
  let l := ctl.bits 23 16
  { record := record, base := ws.getD 0 0, stride := ws.getD 1 0, count := ctl.bits 63 32,
    lead := if 1 ≤ l ∧ l ≤ 32 then l else 4, et := et, sat := sat, write := ctl.bits 8 8 = 1, next := (ws.getD 3 0).bits 63 32,
    xs := xs, fetched := [], rc := rc }
/-- CTL and POS as they are written back (R328). -/
def streamWords (b : Stream) : List Word :=
  [word (b.count * 2 ^ 32 + b.lead % 256 * 2 ^ 16 + b.et * 2 ^ 12 + b.sat * 2 ^ 11 + if b.write then 2 ^ 8 else 0),
   word (b.next * 2 ^ 32 + match b.xs with
     | some x => 2 ^ 16 + x % 2 ^ 16
     | none => 0)]
/-- A check of the bank, or of the ring, refuses a thread's write of 16 bytes into its stream's record (R98, R99). -/
def State.recordRefused (s : State) (c n : Nat) (b : Stream) : Bool :=
  let t := s.slot c n
  (s.core c).lsRefusedN ((b.record.toNat - lswin) % 2 ^ 18 + 16) 16 t.st.hearth t.st.priv true
/-- Write a stream's record back to the local store of a core, as a slot of it sees that store (R328, R329, R537). -/
def State.writeRecord (s : State) (c n : Nat) (b : Stream) : State :=
  s.coreWrite c n ((b.record.toNat - lswin) % 2 ^ 18 + 16) ((streamWords b).flatMap fun w => leBytes 8 w.toNat)
/-- SBIND (R325). The record is named by its window address (log 26). -/
def execSbind (x : XA) (s : State) : Out :=
  let f := x.fld 1
  gate (.sbind x) (fun s => firstTrap [
      limits s [(f.m != 0 || f.mm != 0, f.pxvPos), (f.t != 0 || f.base != 0, f.last)],
      trapIf (f.d < 12) 0x0D (word f.d), trapIf (get? s.cur.streams f.d).isSome 0x10 (s.w f.s), alignTrap (s.w f.s) 32])
    (fun s =>
      s.withRecord (s.w f.s) 4 fun off ws s =>
        let t := s.cur
        let a := windowVA s.curCore off
        let b := streamOf a ws f.et f.sat (if f.pxx then some f.xs else none) t.rc
        if streamReserved (ws.getD 2 0) (ws.getD 3 0) then s.trap (streamTrap b)
        else match s.streamRaw b with
          | (none, s) => s.waitFor .retry
          | (some true, s) => s.trap (streamTrap b)
          | (some false, s) => (s.modCur fun t =>
              { t with streams := put t.streams f.d b, vlive := t.vlive &&& ~~~(1#16 <<< f.d),
                       st := { t.st with vclean := false } }).advance f) s
/-- The bound stream of register d, or STREAM with 0 (R328). -/
def unbound (f : Fld) (s : State) : Option TrapRec := trapIf (get? s.cur.streams f.d).isNone 0x10 0
/-- A store of a slot that is on its way (R328). -/
def State.storesAway (s : State) (c n : Nat) : Bool :=
  s.reqs.any fun r => r.core == c && r.slot == n && match r.op with
    | .store _ | .boot _ => true
    | _ => false
/-- SUNB (R328): the appends of a write stream have been logged or written. -/
def execSunb (x : XA) (s : State) : Out :=
  let f := x.fld 1
  gate (.sunb x) (fun s => firstTrap [
      limits s [(pxrBad f false, f.pxrPos), (f.m != 0 || f.mm != 0 || f.et != 0 || f.sat != 0, f.pxvPos), (f.immU != 0, f.immPos),
        (f.s != 0 || f.t != 0, f.last)], unbound f s])
    (fun s =>
      match get? s.cur.streams f.d with
      | none => s
      | some b =>
        if s.recordRefused s.curCore s.curSlot b then s.trap { cause := 0x46, addr := b.record + 16 }
        else if s.ownBusy ((b.record.toNat - lswin) % 2 ^ 18 + 16) 16 || (b.write && s.storesAway s.curCore s.curSlot) then s.waitFor .retry
        else ((s.writeRecord s.curCore s.curSlot b).modCur fun t =>
          { t with streams := del t.streams f.d, vlive := t.vlive &&& ~~~(1#16 <<< f.d) }).advance f) s
/-- A new lead of a stream, which its load slot also learns (R328, R335). -/
def State.setLead (s : State) (d l : Nat) : State := s.modStream d fun b => { b with lead := l }
/-- SLEAD (R328). -/
def execSlead (x : XA) (s : State) : Out :=
  let f := x.fld 1
  gate (.slead x) (fun s => firstTrap [
      limits s [(pxrBad f false, f.pxrPos), (f.m != 0 || f.mm != 0 || f.et != 0 || f.sat != 0, f.pxvPos),
        (f.s != 0 || f.t != 0, f.last)],
      unbound f s, trapIf (f.immU < 1 || 32 < f.immU) 0x0D (word f.immU)])
    (fun s => (s.setLead f.d f.immU).advance f) s

end Sys2Proof.Machine
end

