-- ==== Sys2Proof/Machine/Vector.lean ====
section
/-! DEFINITION. Vector arithmetic, comparison, rearrangement, reduction, conversion, spark draws and masks (R305-R315, R322,
R323, R330). -/

namespace Sys2Proof.Machine

/-- An instruction on elements: op takes the codes of elements a, b and c (R310, R311). -/
def vop (i : Instr) (f : Fld) (lims : List (Bool × Nat)) (op : Nat → Nat → Nat → Nat) (s : State) : Out :=
  vgate i (fun _ => lims) (fun _ => none) (fun s =>
    let a := s.vread f.s
    let b := s.vread f.t
    let x := (s.w f.t).toNat % 2 ^ etBits f.et
    let c := s.cur.vec f.d
    let y := vimage f s.cur f.et (etCount f.et) c fun l =>
      op (elem f.et a l) (if f.rc = 0 then x else elem f.et b l) (elem f.et c l)
    s.vwrite f f.d y (·.vdone i)) s

/-! ## Floating point -/

/-- A floating instruction on FP32 or FP64 (R310). op takes the format, its rm, sat and ftz, and the sources with ftz applied
(R166), except that VABS and VNEG, in format XA, have no ftz. -/
def vfloat (i : Instr) (f : Fld) (scalar rmZero : Bool) (op : Fmt → Nat × Nat × Nat → Nat → Nat → Nat → Nat) (s : State) : Out :=
  let m := (etFmt f.et).getD fp32
  vop i f [(pxrBad f scalar, f.pxrPos), (f.et != 0 && f.et != 6, f.pxvPos),
      (f.rm == 5 || (rmZero && f.rm != 0), f.last), (!scalar && f.t != 0, f.last), (f.immU != 0, f.immPos)]
    (fun a b c => op m (f.rm, f.sat, f.ftz) (m.flush f.ftz a) (m.flush f.ftz b) (m.flush f.ftz c)) s
/-- An integer instruction (R311). -/
def vint (i : Instr) (f : Fld) (scalar sat : Bool) (op : Nat → Nat → Nat → Nat → Nat) (s : State) : Out :=
  vop i f [(pxrBad f scalar, f.pxrPos), (f.et < 7, f.pxvPos), (!sat && f.sat != 0, f.pxvPos), (!scalar && f.t != 0, f.last),
      (f.immU != 0, f.immPos)]
    (fun a b _ => op f.et f.sat a b) s

/-- VADD: a + b (R310). -/
def execVadd (x : XR) (s : State) : Out :=
  vfloat (.vadd x) x.fld true false (fun m r a b _ => m.round r.1 r.2.1 r.2.2 0 (Num.add r.1 (m.decode a) (m.decode b))) s
/-- VSUB: a - b (R310). -/
def execVsub (x : XR) (s : State) : Out :=
  vfloat (.vsub x) x.fld true false (fun m r a b _ => m.round r.1 r.2.1 r.2.2 0 (Num.add r.1 (m.decode a) (m.decode b).neg)) s
/-- VMUL: a * b (R310). -/
def execVmul (x : XR) (s : State) : Out :=
  vfloat (.vmul x) x.fld true false (fun m r a b _ => m.round r.1 r.2.1 r.2.2 0 ((m.decode a).mul (m.decode b))) s
/-- VFMA: a * b + c with one rounding (R310). -/
def execVfma (x : XR) (s : State) : Out :=
  vfloat (.vfma x) x.fld true false (fun m r a b c =>
    m.round r.1 r.2.1 r.2.2 0 (Num.add r.1 ((m.decode a).mul (m.decode b)) (m.decode c))) s
/-- VFMS: a * b - c with one rounding (R310). -/
def execVfms (x : XR) (s : State) : Out :=
  vfloat (.vfms x) x.fld true false (fun m r a b c =>
    m.round r.1 r.2.1 r.2.2 0 (Num.add r.1 ((m.decode a).mul (m.decode b)) (m.decode c).neg)) s
/-- VDIV: a / b (R310). -/
def execVdiv (x : XR) (s : State) : Out :=
  vfloat (.vdiv x) x.fld true false (fun m r a b _ => m.round r.1 r.2.1 r.2.2 0 ((m.decode a).div (m.decode b))) s
/-- VMIN: as FMIN on each element; rm must be 0 (R310). -/
def execVmin (x : XR) (s : State) : Out :=
  vfloat (.vmin x) x.fld true true (fun m _ a b _ => m.min a b) s
/-- VMAX: as FMAX on each element; rm must be 0 (R310). -/
def execVmax (x : XR) (s : State) : Out :=
  vfloat (.vmax x) x.fld true true (fun m _ a b _ => m.max a b) s
/-- VSQRT (R184, R310). -/
def execVsqrt (x : XR) (s : State) : Out :=
  vfloat (.vsqrt x) x.fld false false (fun m r a _ _ => m.round r.1 r.2.1 r.2.2 0 (m.decode a).sqrt) s
/-- VEXP2 (R184, R310). -/
def execVexp2 (x : XR) (s : State) : Out :=
  vfloat (.vexp2 x) x.fld false false (fun m r a _ _ => m.round r.1 r.2.1 r.2.2 0 (m.decode a).exp2) s
/-- VLOG2 (R184, R310). -/
def execVlog2 (x : XR) (s : State) : Out :=
  vfloat (.vlog2 x) x.fld false false (fun m r a _ _ => m.round r.1 r.2.1 r.2.2 0 (m.decode a).log2) s
/-- VABS: the sign bit cleared, even of a NaN (R310). -/
def execVabs (x : XA) (s : State) : Out :=
  vfloat (.vabs x) (x.fld 1) false false (fun m _ a _ _ => a % 2 ^ (m.bits - 1)) s
/-- VNEG: the sign bit inverted, even of a NaN (R310). -/
def execVneg (x : XA) (s : State) : Out :=
  vfloat (.vneg x) (x.fld 1) false false (fun m _ a _ _ => (a + 2 ^ (m.bits - 1)) % 2 ^ m.bits) s
/-- VRCP: the reciprocal estimate (R185) (R310). -/
def execVrcp (x : XA) (s : State) : Out :=
  vfloat (.vrcp x) (x.fld 1) false false (fun m r a _ _ => m.round 0 r.2.1 0 0 (m.decode a).rcp) s
/-- VRSQ: the reciprocal square root estimate (R186) (R310). -/
def execVrsq (x : XA) (s : State) : Out :=
  vfloat (.vrsq x) (x.fld 1) false false (fun m r a _ _ => m.round 0 r.2.1 0 0 (m.decode a).rsq) s
/-- VIADD: wrapping or clamped sum (R311). -/
def execViadd (x : XA) (s : State) : Out :=
  vint (.viadd x) (x.fld 1) true true (fun e sat a b => etOfInt e sat (etInt e a + etInt e b)) s
/-- VISUB: wrapping or clamped difference (R311). -/
def execVisub (x : XA) (s : State) : Out :=
  vint (.visub x) (x.fld 1) true true (fun e sat a b => etOfInt e sat (etInt e a - etInt e b)) s
/-- VIMUL: the low half of the product, or the exact product clamped (R311). -/
def execVimul (x : XA) (s : State) : Out :=
  vint (.vimul x) (x.fld 1) true true (fun e sat a b => etOfInt e sat (etInt e a * etInt e b)) s
/-- VAND: a AND b (R311). -/
def execVand (x : XA) (s : State) : Out :=
  vint (.vand x) (x.fld 1) true false (fun _ _ a b => a &&& b) s
/-- VOR: a OR b (R311). -/
def execVor (x : XA) (s : State) : Out :=
  vint (.vor x) (x.fld 1) true false (fun _ _ a b => a ||| b) s
/-- VXOR: a XOR b (R311). -/
def execVxor (x : XA) (s : State) : Out :=
  vint (.vxor x) (x.fld 1) true false (fun _ _ a b => a ^^^ b) s
/-- VNOT: NOT a (R311). -/
def execVnot (x : XA) (s : State) : Out :=
  vint (.vnot x) (x.fld 1) false false (fun e _ a _ => 2 ^ etBits e - 1 - a) s
/-- VSHL: a shifted left; 0 from the element width on (R311). -/
def execVshl (x : XA) (s : State) : Out :=
  vint (.vshl x) (x.fld 1) true false (fun e _ a b => if etBits e ≤ b then 0 else a * 2 ^ b % 2 ^ etBits e) s
/-- VSHR: a shifted right, logical; 0 from the element width on (R311). -/
def execVshr (x : XA) (s : State) : Out :=
  vint (.vshr x) (x.fld 1) true false (fun e _ a b => if etBits e ≤ b then 0 else a / 2 ^ b) s
/-- VSAR: a shifted right, arithmetic; copies of the sign bit from the element width on (R311). -/
def execVsar (x : XA) (s : State) : Out :=
  vint (.vsar x) (x.fld 1) true false (fun e _ a b => (signed (etBits e) a / 2 ^ min b (etBits e) % 2 ^ etBits e).toNat) s

/-! ## Comparison and rearrangement -/

/-- A condition of VCMP on two elements (R312): a NaN makes every condition false but ne and uo. -/
def vcmpCond (et cond a b : Nat) : Bool :=
  let x := etValue et a
  let y := etValue et b
  if x.isNan || y.isNan then cond == 1 || cond == 6
  else
    let o := x.cmp y
    match cond with
    | 0 => o == .eq
    | 1 => o != .eq
    | 2 => o == .lt
    | 3 => o != .gt
    | 4 => o == .gt
    | 5 => o != .lt
    | 6 => false
    | _ => true
/-- The word whose bit l is g l, for l below n. -/
def wordOf (n : Nat) (g : Nat → Bool) : Word := word ((List.range n).foldl (fun v l => if g l then v + 2 ^ l else v) 0)
/-- VCMP (R312). For 64-bit types, bits 16 to 63 of the mask become 0. -/
def execVcmp (x : XA) (s : State) : Out :=
  let f := x.fld 1
  vgate (.vcmp x) (fun f => [(pxrBad f true, f.pxrPos), (f.sat != 0, f.pxvPos), (8 ≤ f.immU, f.immPos), (8 ≤ f.d, f.last)])
    (fun _ => none) (fun s =>
      let a := s.vread f.s
      let b := s.vread f.t
      let y := (s.w f.t).toNat % 2 ^ etBits f.et
      let old := s.cur.mask f.d
      let r := wordOf (etCount f.et) fun l =>
        if active f s.cur l then vcmpCond f.et f.immU (elem f.et a l) (if f.rc = 0 then y else elem f.et b l)
        else f.mm == 0 && old.getLsbD l
      (s.modCur fun t => t.setMask f.d r).vdone (.vcmp x)) s
/-- VSEL (R313). -/
def execVsel (x : XA) (s : State) : Out :=
  let f := x.fld 1
  vgate (.vsel x) (fun f => [(pxrBad f false, f.pxrPos), (f.sat != 0, f.pxvPos), (8 ≤ f.immU, f.immPos)]) (fun _ => none)
    (fun s =>
      let a := s.vread f.s
      let b := s.vread f.t
      let k := s.cur.mask f.immU
      let y := vimage f s.cur f.et (etCount f.et) (s.cur.vec f.d) fun l => elem f.et (if k.getLsbD l then a else b) l
      s.vwrite f f.d y (·.vdone (.vsel x))) s
/-- VSPLAT (R313): with i = 1, W[s] + l on integer types. -/
def execVsplat (x : XA) (s : State) : Out :=
  let f := x.fld 1
  vgate (.vsplat x) (fun f => [(pxrBad f false, f.pxrPos), (f.sat != 0, f.pxvPos),
      (2 ≤ f.immU || (f.immU == 1 && f.et < 7), f.immPos), (f.t != 0, f.last)]) (fun _ => none)
    (fun s =>
      let v := (s.w f.s).toNat
      let y := vimage f s.cur f.et (etCount f.et) (s.cur.vec f.d) fun l => (v + f.immU * l) % 2 ^ etBits f.et
      s.vwrite f f.d y (·.vdone (.vsplat x))) s
/-- VPERM (R313). -/
def execVperm (x : XA) (s : State) : Out :=
  let f := x.fld 1
  vgate (.vperm x) (fun f => [(pxrBad f false, f.pxrPos), (f.sat != 0, f.pxvPos), (f.immU != 0, f.immPos)]) (fun _ => none)
    (fun s =>
      let a := s.vread f.s
      let b := s.vread f.t
      let n := etCount f.et
      let y := vimage f s.cur f.et n (s.cur.vec f.d) fun l => elem f.et a ((lane b l).toNat % n)
      s.vwrite f f.d y (·.vdone (.vperm x))) s

/-! ## Reductions, scans and conversions -/

/-- The identity of a reduction (R182). -/
def redIdentity (et op : Nat) : Nat :=
  match etFmt et with
  | some m => match op with
    | 0 => m.signBit true
    | 1 => m.top
    | _ => m.signBit true + m.top
  | none => match op with
    | 1 => (etHi et).toNat
    | 2 => (etLo et % 2 ^ etBits et).toNat
    | 3 => 2 ^ etBits et - 1
    | _ => 0
/-- A node of a reduction (R182): FP nodes round by rm, with ftz and sat; integer nodes follow R163. -/
def redOp (f : Fld) (a b : Nat) : Nat :=
  match etFmt f.et with
  | some m =>
    let a := m.flush f.ftz a
    let b := m.flush f.ftz b
    match f.t with
    | 0 => m.round f.rm f.sat f.ftz 0 (Num.add f.rm (m.decode a) (m.decode b))
    | 1 => m.min a b
    | _ => m.max a b
  | none => match f.t with
    | 0 => etOfInt f.et f.sat (etInt f.et a + etInt f.et b)
    | 1 => if etInt f.et a ≤ etInt f.et b then a else b
    | 2 => if etInt f.et a ≤ etInt f.et b then b else a
    | 3 => a &&& b
    | 4 => a ||| b
    | _ => a ^^^ b
/-- An element of a reduction's source: the identity where its mask bit is 0 (R182). -/
def redLeaf (f : Fld) (t : Slot) (a : List (BitVec 32)) (l : Nat) : Nat :=
  if active f t l then
    match etFmt f.et with
    | some m => m.flush f.ftz (elem f.et a l)
    | none => elem f.et a l
  else redIdentity f.et f.t
/-- Limits of VRED and VSCAN (R314). -/
def redLims (f : Fld) : List (Bool × Nat) :=
  [(pxrBad f false, f.pxrPos), (1 ≤ f.et && f.et ≤ 5, f.pxvPos), (f.mm != 0, f.pxvPos),
    (6 ≤ f.t || (3 ≤ f.t && f.et < 7), f.last), (f.rm == 5, f.last)]
/-- The value that VRED writes (R314). -/
def redWord (et v : Nat) : Word := if etSigned et then wordI (signed (etBits et) v) else word v
/-- VRED: the fixed pairwise tree of R182 (R314). -/
def execVred (x : XR) (s : State) : Out :=
  let f := x.fld
  vgate (.vred x) redLims (fun _ => none) (fun s =>
    let a := s.vread f.s
    let r := treeFold (redOp f) ((List.range (etCount f.et)).map (redLeaf f s.cur a)) (if etCount f.et = 16 then 4 else 6)
    (s.setW f.d (redWord f.et (r.getD 0 0))).vdone (.vred x)) s
/-- A code, with a NaN made canonical (R165). -/
def canonNan (et c : Nat) : Nat :=
  match etFmt et with
  | some m => if (m.decode c).isNan then m.round 0 0 0 0 .nan else c
  | none => c
/-- The running values of a scan (R183). -/
def scanFrom (op : Nat → Nat → Nat) (v : Nat) : List Nat → List Nat
  | [] => [v]
  | b :: r => v :: scanFrom op (op v b) r
/-- VSCAN (R183, R314): every lane receives the running value. -/
def execVscan (x : XR) (s : State) : Out :=
  let f := x.fld
  vgate (.vscan x) redLims (fun _ => none) (fun s =>
    let a := s.vread f.s
    let vs := scanFrom (redOp f) (canonNan f.et (redLeaf f s.cur a 0)) ((List.range (etCount f.et - 1)).map fun l => redLeaf f s.cur a (l + 1))
    let g := { f with px := [] }
    s.vwrite g f.d (vimage g s.cur f.et (etCount f.et) (s.cur.vec f.d) fun l => vs.getD l 0) (·.vdone (.vscan x))) s
/-- rm = sr is illegal but to a narrower FP format, and E2M1 encoding takes rne only (R170, R315). -/
def vcvtRmBad (f : Fld) : Bool :=
  (f.rm == 5 && !(etFloat f.et && etFloat f.t && etBits f.et < etBits f.t)) || (f.et == 5 && f.rm != 0)
/-- VCVT (R315). With sr it draws once, and the counter rises when it commits (R176). -/
def execVcvt (x : XR) (s : State) : Out :=
  let f := x.fld
  vgate (.vcvt x) (fun f => [(pxrBad f false, f.pxrPos), (f.t == 15, f.last), (vcvtRmBad f, f.last)]) (fun _ => none) (fun s =>
    let a := s.vread f.s
    let t := s.cur
    let y := vimage f t f.et (min (etCount f.et) (etCount f.t)) (t.vec f.d) fun l =>
      etConvert f.t f.et f.rm f.sat f.ftz (sparkDraw t.ctr l t.key).toNat (elem f.t a l)
    s.vwrite f f.d y fun s =>
      (if f.rm = 5 then s.modCur fun t => { t with ctr := t.ctr + 1 } else s).vdone (.vcvt x)) s
/-- The element that VRAND makes of a draw (R330). -/
def randElem (et d : Nat) : Nat := if et = 0 then fp32.round 0 0 0 0 (.fin false (d / 256) (-24)) else d
/-- VRAND (R330). -/
def execVrand (x : XA) (s : State) : Out :=
  let f := x.fld 1
  vgate (.vrand x) (fun f => [(f.et != 0 && f.et != 9 && f.et != 13, f.pxvPos), (f.sat != 0, f.pxvPos),
      (f.s != 0 || f.t != 0 || f.base != 0, f.last)]) (fun _ => none) (fun s =>
    let t := s.cur
    let y := vimage f t f.et 64 (t.vec f.d) fun l => randElem f.et (sparkDraw t.ctr l t.key).toNat
    s.vwrite f f.d y fun s => (s.modCur fun t => { t with ctr := t.ctr + 1 }).vdone (.vrand x)) s

/-! ## Masks and liveness -/

/-- A mask instruction of format XA (R323). -/
def maskOp (i : Instr) (f : Fld) (bad : Bool) (op : State → State) (s : State) : Out :=
  gate i (fun s => limits s [(bad || f.base != 0, f.last)]) (fun s => (op s).advance f) s
/-- MAND (R323). -/
def execMand (x : XA) (s : State) : Out :=
  let f := x.fld 1
  maskOp (.mand x) f (8 ≤ f.d || 8 ≤ f.s || 8 ≤ f.t) (fun s => s.modCur fun t => t.setMask f.d (t.mask f.s &&& t.mask f.t)) s
/-- MOR (R323). -/
def execMor (x : XA) (s : State) : Out :=
  let f := x.fld 1
  maskOp (.mor x) f (8 ≤ f.d || 8 ≤ f.s || 8 ≤ f.t) (fun s => s.modCur fun t => t.setMask f.d (t.mask f.s ||| t.mask f.t)) s
/-- MNOT (R323). -/
def execMnot (x : XA) (s : State) : Out :=
  let f := x.fld 1
  maskOp (.mnot x) f (8 ≤ f.d || 8 ≤ f.s || f.t != 0) (fun s => s.modCur fun t => t.setMask f.d (~~~(t.mask f.s))) s
/-- MPOP (R323). -/
def execMpop (x : XA) (s : State) : Out :=
  let f := x.fld 1
  maskOp (.mpop x) f (8 ≤ f.s || f.t != 0) (fun s => s.setW f.d (word (maskCount (s.cur.mask f.s)))) s
/-- MFIRST (R323): 64 where no bit is 1. -/
def execMfirst (x : XA) (s : State) : Out :=
  let f := x.fld 1
  maskOp (.mfirst x) f (8 ≤ f.s || f.t != 0)
    (fun s => s.setW f.d (word (((List.range 64).find? (s.cur.mask f.s).getLsbD).getD 64))) s
/-- The slot has claimed no tile (R48). -/
def Core.noTiles (k : Core) (n : Nat) : Bool := !k.tiles.any fun p => p.2.claimed && p.2.slot == n
/-- VREL (R48, R322): a bound stream register stays bound. -/
def execVrel (x : XA) (s : State) : Out :=
  let f := x.fld 1
  gate (.vrel x) (fun s => limits s [(f.d != 0 || f.s != 0 || f.t != 0 || f.base != 0, f.last)]) (fun s =>
    let k := s.curK
    let n := s.curSlot
    (s.modCur fun t =>
      { t with vlive := 0, mlive := 0,
               st := { t.st with vclean := t.st.vclean || (t.streams.isEmpty && t.replay.isEmpty && k.noTiles n) } }).advance f) s

end Sys2Proof.Machine
end

