-- ==== Sys2Proof/Machine/VecMem.lean ====
section
/-! DEFINITION. Vector memory access (R316-R321). -/

namespace Sys2Proof.Machine

/-- An active element that a load reads at once: the core's own local store, or bytes that the log or the read cache supplies. -/
def State.elemNow (s : State) (f : Fld) (pa : Nat) (a : Attr) : Option (List Byte) :=
  let n := etBytes f.et
  match s.place pa with
  | .own off => some (s.coreBytes s.curCore s.curSlot off n)
  | .remote _ => none
  | _ => s.served (f.ord == 1) (policy f a) pa n
/-- Read the elements that are at hand into an image, and send a request for each other one; the requests of one instruction count as
one load (R318). -/
def State.loadElems (s : State) (f : Fld) (kind group : Nat) (counted : Bool) (x : List (BitVec 32)) :
    List (Elem × Nat × Attr × Option (Nat × Nat)) → List (BitVec 32) × State
  | [] => (x, s)
  | (e, pa, a, sc) :: r =>
    match s.elemNow f pa a with
    | some bs =>
      let s := match s.place pa with
        | .own off => if f.ord = 1 then s.acquireAt s.curCore s.curSlot (get {} s.curK.bankclk (bankOf off)) else s
        | _ => s
      s.loadElems f kind group counted (putElem f.et a.fmt sc e.l (leNat bs) x) r
    | none =>
      let n := etBytes f.et
      let t := s.cur
      let q := { s.newReq e.va pa n f.sc (.load (f.ord = 1)) (elemDest f.d f.et e a sc) with
                 group := group, seq := kind, fwd := if paClass pa = 1 then [] else s.fwdOf s.curCore t pa n,
                 fill := policy f a = 0 && !t.st.det && paClass pa != 1 && !paHubReg pa,
                 xs := if f.pxx then some f.xs else none }
      (s.sendReq q (!counted)).loadElems f kind group true x r
/-- The image of a load before its elements arrive: inactive lanes by mm, and lanes 32 to 63 of a 64-bit type zero (R305, R306). -/
def loadBase (f : Fld) (t : Slot) : List (BitVec 32) :=
  let old := t.vec f.d
  if noneActive f t (etCount f.et) then (if f.mm = 1 then zeroVec else old)
  else buildVec f.et old fun l => if active f t l then none else if f.mm = 1 then some 0 else none
/-- What completes a vector load: its pops, its load slot, and the next instruction (R192, R264). -/
def vloadFin (i : Instr) (f : Fld) (s : State) : State := (if f.pxx then s.loadUpdate f.xs else s).popAll (useOf i f) |>.finish f
/-- The destination of a load that parks elements stays pending (R458). -/
def parkedDest (f : Fld) (bad : Bool) (t : Slot) : Slot :=
  if bad && !t.pendV.contains f.d then { t with pendV := f.d :: t.pendV } else t
/-- A vector load of elements into V[d] (R318, R457). Into a bound write stream it reads its elements in this step, and the lanes of
parked elements receive free values (log 25). -/
def State.vload (s : State) (i : Instr) (f : Fld) (kind : Nat) (es : List Elem) : State :=
  match elemAlign f.et es with
  | some r => s.trap r
  | none =>
    let (l, s') := s.resolveAll .read f.et es
    match plan s.cur l with
    | .trap r => s'.trap r
    | .wait => s'.waitFor .retry
    | .restart a => s'.consumePoison a
    | .go ok bad =>
      if (get? s.cur.streams f.d).isSome then
        let s' := s'.readElems ok
        match s'.loadNow f.et (loadBase f s.cur) ok with
        | none => s'.waitFor .retry
        | some (x, bad2) =>
          match judge s.cur bad bad2 with
          | .restart a => s'.consumePoison a
          | .trap r => s'.trap r
          | .go bad =>
            let (x, s) := freeLanes f.et x s' bad
            let es := s.replays 4 f.d f.et 0 0 3 0 none bad
            let clk := ok.foldl (fun k x => k.max (s.unitClock x.2.1)) ({} : Clock)
            s.vwrite f f.d x fun s =>
              vloadFin i f ((if f.ord = 1 then s.acquireAt s.curCore s.curSlot clk else s).modCur (·.park es))
      else if s'.unstamped s.curCore s.curSlot || (s'.reqFull s.curCore && ok.any fun x => (s'.elemNow f x.2.1 x.2.2.1).isNone) then s'.waitFor .retry
      else
        let base := loadBase f s.cur
        let es := s'.replays kind f.d f.et 0 0 3 s'.nextId (if f.pxx then some f.xs else none) bad
        let s' := if f.ord = 1 ∧ ok.isEmpty then s'.acquireAt s'.curCore s'.curSlot {} else s'
        let group := s'.nextId
        let s' := if bad.isEmpty then s' else { s' with nextId := s'.nextId + 1 }
        let (x, s) := s'.loadElems f kind group false base ok
        let s := s.modCur fun t => parkedDest f (!bad.isEmpty) { t with
          v := put t.v f.d x, vlive := t.vlive ||| (1#16 <<< f.d), st := { t.st with vclean := false },
          markV := t.markV.filter (·.reg != f.d) }
        vloadFin i f (s.modCur (·.park es))
/-- A load or gather behind its limits (R316-R318): ord is plain or acq. -/
def vloadInstr (i : Instr) (f : Fld) (kind : Nat) (lims : List (Bool × Nat)) (addr : State → Nat → Word) (s : State) : Out :=
  vgate i (fun _ => [(2 ≤ f.ord || loadOrdBad f, f.pxmPos), (pxrBad f false, f.pxrPos), (f.sat != 0, f.pxvPos)] ++ lims)
    (fun _ => none) (fun s =>
      s.vload i f kind (((List.range (etCount f.et)).filter (active f s.cur)).map fun l => { l := l, va := addr s l })) s
/-- The elements that a store writes (R319): active ones, and with mm = 1 a zero for each other one. -/
def storeElemsOf (f : Fld) (t : Slot) (x : List (BitVec 32)) (addr : Nat → Word) : List Elem :=
  (List.range (etCount f.et)).filterMap fun l =>
    if active f t l then some { l := l, va := addr l, code := storeLane f.et x l }
    else if f.mm = 1 then some { l := l, va := addr l } else none
/-- A store or scatter behind its limits (R316, R317, R319): ord is plain or rel, ftz is 0, and rm = sr is illegal. -/
def vstoreInstr (i : Instr) (f : Fld) (kind : Nat) (lims : List (Bool × Nat)) (addr : State → Nat → Word) (s : State) : Out :=
  vgate i (fun _ => [(f.ord == 1 || f.ord == 3 || storeOrdBad f, f.pxmPos), (pxrBad f false, f.pxrPos),
      (f.ftz != 0 || f.rm == 5, f.last)] ++ lims)
    (fun _ => none) (fun s =>
      let es := storeElemsOf f s.cur (s.vread f.d) (addr s)
      let m : StoreMode := { et := f.et, rm := f.rm, sat := f.sat, rel := f.ord == 2, sc := f.sc, cp := f.cp }
      match s.storeElems m kind f.d (s.cur.pc + word (2 * f.last)) es with
      | .ok s => (s.popAll (useOf i f)).finish f
      | .trap r s => s.trap r
      | .wait s => s.waitFor .retry
      | .restart a s => s.consumePoison a) s

/-- The address of an element of VLD and VST. -/
def unitAddr (f : Fld) (s : State) (l : Nat) : Word := elemAt f.et (s.w f.s + wordI f.immS) l
/-- The address of an element of VLDS and VSTS. -/
def strideAddr (f : Fld) (s : State) (l : Nat) : Word := s.w f.s + wordI f.immS + word l * s.w f.t
/-- The address of an element of VGATH and VSCAT. -/
def gatherAddr (f : Fld) (s : State) (l : Nat) : Word := s.w f.s + (((lane (s.vread f.t) l).signExtend 64 : Word) <<< f.immU)

/-- VLD (R316, R318). -/
def execVld (x : XA) (s : State) : Out := let f := x.fld 1; vloadInstr (.vld x) f 0 [(f.t != 0, f.last)] (unitAddr f) s
/-- VST (R316, R319). -/
def execVst (x : XR) (s : State) : Out := let f := x.fld; vstoreInstr (.vst x) f 1 [(f.t != 0, f.last)] (unitAddr f) s
/-- VLDS (R316, R318). -/
def execVlds (x : XA) (s : State) : Out := let f := x.fld 1; vloadInstr (.vlds x) f 0 [(f.et == 5, f.pxvPos)] (strideAddr f) s
/-- VSTS (R316, R319). -/
def execVsts (x : XR) (s : State) : Out := let f := x.fld; vstoreInstr (.vsts x) f 1 [(f.et == 5, f.pxvPos)] (strideAddr f) s
/-- VGATH (R316, R318). -/
def execVgath (x : XA) (s : State) : Out :=
  let f := x.fld 1
  vloadInstr (.vgath x) f 2 [(f.et == 5, f.pxvPos), (4 ≤ f.immU, f.immPos)] (gatherAddr f) s
/-- VSCAT (R316, R319). -/
def execVscat (x : XR) (s : State) : Out :=
  let f := x.fld
  vstoreInstr (.vscat x) f 3 [(f.et == 5, f.pxvPos), (4 ≤ f.immU, f.immPos)] (gatherAddr f) s

end Sys2Proof.Machine
end

