-- ==== Sys2Proof/Machine/Xp.lean ====
section
/-! DEFINITION. The experience instructions (R198, R201, R331-R336). -/

namespace Sys2Proof.Machine

/-- Go on with the place of the slot that xs names (R331): an index out of range is OPRANGE, a refused page EXPPAGE, and poison of the
walk is consumed. -/
def State.withSlot (s : State) (f : Fld) (go : Nat → Attr → State → State) : State :=
  let t := s.cur
  let q := s.hearth t.st.hearth
  let a := slotVA q f.xs
  if !slotInRange q f.xs then s.trap { cause := 0x0D, addr := word f.xs }
  else
    match s.translateCur a .read with
    | (.fault e, s) => s.fetchFault (if e = 0x44 then 0x4A else e) a
    | (.wait, s) => s.waitFor .retry
    | (.ok pa at_, s) => if at_.xa = 1 ∨ at_.xa = 2 then go pa at_ s else s.trap { cause := 0x4A, addr := a }
/-- Go on with the core's view of the slot, or in deterministic mode with its value at the start of the phase (R196, R201, R331). A
slot whose base has not arrived keeps the instruction waiting. -/
def State.withView (s : State) (f : Fld) (go : Word → State → State) : State :=
  s.withSlot f fun pa _ s =>
    let t := s.cur
    let e := s.entryOf s.curCore t.st.hearth f.xs t.xtask
    match e.base with
    | some b => go (if t.st.det then b else e.view) s
    | none =>
      let s := s.readLines (s.readFor s.curCore s.curSlot (slotVA (s.hearth t.st.hearth) f.xs)) pa 8
      if s.poisoned pa 8 then s.consumePoison (slotVA (s.hearth t.st.hearth) f.xs)
      else (s.putEntry s.curCore e).waitFor .retry
/-- The ratio of a slot (R331). -/
def slotRatio (v : Word) : Nat × Nat :=
  match v.bits 7 4 with
  | 1 => (slotC1 1 v, slotC1 1 v + slotC2 1 v)
  | 2 => (slotC2 2 v, slotC1 2 v)
  | _ => (0, 0)
/-- XBR's test (R332). -/
def xbrTaken (d : Nat) (v : Word) : Bool :=
  let (n, q) := slotRatio v
  if d = 0 then q < 2 * n else q != 0 && d * q ≤ 16 * n
/-- XBR (R332). -/
def execXbr (x : XB) (s : State) : Out :=
  let f := x.fld
  gate (.xbr x) (fun s => limits s [(pxrBad f false, f.pxrPos)]) (fun s =>
    s.withView f fun v s => if xbrTaken f.d v then s.jump (s.cur.pc + wordI (2 * f.immS)) else s.advance f) s
/-- Limits of the experience instructions of format XA. -/
def xpLims (f : Fld) (bad : Bool) (imm : Bool) (s : State) : Option TrapRec :=
  limits s [(pxrBad f false, f.pxrPos), (bad, f.last), (imm && f.immU != 0, f.immPos)]
/-- XSEL (R333). -/
def execXsel (x : XA) (s : State) : Out :=
  let f := x.fld 1
  gate (.xsel x) (fun s => firstTrap [xpLims f false false s, trapIf (16 < f.immU) 0x0D (word f.immU)]) (fun s =>
    s.withView f fun v s =>
      let (n, q) := slotRatio v
      s.result f f.d (if q ≠ 0 ∧ f.immU * q ≤ 16 * n then s.w f.s else s.w f.t)) s
/-- XRD (R334). -/
def execXrd (x : XA) (s : State) : Out :=
  let f := x.fld 1
  gate (.xrd x) (xpLims f (f.s != 0 || f.t != 0) true) (fun s => s.withView f fun v s => s.result f f.d v) s
/-- Clamp to 1 to 32. -/
def clampLead (p : Nat) : Nat := max 1 (min p 32)
/-- The lead that XLEAD sets (R335), from the view and the lead in force. -/
def leadOf (v : Word) (cur : Nat) : Nat :=
  let kind2 := v.bits 7 4 = 2
  let p := if kind2 ∧ v.bits 15 8 ≠ 0 then v.bits 15 8 else cur
  let acc := slotC1 2 v
  let lw := slotC2 2 v
  if ¬kind2 ∨ acc < 16 then clampLead p
  else if acc < 8 * lw then min (2 * p) 32
  else if 64 * lw < acc then max (p - 1) 1
  else clampLead p
/-- XLEAD (R335). -/
def execXlead (x : XA) (s : State) : Out :=
  let f := x.fld 1
  gate (.xlead x) (fun s => firstTrap [xpLims f (f.s != 0 || f.t != 0) true s, unbound f s]) (fun s =>
    s.withView f fun v s =>
      match get? s.cur.streams f.d with
      | some b => (s.setLead f.d (leadOf v b.lead)).advance f
      | none => s) s
/-- The unroll factor of a loop slot (R336). -/
def unrollOf (v : Word) : Nat :=
  let ok (k : Nat) : Bool := 3 ≤ v.bits 15 12 && v.bits 10 8 % k == 0 && 4 * k ≤ v.bits 47 32
  if v.bits 7 4 = 3 ∧ v.bits 63 48 ≠ 0 then (if ok 8 then 8 else if ok 4 then 4 else if ok 2 then 2 else 1) else 1
/-- XUNR (R336). -/
def execXunr (x : XA) (s : State) : Out :=
  let f := x.fld 1
  gate (.xunr x) (xpLims f (f.s != 0 || f.t != 0) true) (fun s =>
    s.withView f fun v s => s.result f f.d (word (unrollOf v))) s

/-- Execute an add or a clear at its home (R197, R334). -/
def State.applyXAdd (s : State) (d : XAdd) : State :=
  let w := s.memW d.pa
  (s.snapSlot d.hearth d.pa).setMemW d.pa (if d.clear then expClear w d.frozen else expAdd w d)
/-- Adds of the issuing core for a slot that are in flight reach the home before the core's clear of it. -/
def State.flushSlot (s : State) (c h idx : Nat) : State :=
  let mine (d : XAdd) : Bool := d.core == c && d.hearth == h && d.idx == idx && d.task.isNone
  { (s.xadds.filter mine).foldl State.applyXAdd s with xadds := s.xadds.filter fun d => !mine d }
/-- XCLR (R198, R334): in deterministic mode the clear is deferred, tagged with the task (R201). -/
def execXclr (x : XA) (s : State) : Out :=
  let f := x.fld 1
  gate (.xclr x) (xpLims f (f.d != 0 || f.s != 0 || f.t != 0) true) (fun s =>
    s.withSlot f fun pa at_ s =>
      let t := s.cur
      let h := t.st.hearth
      let c := s.curCore
      let s := s.modCurK fun k => { k with xcache := k.xcache.filter fun e => !e.is h f.xs t.xtask }
      let d : XAdd := { id := s.nextId, hearth := h, idx := f.xs, pa := pa, core := c, task := t.xtask, clear := true, kind := 0,
                        c1 := 0, c2 := 0, k := 0, hist := 0, lead := none, frozen := at_.xa == 2 }
      let s := if t.st.det then { s with xadds := s.xadds ++ [d], nextId := s.nextId + 1 } else (s.flushSlot c h f.xs).applyXAdd d
      s.clearIdv.advance f) s
/-- XFLUSH (R198, R334): the slot waits until the adds are acknowledged. In deterministic mode it sends nothing. -/
def execXflush (x : XA) (s : State) : Out :=
  let f := x.fld 1
  gate (.xflush x) (xpLims f (f.d != 0 || f.s != 0 || f.t != 0) true) (fun s =>
    let t := s.cur
    let h := t.st.hearth
    let c := s.curCore
    if t.st.det then s.clearIdv.advance f
    else
      let s := s.sendEntries c (fun e => e.hearth == h && e.task.isNone) false
      if s.xadds.any fun d => d.core == c && d.hearth == h then s.waitFor .retry
      else s.clearIdv.advance f) s

end Sys2Proof.Machine
end

