-- ==== Sys2Proof/Machine/Engine.lean ====
section
/-! DEFINITION. How the anvil and the tongs access memory for a thread (R345, R357), and their arrivals at barriers (R60, R520). -/

namespace Sys2Proof.Machine

/-- For whom an engine acts: the engine's number among the units of its core (R119), and the thread's core, slot, hearth, privilege
level, required clock at issue and task. -/
structure Agent where
  unit : Nat
  core : Nat
  slot : Nat
  hearth : Nat
  priv : Nat
  rc : Clock
  task : Word
  det : Bool
  deriving DecidableEq, Repr
/-- The anvil among the units of a core that miss. -/
def anvilUnit : Nat := 32
/-- A channel of the tongs among them. -/
def tongsUnit (ch : Nat) : Nat := 40 + ch
/-- An access of an engine: a value, a fault with the address reported, or a wait for a home, a walk or a copy. -/
inductive Eng (α : Type) where
  | ok (a : α)
  | fault (cause : Nat) (va : Word)
  | wait
  deriving DecidableEq, Repr
/-- Accesses of an engine from a state: their translations fill the TLBs and start walks whether the accesses succeed or not (R117, R119). -/
abbrev EngM (α : Type) := State → Eng α × State
/-- A value, without an access. -/
def EngM.pure {α : Type} (a : α) : EngM α := fun s => (.ok a, s)
/-- A fault. -/
def EngM.fault {α : Type} (cause : Nat) (va : Word) : EngM α := fun s => (.fault cause va, s)
/-- An access that only looks. -/
def EngM.look {α : Type} (f : State → Eng α) : EngM α := fun s => (f s, s)
/-- Go on with a value. -/
def EngM.bind {α β : Type} (x : EngM α) (f : α → EngM β) : EngM β := fun s =>
  match x s with
  | (.ok a, s) => f a s
  | (.fault c v, s) => (.fault c v, s)
  | (.wait, s) => (.wait, s)
/-- The values of a list of accesses, up to the first that gives none. -/
def EngM.all {α : Type} : List (EngM α) → EngM (List α)
  | [] => .pure []
  | x :: r => x.bind fun a => (EngM.all r).bind fun l => .pure (a :: l)

/-- Translate for an engine. -/
def Agent.tr (g : Agent) (va : Word) (k : Acc) : EngM (Nat × Attr) := fun s =>
  match s.translate g.core g.unit g.hearth g.priv g.rc va k with
  | (.ok pa a, s) => (.ok (pa, a), s)
  | (.fault e, s) => (.fault e va, s)
  | (.wait, s) => (.wait, s)
/-- Read n bytes at a place (R345): local store behind its bank check and its copies, a home that has applied the clock, or another
unit. `own` is the reading channel; the anvil waits for the thread's own stores to local store, which it sees (R345). A hub register that the
thread may not read is a permission fault (log 28). -/
def State.engRead (s : State) (g : Agent) (own : Option (Nat × Nat)) (va : Word) (pa n : Nat) : Eng (List Byte) :=
  if paClass pa = 1 ∧ s.ownPackage pa then
    let k := s.core (paCore pa)
    if k.bootTest && paCore pa != g.core then .wait
    else if k.lsRefusedN (paOff pa) n g.hearth g.priv false then .fault 0x46 va
    else if s.lsStalledBut own (paCore pa) (paOff pa) n || (own.isNone && s.postedOver g.core g.slot pa n) then .wait
    else .ok (s.readLS (paCore pa) (paOff pa) n)
  else if paClass pa = 0 ∧ s.ownPackage pa then
    if !s.homeReady (homeOf pa) g.rc then .wait
    else if s.poisoned pa n then .fault 0x47 va
    else .ok (if g.det then (List.range n).map fun i => s.detByte g.hearth g.task (pa + i) else s.bytes pa n)
  else if paHubReg pa ∧ (hubCheck g.priv g.hearth (pa % 2 ^ 45)).isSome then .fault 0x44 va
  else if paHost pa ∧ !s.hub.linkUp then .fault 0x47 va
  else if s.farRefuses pa then .fault 0x46 va
  else .ok (s.unitBytes pa n)

/-- A read of local store is a wake event of its core (R418). -/
def State.reached (s : State) (pa : Nat) : State :=
  let p := (s.core (paCore pa)).pw
  if paClass pa = 1 ∧ s.ownPackage pa ∧ (p.preparing ∨ p.gated) then s.modCore (paCore pa) Core.roused else s
/-- An engine reads n bytes at a place. -/
def Agent.read (g : Agent) (own : Option (Nat × Nat)) (va : Word) (pa n : Nat) : EngM (List Byte) := fun s =>
  let s := s.readLines { cause := 0, cls := 4, hearth := g.hearth, slot := g.slot, core := g.core, task := g.task, addr := va } pa n
  match s.engRead g own va pa n with
  | .ok bs => (.ok bs, s.reached pa)
  | r => (r, s)

/-- An element that an engine has read: its exact value, the length of its block (0 outside blocks) and its place. -/
structure EngElem where
  v : Num
  blk : Nat
  pa : Nat
  deriving DecidableEq, Repr
/-- Read element l of a run with a type (R317, R347, R348): a formatted page must have that format, and its scale applies (R114, R169);
`raw` ignores formats (R351). -/
def Agent.elem (g : Agent) (et : Nat) (raw : Bool) (va : Word) (l : Nat) : EngM EngElem :=
  (g.tr va .read).bind fun (pa, a) =>
    if !raw && a.fmt != 0 && fmtEt a.fmt != et then .fault 0x0F va
    else (g.read none va pa (etBytes et)).bind fun bs =>
      let c := nibble et l (leNat bs)
      if raw || a.fmt == 0 then .pure ⟨etValue et c, 0, pa⟩
      else if a.geom = 0 then .pure ⟨pageValue a.fmt c, 0, pa⟩
      else
        let sa := scaleAddr a va
        (g.tr sa .read).bind fun (spa, b) =>
          if b.fmt ≠ 0 then .fault 0x0F sa
          else (g.read none sa spa 2).bind fun x =>
            .pure ⟨blockedValue a.fmt c (x.getD 0 0).toNat (x.getD 1 0).toNat, blockOf a.geom, pa⟩

/-- A write of an engine that has passed its checks. -/
structure EngPut where
  pa : Nat
  bytes : List Byte
  kind : Nat
  deriving DecidableEq, Repr
/-- Check a write of an anvil command at its place (R345): a formatted page needs the format and no blocks (R116, R347). The stricter of
the page's policy and the instruction's holds (R208). -/
def State.engCheckAt (s : State) (g : Agent) (et : Option Nat) (cp : Nat) (va : Word) (bs : List Byte) (pa : Nat) (a : Attr) : Eng EngPut :=
  let bad := match et with
    | some e => a.fmt != 0 && (fmtEt a.fmt != e || a.geom != 0)
    | none => false
  let n := bs.length
  if bad then .fault 0x0F va
  else if paClass pa = 1 ∧ s.ownPackage pa then
    let k := s.core (paCore pa)
    if k.bootTest && paCore pa != g.core then .wait
    else if k.lsRefusedN (paOff pa) n g.hearth g.priv true then .fault 0x46 va
    else if s.lsStalled (paCore pa) (paOff pa) n then .wait
    else .ok ⟨pa, bs, 1⟩
  else if paHubReg pa ∧ (hubCheck g.priv g.hearth (pa % 2 ^ 45)).isSome then .fault 0x44 va
  else if s.farRefuses pa then .fault 0x46 va
  else .ok ⟨pa, bs, if (if cp = 3 then a.cp else max cp a.cp) = 2 then 2 else 1⟩
/-- Translate and check a write. -/
def Agent.check (g : Agent) (et : Option Nat) (cp : Nat) (va : Word) (bs : List Byte) : EngM EngPut :=
  (g.tr va .write).bind fun (pa, a) => .look fun s => s.engCheckAt g et cp va bs pa a
/-- Make a write: local store in place; other memory in the core's log as a store of the thread (R345). None where the log is full. -/
def State.engPut (s : State) (g : Agent) (p : EngPut) : Option State :=
  if paClass p.pa = 1 ∧ s.ownPackage p.pa then some (s.writeLS (paCore p.pa) (paOff p.pa) p.bytes)
  else if (s.core g.core).bootTest then some (s.unitWrite p.pa p.bytes false)
  else match s.logStore g.core g.slot p.pa p.bytes p.kind with
    | (true, s) => some s
    | (false, s) => match s.logStore g.core g.slot p.pa p.bytes p.kind with
      | (true, s) => some s
      | (false, _) => none
/-- Make writes in order. -/
def State.engPuts (s : State) (g : Agent) : List EngPut → Option State
  | [] => some s
  | p :: r => match s.engPut g p with
    | some s => s.engPuts g r
    | none => none

/-! ## Arrivals -/

/-- An arrival with poison (R520). -/
def State.poisonArrive (s : State) (b : BarId) (hearth : Nat) : State :=
  let x := s.bar b
  if x.poison || x.hearth != hearth then s else (s.setBar b { x with poison := true }).wakeAll b false
/-- The arrival of a completed command (R60, R520): true when it failed, and a deferred fault of the thread is due. An object of another
hearth is left unchanged. -/
def State.boundArrive (s : State) (r : Record) (hearth : Nat) (b : BarId) (stamp : Clock) : Bool × State :=
  let x := s.bar b
  if x.hearth ≠ hearth then (false, s)
  else
    match s.engineArrive b stamp with
    | (.ok _, s) => (false, s)
    | (_, s) => (true, s.report { r with cause := 0x18, cls := 1, hearth := x.hearth })
/-- The deferred fault of a failed arrival (R520). -/
def arriveFault (count chan issued : Nat) (b : BarId) : Deferred :=
  { count := count, cause := 0x18, addr := word (b.idx * 8 + b.lev), chan := chan, issued := issued }

/-! ## Channels of the tongs -/

/-- A channel of a core. -/
def State.chan (s : State) (c ch : Nat) : Channel := get {} (s.core c).tongs ch
/-- Write a channel. -/
def State.setChan (s : State) (c ch : Nat) (x : Channel) : State := s.modCore c fun k => { k with tongs := put k.tongs ch x }
/-- The channel belongs to the thread in a slot of its core (R355, R363). -/
def Channel.ownedBy (x : Channel) (c n : Nat) : Bool := x.owner == (c, n) && x.away.isNone
/-- Change what the thread that issued a channel's command counts: in its slot, or beside its continuation record (R79, R363). -/
def State.modOwner (s : State) (x : Channel) (inSlot : Slot → Slot) (beside : Kept → Kept) : State :=
  match x.away with
  | none => s.modSlot x.owner.1 x.owner.2 inSlot
  | some va => s.keep x.hearth va (beside (s.keptAt x.hearth va))
/-- The deferred fault of a channel's thread. -/
def State.deferChan (s : State) (x : Channel) (d : Deferred) : State :=
  s.modOwner x (fun t => { t with deferred := t.deferred ++ [d] }) (fun k => { k with deferred := k.deferred ++ [d] })
/-- A command leaves its issuer's copies count and its recurring deferred fault (R153, R518). -/
def State.uncount (s : State) (c ch : Nat) : State :=
  let out (l : List Deferred) : List Deferred := l.filter fun d => !(d.held && d.chan == ch)
  s.modOwner (s.chan c ch) (fun t => { t with copies := t.copies - 1, deferred := out t.deferred })
    (fun k => { k with copies := k.copies - 1, deferred := out k.deferred })
/-- A held command that a command of no bytes ends (R519). -/
def State.cancelHeld (s : State) (c ch : Nat) : State :=
  let x := s.chan c ch
  let s := (s.setChan c ch { x with held := none, flt := false, cxl := true }).uncount c ch
  match x.bind with
  | some b => s.poisonArrive b x.hearth
  | none => s
/-- The held channels of a slot's thread are cancelled (R519). -/
def State.cancelAll (s : State) (c n : Nat) : State :=
  s.cores.foldl (fun s (k : Nat × Core) => (List.range 8).foldl (fun s ch =>
    let x := s.chan k.1 ch
    if x.held.isSome && x.ownedBy c n then s.cancelHeld k.1 ch else s) s) s

end Sys2Proof.Machine
end

