-- ==== Sys2Proof/Machine/Tasks.lean ====
section
/-! DEFINITION. Task records, futures, queues, adoption and the end of tasks (R67-R75, R82-R87, R469-R474). -/

namespace Sys2Proof.Machine

/-! ## Threads in memory -/

/-- The privilege of a thread whose billet lies at a VA (R47): the billet's own only where U cannot write the page. -/
def State.billetPriv (s : State) (h : Nat) (va : Word) (priv : Nat) : Nat :=
  if inWindow va then 0
  else match s.leafFor s.curCore h va with
    | .leaf e => if permitted e 0 .write then 0 else priv
    | _ => 0
/-- Read a billet of a hearth from memory (R47): the thread, or the cause and address of the word that faults. -/
def State.readBillet (s : State) (h : Nat) (va : Word) : Except (Nat × Word) Slot :=
  match s.hwReadWords h va 20 with
  | .error e => .error e
  | .ok ws =>
    let t := slotOfBillet (billetOf ws)
    .ok { t with st := { t.st with hearth := h, priv := s.billetPriv h va t.st.priv } }

/-- The first address of a task record (R68). -/
def recordVA (q : Hearth) (id : Nat) : Word :=
  va57 (q.trbase.bits 56 12 * 4096 + 256 * (id % 2 ^ q.trbase.bits 4 0))
/-- What a lookup of a TASKID finds (R68). -/
inductive Found where
  | at (va : Word)
  | none
  /-- TRBASE.log is outside 8-24. -/
  | arena
  | fault (cause : Nat) (addr : Word)
  deriving DecidableEq, Repr
/-- Look up the record of a TASKID. -/
def State.taskRecord (s : State) (h : Nat) (id : Word) : Found :=
  let q := s.hearth h
  let va := recordVA q (taskNo id)
  if id = noTask then .none
  else if q.trbase.bits 4 0 < 8 ∨ 24 < q.trbase.bits 4 0 then .arena
  else match s.hwReadWords h va 1 with
    | .error e => .fault e.1 e.2
    | .ok ws => if ws.getD 0 0 = id then .at va else .none

/-- A core dispatches nothing more from a hearth until TRBASE or QTBASE is written (R470). -/
def State.stopDispatch (s : State) (c h : Nat) : State :=
  s.modCore c fun k => { k with stopped := h :: k.stopped.filter (· != h) }

/-- A lookup by a core (R68, R470): one that finds TRBASE.log outside 8-24 writes an ARENA record, and the core dispatches nothing more from
the hearth. -/
def State.lookup (s : State) (c h : Nat) (id : Word) : Found × State :=
  match s.taskRecord h id with
  | .arena => (.arena, (s.report { cause := 0x62, cls := 5, hearth := h, core := c, task := id }).stopDispatch c h)
  | r => (r, s)

/-- The fields of CTRL; its reserved bits are written as 0 (R70, R499). -/
def ctrlMask : Word := 0xF0C001FC03
/-- Change the state of a task by a compare-and-swap at its home (R70): whether it was won, or the fault of the access, poison among
them (R488). Another state is left as it is. -/
def State.casTask (s : State) (h : Nat) (tr : Word) (old new : Nat) : Except (Nat × Word) (Bool × State) :=
  match s.hwReadWords h (tr + 8) 1 with
  | .error e => .error e
  | .ok ws =>
    let c := ws.getD 0 0
    if c.bits 39 36 ≠ old then .ok (false, s)
    else match s.hwWrite h (tr + 8) (leBytes 8 (setField (c &&& ctrlMask) 39 36 new).toNat) with
      | .ok s => .ok (true, s)
      | .error e => .error (e, tr + 8)
/-- A compare-and-swap that no instruction can trap on: its failure is reported, and the state stands (log 150). -/
def State.casNoted (s : State) (c h : Nat) (id tr : Word) (old new : Nat) : State :=
  match s.casTask h tr old new with
  | .ok (_, s) => s
  | .error e => if e.1 = hwWait then s else s.report { cause := e.1, cls := 5, hearth := h, core := c, task := id, addr := e.2 }
/-- Change the state of a thread's task, if it has a record. -/
def State.casThread (s : State) (c h : Nat) (id : Word) (old new : Nat) : Except (Nat × Word) State :=
  match s.lookup c h id with
  | (.at tr, s) => (s.casTask h tr old new).map (·.2)
  | (.fault e a, _) => .error (e, a)
  | (_, s) => .ok s

/-- The thread that starts from the 32 words of a task record (R47, R74). -/
def State.threadOf (s : State) (h : Nat) (tr : Word) (ws : List Word) : Slot :=
  let t := slotOfBillet (billetOf (ws.drop 12))
  let id := ws.getD 0 0
  { t with taskid := id, key := id, ctr := ws.getD 11 0,
           st := { t.st with hearth := h, priv := s.billetPriv h (tr + 0x60) t.st.priv, pin := (ws.getD 1 0).bits 30 30 = 1, adepth := 0,
                             det := (s.hearth h).det.on } }
/-- The thread that starts from a task record in memory (R74). -/
def State.startTask (s : State) (h : Nat) (tr : Word) : Except (Nat × Word) Slot :=
  match s.hwReadWords h tr 32 with
  | .error e => .error e
  | .ok ws => .ok (s.threadOf h tr ws)

/-! ## Footprints (R75) -/

/-- The used ranges of a footprint of 8 words. -/
def rangesOf (ws : List Word) : List Range :=
  ((List.range 4).map fun i =>
    let x := ws.getD (2 * i + 1) 0
    { src := ws.getD (2 * i) 0, off := x.bits 49 32, len := x.bits 18 0 : Range }).filter fun r => r.len != 0
/-- The used ranges of the footprint in a record's words (R69). -/
def recordRanges (ws : List Word) : List Range := rangesOf ((ws.drop 3).take 8)
/-- A range breaks R75: its alignment is wrong, or it overlaps the log ring. -/
def Range.bad (r : Range) (l : Log) : Bool := r.off % 64 != 0 || r.len % 64 != 0 || l.base < r.off + r.len
/-- A range overlaps a pinned range of the core. -/
def Range.pinned (r : Range) (k : Core) : Bool := k.pins.any fun p => r.off < p.lo + p.len && p.lo < r.off + r.len
/-- Read bytes for a hearth, each through its own translation. -/
def State.hwReadBytes (s : State) (h : Nat) (va : Word) : Nat → Except Nat (List Byte)
  | 0 => .ok []
  | n + 1 => match s.hwRead h va 1 with
    | .error e => .error e
    | .ok v => (s.hwReadBytes h (va + 1) n).map (BitVec.ofNat 8 v :: ·)
/-- Copy a range into a core's local store for a hearth, or fail (R98, R107). -/
def State.fetchRange (s : State) (c h : Nat) (r : Range) : Except Nat State :=
  if (s.core c).lsRefusedN r.off r.len h 0 true then .error 0x46
  else if s.lsStalled c r.off r.len then .error hwWait
  else (s.hwReadBytes h r.src r.len).map fun bs => s.writeLS c r.off bs
/-- Copy ranges in order. -/
def State.fetchRanges (s : State) (c h : Nat) : List Range → Except Nat State
  | [] => .ok s
  | r :: rest => match s.fetchRange c h r with
    | .error e => .error e
    | .ok s => s.fetchRanges c h rest
/-- Pin the ranges of a task. -/
def State.pinRanges (s : State) (c h : Nat) (task : Word) (rs : List Range) : State :=
  s.modCore c fun k =>
    { k with pins := k.pins ++ rs.map fun r => { hearth := h, task := task, lo := r.off, len := r.len : Pin } }
/-- Unpin the ranges of a task, on whatever core they are (R87). -/
def State.unpin (s : State) (h : Nat) (task : Word) : State :=
  { s with cores := s.cores.map fun q =>
      (q.1, { q.2 with pins := q.2.pins.filter fun p => !(p.hearth == h && p.task == task) }) }

/-! ## Futures (R82) -/

/-- The state of a future's word 0. -/
def futState (w : Word) : Nat := w.bits 63 62
/-- Word 0 with a state; the owner stays and reserved bits are written as 0 (R499). -/
def futWord (st owner : Nat) : Word := word (st * 2 ^ 62 + owner % 2 ^ 48)
/-- Fill or poison a future at its home, on behalf of a core (R295-R297, R363): every watch on it wakes, and a continuation that waits
for it is handed to that core. -/
def State.setFuture (s : State) (c pa st : Nat) (v : Word) : State :=
  let o := (s.memW pa).bits 47 0
  let s := s.writeAt pa (leBytes 8 (futWord st o).toNat ++ leBytes 8 v.toNat)
  let p (x : ContWait) : Bool := x.chan.isNone && x.future == pa
  { s with
    conts := s.conts ++ (s.contWaits.filter p).map fun x => { x with core := c }
    contWaits := s.contWaits.filter fun x => !p x }
/-- Fill or poison a future that is empty or claimed; any other is left unchanged (R469, R471). -/
def State.tryFuture (s : State) (c pa st : Nat) (v : Word) : State :=
  if futState (s.memW pa) < 2 then s.setFuture c pa st v else s
/-- The PA of a future that hardware reaches for a hearth: 16-aligned, in DRAM of the package, not poisoned (R294, R488). -/
def State.futurePA (s : State) (h : Nat) (va : Word) : Except Nat Nat :=
  if va.toNat % 16 ≠ 0 then .error 0x0A
  else match s.hwPA h va .atomic with
    | .error e => .error e
    | .ok pa =>
      if paClass pa ≠ 0 ∨ !s.ownPackage pa then .error 0x0C
      else if s.poisoned pa 16 then .error 0x47 else .ok pa

/-! ## Queues (R72, R73) -/

/-- The clock with which a word of a hearth is acquired (R133, R137, R266). -/
def State.clockAt (s : State) (h : Nat) (va : Word) : Clock :=
  match s.hwPA h va .read with
  | .ok pa => s.unitClock pa
  | .error _ => {}
/-- A slot acquires a word of its hearth. -/
def State.acquireVA (s : State) (c n : Nat) (va : Word) : State := s.acquireAt c n (s.clockAt (s.slot c n).st.hearth va)
/-- The descriptor of a level of a core's queue (R72). -/
def queueVA (q : Hearth) (c prio : Nat) : Word := va57 (q.qtbase.bits 56 12 * 4096 + 128 * c + 32 * prio)
/-- What a push does. -/
inductive Pushed where
  | ok (s : State)
  | full
  | fault (cause : Nat) (addr : Word)
  deriving DecidableEq, Repr
/-- Reserve the tail entry of a ring and write a TASKID and its SEQ (R73). -/
def State.queuePush (s : State) (h : Nat) (desc task : Word) : Pushed :=
  match s.hwReadWords h desc 4 with
  | .error e => .fault e.1 e.2
  | .ok ws =>
    let base := ws.getD 0 0
    let slog := (ws.getD 1 0).bits 4 0
    let tail := ws.getD 3 0
    if 2 ^ slog ≤ (tail - ws.getD 2 0).toNat then .full
    else match s.hwWords h (desc + 24) [tail + 1] with
      | .error e => .fault e.1 e.2
      | .ok s => match s.hwWords h (base + word (16 * (tail.toNat % 2 ^ slog))) [task, tail + 1] with
        | .error e => .fault e.1 e.2
        | .ok s => .ok s

/-! ## The end of a thread -/

/-- The streams of a slot are unbound and its tile claims end (R364, R469). Appends of write streams are stores already. -/
def State.endUnits (s : State) (c n : Nat) : State :=
  (s.modSlot c n fun t => { t with streams := [] }).modCore c fun k =>
    { k with tiles := k.tiles.map fun e =>
        let t := e.2
        if t.claimed && t.slot == n then (e.1, { t with claimed := false, slot := 0 }) else e }
/-- The channels of a slot belong to the thread whose image stands at a VA, once it has left the slot (R79, R86, R363). -/
def State.chansAway (s : State) (c n : Nat) (va : Word) : State :=
  s.modCore c fun k => { k with tongs := k.tongs.map fun e => if e.2.owner == (c, n) && e.2.away.isNone then (e.1, { e.2 with away := some va }) else e }
/-- The channels of the thread whose image stands at a VA belong to the slot that loads it. -/
def State.chansBack (s : State) (c n h : Nat) (va : Word) : State :=
  let hit (x : Channel) : Bool := x.hearth == h && x.away == some va
  { s with cores := s.cores.map fun (k : Nat × Core) =>
      if k.2.tongs.any fun e => hit e.2 then
        (k.1, { k.2 with tongs := k.2.tongs.map fun e => if hit e.2 then (e.1, { e.2 with owner := (c, n), away := none }) else e })
      else k }
/-- A thread leaves its slot for an image at a VA: what hardware keeps beside the image, and its channels. -/
def State.keepAt (s : State) (c n : Nat) (va : Word) : State :=
  (s.keep (s.slot c n).st.hearth va (s.slot c n).kept).chansAway c n va
/-- A thread that has been loaded from an image at a VA into a slot takes back what was kept. -/
def State.takeKept (s : State) (c n h : Nat) (va : Word) : State :=
  ((s.modSlot c n (·.withKept (s.keptAt h va))).unkeep h va).chansBack c n h va

/-- The helper whose record a LINK names is loaded in the slot of the task that it adopted (R87 step 3): it keeps the slot's required
clock (R138). A record that cannot be read frees the slot and is reported (log 21). -/
def State.resumeHelper (s : State) (c n : Nat) (link : Word) (rc : Clock) (h : Nat) : State :=
  let tr := va57 (link.bits 56 0)
  match s.hwReadWords h tr 12, s.readBillet h (tr + 0x60) with
  | .ok ws, .ok t =>
    let s := ((s.casNoted c h (ws.getD 0 0) tr 6 2).orphan c n).dropMisses c n
    (s.setSlot c n { t with taskid := ws.getD 0 0, key := ws.getD 0 0, ctr := ws.getD 11 0, rc := rc,
                            readyAt := (s.core c).cycle.toNat + 4 }).takeKept c n h tr
  | .error e, _ => (s.report { s.threadRecord c n e.1 5 with addr := e.2 }).freeSlot c n
  | _, .error e => (s.report { s.threadRecord c n e.1 5 with addr := e.2 }).freeSlot c n
/-- The task leaves its slot: the helper under it resumes, or the slot is free (R87, R469). -/
def State.unchain (s : State) (c n : Nat) : State :=
  let t := s.slot c n
  if t.link.bits 63 61 = 2 then s.resumeHelper c n t.link t.rc t.st.hearth else s.freeSlot c n
/-- A task of a deterministic hearth has ended: it counts toward its phase once its homes have acknowledged what it sent (R89). -/
def State.detExit (s : State) (h : Nat) (task : Word) : State :=
  s.modHearth h fun q => { q with det := { q.det with exiting := q.det.exiting ++ [(taskPhase task, task)] } }
/-- The state of a task becomes done and its footprint is unpinned (R87 step 2). -/
def State.taskDone (s : State) (c n h : Nat) (tr : Word) : State :=
  let t := s.slot c n
  let s := (s.casNoted c h t.taskid tr 2 5).unpin h t.taskid
  if t.st.det then s.detExit h t.taskid else s
/-- The result future of a task is filled or poisoned (R87, R469): in deterministic mode when its phase commits, since its tasks read the
futures of the phase's start (R302). -/
def State.resultFuture (s : State) (c n : Nat) (tr : Word) (st : Nat) (v : Word) : State :=
  let t := s.slot c n
  let h := t.st.hearth
  let fut := ((s.hwReadWords h (tr + 0x10) 1).toOption.getD []).getD 0 0
  if fut = 0 then s
  else match s.futurePA h fut with
    | .ok pa =>
      if t.st.det then s.modHearth h fun q => { q with det := { q.det with fills := q.det.fills ++ [{ task := t.taskid, pa := pa, state := st, value := v, core := c }] } }
      else s.tryFuture c pa st v
    | .error _ => s

/-- The steps of EXIT that follow its waits (R87, R138, R364): the future is filled after a release at pkg. -/
def State.endTask (s : State) (c n : Nat) (v : Word) : State :=
  let t := s.slot c n
  let h := t.st.hearth
  match ((s.endUnits c n).leave c n).lookup c h t.taskid with
  | (.at tr, s) => ((s.resultFuture c n tr 2 v).taskDone c n h tr).unchain c n
  | (_, s) => s.unchain c n

/-- The owner that a thread has claimed for an adoption goes back to its state (R473). -/
def State.unclaimOwner (s : State) (c n : Nat) : State :=
  match (s.slot c n).adopting with
  | none => s
  | some (_, tr, st) => (s.casNoted c (s.slot c n).st.hearth (s.slot c n).taskid tr 2 st).modSlot c n fun t => { t with adopting := none }
/-- TaskAbort (R469) once copies and tiles have ended. -/
def State.abortNow (s : State) (c n cause : Nat) : State :=
  let s := s.unclaimOwner c n
  let t := s.slot c n
  let h := t.st.hearth
  let s := match ((s.endUnits c n).sendTask c n).lookup c h t.taskid with
    | (.at tr, s) =>
      let s := if ((s.hwReadWords h (tr + 0x10) 1).toOption.getD []).getD 0 0 = 0 then s else (s.release c n 4 []).drain c 640
      (s.resultFuture c n tr 3 (word (cause * 2 ^ 56 + taskNo t.taskid))).taskDone c n h tr
    | (_, s) => s
  let s := s.report { s.threadRecord c n (if 1 ≤ t.st.adepth then 0x61 else cause) 4 with detail := word cause }
  s.unchain c n
/-- TaskAbort (R469): it waits until the copies and tiles counts are zero. -/
def State.taskAbort (s : State) (c n cause : Nat) : State :=
  let t := s.slot c n
  if t.copies = 0 ∧ t.tiles = 0 then s.abortNow c n cause
  else s.modSlot c n fun t => { t with abort := some cause, wait := .stuck }
/-- A TaskAbort that waits goes on when the counts are zero. -/
def State.resumeAbort (s : State) (c n : Nat) : State :=
  let t := s.slot c n
  match t.abort with
  | some cause => if t.copies = 0 ∧ t.tiles = 0 then s.abortNow c n cause else s
  | none => s

/-! ## Waiting and adoption (R84-R86, R472, R473) -/

/-- The instruction has acted, and waits to complete (R31). -/
def State.holdBegun (s : State) : State := s.modCur fun t => { t with begun := true, wait := .retry }
/-- Wait on a watch of an object at its home (R65, R294). A home whose table is full answers at once (R286). -/
def State.watchWait (s : State) (pa : Nat) : State :=
  let hm := homeOf pa
  if 256 ≤ (s.home hm).watches.length then s.holdBegun
  else
    let w : Watch := { pa := pa, core := s.curCore, slot := s.curSlot, task := s.cur.taskid }
    (s.modHome hm fun q =>
      { q with watches := q.watches.filter (fun x => !(x.pa == pa && x.core == w.core && x.slot == w.slot)) ++ [w] }).waitFor (.obj pa)
/-- The owner is the ID of a helper on the chain of a LINK, followed through n records (R84). -/
def State.onChain (s : State) (h owner : Nat) (link : Word) : Nat → Bool
  | 0 => false
  | n + 1 =>
    if link.bits 63 61 ≠ 2 then false
    else match s.hwReadWords h (va57 (link.bits 56 0)) 32 with
      | .error _ => false
      | .ok ws => taskNo (ws.getD 0 0) == owner || s.onChain h owner (ws.getD 31 0) n
/-- CycleFault (R472). The retried instruction finds the poison; LOCK traps, and what it has written stands. -/
def State.cycleFault (s : State) (lock : Bool) (pa : Nat) (a : Word) (owner : Nat) : State :=
  if lock then s.trap { cause := 0x60, cls := 4, addr := a }
  else
    let s := s.tryFuture s.curCore pa 3 (word (0x60 * 2 ^ 56 + owner))
    (s.report { s.threadRecord s.curCore s.curSlot 0x60 4 with addr := a, owner := some (word owner) }).holdBegun
/-- An access that hardware makes for the executing instruction fails: the instruction traps, or waits where the access must (log 118). -/
def State.hwFail (s : State) (e : Nat × Word) : Except TrapRec State :=
  if e.1 = hwWait then .ok (s.waitFor .retry) else .error { cause := e.1, cls := if e.1 = 0x47 then 4 else 0, addr := e.2 }
/-- An instruction goes on, or traps in the state in which it stood. -/
def State.orTrap (s : State) : Except TrapRec State → State
  | .ok s => s
  | .error r => s.trap r
/-- CanAdopt (R85) but for the waiter's own record. -/
def State.canAdopt (s : State) (ctrl : Word) : Bool :=
  let t := s.cur
  t.st.vclean && t.st.adepth < 4 && ctrl.bits 31 31 == 0 && !(s.hearth t.st.hearth).det.on
/-- An access, copy or command of a thread is under way: its counts are more than its deferred faults hold (R153, R454). -/
def Slot.underWay (t : Slot) : Bool :=
  let held (i : Nat) : Nat := t.deferred.countP fun d => d.count == i
  held 0 < t.loads || held 1 < t.stores || held 2 < t.copies || held 3 < t.tiles
/-- The record of a task cannot be read yet. -/
def State.recordWaits (s : State) (h : Nat) (tr : Word) : Bool :=
  match s.startTask h tr with
  | .error e => e.1 == hwWait
  | .ok _ => false
/-- The lookup of a TASKID must wait. -/
def State.lookupWaits (s : State) (h : Nat) (id : Word) : Bool :=
  match s.taskRecord h id with
  | .fault e _ => e == hwWait
  | _ => false
/-- What keeps EXIT from its task's record (R68, R87): the fault of the lookup, or of CTRL or the FUTURE word. -/
def State.exitFault? (s : State) (c n : Nat) : Option (Nat × Word) :=
  let t := s.slot c n
  match s.taskRecord t.st.hearth t.taskid with
  | .fault e a => some (e, a)
  | .at tr => match s.hwReadWords t.st.hearth (tr + 8) 2 with
    | .error e => some e
    | .ok _ => none
  | _ => none
/-- A record that the end of a thread reads cannot be read yet: its own, or its helper's. -/
def State.exitWaits (s : State) (c n : Nat) : Bool :=
  let t := s.slot c n
  s.lookupWaits t.st.hearth t.taskid || (t.link.bits 63 61 == 2 && s.recordWaits t.st.hearth (va57 (t.link.bits 56 0)))
/-- An adoption whose compare-and-swap is won goes on when the wait is over. -/
def State.holdAdopt (s : State) (wrec tr : Word) (st : Nat) : State :=
  (s.modCur fun t => { t with adopting := some (wrec, tr, st) }).holdBegun
/-- Adopt the task of a record (R86, R473), found in state st and claimed, into the executing slot, whose own record is wrec. The resident
frames are written to the spill area first, as at a migration (log 22). What faults before the waiter has become a helper traps. -/
def State.adopt (s : State) (wrec tr : Word) (st : Nat) : Except TrapRec State :=
  let c := s.curCore
  let n := s.curSlot
  let h := s.cur.st.hearth
  let hold : State := s.holdAdopt wrec tr st
  let fail (e : Nat × Word) : Except TrapRec State :=
    if e.1 = hwWait then .ok hold else .error { cause := e.1, cls := if e.1 = 0x47 then 4 else 0, addr := e.2 }
  match s.clearIdv.spillAll with
  | (some (some r), _) => .error r
  | (some none, _) => .ok hold
  | (none, s) =>
    let t := s.cur
    match s.hwWords h (wrec + 0x60) (billetWords t.billet) with
    | .error e => fail e
    | .ok s => match s.hwWords h (wrec + 0x58) [t.ctr] with
      | .error e => fail e
      | .ok s => match ((s.release c n 4 []).drain c 640).casTask h wrec 2 6 with
        | .error e => fail e
        | .ok (_, s) =>
          let s := s.keepAt c n wrec
          let rc := (s.slot c n).rc
          let link := word (2 * 2 ^ 61 + wrec.bits 56 0)
          match s.hwReadWords h tr 32 with
          | .error (e, a) => .ok ((s.report { s.threadRecord c n e 5 with addr := a }).resumeHelper c n link rc h)
          | .ok ws =>
            let o := s.threadOf h tr ws
            let rs := if st = 1 then recordRanges ws else []
            let s := s.setSlot c n { o with rc := rc, readyAt := (s.core c).cycle.toNat + 4 }
            let s := if st = 3 then s.takeKept c n h tr else s.unkeep h tr
            let s := s.modSlot c n fun o =>
              { o with link := link, st := { o.st with adepth := t.st.adepth + 1 }, fetch := rs,
                       wait := if rs = [] then .none else .footprint }
            .ok (if rs.any (·.bad (s.core c).log) then s.taskAbort c n 0x63 else s)
/-- Go on with an adoption whose owner is claimed. A fault gives the owner its state back, and traps (R473). -/
def State.adoptNow (s : State) (wrec tr : Word) (st : Nat) : State :=
  if s.cur.underWay || s.recordWaits s.cur.st.hearth tr then s.holdAdopt wrec tr st
  else match s.adopt wrec tr st with
    | .ok s => s
    | .error r => (s.modCur fun t => { t with adopting := some (wrec, tr, st) }).unclaimOwner s.curCore s.curSlot |>.trap r
/-- A waiting instruction goes on with the adoption that it has begun, or acts. -/
def State.orAdopt (s : State) (go : State → State) : State :=
  match s.cur.adopting with
  | some (wrec, tr, st) => s.adoptNow wrec tr st
  | none => go s
/-- WaitOrHelp (R84) for an object at pa that names an owner, or the trap of a lookup or of an adoption that fails (R473, R488). In one step
no other agent can win the compare-and-swap, so one attempt decides. The compare-and-swap acquires (R137); the owner is then loaded once
what the thread has under way has ended (log 52). -/
def State.waitOrHelp (s : State) (lock : Bool) (pa : Nat) (a : Word) (owner : Nat) : Except TrapRec State :=
  let t := s.cur
  let h := t.st.hearth
  let id := word (taskPhase t.taskid * 2 ^ 48 + owner)
  if owner = taskNo noTask then .ok (s.watchWait pa)
  else match s.lookup s.curCore h id with
    | (.none, s) | (.arena, s) => .ok (s.watchWait pa)
    | (.fault e x, s) => s.hwFail (e, x)
    | (.at tr, s) => match s.hwReadWords h (tr + 8) 1 with
      | .error e => s.hwFail e
      | .ok ws =>
        let ctrl := ws.getD 0 0
        let st := ctrl.bits 39 36
        if owner = taskNo t.taskid || s.onChain h owner t.link 4 then .ok (s.cycleFault lock pa a owner)
        else if (st ≠ 1 ∧ st ≠ 3) ∨ !s.canAdopt ctrl then .ok (s.watchWait pa)
        else match s.lookup s.curCore h t.taskid with
          | (.at wrec, s) =>
            match s.casTask h tr st 2 with
            | .error e => s.hwFail e
            | .ok (_, s) =>
              let s := s.acquireVA s.curCore s.curSlot (tr + 8)
              if t.underWay || s.recordWaits h tr then .ok (s.holdAdopt wrec tr st) else s.adopt wrec tr st
          | (.fault e x, s) => s.hwFail (e, x)
          | (_, s) => .ok (s.watchWait pa)

end Sys2Proof.Machine
end

