-- ==== Sys2Proof/Machine/Anvil.lean ====
section
/-! DEFINITION. Tiles, the anvil's command queue, the swage and the tile sequencer (R178-R181, R338-R354, R512-R516). -/

namespace Sys2Proof.Machine

/-! ## Tiles -/

/-- A tile register of a core. -/
def Core.tile (k : Core) (i : Nat) : Tile := get {} k.tiles i
/-- Write a tile register. -/
def Core.setTile (k : Core) (i : Nat) (t : Tile) : Core := { k with tiles := put k.tiles i t }
/-- TSTAT of a tile (R338). -/
def Tile.stat (t : Tile) : Word :=
  word ((if t.claimed then 2 ^ 31 else 0) + t.slot % 16 * 2 ^ 27 + (if t.live then 2 ^ 26 else 0) + (if t.sat then 2 ^ 25 else 0) +
    (if t.inv then 2 ^ 24 else 0) + (if t.exact then 2 ^ 20 else 0) + t.rows % 256 * 2 ^ 8 + t.cols % 256)
/-- Every element +0, with its flags clear (R340, R341). -/
def Tile.zeroed (t : Tile) : Tile :=
  { t with fp := if t.exact then [] else List.replicate (t.rows * t.cols) 0,
           ex := if t.exact then List.replicate (t.rows * t.cols) {} else [], sat := false, inv := false }
/-- The claim ends (R339). -/
def Tile.unclaim (t : Tile) : Tile := { t with claimed := false, slot := 0 }
/-- A slot claims a tile, and is no longer vector-clean (R48, R339). -/
def State.claimTile (s : State) (c n i : Nat) : State :=
  (s.modCore c fun k => k.setTile i { k.tile i with claimed := true, slot := n }).modSlot c n fun t =>
    { t with st := { t.st with vclean := false } }

/-! ## Exact accumulators (R179, R181) -/

/-- A value on the grid of 2^-32, rounded to nearest even, in units of the grid. -/
def gridUnits : Num → Int
  | .fin s m e => let v : Int := roundAt 0 s m e (-32) 0
                  if s then -v else v
  | _ => 0
/-- MmaxAdd (R179). -/
def exactAdd (e : Exact) (t : Num) : Exact :=
  if e.inv || e.sat then e
  else match t with
    | .fin .. =>
      let top : Int := 2 ^ 79 - 1
      let u := gridUnits t
      let c := max (-top) (min top u)
      let v := e.acc.toInt + c
      let hi : Int := 2 ^ 95 - 1
      if hi < v ∨ v < -(2 ^ 95) then { acc := BitVec.ofInt 96 (if 0 < v then hi else -(2 ^ 95)), sat := true }
      else { acc := BitVec.ofInt 96 v, sat := c != u }
    | _ => { e with inv := true }
/-- The element that TLD makes of a value (R347). -/
def exactOf (x : Num) : Exact :=
  match x with
  | .fin .. =>
    let u := gridUnits x
    let c := max (-(2 ^ 95)) (min (2 ^ 95 - 1) u)
    { acc := BitVec.ofInt 96 c, sat := c != u }
  | _ => { inv := true }
/-- The value that an exact element reads as (R181). A saturated one takes its accumulator's sign, which is the model's choice (log 162). -/
def Exact.num (e : Exact) : Num :=
  if e.inv then .nan
  else if e.sat then .fin (e.acc.toInt < 0) 1 63
  else .fin (e.acc.toInt < 0) e.acc.toInt.natAbs (-32)
/-- An exact element as i32 (R181). -/
def Exact.i32 (e : Exact) : Nat :=
  if e.inv then 2 ^ 31 else (e.num.toRange 0 (-(2 ^ 31)) (2 ^ 31 - 1) % 2 ^ 32).toNat

/-- The code that TST makes of an element (R347). -/
def Tile.code (t : Tile) (et sat i : Nat) : Nat :=
  if t.exact then
    let e := t.ex.getD i {}
    if et = 9 then e.i32 else fp32.round 0 sat 0 0 e.num
  else ((etFmt et).getD fp32).round 0 sat 0 0 (fp32.decode (t.fp.getD i 0).toNat)
/-- A tile with loaded elements (R347). -/
def Tile.loaded (t : Tile) (vs : List Num) : Tile :=
  if t.exact then
    let ex := vs.map exactOf
    { t with ex := ex, live := true, sat := t.sat || ex.any (·.sat), inv := t.inv || ex.any (·.inv) }
  else { t with fp := vs.map fun v => BitVec.ofNat 32 (fp32.round 0 0 0 0 v), live := true }

/-! ## Products -/

/-- Split a list into groups of n. -/
def groups {α : Type} (n : Nat) (l : List α) : Nat → List (List α)
  | 0 => []
  | k + 1 => if l.isEmpty then [] else l.take n :: groups n (l.drop n) k
/-- The exact sum of products. -/
def dot : List (Num × Num) → Num
  | [] => .fin false 0 0
  | [(a, b)] => a.mul b
  | (a, b) :: r => (a.mul b).add 0 (dot r)
/-- One element of an MMA (R178): each group of 32 is rounded once, multiplied by the gain and added, in ascending order. -/
def mmaElem (gain acc : BitVec 32) (ps : List (Num × Num)) : BitVec 32 :=
  (groups 32 ps ps.length).foldl (fun acc g =>
    let x := fp32.round 0 0 0 0 (dot g)
    let y := fp32.round 0 0 0 0 ((fp32.decode x).mul (fp32.decode gain.toNat))
    BitVec.ofNat 32 (fp32.round 0 0 0 0 ((fp32.decode acc.toNat).add 0 (fp32.decode y)))) acc
/-- One element of an MMAX (R179): a term for each block along k. -/
def mmaxElem (e : Exact) (blocks : List (List (Num × Num))) : Exact := blocks.foldl (fun e g => exactAdd e (dot g)) e

/-! ## Descriptors and the swage -/

/-- K of a descriptor (R348). -/
def descK (d : List Word) : Nat := (d.getD 4 0).bits 63 48 + 1
/-- The type of A. -/
def descA (d : List Word) : Nat := (d.getD 4 0).bits 47 44
/-- The type of B. -/
def descB (d : List Word) : Nat := (d.getD 4 0).bits 43 40
/-- A is formed by the swage. -/
def descSwz (d : List Word) : Bool := (d.getD 4 0).bits 39 39 = 1
/-- The barrier that completion arrives at. -/
def State.descBind (s : State) (c : Nat) (d : List Word) : Option BarId :=
  let w := d.getD 4 0
  if w.bits 31 31 = 1 then some (s.barOn c (w.bits 30 28) (w.bits 27 22)) else none
/-- kh, kw, sh, sw, dh, dw, pt and pl of the swage (R351). -/
def Swage.geometry (x : Swage) : Nat × Nat × Nat × Nat × Nat × Nat × Nat × Nat :=
  let k := x.kern
  (k.bits 2 0 + 1, k.bits 5 3 + 1, k.bits 7 6 + 1, k.bits 9 8 + 1, k.bits 10 10 + 1, k.bits 11 11 + 1, k.bits 14 12, k.bits 17 15)
/-- The address of element (r, k) of A as the swage forms it; none where the element is 0 (R351). -/
def Swage.addr (x : Swage) (et p0 r k : Nat) : Option Word :=
  let (_, kw, sh, sw, dh, dw, pt, pl) := x.geometry
  let h := x.dims.bits 63 48
  let w := x.dims.bits 47 32
  let cc := x.dims.bits 31 16
  let wo := x.dims.bits 15 0
  let p := p0 + r
  let y : Int := (p / wo * sh + k / cc / kw * dh : Nat) - (pt : Int)
  let z : Int := (p % wo * sw + k / cc % kw * dw : Nat) - (pl : Int)
  if 0 ≤ y ∧ y < h ∧ 0 ≤ z ∧ z < w then some (x.tbase + wordI (((y * w + z) * cc + (k % cc : Nat)) * etBytes et)) else none
/-- A descriptor is refused (R348, R349, R351, R499): the trap, with the record's address. -/
def descBad (exact : Bool) (d : List Word) (sw : Swage) (a : Word) : Option TrapRec :=
  let w := d.getD 4 0
  let fa := descA d
  let fb := descB d
  let ok (e : Nat) : Bool := if exact then e == 7 || (3 ≤ e && e ≤ 5) else 1 ≤ e && e ≤ 5
  let (kh, kw, _) := sw.geometry
  firstTrap [
    trapIf (w.bits 38 32 != 0 || w.bits 21 0 != 0 || d.getD 5 0 != 0 || d.getD 6 0 != 0 || d.getD 7 0 != 0) 0x0D a,
    trapIf (!ok fa || !ok fb || (descSwz d && fa == 5)) 0x03 a,
    trapIf (descSwz d && (d.getD 2 0 != 0 || descK d != kh * kw * sw.dims.bits 31 16)) 0x0D a,
    trapIf (w.bits 31 31 == 1 && (w.bits 30 28 < 2 || 5 < w.bits 30 28 || barCount (w.bits 30 28) ≤ w.bits 27 22)) 0x0D a]

/-! ## What a command does -/

/-- For whom a command acts. -/
def State.cmdAgent (s : State) (c : Nat) (k : AnvCmd) : Agent :=
  { unit := anvilUnit, core := c, slot := k.slot, hearth := k.hearth, priv := k.priv, rc := k.rc, task := k.task,
    det := (s.slot c k.slot).st.det }
/-- A row or column that lies on blocked pages begins on a block boundary (R348). -/
def Agent.blockStart (g : Agent) (et : Nat) (va : Word) : EngM Unit :=
  (g.tr va .read).bind fun (_, a) =>
    if a.fmt != 0 && a.geom != 0 && (va - word a.base).toNat * 8 % (blockOf a.geom * etBits et) != 0 then .fault 0x0F va else .pure ()
/-- A run of n elements along k from a base. -/
def Agent.run (g : Agent) (et : Nat) (base : Word) (n : Nat) : EngM (List EngElem) :=
  (g.blockStart et base).bind fun _ => EngM.all ((List.range n).map fun k => g.elem et false (elemAt et base k) k)
/-- Row r of A (R348, R351). -/
def Agent.rowA (g : Agent) (d : List Word) (sw : Swage) (r : Nat) : EngM (List EngElem) :=
  let et := descA d
  if descSwz d then
    EngM.all ((List.range (descK d)).map fun k => match sw.addr et ((d.getD 0 0).bits 31 0) r k with
      | some va => g.elem et true va 0
      | none => .pure ⟨.fin false 0 0, 0, 0⟩)
  else g.run et (d.getD 0 0 + word r * d.getD 2 0) (descK d)
/-- Column c of B (R348). -/
def Agent.colB (g : Agent) (d : List Word) (c : Nat) : EngM (List EngElem) :=
  g.run (descB d) (d.getD 1 0 + word c * d.getD 3 0) (descK d)
/-- An element of a row or column in the blocks along k (R179): whether it begins a block, and the block's length with the elements of it
that are still to come. Outside blocked pages a block has 32 elements. -/
def nextBlock (cur : Nat × Nat) (blk : Nat) : Bool × (Nat × Nat) :=
  if cur.2 = 0 ∨ cur.1 ≠ blk then (true, (blk, (if blk = 0 then 32 else blk) - 1)) else (false, (blk, cur.2 - 1))
/-- The products of a row and a column by blocks (R179): one ends where a block of either does. -/
def blockPairs (ca cb : Nat × Nat) (cur : List (Num × Num)) : List EngElem → List EngElem → List (List (Num × Num))
  | a :: as, b :: bs =>
    let x := nextBlock ca a.blk
    let y := nextBlock cb b.blk
    if (x.1 || y.1) && !cur.isEmpty then cur.reverse :: blockPairs x.2 y.2 [(a.v, b.v)] as bs
    else blockPairs x.2 y.2 ((a.v, b.v) :: cur) as bs
  | _, _ => if cur.isEmpty then [] else [cur.reverse]
/-- The tile after an MMA or MMAX (R349). -/
def Tile.multiplied (t : Tile) (gain : BitVec 32) (as bs : List (List EngElem)) : Tile :=
  let at_ (i : Nat) : List EngElem × List EngElem := (as.getD (i / t.cols) [], bs.getD (i % t.cols) [])
  let pairs (i : Nat) : List (Num × Num) := ((at_ i).1.zip (at_ i).2).map fun p => (p.1.v, p.2.v)
  if t.exact then
    let ex := (List.range (t.rows * t.cols)).map fun i => mmaxElem (t.ex.getD i {}) (blockPairs (0, 0) (0, 0) [] (at_ i).1 (at_ i).2)
    { t with ex := ex, live := true, sat := t.sat || ex.any (·.sat), inv := t.inv || ex.any (·.inv) }
  else { t with fp := (List.range (t.rows * t.cols)).map fun i => mmaElem gain (t.fp.getD i 0) (pairs i), live := true }
/-- The address of element i of a tile in memory (R347). -/
def Tile.addr (t : Tile) (addr stride : Word) (et i : Nat) : Word := elemAt et (addr + word (i / t.cols) * stride) (i % t.cols)
/-- The image of a tile (R354): an unconfigured tile's is only the header. -/
def Tile.image (t : Tile) (gain : BitVec 32) : List Byte :=
  leBytes 8 { t with claimed := false, slot := 0 }.stat.toNat ++ leBytes 4 gain.toNat ++ List.replicate 52 0 ++
    (if t.exact then t.ex.flatMap fun e => leBytes 12 e.acc.toNat ++ leBytes 4 ((if e.sat then 1 else 0) + if e.inv then 2 else 0)
     else t.fp.flatMap fun x => leBytes 4 x.toNat)
/-- The header of an image is refused (R354; a dimension above 64 is none of a tile). -/
def imageBad (hd : Word) : Bool :=
  let r := hd.bits 15 8
  let q := hd.bits 7 0
  2 ≤ hd.bits 21 20 || r == 0 || q == 0 || 64 < r || 64 < q || (hd.bits 21 20 == 1 && 1024 < r * q)
/-- The tile that an image describes, claimed for a slot. -/
def tileOf (hd : Word) (bs : List Byte) (claim : Nat) : Tile :=
  let r := hd.bits 15 8
  let q := hd.bits 7 0
  let num (o n : Nat) : Nat := leNat ((bs.drop o).take n)
  let x := hd.bits 21 20 = 1
  { claimed := true, slot := claim, live := hd.bits 26 26 = 1, sat := hd.bits 25 25 = 1, inv := hd.bits 24 24 = 1, exact := x,
    rows := r, cols := q,
    fp := if x then [] else (List.range (r * q)).map fun i => BitVec.ofNat 32 (num (4 * i) 4),
    ex := if x then (List.range (r * q)).map fun i =>
      { acc := BitVec.ofNat 96 (num (16 * i) 12), sat := num (16 * i + 12) 1 % 2 = 1, inv := num (16 * i + 12) 1 / 2 % 2 = 1 } else [] }
/-- The aligned words that bytes at an address fall into. -/
def splitWords (va : Word) (bs : List Byte) : Nat → List (Word × List Byte)
  | 0 => []
  | k + 1 =>
    if bs.isEmpty then []
    else
      let n := 8 - va.toNat % 8
      (va, bs.take n) :: splitWords (va + word n) (bs.drop n) k
/-- Change the state of a command that succeeds. -/
def EngM.set (f : State → State) : EngM Unit := fun s => (.ok (), f s)
/-- Make checked writes and go on, or wait for room in the log, which an entry is spilled for, or for what the command must still await. -/
def Agent.commit (g : Agent) (before : State → State) (ps : List EngPut) (fin : State → Option State) : EngM Unit := fun s =>
  match (before s).engPuts g ps with
  | none => (.wait, s.makeRoomAt g.core g.slot)
  | some s' => match fin s' with
    | some s => (.ok (), s)
    | none => (.wait, s)
/-- A value of 8 bytes that an engine reads. -/
def Agent.word (g : Agent) (va : Word) : EngM Word :=
  (g.tr va .read).bind fun (pa, _) => (g.read none va pa 8).bind fun bs => .pure (Sys2Proof.word (leNat bs))
/-- The bank clock rises at each place of local store that a release writes (R266). -/
def State.raisePuts (s : State) (rc : Clock) (ps : List EngPut) : State :=
  ps.foldl (fun s p => if paClass p.pa = 1 ∧ s.ownPackage p.pa then s.raiseBank (paCore p.pa) (paOff p.pa) rc else s) s
/-- The release of a TST with ord:rel (R347). What it has written to local store stands there once the release is stamped, and the banks take
the thread's clock, which the stamp has raised; at sc core they take it at once (R266; log 18). -/
def State.tstRelease (s : State) (c n sc : Nat) (ps : List EngPut) : Option State :=
  let s := if 5 ≤ sc then s.podRelease c n sc [] else s.release c n sc []
  if !ps.any (fun p => paClass p.pa == 1 && s.ownPackage p.pa) then some s
  else
    let s := if 2 ≤ sc then s.drain c 640 else s
    if s.unstamped c n then none else some (s.raisePuts (s.slot c n).rc ps)

/-- The effect of a command on its tile and on memory, whole or not at all (R343). -/
def State.runCmd (s : State) (c : Nat) (k : AnvCmd) : Eng Unit × State :=
  let g := s.cmdAgent c k
  let t := (s.core c).tile k.tile
  let set (s : State) (t : Tile) : State := s.modCore c (·.setTile k.tile t)
  let run : EngM Unit := match k.op with
    | .zero e => .set fun s => set s (if e then { t.zeroed.unclaim with live := false } else { t.zeroed with live := true })
    | .load a st et _ acq =>
      (EngM.all ((List.range (t.rows * t.cols)).map fun i => g.elem et false (t.addr a st et i) (i % t.cols))).bind fun l => .set fun s =>
        let s := set s (t.loaded (l.map (·.v)))
        if acq then s.acquireAt c k.slot (l.foldl (fun x e => x.max (s.unitClock e.pa)) (s.slot c k.slot).rc) else s
    | .store a st et sat rel sc cp =>
      (EngM.all ((List.range (t.rows * t.cols)).map fun i =>
        g.check (some et) cp (t.addr a st et i) (leBytes (etBytes et) (t.code et sat i)))).bind fun ps =>
          g.commit (fun s => if rel && 5 ≤ sc then s.podPrepare c k.slot sc else s) ps fun s => if rel then s.tstRelease c k.slot sc ps else some s
    | .mma d gain sw _ =>
      (EngM.all ((List.range t.rows).map (g.rowA d sw))).bind fun as =>
        (EngM.all ((List.range t.cols).map (g.colB d))).bind fun bs => .set fun s => set s (t.multiplied gain as bs)
    | .save a e gain =>
      let im := t.image gain
      (EngM.all ((splitWords a im im.length).map fun p => g.check none 3 p.1 p.2)).bind fun ps =>
        g.commit id ps fun s => some (if e then set s t.unclaim else s)
    | .restore a claim =>
      (g.word a).bind fun hd =>
        if imageBad hd then .fault 0x0D a
        else
          let n := hd.bits 15 8 * hd.bits 7 0 * (if hd.bits 21 20 = 1 then 2 else 1)
          (EngM.all ((List.range ((n + 1) / 2 * (if hd.bits 21 20 = 1 then 2 else 1))).map fun i => g.word (a + Sys2Proof.word (64 + 8 * i)))).bind
            fun ws => (g.word (a + 8)).bind fun gw => .set fun s =>
              let s := set s (tileOf hd (ws.flatMap fun w => leBytes 8 w.toNat) claim)
              let s := s.modCore c fun q => { q with gains := put q.gains k.tile (gw.setWidth 32) }
              s.modSlot c claim fun t => { t with st := { t.st with vclean := false } }
  run s

/-! ## The queue -/

/-- The weight of core j of a cluster (R344). -/
def Cluster.weight (q : Cluster) (j : Nat) : Nat := natBits q.aweight.toNat (4 * j) 4
/-- The head of a core's queue that may run. -/
def Core.anvHead (k : Core) : Option AnvCmd := k.anvq.find? fun x => !x.held
/-- The core that the anvil serves next (R344). -/
def State.anvNext (s : State) (cl : Nat) : Option Nat :=
  let q := s.cluster cl
  let has (j : Nat) : Bool := (s.core (cl * 8 + j)).anvHead.isSome
  let tc := q.turnCore
  let order := (List.range 8).map fun i => (tc + 1 + i) % 8
  if has tc && q.turnCount < q.weight tc then some tc
  else match order.find? fun j => has j && q.weight j != 0 with
    | some j => some j
    | none => order.find? has
/-- Commands of a slot leave the queue; those bound to a barrier arrive with poison (R513). -/
def State.discardCmds (s : State) (c n : Nat) : State :=
  let mine := (s.core c).anvq.filter (·.slot == n)
  let seq := (s.core c).seqr.any (·.slot == n)
  let counted := mine.countP (fun k => !k.held) + if seq then 1 else 0
  let s := s.modCore c fun k =>
    { k with anvq := k.anvq.filter (·.slot != n), seqr := if seq then none else k.seqr }
  let s := s.modSlot c n fun t => { t with tiles := t.tiles - counted }
  let s := s.modCluster (clusterOf c) fun q => if q.running = some c ∧ mine.any (·.started) then { q with running := none } else q
  mine.foldl (fun s k => match k.bind with
    | some b => s.poisonArrive b k.hearth
    | none => s) s
/-- The offset of a sequence's SPOS in its core's local store (R352). -/
def Sequence.pos (q : Sequence) : Nat := (q.record.toNat - lswin) % 2 ^ 18 + 0x78
/-- The sequence of a slot cannot write its SPOS yet: a copy covers it (R149). -/
def State.sequenceWaits (s : State) (c n : Nat) : Bool :=
  (s.core c).seqr.any fun q => q.slot == n && s.lsStalled c q.pos 8
/-- The tile sequence of a slot stops at a command boundary (R353): SPOS holds the indices of the next command, unless its bank or the ring
refuses the sequence's write, which is left out (R98, R99; log 154). -/
def State.stopSequence (s : State) (c n : Nat) : State :=
  match (s.core c).seqr with
  | some q =>
    if q.slot ≠ n then s
    else
      let pos := word (2 ^ 63 + q.i2 * 2 ^ 40 + q.i1 * 2 ^ 20 + q.i0)
      let s := if (s.core c).lsRefusedN q.pos 8 (s.slot c n).st.hearth q.priv true then s else s.writeLS c q.pos (leBytes 8 pos.toNat)
      (s.modCore c fun k => { k with seqr := none }).modSlot c n fun t => { t with tiles := t.tiles - 1 }
  | none => s

/-- TaskAbort of a thread (R469, R513, R519): its held channels are cancelled first, and its commands leave the queue. -/
def State.killTask (s : State) (c n cause : Nat) : State := ((s.cancelAll c n).discardCmds c n).taskAbort c n cause

/-- The first command that may run has started. -/
def startHead : List AnvCmd → List AnvCmd
  | [] => []
  | k :: r => if k.held then k :: startHead r else { k with started := true } :: r
/-- ANVIL_COMMAND_START (R344): the anvil turns to its next command. -/
def execAnvilCommandStart (cl : Nat) (s : State) : Out :=
  let q := s.cluster cl
  if q.running.isSome || q.stopped || s.clusterStill cl then .next s
  else match s.anvNext cl with
    | none => .next s
    | some j =>
      let c := cl * 8 + j
      let s := s.modCluster cl fun q =>
        { q with running := some c, turnCore := j, turnCount := if q.turnCore = j ∧ q.turnCount < q.weight j then q.turnCount + 1 else 1 }
      .next (s.modCore c fun k => { k with anvq := startHead k.anvq })
/-- The command that runs on a cluster's anvil. -/
def State.anvRunning (s : State) (cl : Nat) : Option (Nat × AnvCmd) :=
  match (s.cluster cl).running with
  | some c => ((s.core c).anvq.find? (·.started)).map fun k => (c, k)
  | none => none
/-- A record about a command: its thread as it issued it (R448, R456). -/
def AnvCmd.record (k : AnvCmd) (c cause cls : Nat) : Record :=
  { cause := cause, cls := cls, hearth := k.hearth, slot := k.slot, core := c, task := k.task, pc := k.pc, owner := k.own }
/-- A command has completed (R343, R349): its bound arrival is made, and it leaves the count unless that arrival failed (R520). -/
def State.cmdDone (s : State) (cl c : Nat) (k : AnvCmd) : State :=
  let s := s.modCore c fun q => { q with anvq := q.anvq.erase k }
  let s := s.modCluster cl fun q => { q with running := none }
  let free (s : State) : State := (s.modSlot c k.slot fun t => { t with tiles := t.tiles - 1 }).resumeAbort c k.slot
  match k.bind with
  | none => free s
  | some b => match s.boundArrive (k.record c 0x18 1) k.hearth b (s.bar b).now with
    | (false, s) => free s
    | (true, s) => s.modSlot c k.slot fun t => { t with deferred := t.deferred ++ [arriveFault 3 0 k.issued b] }
/-- The command multiplies, so that its sums are checked (R516). -/
def AnvCmd.checked (k : AnvCmd) : Bool :=
  match k.op with
  | .mma .. => true
  | _ => false
/-- The command that the anvil of a running domain runs, for a core whose clock runs (R416). -/
def State.anvActive (s : State) (cl : Nat) : Option (Nat × AnvCmd) :=
  match s.anvRunning cl with
  | some p => if s.clusterStill cl || s.clockStopped p.1 then none else some p
  | none => none
/-- ANVIL_COMMAND_COMPLETE (R343-R349, R516). A mismatch that the recomputation settles leaves a record; one that it does not stops the
anvil, and ends every slot with a queued command. -/
def execAnvilCommandComplete (cl : Nat) (check : AnvilCheck) (s : State) : Out :=
  match s.anvActive cl with
  | none => .next s
  | some (c, k) =>
    match s.runCmd c k with
    | (.ok _, s') =>
      match check with
      | .clean => .next (s'.cmdDone cl c k)
      | .recomputed =>
        if !k.checked then .next s
        else .next ((s'.report (k.record c 0x82 2)).cmdDone cl c k)
      | .disagrees =>
        if !k.checked then .next s
        else
          let s := s.modCluster cl fun q => { q with running := none, stopped := true }
          .next ((List.range 8).foldl (fun s j =>
            let c := cl * 8 + j
            (List.range 16).foldl (fun s n =>
              if (s.core c).anvq.any (·.slot == n) then s.killTask c n 0x82 else s) s) s)
    | (_, s) => .next s
/-- ANVIL_FETCH_FAULT (R510, R512): the running command's operands fault. It and the later commands of its slot are held, or leave the
queue when an image is refused; the slot traps at its next boundary. -/
def execAnvilFetchFault (cl : Nat) (s : State) : Out :=
  match s.anvActive cl with
  | none => .next s
  | some (c, k) =>
    match s.runCmd c k with
    | (.fault cause va, s) =>
      let s0 := s
      let s := s.modCluster cl fun q => { q with running := none }
      if cause = 0x0D then
        let s := s.discardCmds c k.slot
        .next ((s.modSlot c k.slot fun t => { t with anvPend := some (0x0D, va, 0) }).resumeAbort c k.slot)
      else if s0.sequenceWaits c k.slot then .next s0
      else
        let s := s.stopSequence c k.slot
        let n := ((s.core c).anvq.filter fun x => x.slot == k.slot && !x.held).length
        let s := s.modCore c fun q =>
          { q with anvq := q.anvq.map fun x => if x.slot = k.slot then { x with held := true, started := false } else x }
        .next ((s.modSlot c k.slot fun t =>
          { t with tiles := t.tiles - n, anvPend := some (0x80, va, if cause = 0x0F then 8 else cause - 0x40) }).resumeAbort c k.slot)
    | (.ok _, _) => .next s
    | (.wait, s) => .next s
/-- ANVIL_WATCHDOG (R515): the moment of expiry is the event's. It does not come while a slot of the cluster is in an ANVILFETCH
handler, the clock is paused or the die halted. -/
def execAnvilWatchdog (cl : Nat) (s : State) : Out :=
  let cs := (List.range 8).map fun j => cl * 8 + j
  let stands := s.clusterStill cl || (s.die (cl / 256)).trip3 || cs.any fun c => (s.core c).slots.any fun e => e.2.anvTrap
  let owner := match s.anvRunning cl with
    | some p => some p
    | none => (s.anvNext cl).bind fun j => (s.core (cl * 8 + j)).anvHead.map fun k => (cl * 8 + j, k)
  match owner with
  | some (c, k) =>
    if stands then .next s
    else
      let s := s.report (k.record c 0x83 5)
      .next (s.killTask c k.slot 0x83)
  | none => .next s

/-! ## Issue -/

/-- The core's command queue has no permit (R33, R343). -/
def State.anvFull (s : State) : Bool := 8 ≤ s.curK.anvq.length
/-- A command behind its permit and its checks. It carries the thread's required clock, so it waits for the stamp of a release that precedes it
(R131, R345). -/
def anvGate (i : Instr) (chk : State → Option TrapRec) (k : State → State) (s : State) : Out :=
  gate i (fun s => if s.anvFull then none else chk s)
    (fun s => if s.anvFull || s.unstamped s.curCore s.curSlot then s.waitFor .retry else k s) s
/-- Queue a command of the executing thread (R343). -/
def State.queueCmd (s : State) (f : Fld) (tile : Nat) (op : AnvOp) (bind : Option BarId) : State :=
  let t := s.cur
  let k : AnvCmd := { slot := s.curSlot, hearth := t.st.hearth, task := t.taskid, priv := t.st.priv, rc := t.rc, tile := tile, op := op, bind := bind,
                      issued := s.curK.cycle.toNat, pc := t.pc, own := t.owner }
  let s := s.modCurK fun q => { q with anvq := q.anvq ++ [k] }
  ((s.modCur fun t => { t with tiles := t.tiles + 1 }).clearIdv).finish f
/-- The tile is the slot's own and configured (R339, R341); the number is 0 to 3. -/
def tileChk (s : State) (i : Nat) : Option TrapRec :=
  let t := s.curK.tile i
  firstTrap [trapIf (4 ≤ i) 0x0D (word i), trapIf (!t.claimed || t.slot != s.curSlot || t.rows == 0) 0x11 0]
/-- The field check of page 2: fields that must be 0. -/
def lastBad (f : Fld) (bad : Bool) (s : State) : Option TrapRec := limits s [(bad, f.last)]

/-- TCFG (R340). It waits until no queued command of the core names the tile. -/
def execTcfg (x : XA) (s : State) : Out :=
  let f := x.fld 2
  gate (.tcfg x) (fun s =>
      let w := s.w f.s
      let r := w.bits 15 8
      let q := w.bits 7 0
      let t := s.curK.tile f.d
      let busy := s.curK.anvq.any (·.tile == f.d)
      firstTrap [lastBad f (2 ≤ f.base || f.t != 0) s, trapIf (4 ≤ f.d) 0x0D (word f.d), trapIf (w.bits 63 16 != 0) 0x0D w,
        trapIf (r == 0 || q == 0 || 64 < r || 64 < q || (f.base == 1 && 1024 < r * q)) 0x0D w,
        trapIf ((s.cluster (clusterOf s.curCore)).stopped || (!busy && t.claimed && t.slot != s.curSlot)) 0x11 0])
    (fun s =>
      if s.curK.anvq.any (·.tile == f.d) then s.waitFor .retry
      else
        let w := s.w f.s
        let r := w.bits 15 8
        let q := w.bits 7 0
        let was := (s.curK.tile f.d).claimed
        let s := if was then s
          else (s.claimTile s.curCore s.curSlot f.d).modCurK fun k => { k with gains := put k.gains f.d 0x3F800000 }
        let t := s.curK.tile f.d
        let s := if t.rows = r ∧ t.cols = q ∧ t.exact = (f.base == 1) then s
          else s.modCurK fun k => k.setTile f.d { { t with rows := r, cols := q, exact := f.base == 1 }.zeroed with live := false }
        s.advance f) s
/-- TZERO (R341). -/
def execTzero (x : XA) (s : State) : Out :=
  let f := x.fld 2
  anvGate (.tzero x) (fun s => firstTrap [lastBad f (2 ≤ f.base || f.s != 0 || f.t != 0) s, tileChk s f.d])
    (fun s => s.queueCmd f f.d (.zero (f.base == 1)) none) s
/-- The types that TLD and TST accept, by the tile's type (R347). -/
def tileEtOk (exact load : Bool) (et : Nat) : Bool :=
  if load then (if exact then et == 0 || et == 7 || et == 9 else et ≤ 5 || et == 7 || et == 9)
  else (if exact then et == 0 || et == 9 else et ≤ 4)
/-- ALIGN at the lowest misaligned element of a tile's rows (R347, R501). -/
def tileAlign (f : Fld) (s : State) : Option TrapRec :=
  let t := s.curK.tile f.d
  elemAlign f.et ((List.range t.rows).map fun r => { l := 0, va := s.w f.s + word r * s.w f.t })
/-- The checks of TLD and TST. -/
def tileMemChk (f : Fld) (load : Bool) (s : State) : Option TrapRec :=
  let t := s.curK.tile f.d
  firstTrap [
    limits s [(if load then 2 ≤ f.ord || loadOrdBad f else f.ord == 3 || storeOrdBad f, f.pxmPos),
      (f.m != 0 || f.mm != 0 || !tileEtOk t.exact load f.et, f.pxvPos), (f.base != 0, f.last)],
    tileChk s f.d, tileAlign f s]
/-- TLD (R347). -/
def execTld (x : XA) (s : State) : Out :=
  let f := x.fld 2
  anvGate (.tld x) (tileMemChk f true) (fun s => s.queueCmd f f.d (.load (s.w f.s) (s.w f.t) f.et f.sat (f.ord == 1)) none) s
/-- TST (R347). -/
def execTst (x : XA) (s : State) : Out :=
  let f := x.fld 2
  anvGate (.tst x) (tileMemChk f false) (fun s => s.queueCmd f f.d (.store (s.w f.s) (s.w f.t) f.et f.sat (f.ord == 2) f.sc f.cp) none) s
/-- A multiply-accumulate command (R348, R349). -/
def mmaInstr (i : Instr) (f : Fld) (exact : Bool) (s : State) : Out :=
  anvGate i (fun s => firstTrap [
      lastBad f (f.base != 0 || (exact && f.t != 0)) s, trapIf (!exact && 4 ≤ f.t) 0x0D (word f.t), tileChk s f.d,
      trapIf ((s.curK.tile f.d).exact != exact) 0x11 0, alignTrap (s.w f.s) 64])
    (fun s =>
      let a := s.w f.s
      s.withRecord a 8 fun _ d s =>
        match descBad exact d s.curK.swage a with
        | some r => s.trap r
        | none => s.queueCmd f f.d (.mma d (get 0 s.curK.gains f.t) s.curK.swage exact) (s.descBind s.curCore d)) s
/-- MMA (R348, R349). -/
def execMma (x : XA) (s : State) : Out := mmaInstr (.mma x) (x.fld 2) false s
/-- MMAX (R348, R349). -/
def execMmax (x : XA) (s : State) : Out := mmaInstr (.mmax x) (x.fld 2) true s
/-- GSET (R342). -/
def execGset (x : XA) (s : State) : Out :=
  let f := x.fld 2
  gate (.gset x) (fun s => firstTrap [lastBad f (f.base != 0 || f.t != 0) s, tileChk s f.d]) (fun s =>
    let v := s.w f.s
    (s.modCurK fun k => { k with gains := put k.gains f.d (v.setWidth 32) }).advance f) s
/-- The hearth of the slot that claims a tile. -/
def State.tileHearth (s : State) (i : Nat) : Nat := (s.slot s.curCore (s.curK.tile i).slot).st.hearth
/-- TSAVE (R354). -/
def execTsave (x : XA) (s : State) : Out :=
  let f := x.fld 2
  anvGate (.tsave x) (fun s =>
      let t := s.curK.tile f.d
      let p := s.cur.st.priv
      firstTrap [lastBad f (2 ≤ f.base || f.t != 0) s,
        if p = 0 then tileChk s f.d
        else firstTrap [trapIf (4 ≤ f.d) 0x0D (word f.d), trapIf (p == 1 && !t.claimed) 0x11 0,
          trapIf (p == 1 && s.tileHearth f.d != s.cur.st.hearth) 0x0E 0],
        alignTrap (s.w f.s) 64])
    (fun s => s.queueCmd f f.d (.save (s.w f.s) (f.base == 1) (get 0 s.curK.gains f.d)) none) s
/-- The slot that TREST claims for (R354). -/
def restSlot (f : Fld) (s : State) : Nat := if s.cur.st.priv = 0 then s.curSlot else (s.w f.t).bits 3 0
/-- TREST (R354). -/
def execTrest (x : XA) (s : State) : Out :=
  let f := x.fld 2
  anvGate (.trest x) (fun s =>
      let t := s.curK.tile f.d
      let n := restSlot f s
      let q := s.slot s.curCore n
      firstTrap [lastBad f (f.base != 0 || (s.cur.st.priv == 0 && f.t != 0)) s, trapIf (4 ≤ f.d) 0x0D (word f.d),
        trapIf (s.cur.st.priv != 0 && !(q.busy && q.st.hearth == s.cur.st.hearth)) 0x0E 0,
        trapIf (s.cur.st.priv == 1 && t.claimed && s.tileHearth f.d != s.cur.st.hearth) 0x0E 0,
        trapIf (t.claimed && t.slot != n) 0x11 0, alignTrap (s.w f.s) 64])
    (fun s => s.queueCmd f f.d (.restore (s.w f.s) (restSlot f s)) none) s
/-- A swage record is refused (R351): a kernel or padding of 7, a zero dimension, a reserved bit, or a tensor outside the core's local
store, taken with elements of one byte (log 29). -/
def swageBad (d : List Word) : Bool :=
  let dims := d.getD 1 0
  let k := d.getD 2 0
  k.bits 2 0 == 7 || k.bits 5 3 == 7 || k.bits 14 12 == 7 || k.bits 17 15 == 7 || k.bits 63 18 != 0 || d.getD 3 0 != 0 ||
    dims.bits 63 48 == 0 || dims.bits 47 32 == 0 || dims.bits 31 16 == 0 || dims.bits 15 0 == 0
/-- SWCFG (R351). -/
def execSwcfg (x : XA) (s : State) : Out :=
  let f := x.fld 2
  gate (.swcfg x) (fun s => firstTrap [lastBad f (f.d != 0 || f.t != 0 || f.base != 0) s, alignTrap (s.w f.s) 32]) (fun s =>
    let a := s.w f.s
    s.withRecord a 4 fun _ d s =>
      let dims := d.getD 1 0
      let bytes := dims.bits 63 48 * dims.bits 47 32 * dims.bits 31 16
      let bad (s : State) : State := s.trap { cause := 0x0D, addr := a }
      if swageBad d then bad s
      else match s.translateCur (d.getD 0 0) .read with
        | (.wait, s) => s.waitFor .retry
        | (.fault _, s) => bad s
        | (.ok pa _, s) => match s.place pa with
          | .own off =>
            if 2 ^ 18 < off + bytes then bad s
            else (s.modCurK fun k => { k with swage := { tbase := d.getD 0 0, dims := dims, kern := d.getD 2 0 } }).advance f
          | _ => bad s) s

/-! ## The tile sequencer -/

/-- The tile that the indices of a sequence name (R352). -/
def seqTile (sctl : Word) (i0 i1 i2 : Nat) : Nat :=
  (sctl.bits 60 59 + i0 * sctl.bits 54 53 + i1 * sctl.bits 56 55 + i2 * sctl.bits 58 57) % 4
/-- The first four numbers from a to b - 1: tile numbers repeat after them. -/
def upTo (a b : Nat) : List Nat := (List.range (min 4 (b - a))).map (a + ·)
/-- The tiles that a sequence from (i0, i1, i2) will name. -/
def seqTiles (sctl : Word) (n0 n1 n2 i0 i1 i2 : Nat) : List Nat :=
  if n0 = 0 ∨ n1 = 0 ∨ n2 = 0 then []
  else
    let box (as bs cs : List Nat) : List Nat := cs.flatMap fun c => bs.flatMap fun b => as.map fun a => seqTile sctl a b c
    (box (upTo i0 n0) (upTo i1 (min n1 (i1 + 1))) (upTo i2 (min n2 (i2 + 1))) ++ box (upTo 0 n0) (upTo (i1 + 1) n1) (upTo i2 (min n2 (i2 + 1))) ++
      box (upTo 0 n0) (upTo 0 n1) (upTo (i2 + 1) n2)).dedup
/-- The indices at which the next command stands (R352): an index past its bound carries into the next level. Where a resumed sequence begins
past the bound of level 1, level 0 has not had its first pass yet, and keeps its start. -/
def Sequence.norm (q : Sequence) : Sequence :=
  let carry1 (q : Sequence) : Sequence := if q.n.getD 1 0 ≤ q.i1 then { q with i1 := 0, i2 := q.i2 + 1 } else q
  let q := carry1 q
  carry1 (if q.n.getD 0 0 ≤ q.i0 then { q with i0 := 0, i1 := q.i1 + 1 } else q)
/-- The sequence has queued its last command. -/
def Sequence.ended (q : Sequence) : Bool := q.n.any (· == 0) || q.n.getD 2 0 ≤ q.i2
/-- MSEQ (R352): it reads its record and its bounds, and checks the template as MMA checks a descriptor. -/
def execMseq (x : XA) (s : State) : Out :=
  let f := x.fld 2
  gate (.mseq x) (fun s => if s.curK.seqr.isSome then none
      else firstTrap [lastBad f (2 ≤ f.base || f.d != 0 || f.t != 0) s, alignTrap (s.w f.s) 64])
    (fun s =>
      if s.curK.seqr.isSome || s.unstamped s.curCore s.curSlot then s.waitFor .retry
      else
        let a := s.w f.s
        s.withRecord a 16 fun off ws s =>
          let sctl := ws.getD 8 0
          let pos := ws.getD 15 0
          let t := s.cur
          let bound (b : Nat) : Word := get 0 s.curK.loops (8 * t.st.hearth + b)
          let bs := [bound (sctl.bits 46 44), bound (sctl.bits 49 47), bound (sctl.bits 52 50)]
          let resume := f.base == 1
          let i (hi lo : Nat) : Nat := if resume then pos.bits hi lo else 0
          let q : Sequence := { slot := s.curSlot, record := windowVA s.curCore off, tmpl := ws.take 8, sctl := sctl, da := (ws.drop 9).take 3,
                                db := (ws.drop 12).take 3, n := bs.map (·.toNat), i0 := i 19 0, i1 := i 39 20, i2 := i 59 40,
                                priv := t.st.priv, rc := t.rc, issued := s.curK.cycle.toNat, pc := t.pc, own := t.owner }
          let q := q.norm
          let exact := sctl.bits 63 63 == 1
          let tiles := seqTiles sctl (q.n.getD 0 0) (q.n.getD 1 0) (q.n.getD 2 0) q.i0 q.i1 q.i2
          let bad := firstTrap [
            trapIf (sctl.bits 43 0 != 0 || pos.bits 62 60 != 0) 0x0D a,
            (bs.find? fun b => 2 ^ 20 ≤ b.toNat).map fun b => { cause := 0x0D, addr := b },
            trapIf (resume && pos.bits 63 63 != 1) 0x0D a,
            trapIf (tiles.any fun j => (tileChk s j).isSome || (s.curK.tile j).exact != exact) 0x11 0,
            descBad exact q.tmpl s.curK.swage a]
          match bad with
          | some r => s.trap r
          | none =>
            let s := if q.ended then s
              else (s.modCurK fun k => { k with seqr := some q }).modCur fun t => { t with tiles := t.tiles + 1 }
            s.clearIdv.advance f) s
/-- The descriptor of the next command of a sequence (R352): only the last keeps the template's binding. -/
def Sequence.desc (q : Sequence) (last : Bool) : List Word :=
  let inc (l : List Word) : Word := word q.i0 * l.getD 0 0 + word q.i1 * l.getD 1 0 + word q.i2 * l.getD 2 0
  let ctl := q.tmpl.getD 4 0
  [q.tmpl.getD 0 0 + inc q.da, q.tmpl.getD 1 0 + inc q.db, q.tmpl.getD 2 0, q.tmpl.getD 3 0,
    if last then ctl else ctl &&& ~~~(0x80000000 : Word), 0, 0, 0]
/-- SEQUENCER_QUEUE (R352): the sequencer queues its next command where a permit is free. -/
def execSequencerQueue (c : Nat) (s : State) : Out :=
  let k := s.core c
  match k.seqr with
  | none => .next s
  | some q =>
    if 8 ≤ k.anvq.length || s.clockStopped c then .next s
    else
      let t := s.slot c q.slot
      let q' := { q with i0 := q.i0 + 1 }.norm
      let last := q'.ended
      let d := q.desc last
      let cmd : AnvCmd := { slot := q.slot, hearth := t.st.hearth, task := t.taskid, priv := q.priv, rc := q.rc,
                            tile := seqTile q.sctl q.i0 q.i1 q.i2,
                            op := .mma d (get 0 k.gains (q.sctl.bits 62 61)) k.swage (q.sctl.bits 63 63 == 1), bind := s.descBind c d,
                            issued := q.issued, pc := q.pc, own := q.own }
      let s := s.modCore c fun k => { k with anvq := k.anvq ++ [cmd], seqr := if last then none else some q' }
      .next (s.modSlot c q.slot fun t => { t with tiles := if last then t.tiles else t.tiles + 1 })

end Sys2Proof.Machine
end

