-- ==== Sys2Proof/Machine/Tongs.lean ====
section
/-! DEFINITION. The tongs: copies, strided copies and network sends (R149-R151, R355-R361, R517-R519). -/

namespace Sys2Proof.Machine

/-- For whom a channel acts. -/
def Channel.agent (x : Channel) (c ch : Nat) : Agent :=
  { unit := tongsUnit ch, core := c, slot := x.slot, hearth := x.hearth, priv := x.priv, rc := x.rc, task := x.task, det := x.det }
/-- Every byte of the command has been moved. -/
def Channel.finished (x : Channel) : Bool := x.len == 0 || x.runs ≤ x.run
/-- A transfer: the source bytes that it reads, and the destination bytes that it writes. -/
structure Move where
  src : Word
  read : Nat
  dst : Word
  n : Nat
  deriving DecidableEq, Repr
/-- The bytes to write of m that are at hand: all of them at the end of the run, else whole aligned units (R144, R151). -/
def wholeUnits (dst : Word) (left m : Nat) : Nat := if m = left then m else (dst.toNat + m) / 8 * 8 - dst.toNat
/-- The next transfer. The tongs read and write up to 64 bytes at a time, within one aligned 64-byte unit on either side, and split no
aligned unit of 8 bytes on either: what they have read of a destination unit stays until the rest of it is read (log 30). -/
def Channel.next (x : Channel) : Move :=
  let dst := x.dst + runOffset x.counts x.ds x.run + word x.off
  let src := x.src + runOffset x.counts x.ss x.run + word (x.off + x.buf.length)
  let left := x.len - x.off
  let room := min left (64 - dst.toNat % 64)
  let held := wholeUnits dst left (min room x.buf.length)
  if 0 < held then { src := src, read := 0, dst := dst, n := held }
  else
    let r := min (left - x.buf.length) (64 - src.toNat % 64)
    { src := src, read := r, dst := dst, n := wholeUnits dst left (min room (x.buf.length + r)) }
/-- The channel after the first n of the bytes at hand are written: the watermark of a strided copy is the end of its last completed run, and
where its destination runs do not ascend it moves only at the end (R149, R358). -/
def Channel.moved (x : Channel) (bs : List Byte) (n : Nat) : Channel :=
  let stop := x.dst + runOffset x.counts x.ds x.run + word (x.off + n)
  let y := if x.off + n = x.len then { x with run := x.run + 1, off := 0, buf := [] } else { x with off := x.off + n, buf := bs.drop n }
  { y with watermark :=
      if !x.strided then x.dst + word (x.off + n)
      else if y.run ≠ x.run ∧ (x.ascending ∨ y.finished) then stop else x.watermark }
/-- The bytes delivered contiguously (R360). -/
def Channel.delivered (x : Channel) : Word := x.watermark - x.dst
/-- A request of the issuer that stores to some bytes of local store is on its way, from before a copy with ord 1 (R151). -/
def State.storesPending (s : State) (c : Nat) (x : Channel) (pa n : Nat) : Bool :=
  x.ordered && s.reqs.any fun r => r.core == c && r.slot == x.slot && r.id < x.before && r.dst == Dest.none &&
    r.pa < pa + n && pa < r.pa + r.size
/-- The bytes at hand for the next transfer (R357): those that are held and those that it reads. -/
def Channel.readNext (x : Channel) (c ch : Nat) : EngM (List Byte) :=
  let m := x.next
  let g := x.agent c ch
  if m.read = 0 then .pure x.buf
  else (g.tr m.src .read).bind fun (pa, _) =>
    (EngM.look fun s => if s.storesPending c x pa m.read then .wait else .ok ()).bind fun _ =>
      (g.read (some (c, ch)) m.src pa m.read).bind fun bs => .pure (x.buf ++ bs)
/-- Check n bytes of the destination (R98, R357): their PA. -/
def Channel.writeTo (x : Channel) (c ch : Nat) (dst : Word) (n : Nat) : EngM Nat :=
  let g := x.agent c ch
  (g.tr dst .write).bind fun (pa, _) => .look fun s =>
    if paClass pa = 1 ∧ s.ownPackage pa then
      let k := s.core (paCore pa)
      if k.bootTest && paCore pa != c then .wait
      else if k.lsRefusedN (paOff pa) n g.hearth g.priv true then .fault 0x46 dst
      else if s.lsStalledBut (some (c, ch)) (paCore pa) (paOff pa) n then .wait
      else .ok pa
    else if paHubReg pa ∧ (hubCheck g.priv g.hearth (pa % 2 ^ 45)).isSome then .fault 0x44 dst
    else if s.farRefuses pa then .fault 0x46 dst
    else .ok pa
/-- The next transfer's bytes at hand and the PA of its destination. -/
def Channel.access (x : Channel) (c ch : Nat) : EngM (List Byte × Nat) :=
  (x.readNext c ch).bind fun bs => (x.writeTo c ch x.next.dst x.next.n).bind fun pa => .pure (bs, pa)
/-- The log entries of bytes at a PA: one for each aligned word, under a byte mask (R357). -/
def pieceEntries (x : Channel) (pa : Nat) (bs : List Byte) : List LogEntry :=
  (splitWords (word pa) bs bs.length).map fun p =>
    let (data, mask) := wordParts p.1.toNat p.2
    { wadr := p.1.toNat / 8, data := data, mask := mask, kind := 1, slot := x.slot, task := x.task, det := x.det }
/-- Deliver bytes: local store in place, a global destination in a stamped piece (R150, R357). -/
def State.copyDeliver (s : State) (c ch : Nat) (x : Channel) (pa : Nat) (bs : List Byte) : State :=
  if bs.isEmpty then s
  else if paClass pa = 1 ∧ s.ownPackage pa then s.writeLS (paCore pa) (paOff pa) bs
  else
    let (v, s) := s.stamp (dieOf c) x.rc
    let (id, s) := s.fresh
    s.ship { id := id, core := noCore (dieOf c), hearth := x.hearth, sc := x.sc, slot := none, tail := 0, stamp := v, publish := false,
             counted := false, chan := some (c * 8 + ch) } false (pieceEntries x pa bs)

/-- The tongs of a core run: they stop only when its die loses power (R18). -/
def State.tongsRun (s : State) (c : Nat) : Bool := !(s.die (dieOf c)).powerLost
/-- A copy of a thread that has left its slot, which has moved nothing, stays queued while its hearth is suspended or its die is halted (R94,
R522). One of a thread in its slot goes on, since the thread is taken only when its copies have ended (R475). -/
def State.quiesced (s : State) (c : Nat) (x : Channel) : Bool :=
  x.away.isSome && x.run == 0 && x.off == 0 && x.buf.isEmpty && ((s.hearth x.hearth).suspended || (s.die (dieOf c)).trip3)
/-- A channel has a transfer to make. -/
def State.transfers (s : State) (c ch : Nat) : Bool :=
  let x := s.chan c ch
  x.busy && !x.finished && x.net.isNone && !s.quiesced c x && match (x.access c ch s).1 with
    | .ok _ => true
    | _ => false
/-- The channel that a core's tongs serve next, in round-robin order (R355; log 30). -/
def State.nextChannel (s : State) (c : Nat) : Option Nat :=
  ((List.range 8).map fun i => ((s.core c).tongsTurn + 1 + i) % 8).find? (s.transfers c)
/-- TONGS_TRANSFER (R149, R355-R358): a channel that is served in its turn. One that must wait leaves its translations in the TLBs. -/
def execTongsTransfer (c ch : Nat) (s : State) : Out :=
  let x := s.chan c ch
  if !s.tongsRun c || !x.busy || x.finished || x.net.isSome || s.quiesced c x then .next s
  else match x.access c ch s with
    | (.ok (bs, pa), s') =>
      if s.nextChannel c = some ch then
        .next (((s'.copyDeliver c ch x pa (bs.take x.next.n)).setChan c ch (x.moved bs x.next.n)).modCore c fun k => { k with tongsTurn := ch })
      else .next s'
    | (_, s') => .next s'
/-- Continuations that wait for a channel are handed to its core (R363). -/
def State.chanConts (s : State) (c ch : Nat) : State :=
  let p (x : ContWait) : Bool := x.chan == some (c, ch)
  { s with conts := s.conts ++ s.contWaits.filter p, contWaits := s.contWaits.filter fun x => !p x }
/-- An error record about a channel's command: its thread, in its slot or away from it, as it issued the command (R448, R456). -/
def Channel.record (x : Channel) (c cause : Nat) : Record :=
  { cause := cause, cls := 1, hearth := x.hearth, slot := if x.away.isNone then x.owner.2 else x.slot,
    core := if x.away.isNone then x.owner.1 else c, task := x.task, pc := x.pc, owner := x.own }
/-- A command ends (R357, R360): the bound arrival is made, and the channel is free. It leaves its issuer's count, unless its arrival failed:
the issuer takes that as a deferred fault, in its slot or when it resumes (R520). -/
def State.copyDone (s : State) (c ch : Nat) (x : Channel) : State :=
  let s := (s.setChan c ch { x with busy := false }).chanConts c ch
  let free (s : State) : State :=
    let s := s.modOwner x (fun t => { t with copies := t.copies - 1 }) (fun k => { k with copies := k.copies - 1 })
    if x.away.isNone then s.resumeAbort x.owner.1 x.owner.2 else s
  match x.bind with
  | none => free s
  | some b => match s.boundArrive (x.record c 0x18) x.hearth b (x.stamp.getD (s.bar b).now) with
    | (false, s) => free s
    | (true, s) => s.deferChan x (arriveFault 2 ch x.issued b)
/-- The release of a channel's command is closed and not yet stamped. -/
def State.chanClosing (s : State) (c ch : Nat) : Bool := (s.core c).log.closed.any fun g => g.chan == some ch
/-- The homes have not acknowledged every piece of the command (R132). -/
def State.chanShipping (s : State) (c ch : Nat) : Bool := s.releases.any fun r => r.chan == some (c * 8 + ch)
/-- The completion release of a copy to global memory (R129, R150): it closes the core's open segment, and carries the issuer's required clock
at issue. -/
def State.copyRelease (s : State) (c ch : Nat) (x : Channel) : State :=
  (s.switchHearth c x.hearth).closeLog c { sc := x.sc, rc := x.rc, chan := some ch }
/-- A command whose bytes are all written completes: at once in local store, else once its release is stamped, and at pod or sys published
(R132, R150). -/
def State.copyFinish (s : State) (c ch : Nat) (x : Channel) : State :=
  if !x.global || x.net.isSome then s.copyDone c ch x
  else if x.stamp.isNone then (if s.chanClosing c ch then s else s.copyRelease c ch x)
  else if 5 ≤ x.sc && s.chanShipping c ch then s
  else s.copyDone c ch x
/-- A network send completes when its message is acknowledged (R359, R443): a context that is not open for the hearth and port sets the
fault bit. It waits for the source as a copy does (R149, R151). -/
def State.sendDone (s : State) (c ch : Nat) (x : Channel) (ctx tag port : Nat) : State :=
  let off := (x.src.toNat - lswin) % 2 ^ 18
  match s.hub.ctxs.find? fun e => e.1 == ctx with
  | some (_, h, p) =>
    if h ≠ x.hearth ∨ p ≠ port then s.copyDone c ch { x with flt := true }
    else if s.lsStalledBut (some (c, ch)) c off x.len || s.storesPending c x (lsPA s c off) x.len then s
    else
      ({ s with hub := { s.hub with netOut := s.hub.netOut ++ [(ctx, tag, s.readLS c off x.len)] } }).copyDone c ch
        { x with watermark := word x.len }
  | none => s.copyDone c ch { x with flt := true }
/-- COPY_COMPLETE (R18, R150, R357, R359). -/
def execCopyComplete (c ch : Nat) (s : State) : Out :=
  let x := s.chan c ch
  if !x.busy || !s.tongsRun c || s.clockStopped c then .next s
  else
    match x.net with
    | some (ctx, tag, port) => .next (s.sendDone c ch x ctx tag port)
    | none => .next (if x.finished then s.copyFinish c ch x else s)
/-- A command faults (R517, R518): what it has read is written, the channel is held, a COPYPART record is written, and the issuer has a
deferred fault that recurs. One of a thread whose TaskAbort waits for its copies is cancelled at once (R469, R519). -/
def State.holdCopy (s : State) (c ch : Nat) (x : Channel) (cause : Nat) (a : Word) (dst : Bool) : State :=
  let s := (s.setChan c ch { x with busy := false, flt := true, held := some a, buf := [] }).chanConts c ch
  let s := s.report { x.record c 0x81 with
    addr := a, detail := word (cause * 2 ^ 56 + (if dst then 2 ^ 55 else 0) + x.delivered.toNat % 2 ^ 55) }
  let s := s.deferChan x { count := 2, cause := 0x13, addr := a, chan := ch, held := true, issued := x.issued }
  if x.away.isNone && (s.slot x.owner.1 x.owner.2).abort.isSome then (s.cancelHeld c ch).resumeAbort x.owner.1 x.owner.2 else s
/-- COPY_FAULT (R517): the next transfer faults, at its source or its destination. -/
def execCopyFault (c ch : Nat) (s : State) : Out :=
  let x := s.chan c ch
  if !s.tongsRun c || !x.busy || x.finished || x.net.isSome || s.clockStopped c then .next s
  else match x.readNext c ch s with
    | (.wait, s) => .next s
    | (.fault e a, s) => if x.buf.isEmpty then .next (s.holdCopy c ch x e a false) else match x.writeTo c ch x.next.dst x.buf.length s with
      | (.wait, s) => .next s
      | (.fault e a, s) => .next (s.holdCopy c ch x e a true)
      | (.ok pa, s) => .next ((s.copyDeliver c ch x pa x.buf).holdCopy c ch (x.moved x.buf x.buf.length) e a false)
    | (.ok _, s) => match x.writeTo c ch x.next.dst x.next.n s with
      | (.fault e a, s) => .next (s.holdCopy c ch x e a true)
      | (_, s) => .next s

/-! ## Issue -/

/-- The channel of a command. -/
def chanOf (f : Fld) : Nat := f.immU % 8
/-- The barrier binding of a command (R356). -/
def State.copyBind (s : State) (f : Fld) : Option BarId :=
  if natBits f.immU 3 1 = 1 then some (s.barOn s.curCore (natBits f.immU 4 3) (natBits f.immU 7 6)) else none
/-- A binding with a level or an index that does not exist, or bits above 12 (R356). -/
def copyImmBad (f : Fld) : Bool :=
  let lev := natBits f.immU 4 3
  2 ^ 13 ≤ f.immU || (natBits f.immU 3 1 == 1 && (lev < 2 || 5 < lev || barCount lev ≤ natBits f.immU 7 6))
/-- The thread's command may take the channel: it is free, or held by this thread (R355, R519). -/
def State.chanOpen (s : State) (ch : Nat) : Bool :=
  let x := s.chan s.curCore ch
  !x.busy && (x.held.isNone || (x.ownedBy s.curCore s.curSlot && x.task == s.cur.taskid))
/-- A restart's own binding is clear or names the held command's barrier; a cancel moves no bytes (R519). -/
def State.rebindBad (s : State) (f : Fld) (bytes : Nat) : Bool :=
  let x := s.chan s.curCore (chanOf f)
  x.held.isSome && bytes != 0 && (s.copyBind f).isSome && s.copyBind f != x.bind
/-- A copy command behind its channel and its checks. It carries the thread's required clock, so it waits for the stamp of a release that
precedes it (R131, R357). -/
def copyGate (i : Instr) (f : Fld) (chk : State → Option TrapRec) (k : State → State) (s : State) : Out :=
  gate i (fun s => if !s.chanOpen (chanOf f) then none else firstTrap [
      limits s [(copyImmBad f, f.immPos), (2 ≤ f.ord || f.cp != 0, f.pxmPos)], chk s])
    (fun s => if !s.chanOpen (chanOf f) || s.unstamped s.curCore s.curSlot then s.waitFor .retry else k s) s
/-- A copy of no bytes completes at once, with its release (R357; log 18). -/
def State.copyEmpty (s : State) (c ch : Nat) (x : Channel) : State :=
  if !x.global then s.copyDone c ch x
  else
    let s := (s.copyRelease c ch x).drain c 640
    s.copyFinish c ch (s.chan c ch)
/-- Start a command of the executing thread (R355, R519). A command on a held channel restarts or cancels the held one; a copy of no
bytes completes at once (R357). -/
def State.startCopy (s : State) (f : Fld) (x : Channel) : State :=
  let c := s.curCore
  let n := s.curSlot
  let t := s.cur
  let ch := chanOf f
  let old := s.chan c ch
  let none_ := x.len == 0 || x.runs == 0
  let s := s.clearIdv
  if old.held.isSome && none_ then (s.cancelHeld c ch).finish f
  else
    let s := if old.held.isSome then s.uncount c ch else s
    let y := { x with busy := true, slot := n, owner := (c, n), hearth := t.st.hearth, priv := t.st.priv, task := t.taskid, det := t.st.det, rc := t.rc,
                      watermark := x.dst, bind := if old.held.isSome && old.bind.isSome then old.bind else s.copyBind f,
                      ordered := f.ord == 1, before := s.nextId, issued := s.curK.cycle.toNat, pc := t.pc, own := t.owner }
    let s := (s.setChan c ch y).modSlot c n fun t => { t with copies := t.copies + 1 }
    let s := if none_ && x.net.isNone then s.copyEmpty c ch y else s
    s.finish f
/-- Go on with the destination's kind: whether it is global, and the scope of its completion release (R356). A narrower explicit scope is
SCOPE. A destination that does not translate is taken as package memory: its transfers fault. -/
def State.withScope (s : State) (f : Fld) (dst : Word) (go : Bool → Nat → State → State) : State :=
  match s.translateCur dst .write with
  | (.wait, s) => s.waitFor .retry
  | (.fault _, s) => if f.sc ≠ 0 ∧ f.sc < 4 then s.trap { cause := 0x0C, addr := dst } else go true (max f.sc 4) s
  | (.ok pa _, s) =>
    if paClass pa = 1 then go false f.sc s
    else
      let least := if paHost pa then 6 else if s.ownPackage pa then 4 else 5
      if f.sc ≠ 0 ∧ f.sc < least then s.trap { cause := 0x0C, addr := dst } else go true (max f.sc least) s
/-- CPY (R357). -/
def execCpy (x : XA) (s : State) : Out :=
  let f := x.fld 2
  copyGate (.cpy x) f (fun s => firstTrap [trapIf (2 ^ 55 ≤ (s.w f.t).toNat) 0x0D (s.w f.t),
      illfld s (s.rebindBad f (s.w f.t).toNat) f.immPos])
    (fun s =>
      let src := s.w f.s
      let dst := s.w f.d
      let len := (s.w f.t).toNat
      s.withScope f dst fun global sc s => s.startCopy f { src := src, dst := dst, len := len, global := global, sc := sc }) s
/-- The destination runs ascend (R358): every stride is at least the extent of the dimension below it. -/
def runsAscend (len : Nat) (counts : List Nat) (ds : List Word) : Bool :=
  let d (i : Nat) : Int := (ds.getD i 0).toInt
  let n (i : Nat) : Int := (counts.getD i 0 : Nat)
  let e0 : Int := len
  let e1 := d 0 * (n 0 - 1) + e0
  let e2 := d 1 * (n 1 - 1) + e1
  e0 ≤ d 0 && e1 ≤ d 1 && e2 ≤ d 2
/-- CPYS (R358): the record is read at issue. -/
def execCpys (x : XA) (s : State) : Out :=
  let f := x.fld 2
  copyGate (.cpys x) f (fun s => firstTrap [limits s [(f.d != 0 || f.t != 0, f.last)], alignTrap (s.w f.s) 32]) (fun s =>
    let a := s.w f.s
    s.withRecord a 12 fun _ ws s =>
      let len := (ws.getD 2 0).bits 31 0
      let counts := [(ws.getD 2 0).bits 63 32, (ws.getD 3 0).bits 31 0, (ws.getD 3 0).bits 63 32]
      let ds := (ws.drop 7).take 3
      let total := counts.foldl (· * ·) len
      if ws.getD 10 0 != 0 || ws.getD 11 0 != 0 || 2 ^ 55 ≤ total then s.trap { cause := 0x0D, addr := a }
      else
        match illfld s (s.rebindBad f total) f.immPos with
        | some r => s.trap r
        | none =>
          s.withScope f (ws.getD 1 0) fun global sc s =>
            s.startCopy f { src := ws.getD 0 0, dst := ws.getD 1 0, len := len, counts := counts, ss := (ws.drop 4).take 3, ds := ds,
                            strided := true, ascending := runsAscend len counts ds, global := global, sc := sc }) s
/-- CPYN (R359): the source lies in the core's own local store. -/
def execCpyn (x : XA) (s : State) : Out :=
  let f := x.fld 2
  copyGate (.cpyn x) f (fun s => firstTrap [limits s [(f.sc != 0, f.pxmPos)], trapIf (2 ^ 18 < (s.w f.t).toNat) 0x0D (s.w f.t),
      illfld s (s.rebindBad f (s.w f.t).toNat) f.immPos])
    (fun s =>
      let a := s.w f.s
      let w := s.w f.d
      let len := (s.w f.t).toNat
      s.withPlace a .read fun pa _ s =>
        match s.place pa with
        | .own off =>
          if 2 ^ 18 < off + len then s.trap { cause := 0x0C, addr := a + word (2 ^ 18 - off) }
          else match s.curK.lsRefusedAt off len s.cur.st.hearth s.cur.st.priv false with
          | some i => s.trap { cause := 0x46, addr := a + word i }
          | none => s.startCopy f
              { src := windowVA s.curCore off, dst := 0, len := len, global := false, net := some (w.bits 15 0, w.bits 63 32, w.bits 17 16) }
        | _ => s.trap { cause := 0x0C, addr := a }) s
/-- The deferred fault of a channel (R454, R518, R520). -/
def chanFault (t : Slot) (ch : Nat) : Option Deferred := t.firstFault fun d => d.count == 2 && d.chan == ch
/-- HEARTH for a busy channel of another hearth (R355). -/
def State.chanHearth (s : State) (ch : Nat) : Option TrapRec :=
  let x := s.chan s.curCore ch
  trapIf (x.busy && x.hearth != s.cur.st.hearth) 0x0E 0
/-- WAITC (R360). A deferred fault of the channel comes first (R453). -/
def execWaitc (x : XA) (s : State) : Out :=
  let f := x.fld 2
  match chanFault s.cur f.base with
  | some d => .next (s.consume d)
  | none =>
    gate (.waitc x) (fun s => firstTrap [
        limits s [(8 ≤ f.base || f.d != 0 || f.s != 0 || f.t != 0, f.last), (2 ≤ f.ord || f.sc != 0 || f.wt != 0 || f.cp != 0, f.pxmPos)],
        s.chanHearth f.base])
      (fun s =>
        let y := s.chan s.curCore f.base
        let t := s.cur
        if y.busy then s.waitFor (.chan f.base)
        else if y.flt ∧ y.ownedBy s.curCore s.curSlot ∧ y.task = t.taskid then s.trap { cause := 0x13, cls := 1, addr := y.src }
        else
          let s := if f.ord = 1 then s.acquireAt s.curCore s.curSlot (y.stamp.getD t.rc) else s
          s.advance f) s
/-- The status that CHST writes (R360). -/
def Channel.status (x : Channel) : Word :=
  word ((if x.busy then 2 ^ 63 else 0) + (if x.flt then 2 ^ 62 else 0) + (if x.cxl then 2 ^ 61 else 0) + x.slot % 16 * 2 ^ 32 +
    x.delivered.toNat % 2 ^ 32)
/-- CHST (R360). -/
def execChst (x : XA) (s : State) : Out :=
  let f := x.fld 2
  gate (.chst x) (fun s => firstTrap [lastBad f (f.s != 0 || f.t != 0) s, s.chanHearth (f.base % 8)]) (fun s =>
    let y := s.chan s.curCore (f.base % 8)
    s.result f f.d (if 8 ≤ f.base then y.delivered else y.status)) s

end Sys2Proof.Machine
end

