-- ==== Sys2Proof/Machine/Save.lean ====
section
/-! DEFINITION. Pre-emption: parking a thread in its record, and saving and restoring it by the hearth save area (R91-R93, R329, R346,
R455, R460, R475-R477). -/

namespace Sys2Proof.Machine

/-- Write bytes of a hearth at an 8-aligned VA, 8 at a time: the cause and address of the first that faults. What is written before it
stands (R477). -/
def State.hwBytes (s : State) (h : Nat) (va : Word) : Nat → List Byte → Option (Nat × Word) × State
  | 0, _ => (none, s)
  | _ + 1, [] => (none, s)
  | n + 1, bs => match s.hwWrite h va (bs.take 8) with
    | .error e => (some (e, va), s)
    | .ok s => s.hwBytes h (va + 8) n (bs.drop 8)
/-- The address of a slot's save area (R92). -/
def saveVA (q : Hearth) (c n : Nat) : Word := va57 (q.savebase.bits 56 12 * 4096 + 0x1400 * (16 * c + n))
/-- The address of a tile's image in the tile save area (R93). -/
def tileVA (q : Hearth) (c n i : Nat) : Word :=
  va57 (q.savebase.bits 56 12 * 4096 + 0x28010000 + 0x10100 * (16 * c + n) + 0x4040 * i)
/-- The words of a replay entry (R375). -/
def Replay.words (r : Replay) : List Word :=
  [r.va, word (r.cause % 256 * 2 ^ 40 + r.kind % 8 * 2 ^ 34 + r.vreg % 16 * 2 ^ 30 + r.lane % 64 * 2 ^ 24)]
/-- Two lanes a word. -/
def pairWords (x : List (BitVec 32)) : List Word :=
  (List.range 32).map fun i => word ((lane x (2 * i)).toNat + (lane x (2 * i + 1)).toNat * 2 ^ 32)
/-- The image of a vector register (R92); a bound one names its record (R329). -/
def Slot.vecWords (t : Slot) (n : Nat) : List Word :=
  match get? t.streams n with
  | some b => [b.record, 1] ++ List.replicate 30 0
  | none => pairWords (t.vec n)
/-- The save area of a thread: frame, masks, replay queue and vector registers (R92). -/
def State.saveWords (s : State) (c n : Nat) : List Word :=
  let t := s.slot c n
  wordsOfFrame (s.frameOfSlot c n 2 c 0) ++ (List.range 8).map t.mask ++
    (t.replay.flatMap Replay.words ++ List.replicate (64 - 2 * t.replay.length) 0) ++ List.replicate 32 0 ++
    (List.range 16).flatMap t.vecWords
/-- Save the tiles of a slot, and a zero header for each tile that it has not claimed (R93). -/
def State.saveTiles (s : State) (c n h : Nat) : List Nat → Option (Nat × Word) × State
  | [] => (none, s)
  | i :: r =>
    let t := (s.core c).tile i
    let bs := if t.claimed && t.slot == n then t.image (get 0 (s.core c).gains i) else List.replicate 64 0
    match s.hwBytes h (tileVA (s.hearth h) c n i) bs.length bs with
    | (none, s) => s.saveTiles c n h r
    | e => e
/-- The claims of a slot end. -/
def State.unclaimTiles (s : State) (c n : Nat) : State :=
  s.modCore c fun k => { k with tiles := k.tiles.map fun e => if e.2.claimed && e.2.slot == n then (e.1, e.2.unclaim) else e }
/-- The resident frames of a slot leave for the spill area. -/
def State.spillSlot (s : State) (c n : Nat) : Option (Option TrapRec) × State := { s with curCore := c, curSlot := n }.spillAll
/-- A store of a pre-emption faults: the thread stays in its slot, not ready (R477). -/
def State.saveFault (s : State) (c n cause : Nat) (addr : Word) : State :=
  (s.report { s.threadRecord c n cause 5 with addr := addr }).modSlot c n fun t => { t with wait := .stuck }
/-- A store of a pre-emption cannot be made: one that must wait leaves the thread to be taken later (log 118). -/
def State.saveStop (s : State) (c n : Nat) (e : Nat × Word) : Bool × State := (false, if e.1 = hwWait then s else s.saveFault c n e.1 e.2)
/-- The frames of a thread are spilled and its releases made before its image is written (R138, R475); then go on. -/
def State.taking (s : State) (c n : Nat) (go : State → Bool × State) : Bool × State :=
  match s.spillSlot c n with
  | (some none, s) => (false, s)
  | (some (some r), s) => (false, s.saveFault c n r.cause r.addr)
  | (none, s) => go (s.leave c n)
/-- What hardware keeps of a thread that it saves at a place of the save area. -/
def Hearth.savedAt (q : Hearth) (c n : Nat) : Kept := ((q.saved.find? fun e => e.1 == c && e.2.1 == n).map (·.2.2)).getD {}
/-- The save area of a slot is free again. -/
def Hearth.unsave (q : Hearth) (c n : Nat) : Hearth := { q with saved := q.saved.filter fun e => !(e.1 == c && e.2.1 == n) }
/-- A thread is saved in the hearth save area, and its slot is free (R92, R477); true when it has left. -/
def State.saveThread (s : State) (c n : Nat) : Bool × State :=
  s.taking c n fun s =>
    let t := s.slot c n
    let h := t.st.hearth
    let off (b : Stream) : Nat := (b.record.toNat - lswin) % 2 ^ 18 + 16
    if t.streams.any fun b => s.lsStalled c (off b.2) 16 then (false, s)
    else match t.streams.find? fun b => s.recordRefused c n b.2 with
    | some b => s.saveStop c n (0x46, b.2.record + 16)
    | none =>
    let s := t.streams.foldl (fun s b => s.writeRecord c n b.2) s
    match s.hwPut h (saveVA (s.hearth h) c n) (s.saveWords c n) with
    | (some e, s) => s.saveStop c n e
    | (none, s) => match s.saveTiles c n h (List.range 4) with
      | (some e, s) => s.saveStop c n e
      | (none, s) =>
        match s.casThread c h t.taskid 2 7 with
        | .error e => s.saveStop c n e
        | .ok s =>
          let s := (s.unclaimTiles c n).modHearth h fun q =>
            let q := q.unsave c n
            { q with saved := q.saved ++ [(c, n, t.kept)] }
          (true, s.freeSlot c n)
/-- A thread may be parked in its record (R91, R476): a continuation is one whose LINK has kind 3 (R79). -/
def State.parkable (s : State) (c n : Nat) : Option Word :=
  let t := s.slot c n
  if t.st.vclean && t.replay.isEmpty && t.key == t.taskid && t.link.bits 63 61 != 3 && t.st.adepth == 0 then
    match s.taskRecord t.st.hearth t.taskid with
    | .at tr => some tr
    | _ => none
  else none
/-- A thread is parked: billet, spark counter, state and resume entry (R91, R477). A full queue saves it instead; a queue that cannot be
written keeps it in its slot. -/
def State.parkThread (s : State) (c n : Nat) (tr : Word) : Bool × State :=
  s.taking c n fun s =>
    let t := s.slot c n
    let h := t.st.hearth
    match s.hwPut h (tr + 0x60) (billetWords t.billet) with
    | (some e, s) => s.saveStop c n e
    | (none, s) => match s.hwPut h (tr + 0x58) [t.ctr] with
      | (some e, s) => s.saveStop c n e
      | (none, s) => match s.hwReadWords h (tr + 8) 1 with
        | .error e => s.saveStop c n e
        | .ok cs => match s.queuePush h (queueVA (s.hearth h) c ((cs.getD 0 0).bits 1 0)) t.taskid with
          | .fault e a => s.saveStop c n (e, a)
          | .full => s.saveThread c n
          | .ok s => match s.casTask h tr 2 3 with
            | .error e => s.saveStop c n e
            | .ok (_, s) => (true, (s.keepAt c n tr).freeSlot c n)
/-- The thread of a slot may be taken: it is in no handler, its counts are zero, and no command of it is queued (R346, R475, R476). -/
def State.takeable (s : State) (c n : Nat) : Bool :=
  let t := s.slot c n
  t.busy && t.wait != .stuck && t.wait != .footprint && t.st.priv ≤ (Status.unpack t.trapstat).priv && t.loads == 0 && t.stores == 0 &&
    t.copies == 0 && t.tiles == 0 && !(s.core c).anvq.any (·.slot == n) && t.deferred.isEmpty && t.anvPend.isNone && !t.atVector && !t.replayPend && t.adopting.isNone
/-- Take a thread: it is parked or saved (R91, R92), once its record can be looked up. -/
def State.takeThread (s : State) (c n : Nat) : Bool × State :=
  if s.lookupWaits (s.slot c n).st.hearth (s.slot c n).taskid then (false, s)
  else match s.parkable c n with
    | some tr => s.parkThread c n tr
    | none => s.saveThread c n
/-- A thread is pre-empted (R91, R346, R475-R477): a running sequence of the slot stops, a deferred fault is taken first, and a thread
that may not be taken yet stays. -/
def State.preempt (s : State) (c n : Nat) : State :=
  let s' := { s.stopSequence c n with curCore := c, curSlot := n }
  let t := s'.slot c n
  if !t.busy || s.sequenceWaits c n then s
  else match t.firstFault fun _ => true with
    | some d => if t.wait = .stuck then s else s'.consume d
    | none => if s'.takeable c n then (s'.takeThread c n).2 else s'
/-- PREEMPT (R91). -/
def execPreempt (c n : Nat) (s : State) : Out := .next (if s.clockStopped c then s else s.preempt c n)

/-- The fetch at a handler's vector has faulted (R455): a record names the cause with the trap's, and the thread is saved. -/
def State.vectorFault (s : State) (c n cause : Nat) : State :=
  let t := s.slot c n
  let (ok, s') := (s.report { s.threadRecord c n cause 5 with addr := t.pc, detail := t.trapcause }).saveThread c n
  if ok || (s'.slot c n).wait == .stuck then s' else s

/-! ## Restore -/

/-- The register that an image gives: a bound stream's record, or the lanes (R329). An image of that form is taken for a binding where
it names a record of the core's own window (log 31). -/
def boundRecord (c : Nat) (ws : List Word) : Option Word :=
  let a := ws.getD 0 0
  if ws.getD 1 0 = 1 ∧ (ws.drop 2).all (· == 0) ∧ inWindow a ∧ (a.toNat - lswin) / 2 ^ 18 = c ∧ a.toNat % 32 = 0 then some a else none
/-- The lanes of words. -/
def lanesOf (ws : List Word) : List (BitVec 32) :=
  ws.flatMap fun (w : Word) => [BitVec.ofNat 32 w.toNat, BitVec.ofNat 32 (w.toNat / 2 ^ 32)]
/-- The vector registers and streams of an image; those of a vector-clean thread are not live. -/
def Slot.restoreVecs (t : Slot) (s : State) (c : Nat) (ws : List Word) : Slot :=
  (List.range 16).foldl (fun t i =>
    let x := (ws.drop (32 * i)).take 32
    match boundRecord c x with
    | some a =>
      let rs := s.coreBytes c 0 ((a.toNat - lswin) % 2 ^ 18) 32
      let w (j : Nat) : Word := word (leNat ((rs.drop (8 * j)).take 8))
      let b := streamOf a [w 0, w 1, w 2, w 3] ((w 2).bits 15 12) ((w 2).bits 11 11) (if (w 3).bits 16 16 = 1 then some ((w 3).bits 15 0) else none) t.rc
      { t with streams := put t.streams i b }
    | none => if t.st.vclean then t else { t with v := put t.v i (lanesOf x), vlive := t.vlive ||| (1#16 <<< i) }) t
/-- The words of the images of a slot's tiles in the tile save area whose headers name rows (R93), each with its tile, as TREST reads them
(R354): a header that TREST refuses fails with OPRANGE, and a word that cannot be read with its own cause. -/
def State.savedTiles (s : State) (c n h : Nat) : List Nat → Except (Nat × Word) (List (Nat × List Word))
  | [] => .ok []
  | i :: r =>
    let a := tileVA (s.hearth h) c n i
    match s.hwReadWords h a 1 with
    | .error e => .error e
    | .ok ws =>
      let hd := ws.getD 0 0
      if hd.bits 15 8 = 0 then s.savedTiles c n h r
      else if imageBad hd then .error (0x0D, a)
      else
        let e := hd.bits 15 8 * hd.bits 7 0
        match s.hwReadWords h a (8 + if hd.bits 21 20 = 1 then 2 * e else (e + 1) / 2) with
        | .error e => .error e
        | .ok ws => (s.savedTiles c n h r).map ((i, ws) :: ·)
/-- Restore and claim tiles, as TREST does (R93; log 128). -/
def State.restoreTiles (s : State) (c n : Nat) (l : List (Nat × List Word)) : State :=
  l.foldl (fun s e => (s.modCore c fun k =>
    { k.setTile e.1 (tileOf (e.2.getD 0 0) (e.2.flatMap fun w => leBytes 8 w.toNat) n) with
      gains := put k.gains e.1 ((e.2.getD 1 0).setWidth 32) }).claimTile c n e.1) s
/-- A tile of a saved image is claimed by another slot: TREST would not be done (R354). -/
def State.tilesWait (s : State) (c n : Nat) (l : List (Nat × List Word)) : Bool :=
  l.any fun e => let t := (s.core c).tile e.1
                 t.claimed && t.slot != n
/-- The replay entries of a save area (R375, R460), with what the hardware keeps of how each is performed again (log 31). -/
def replayOf (ws : List Word) (kept : List Replay) : List Replay :=
  (List.range 32).filterMap fun j =>
    let va := ws.getD (2 * j) 0
    let x := ws.getD (2 * j + 1) 0
    let r := kept.getD j { cause := 0, kind := 0, vreg := 0, lane := 0, va := va, elem := va, et := 4 }
    if x.bits 47 40 = 0 then none
    else some { r with cause := x.bits 47 40, kind := x.bits 36 34, vreg := x.bits 33 30, lane := x.bits 29 24, va := va,
                       elem := if r.va = va then r.elem else va }
/-- The thread of a save area's words, with what hardware has kept of it (R47, R92, R329, R372, R460). -/
def State.savedSlot (s : State) (h c n : Nat) (ws : List Word) : Slot :=
  let x := frameOf (ws.take 24)
  let q := (s.hearth h).savedAt c n
  let t := (slotOfFrame x).withKept { q with replay := replayOf (ws.drop 32) q.replay }
  let vclean := (Status.unpack x.billet.status).vclean
  let ms := (ws.drop 24).take 8
  let t := { t with
    st := { t.st with hearth := h, vclean := vclean, priv := s.billetPriv h (saveVA (s.hearth h) c n + 0x20) t.st.priv }
    rc := (s.core c).resume
    pendV := ((t.replay.filter fun (r : Replay) => r.kind == 0 || r.kind == 2).map fun (r : Replay) => r.vreg).dedup
    m := if vclean then [] else (List.range 8).map fun i => (i, ms.getD i 0)
    mlive := if vclean then 0 else 0xFF }
  t.restoreVecs s c (ws.drop 128)
/-- A saved thread returns to its slot, when that is free (R92, R93, R138): false where it must wait. An image that cannot be read is
reported, and the thread stays saved (log 128). -/
def State.restoreThread (s : State) (h c n : Nat) : Bool × State :=
  let s := { s with curCore := c }
  let fail (e : Nat × Word) : Bool × State :=
    if e.1 = hwWait then (false, s)
    else (true, s.report { cause := e.1, cls := 5, hearth := h, core := c, slot := n, addr := e.2 })
  if (s.slot c n).busy then (false, s)
  else match s.hwReadWords h (saveVA (s.hearth h) c n) 640, s.savedTiles c n h (List.range 4) with
    | .error e, _ | _, .error e => fail e
    | .ok ws, .ok tiles =>
      if s.tilesWait c n tiles then (false, s)
      else
        let t := { s.savedSlot h c n ws with readyAt := (s.slot c n).readyAt }
        match ((s.setSlot c n t).restoreTiles c n tiles).casThread c h t.taskid 7 2 with
        | .error e => fail e
        | .ok s => (true, s.modHearth h (·.unsave c n))

end Sys2Proof.Machine
end

