-- ==== Sys2Proof/Machine/Power.lean ====
section
/-! DEFINITION. Power: fetch duty, levels, gating and the bellows (R409-R422, R525). -/

namespace Sys2Proof.Machine

/-- Change the power state of a core. -/
def State.modPower (s : State) (c : Nat) (f : CorePower → CorePower) : State := s.modCore c fun k => { k with pw := f k.pw }
/-- The cap of FDUTY (R409, R422, R522): the lesser of the die's thermal cap and the package's slack scale. -/
def State.dutyCap (s : State) (c : Nat) : Nat := min (if (s.die (dieOf c)).trip2 then 8 else 16) s.hub.ps
/-- The effective duty of a core (R410): 0 while it is gated or halted, by HALT, a regulator failure or its die (R522, R525). -/
def State.duty (s : State) (c : Nat) : Nat :=
  let k := s.core c
  let d := s.die (dieOf c)
  if k.pw.gated || k.halted.isSome || k.pw.vrfail || d.trip3 || d.powerLost then 0 else min (k.pw.fduty.bits 4 0) (s.dutyCap c)
/-- The core cycle is fetch-enabled (R410). -/
def State.fetchEnabled (s : State) (c : Nat) : Bool :=
  let e := s.duty c
  let j := (s.core c).cycle.toNat % 16
  (j + 1) * e / 16 > j * e / 16
/-- The cores of a cluster, by die * 256 + cluster number. -/
def coresOf (cl : Nat) : List Nat := (List.range 8).map (8 * cl + ·)
/-- Some slot holds a thread. -/
def Core.holdsThread (k : Core) : Bool := k.slots.any fun e => e.2.busy

/-! ## Registers -/

/-- FDUTY as it reads (R409). -/
def State.fdutyReg (s : State) (c : Nat) : Word :=
  let v := (s.core c).pw.fduty
  word (s.dutyCap c * 2 ^ 16 + v.bits 15 15 * 2 ^ 15 + v.bits 4 0)
/-- A write of FDUTY (R409, R420): hold and duty; a duty above 16 is stored as 16. -/
def State.setFduty (s : State) (c : Nat) (v : Word) : State :=
  s.modPower c fun p => { p with fduty := word (v.bits 15 15 * 2 ^ 15 + min (v.bits 4 0) 16) }
/-- FLEVEL (R413). -/
def CorePower.flevel (p : CorePower) : Word :=
  word ((if p.busy then 2 ^ 63 else 0) + p.fcur % 256 * 2 ^ 48 + p.vreq % 256 * 2 ^ 16 + p.freq % 256)
/-- VLEVEL (R413). -/
def CorePower.vlevel (p : CorePower) : Word := word ((if p.den then 2 ^ 63 else 0) + p.vtgt % 256 * 2 ^ 8 + p.vcur % 256)

/-! ## Levels -/

/-- The lowest voltage code of a frequency code (R412). -/
def vmin (f : Nat) : Nat := 120 + ((f - 16) * 70 + 33) / 34
/-- The largest frequency code that a voltage code permits (R414). -/
def fmaxOf (v : Nat) : Nat := ((List.range 35).map (· + 16)).foldl (fun m f => if vmin f ≤ v then f else m) 16
/-- The next action on a change of the cluster domain, as a core's controller has it (R414, R415). -/
def Cluster.proceed (q : Cluster) : Cluster :=
  match q.change with
  | none => q
  | some (v, f, voltFirst) =>
    if voltFirst then
      if q.vcur ≠ v then q
      else if q.fcur ≠ f then { q with paused := true }
      else { q with change := none }
    else
      if q.fcur ≠ f then { q with paused := true }
      else if q.vcur ≠ v then q
      else { q with change := none }
/-- The cluster domain follows the highest of its eight cores (R415; log 32), unless its regulator has failed (R525): where either maximum has
changed, its regulator and its clock change in the order of R414. A clock that is stopped restarts first. -/
def State.followCluster (s : State) (cl : Nat) : State :=
  let q := s.cluster cl
  let top (g : CorePower → Nat) : Nat := ((List.range 8).map fun j => g (s.core (cl * 8 + j)).pw).foldl max 0
  let v := top (·.vcur)
  let f := top (·.fcur)
  if q.vrfail || q.paused || (q.change.isNone && v == q.vcur && f == q.fcur) then s
  else s.modCluster cl fun q => { q with change := some (v, f, q.vcur ≤ v) }.proceed
/-- What a level request asks of the controller (R414): its target voltage and frequency, and which comes first. -/
def CorePower.request (p : CorePower) (fr vr : Nat) : CorePower :=
  let fr := min (max fr 16) 50
  let den := vr < 120 || 190 < vr
  let v := if den then p.vcur else vr
  let f := if v < vmin fr then fmaxOf v else fr
  { p with busy := true, vreq := vr, freq := fr, den := den, vtgt := v, change := some (v, f, p.vcur ≤ v), held := none }
/-- The controller's next action on a change (R414): it stops the clock to change the frequency, it waits for its ramp, or the change is
done. -/
def CorePower.proceed (p : CorePower) : CorePower :=
  match p.change with
  | none => p
  | some (v, f, voltFirst) =>
    if voltFirst then
      if p.vcur ≠ v then p
      else if p.fcur ≠ f then { p with paused := true }
      else { p with busy := false, change := none }
    else
      if p.fcur ≠ f then { p with paused := true }
      else if p.vcur ≠ v then p
      else { p with busy := false, change := none }
/-- Serve the requests until one waits for its ramp or its clock; a held request follows a finished one. -/
def CorePower.serve (p : CorePower) : CorePower :=
  let p := p.proceed
  match p.busy, p.held with
  | false, some (fr, vr) => (p.request fr vr).proceed
  | _, _ => p
/-- A level request (R413, R414, R418, R525): it is held while a change is in progress, and a later one replaces it; FLEVEL takes what it
writes at once, the frequency after its clamp. -/
def State.levelRequest (s : State) (c : Nat) (v : Word) : State :=
  let p := (s.core c).pw
  if p.vrfail then s
  else
    let s := s.modCore c Core.roused
    if p.busy then s.modPower c fun p =>
      { p with held := some (v.bits 7 0, v.bits 23 16), vreq := v.bits 23 16, freq := min (max (v.bits 7 0) 16) 50 }
    else (s.modPower c fun p => (p.request (v.bits 7 0) (v.bits 23 16)).serve).followCluster (clusterOf c)

/-- FDUTY_WRITE (R420). -/
def execFdutyWrite (c : Nat) (v : Word) (s : State) : Out := .next (if coreExists c then s.setFduty c v else s)
/-- LEVEL_REQUEST (R414, R424): the cluster bellows asks for a level, but not of a core whose FDUTY.hold is set (log 147). -/
def execLevelRequest (c : Nat) (v : Word) (s : State) : Out :=
  .next (if coreExists c && (s.core c).pw.fduty.bits 15 15 == 0 then s.levelRequest c v else s)
/-- VOLTAGE_RAMP_DONE (R414, R415): a domain's ramp reaches its target in one step (log 32). -/
def execVoltageRampDone (d : Domain) (s : State) : Out :=
  match d with
  | .core c =>
    let p := (s.core c).pw
    match p.change with
    | some (v, f, voltFirst) =>
      if p.paused || p.vcur == v || (!voltFirst && p.fcur != f) then .next s
      else .next ((s.modPower c fun p => { p with vcur := v }.serve).followCluster (clusterOf c))
    | none => .next s
  | .cluster cl =>
    let q := s.cluster cl
    match q.change with
    | some (v, f, voltFirst) =>
      if q.vrfail || q.paused || q.vcur == v || (!voltFirst && q.fcur != f) then .next s
      else .next ((s.modCluster cl fun q => { q with vcur := v }.proceed).followCluster cl)
    | none => .next s
/-- CLOCK_RESTART (R415, R416): the paused clock of a domain restarts at its new frequency, and a core then takes what has come meanwhile. -/
def execClockRestart (d : Domain) (s : State) : Out :=
  match d with
  | .core c =>
    let p := (s.core c).pw
    match p.change with
    | some (_, f, _) =>
      if !p.paused then .next s
      else .next (((s.modPower c fun p => { p with fcur := f, paused := false }.serve).takeCrossings c).followCluster (clusterOf c))
    | none => .next s
  | .cluster cl =>
    let q := s.cluster cl
    match q.change with
    | some (_, f, _) =>
      if q.vrfail || !q.paused then .next s
      else .next ((s.modCluster cl fun q => { q with fcur := f, paused := false }.proceed).followCluster cl)
    | none => .next s
/-- The thread of a slot ends, and with it the waiters that it has adopted a task for, at most m threads (R87, R525). -/
def State.endSlot (s : State) (c n : Nat) : Nat → State
  | 0 => s
  | m + 1 => if (s.slot c n).busy && (s.slot c n).abort.isNone then (s.killTask c n 0xA4).endSlot c n m else s
/-- Every thread of a core ends as its regulator, or its cluster's, fails (R525). An adoption is at most four deep. -/
def State.endThreads (s : State) (c : Nat) : State := (List.range 16).foldl (fun s n => s.endSlot c n 6) s
/-- The hearths of the threads of some cores, or the firmware's where there is none (log 40). -/
def State.hearthsOn (s : State) (cs : List Nat) : List Nat :=
  let hs := (cs.flatMap fun c => ((s.core c).slots.filter fun e => e.2.busy).map fun e => e.2.st.hearth).dedup
  if hs.isEmpty then [0] else hs
/-- VRFAIL (R525): the domain halts, and every thread on it ends, for a cluster's domain those of its cores (log 141). -/
def execVrfail (d : Domain) (s : State) : Out :=
  match d with
  | .core c =>
    if !coreExists c || (s.core c).pw.vrfail then .next s
    else
      let s' := (s.hearthsOn [c]).foldl (fun s h => s.report { cause := 0xA4, cls := 6, hearth := h, core := c }) (s.endThreads c)
      .next (s'.modPower c fun p => { p with vrfail := true, held := none })
  | .cluster cl =>
    if !coreExists (8 * cl) || (s.cluster cl).vrfail then .next s
    else
      let cs := coresOf cl
      let s' := (s.hearthsOn cs).foldl (fun s h => s.report { cause := 0xA4, cls := 6, hearth := h }) (cs.foldl State.endThreads s)
      .next (s'.modCluster cl fun q => { q with vrfail := true })

/-! ## Gating (R417, R418) -/

/-- A core's run queues hold no frame, for the hearths whose RQBASE is legal. -/
def State.runQueueEmpty (s : State) (c h : Nat) : Bool :=
  let q := s.hearth h
  let clog := q.rqbase.bits 4 0
  if clog < 12 ∨ 24 < clog then true
  else match s.hwReadWords h (va57 (q.rqbase.bits 56 12 * 4096 + c * 2 ^ clog)) 2 with
    | .ok ws => ws.getD 0 0 == ws.getD 1 0
    | .error e => e.1 != hwWait
/-- A core may be gated (R417). -/
def State.gateable (s : State) (c : Nat) : Bool :=
  let k := s.core c
  !k.holdsThread && k.msgs.isEmpty && k.conts.isEmpty && (List.range 16).all (s.runQueueEmpty c) &&
    k.tongs.all (fun e => !e.2.busy && e.2.held.isNone) && k.anvq.isEmpty && k.seqr.isNone && k.log.closed.isEmpty &&
    !s.releases.any (·.core == c)
/-- The TAILs of the queues that the queue tables bind to a core (R418; log 75): none while one cannot be read yet, and 0 for one that cannot be
read. -/
def State.queueTails (s : State) (c : Nat) : Option (List Word) :=
  let rs := s.hearths.flatMap fun e =>
    if e.2.qtbase = 0 then [] else (List.range 4).map fun p => s.hwReadWords e.1 (queueVA e.2 c p + 24) 1
  if rs.any (fun r => match r with
      | .error e => e.1 == hwWait
      | .ok _ => false) then none
  else some (rs.map fun r => match r with
    | .ok ws => ws.getD 0 0
    | .error _ => 0)
/-- GATE_PREPARE (R417). -/
def execGatePrepare (c : Nat) (s : State) : Out :=
  let s := { s with curCore := c }
  let k := s.core c
  match s.queueTails c with
  | none => .next s
  | some ts =>
    if !coreExists c || !s.gateable c || k.pw.gated || k.pw.preparing || k.quarantined || k.bootTest || s.clockStopped c then .next s
    else
      let s := s.sendEntries c (fun _ => true) false
      .next (s.modCore c fun k => { k with rcache := [], icache := [], pw := { k.pw with preparing := true, wake := false, tails := ts } })
/-- GATE_COMMIT (R417): every experience add of the core is acknowledged, and a wake event since GATE_PREPARE wins, a change of a queue's TAIL
among them (R418). -/
def execGateCommit (c : Nat) (s : State) : Out :=
  let s := { s with curCore := c }
  let p := (s.core c).pw
  match s.queueTails c with
  | none => .next s
  | some ts =>
    if !p.preparing || s.clockStopped c || s.xadds.any (·.core == c) then .next s
    else .next (s.modPower c fun p => { p with preparing := false, gated := !(p.wake || ts != p.tails || !s.gateable c), wake := false })
/-- A gated core watches the TAILs of its queues (R418). -/
def State.tailMoved (s : State) (c : Nat) : Bool :=
  let p := (s.core c).pw
  p.gated && ({ s with curCore := c } : State).queueTails c != some p.tails
/-- GATE_WAKE (R418): a gated core powers up. -/
def execGateWake (c : Nat) (s : State) : Out := .next (s.modCore c Core.roused)

/-! ## The bellows (R419-R422) -/

/-- STALLQ of an interval (R411, R418). -/
def CorePower.latched (p : CorePower) : Word :=
  if p.gated then 0
  else word (min p.want 0xFFFF * 2 ^ 48 + min p.stall 0xFFFF * 2 ^ 32 + min p.issued 0xFFFF * 2 ^ 16 + min p.cycles 0xFFFF)
/-- The duty that a leaf requests (R419). -/
def requestedDuty (e : Nat) (q : Word) : Nat :=
  if q.bits 15 0 ≤ 16 * q.bits 63 48 then min (e + 1) 16
  else if q.bits 15 0 ≤ 2 * q.bits 47 32 then max (e - 1) 1
  else e
/-- One step of the slack scale (R422); `slack` is in nanoseconds (log 33). Directions: 1 down, 2 up, 0 none. -/
def Hub.slackStep (q : Hub) : Hub :=
  let dir := match q.slack with
    | some t => if 2000 < t then 1 else if t = 0 ∧ q.ps < 16 then 2 else 0
    | none => 0
  if 0 < q.freeze then { q with freeze := q.freeze - 1 }
  else if dir = 0 then q
  else
    { q with
      freeze := if dir ≠ q.lastDir ∧ q.lastDir ≠ 0 then 10 else q.freeze
      ps := if dir = 2 then min (q.ps + 1) 16 else max (q.ps - 1) 1
      lastDir := dir }
/-- What a controller with a budget grants a child whose demand is w of a total (R419). -/
def grantOf (budget w total : Nat) : Nat := if total ≤ budget then w else budget * w / total
/-- The duty that a leaf's latched demand asks for. -/
def State.leafRequest (s : State) (c : Nat) : Nat := requestedDuty (s.duty c) (s.core c).pw.latched
/-- The clusters of a die. -/
def clustersOf (d : Nat) : List Nat := (List.range 160).map (256 * d + ·)
/-- The demand of a cluster (R419): its cores' at their requested duties, and its anvil's. -/
def State.clusterDemand (s : State) (x : Word) (cl : Nat) : Nat :=
  ((coresOf cl).map fun c => Config.coreWatts c (s.leafRequest c)).sum + Config.anvilWatts cl x
/-- One core at an interval boundary (R419, R420): STALLQ is latched, and the bellows writes the largest duty of at most the requested one
whose estimate fits the grant, at least 1 while the core holds a thread. -/
def State.bellowsLeaf (s : State) (c grant : Nat) : State :=
  let k := s.core c
  let q := k.pw.latched
  let fit := ((List.range (s.leafRequest c + 1)).reverse.find? fun n => Config.coreWatts c n ≤ grant).getD 0
  let d := min (max fit (if k.holdsThread then 1 else 0)) (s.dutyCap c)
  s.modPower c fun p =>
    { p with stallq := q, want := 0, stall := 0, issued := 0, cycles := 0,
             fduty := if p.fduty.bits 15 15 = 1 then p.fduty else word d }
/-- The bellows tree at an interval boundary (R419): package, dies, clusters and cores, each controller dividing its budget by the demands
of its children. -/
def State.bellows (s : State) (x : Word) : State :=
  let dies := (List.range 4).map fun d => (clustersOf d).map fun cl => (cl, s.clusterDemand x cl)
  let total (l : List (Nat × Nat)) : Nat := (l.map (·.2)).sum
  let package := s.hub.plimit.toNat * 25 - Config.hubWatts x
  let all := (dies.map total).sum
  let s0 := s
  dies.foldl (fun s l =>
    let w := total l
    let budget := grantOf package w all
    l.foldl (fun s e =>
      let b := grantOf budget e.2 w
      (coresOf e.1).foldl (fun s c => s.bellowsLeaf c (grantOf b (Config.coreWatts c (s0.leafRequest c)) e.2)) s) s) s
/-- BELLOWS_INTERVAL (R419, R422). -/
def execBellowsInterval (s : State) : Out :=
  let (x, s) := ({ s with hub := s.hub.slackStep } : State).free
  .next (s.bellows x)
/-- PLIMIT_WRITE (R421). -/
def execPlimitWrite (v : Word) (s : State) : Out := .next (s.setPlimit v)
/-- LOGSIZE_WRITE (R128, R533): a pending write takes effect once boot test has ended and the log is empty and acknowledged; bytes that leave the ring read as zero. -/
def execLogsizeWrite (c : Nat) (s : State) : Out :=
  let l := (s.core c).log
  match l.newSize with
  | none => .next s
  | some z =>
    if s.clockStopped c || (s.core c).bootTest || !l.openEntries.isEmpty || !l.closed.isEmpty || s.releases.any (·.core == c) || s.pieces.any (·.core == c) then .next s
    else
      let old := l.base
      let s := s.modCore c fun k => { k with log := { k.log with size := z, newSize := none } }
      let new := (s.core c).log.base
      .next (if old < new then s.setBytes (lsPA s c old) (List.replicate (new - old) 0) else s)

end Sys2Proof.Machine
end

