-- ==== Sys2Proof/Machine/Csr.lean ====
section
/-! DEFINITION. The control and status registers and their instructions (R371, R372). -/

namespace Sys2Proof.Machine

/-- The privilege levels of a register (R372): to read it, and to write it, where it may be written. -/
def csrLevels (n : Nat) : Option (Nat × Option Nat) :=
  match n with
  | 0x000 | 0x001 | 0x006 | 0x008 | 0x009 | 0x00A => some (0, some 1)
  | 0x002 | 0x003 => some (0, some 0)
  | 0x004 | 0x005 | 0x010 | 0x018 | 0x019 | 0x01A | 0x01B | 0x100 | 0x109 => some (0, none)
  | 0x011 | 0x012 | 0x013 | 0x014 | 0x108 => some (1, some 1)
  | 0x101 | 0x102 | 0x103 | 0x104 | 0x105 | 0x106 | 0x107 | 0x10A => some (0, some 1)
  | 0x200 => some (1, none)
  | 0x201 | 0x202 | 0x203 | 0x204 | 0x300 | 0x301 | 0x302 | 0x303 => some (1, some 2)
  | _ => none

/-- The value of a register for the executing thread (R372). -/
def State.csr (s : State) (n : Nat) : Word :=
  let t := s.cur
  let q := s.hearth t.st.hearth
  let k := s.curK
  match n with
  | 0x000 => t.st.pack
  | 0x001 => t.taskid
  | 0x002 => t.key
  | 0x003 => t.ctr
  | 0x004 => k.cycle
  | 0x005 => t.barlast.setWidth 64
  | 0x006 => t.link
  | 0x008 => t.idempc
  | 0x009 => t.idemctr
  | 0x00A => t.idemlog
  | 0x010 => word (min t.replay.length 32)
  | 0x011 => t.trapcause
  | 0x012 => t.trapaddr
  | 0x013 => t.trappc
  | 0x014 => t.trapstat
  | 0x018 => (k.tile 0).stat
  | 0x019 => (k.tile 1).stat
  | 0x01A => (k.tile 2).stat
  | 0x01B => (k.tile 3).stat
  | 0x100 => word t.st.hearth
  | 0x101 => q.xbase
  | 0x102 => q.trbase
  | 0x103 => q.qtbase
  | 0x104 => q.savebase
  | 0x105 => q.ovfbase
  | 0x106 => q.dmovf
  | 0x107 => q.aspace
  | 0x108 => q.trapvec
  | 0x109 => word ((get 0 k.log.pubtail t.st.hearth).toNat * 2 ^ 16 + s.curCore)
  | 0x10A => q.rqbase
  | 0x200 => word k.log.base
  | 0x201 => word (k.log.size % 4)
  | 0x202 => k.lsown0
  | 0x203 => k.lsown1
  | 0x204 => (s.cluster (clusterOf s.curCore)).aweight
  | 0x300 => s.fdutyReg s.curCore
  | 0x301 => k.pw.vlevel
  | 0x302 => k.pw.flevel
  | _ => k.pw.stallq

/-- Bits [56:12] and [4:0]. -/
def baseLogMask : Word := 0x01FFFFFFFFFFF01F
/-- Bits [56:12]. -/
def baseMask : Word := 0x01FFFFFFFFFFF000
/-- Every core may dispatch from the hearth again (R470); what it has fetched of the queues' pull rings is of no use any more (R73). -/
def State.restartDispatch (s : State) (h : Nat) : State :=
  { s with cores := s.cores.map fun e =>
      (e.1, { e.2 with stopped := e.2.stopped.filter (· != h), pulled := e.2.pulled.filter fun p => p.hearth != h }) }
/-- Write a register of the executing thread, its hearth or its core; fields that are not writable ignore the write (R8, R371). S writes every
field of TRAPSTAT (log 129). A LOGSIZE write replaces one that waits (log 130). The updates made for an experience section go to its slots
before XBASE changes (R188, R197). -/
def State.setCsr (s : State) (n : Nat) (v : Word) : State :=
  let h := s.cur.st.hearth
  let c := s.curCore
  match n with
  | 0x000 => s.modCur fun t => { t with st := t.st.write v }
  | 0x001 => s.modCur fun t => { t with taskid := v }
  | 0x002 => s.modCur fun t => { t with key := v }
  | 0x003 => s.modCur fun t => { t with ctr := v }
  | 0x006 => s.modCur fun t => { t with link := v &&& 0xE1FFFFFFFFFFFFFF }
  | 0x008 => s.modCur fun t => { t with idempc := v }
  | 0x009 => s.modCur fun t => { t with idemctr := v }
  | 0x00A => s.modCur fun t => { t with idemlog := v }
  | 0x011 => s.modCur fun t => { t with trapcause := v }
  | 0x012 => s.modCur fun t => { t with trapaddr := v }
  | 0x013 => s.modCur fun t => { t with trappc := v }
  | 0x014 => s.modCur fun t => { t with trapstat := (Status.unpack v).pack }
  | 0x101 => (s.flushSection h).modHearth h fun q => { q with xbase := v &&& 0x01FFFFFFFFFFF03F }
  | 0x102 => (s.modHearth h fun q => { q with trbase := v &&& baseLogMask }).restartDispatch h
  | 0x103 => (s.modHearth h fun q => { q with qtbase := v &&& baseMask }).restartDispatch h
  | 0x104 => s.modHearth h fun q => { q with savebase := v &&& baseMask }
  | 0x105 => s.modHearth h fun q => { q with ovfbase := v &&& baseLogMask }
  | 0x106 => s.modHearth h fun q => { q with dmovf := v &&& baseLogMask }
  | 0x107 => s.modHearth h fun q => { q with aspace := v &&& 0xFFFFFFFFFFFFE000 }
  | 0x108 => s.modHearth h fun q => { q with trapvec := v &&& 0x01FFFFFFFFFFFE00 }
  | 0x10A => s.modHearth h fun q => { q with rqbase := v &&& baseLogMask }
  | 0x201 => s.modCore c fun k => { k with log := { k.log with newSize := some (v.bits 1 0) } }
  | 0x202 => s.modCore c fun k => { k with lsown0 := v }
  | 0x203 => s.modCore c fun k => { k with lsown1 := v }
  | 0x204 => s.modCluster (clusterOf c) fun q => { q with aweight := word (v.bits 31 0) }
  | 0x300 => s.setFduty c v
  | 0x301 => s.modPower c fun p => { p with den := p.den && v.bits 63 63 == 0 }
  | 0x302 => s.levelRequest c v
  | _ => s

/-- A privilege check of an instruction's own, which comes before its marked sources (R453, R500). -/
def privGate (i : Instr) (bad : State → Bool) (chk : State → Option TrapRec) (k : State → State) (s : State) : Out :=
  if bad s then .next (s.trap { cause := 0x05 }) else gate i chk k s
/-- The privilege level forbids a use of a register (R371, R500): a register without a write column refuses every write. -/
def csrPriv (n : Nat) (write : Bool) (s : State) : Bool :=
  match csrLevels n with
  | none => false
  | some (rd, wr) =>
    if write then
      match wr with
      | none => true
      | some l => s.cur.st.priv < l
    else s.cur.st.priv < rd
/-- The number of a register (R371). -/
def csrNum (f : Fld) (s : State) : Option TrapRec :=
  firstTrap [illfld s (4096 ≤ f.immU) f.immPos, trapIf (csrLevels f.immU).isNone 0x15 (word f.immU)]
/-- CSRR (R371). -/
def execCsrr (x : XA) (s : State) : Out :=
  let f := x.fld 2
  privGate (.csrr x) (csrPriv f.immU false) (fun s => firstTrap [lastBad f (f.s != 0 || f.t != 0) s, csrNum f s])
    (fun s => s.result f f.d (s.csr f.immU)) s
/-- A write of a register (R371): it clears idv (R373). CSRS and CSRC write the combined value, which meets a W1C bit as CSRW's would
(log 131). -/
def csrWrite (i : Instr) (f : Fld) (op : Word → Word → Word) (s : State) : Out :=
  privGate i (csrPriv f.immU true) (fun s => firstTrap [lastBad f (f.d != 0 || f.t != 0) s, csrNum f s])
    (fun s => ((s.setCsr f.immU (op (s.csr f.immU) (s.w f.s))).clearIdv).advance f) s
/-- CSRW (R371). -/
def execCsrw (x : XA) (s : State) : Out := csrWrite (.csrw x) (x.fld 2) (fun _ v => v) s
/-- CSRS (R371). -/
def execCsrs (x : XA) (s : State) : Out := csrWrite (.csrs x) (x.fld 2) (fun old v => old ||| v) s
/-- CSRC (R371). -/
def execCsrc (x : XA) (s : State) : Out := csrWrite (.csrc x) (x.fld 2) (fun old v => old &&& ~~~v) s

end Sys2Proof.Machine
end

