-- ==== Sys2Proof/Machine/Sync.lean ====
section
/-! DEFINITION. Futures, locks and stage rings (R294-R302). -/

namespace Sys2Proof.Machine

/-- The first of n bytes that lies in a poisoned word which the thread's own stores do not supply whole: a forwarded byte is never poisoned
(R487). In deterministic mode the phase's memory is read (R302). -/
def State.poisonRead (s : State) (pa n : Nat) : Option Nat :=
  s.poisonPast pa n (if s.cur.st.det then [] else s.fwdOf s.curCore s.cur pa n)
/-- Reach a word of an object (R294): in DRAM of the package, else SCOPE; a poisoned one traps (R488, R540), and a home without power
answers nothing (R522). The core's releases and the home come first (log 18), and the thread acquires the home's clock. -/
def State.withObj (s : State) (a : Word) (n : Nat) (k : Acc) (go : Nat → State → State) : State :=
  s.withPlace a k fun pa _ s =>
    match s.place pa with
    | .dram pa =>
      if (s.die (homeOf pa / 160)).powerLost then s.waitFor .retry
      else
      let s := s.readLines (s.readFor s.curCore s.curSlot a) pa n
      match s.poisonRead pa n with
      | some i => s.trap { cause := 0x47, cls := 4, addr := a + word i }
      | none =>
        let s := s.drain s.curCore (homeOf pa)
        go pa (s.acquireAt s.curCore s.curSlot (s.appliedClock (homeOf pa)))
    | _ => s.trap { cause := 0x0C, addr := a }
/-- Release at pkg before a fill or a release of an object (R294), and have it applied (log 18). -/
def State.pkgRelease (s : State) : State := (s.release s.curCore s.curSlot 4 []).drain s.curCore 640
/-- A compare-and-swap at pkg scope makes the implicit release of an atomic first (R143). -/
def State.casRelease (s : State) : State := (s.implicitRelease s.curCore s.curSlot []).drain s.curCore 640
/-- A word of an object as the thread's LoadAcq reads it: with its own stores that the log holds (R121, R229), but in deterministic mode
as the phase found it (R302). -/
def State.objW (s : State) (pa : Nat) : Word :=
  if s.cur.st.det then s.memW pa else word (leNat (overlay (s.fwdOf s.curCore s.cur pa 8) (s.bytes pa 8)))

/-- Limits of FUTW and QPOP: f = 0, and in a present PXR rc and sz are 0 (R259, R295, R301). -/
def popLimits (f : Fld) : List (Bool × Nat) := [(f.pxr && (f.rc != 0 || f.sz != 0), f.pxrPos), (f.f != 0, f.last)]
/-- Deliver a value with a status in the t form; without it only a full object completes. -/
def State.deliver (s : State) (f : Fld) (v : Word) (status : Nat) : State :=
  let s := s.setW f.d v
  (if f.pxr then s.setW f.t (word status) else s).advance f

/-- FUTW (R295, R302). -/
def execFutw (x : RR) (s : State) : Out :=
  let f := x.fld
  gate (.futw x) (fun s => firstTrap [limits s (popLimits f), alignTrap (s.w f.s) 16]) (fun s => s.orAdopt fun s =>
    let a := s.w f.s
    s.withObj a 16 .read fun pa s =>
      let w0 := s.objW pa
      let v := s.objW (pa + 8)
      if futState w0 = 2 then s.deliver f v 2
      else if futState w0 = 3 then (if f.pxr then s.deliver f v 3 else s.trap { cause := 0x1B, addr := a })
      else if s.cur.st.det then s.trap { cause := 0x17, addr := a }
      else s.orTrap (s.waitOrHelp false pa a (w0.bits 47 0))) s
/-- FUTS: fill, or with f = 1 claim, for which no release is made (R296; log 139). -/
def execFuts (x : RR) (s : State) : Out :=
  let f := x.fld
  gate (.futs x) (fun s => firstTrap [detAtom s (s.w f.s), alignTrap (s.w f.s) 16]) (fun s =>
    let a := s.w f.s
    let v := s.w f.d
    s.withObj a 16 .atomic fun pa s =>
      if f.f = 1 then
        if futState (s.memW pa) ≠ 0 then s.trap { cause := 0x19, addr := a }
        else ((s.writeAt pa (leBytes 8 (futWord 1 (v.bits 47 0)).toNat)).clearIdv).advance f
      else
        let s := s.pkgRelease
        if 2 ≤ futState (s.memW pa) then s.trap { cause := 0x19, addr := a }
        else ((s.setFuture s.curCore pa 2 v).clearIdv).advance f) s
/-- FUTP (R297). -/
def execFutp (x : RR) (s : State) : Out :=
  let f := x.fld
  gate (.futp x) (fun s => firstTrap [limits s [(f.f != 0, f.last)], detAtom s (s.w f.s), alignTrap (s.w f.s) 16]) (fun s =>
    let a := s.w f.s
    let v := s.w f.d
    s.withObj a 16 .atomic fun pa s =>
      let s := s.pkgRelease
      let st := futState (s.memW pa)
      if st = 2 then s.trap { cause := 0x19, addr := a }
      else ((if st = 3 then s else s.setFuture s.curCore pa 3 v).clearIdv).advance f) s

/-- A lock word (R83). -/
def lockWord (waiters held owner : Nat) : Word := word (waiters * 2 ^ 63 + held * 2 ^ 48 + owner % 2 ^ 48)
/-- The lock is held by a task. -/
def heldBy (q : Word) (me : Nat) : Bool := q.bits 48 48 == 1 && q.bits 47 0 == me
/-- LOCK (R298). A waiters bit that stands is not written again; a trap but CYCLE undoes it (R230, R472). -/
def execLock (x : RR) (s : State) : Out :=
  let f := x.fld
  gate (.lock x) (fun s =>
      firstTrap [limits s [(f.d != 0 || f.f != 0, f.last)], detAtom s (s.w f.s), alignTrap (s.w f.s) 8])
    (fun s => s.orAdopt fun s =>
      let a := s.w f.s
      s.withObj a 8 .atomic fun pa s =>
        let me := taskNo s.cur.taskid
        if heldBy (s.objW pa) me then s.trap { cause := 0x1A, addr := a }
        else
          let s := s.casRelease
          let q := s.memW pa
          if heldBy q me then s.trap { cause := 0x1A, addr := a }
          else if q.bits 48 48 = 0 then (s.writeAt pa (leBytes 8 (lockWord (q.bits 63 63) 1 me).toNat)).advance f
          else s.orTrap ((if q.bits 63 63 = 1 then s else s.writeAt pa (leBytes 8 (lockWord 1 1 (q.bits 47 0)).toNat)).waitOrHelp
            true pa a (q.bits 47 0))) s
/-- UNLOCK (R299). -/
def execUnlock (x : RR) (s : State) : Out :=
  let f := x.fld
  gate (.unlock x) (fun s =>
      firstTrap [limits s [(f.d != 0 || f.f != 0, f.last)], detAtom s (s.w f.s), alignTrap (s.w f.s) 8])
    (fun s =>
      let a := s.w f.s
      s.withObj a 8 .atomic fun pa s =>
        let me := taskNo s.cur.taskid
        if !heldBy (s.objW pa) me then s.trap { cause := 0x1A, addr := a }
        else
          let s := s.pkgRelease
          if !heldBy (s.memW pa) me then s.trap { cause := 0x1A, addr := a }
          else ((s.writeAt pa (leBytes 8 (lockWord 0 0 me).toNat)).clearIdv).advance f) s

/-- The words of a stage ring that its instructions use (R80): the PAs of HEAD and TAIL, the entry array and the size. -/
structure Ring where
  head : Nat
  tail : Nat
  base : Word
  slog : Nat
  deriving DecidableEq, Repr
/-- Reach the descriptor of a stage ring, for the accesses that are made to HEAD and TAIL. -/
def State.withRing (s : State) (a : Word) (kh kt : Acc) (go : Ring → State → State) : State :=
  s.withObj a 8 .read fun pa s => s.withObj (a + 8) 8 .read fun pc s =>
    s.withObj (a + 16) 8 kh fun ph s => s.withObj (a + 24) 8 kt fun pt s =>
      go { head := ph, tail := pt, base := s.objW pa, slog := (s.objW pc).bits 4 0 } s
/-- The entry at a count of a ring. -/
def Ring.entry (r : Ring) (n : Word) : Word := r.base + word (16 * (n.toNat % 2 ^ r.slog))
/-- The entry that the instruction at the PC has reserved (R300). -/
def Slot.push (t : Slot) : Option Word := (t.pushes.find? (·.1 == t.pc)).map (·.2)
/-- The entries that other instructions have reserved. -/
def Slot.unpush (t : Slot) : Slot := { t with pushes := t.pushes.filter (·.1 != t.pc) }
/-- Fill or claim the reserved entry e once it is empty (R300). -/
def State.pushAt (s : State) (f : Fld) (e : Word) : State :=
  s.withObj e 16 .atomic fun pe s =>
    if futState (s.objW pe) ≠ 0 then s.watchWait pe
    else if f.f = 1 then
      let s := s.casRelease.writeAt pe (leBytes 8 (futWord 1 (taskNo s.cur.taskid)).toNat)
      ((s.modCur Slot.unpush).clearIdv).result f f.d e
    else
      let v := s.w f.d
      let s := s.pkgRelease.setFuture s.curCore pe 2 v
      ((s.modCur Slot.unpush).clearIdv).advance f
/-- QPUSH (R300): the tail entry is reserved first; a thread that then waits for it keeps the reservation (log 23). -/
def execQpush (x : RR) (s : State) : Out :=
  let f := x.fld
  gate (.qpush x) (fun s => firstTrap [detAtom s (s.w f.s), alignTrap (s.w f.s) 8]) (fun s =>
    match s.cur.push with
    | some e => s.pushAt f e
    | none => s.withRing (s.w f.s) .read .atomic fun r s =>
      let t := s.objW r.tail
      if 2 ^ r.slog ≤ (t - s.objW r.head).toNat then s.watchWait r.head
      else
        let e := r.entry t
        if e.toNat % 16 ≠ 0 then s.trap { cause := 0x0A, addr := e }
        else s.withObj e 16 .atomic fun _ s =>
          let s := s.casRelease.writeAt r.tail (leBytes 8 (t + 1).toNat)
          (s.modCur fun t => { t with pushes := t.pushes ++ [(t.pc, e)] }).pushAt f e) s
/-- QPOP (R301). -/
def execQpop (x : RR) (s : State) : Out :=
  let f := x.fld
  gate (.qpop x) (fun s => firstTrap [limits s (popLimits f), detAtom s (s.w f.s), alignTrap (s.w f.s) 8]) (fun s => s.orAdopt fun s =>
    s.withRing (s.w f.s) .atomic .read fun r s =>
      let h := s.objW r.head
      if h = s.objW r.tail then s.watchWait r.tail
      else
        let e := r.entry h
        if e.toNat % 16 ≠ 0 then s.trap { cause := 0x0A, addr := e }
        else s.withObj e 16 .atomic fun pe s =>
          let w0 := s.objW pe
          let st := futState w0
          if st < 2 then s.orTrap (s.waitOrHelp false pe e (w0.bits 47 0))
          else
            let v := s.objW (pe + 8)
            let s := s.casRelease.writeAt r.head (leBytes 8 (h + 1).toNat)
            let s := s.pkgRelease.writeAt pe (leBytes 8 (futWord 0 (taskNo noTask)).toNat)
            let s := s.clearIdv
            if st = 2 then s.deliver f v 2
            else if f.pxr then s.deliver f v 3
            else s.trap { cause := 0x1B, addr := e }) s

end Sys2Proof.Machine
end

