-- ==== Sys2Proof/Machine/System.lean ====
section
/-! DEFINITION. Task, message, channel and system instructions of page 2 (R361-R370, R373-R376, R459, R509). -/

namespace Sys2Proof.Machine

/-! ## The replay queue (R459) -/

/-- What performing a parked element comes to. -/
inductive Redone where
  | done (s : State)
  | again (r : Replay) (s : State)
  | wait (s : State)
  deriving DecidableEq, Repr
/-- Perform a parked element of the executing thread: a load element writes its lane; that of a stream pop is read only (log 25). -/
def State.redo (s : State) (r : Replay) : Redone :=
  let store := r.kind == 1 || r.kind == 3
  match s.resolve r.elem (if store then .write else .read) r.et with
  | (.wait, s) => .wait s
  | (.bad c a, s) => .again { r with cause := c, va := a } s
  | (.trap c a, s) => .again { r with cause := c, va := a } s
  | (.ok pa a sc, s) =>
    if store then
      if s.curK.storesStall then .wait s
      else match s.storeElem { et := r.et, rm := r.rm, sat := r.sat, cp := r.cp } s.nextId false { l := r.lane, va := r.elem, code := r.value.toNat } pa a with
      | some (_, s) => .done s
      | none => .wait s
    else match s.readNow s.curCore s.curSlot pa (etBytes r.et) with
      | none => .wait s
      | some (.error c) => .again { r with cause := c, va := r.elem } s
      | some (.ok bs) =>
        if r.kind = 4 then .done s
        else .done (s.modCur fun t =>
          { t with v := put t.v r.vreg (putElem r.et a.fmt sc r.lane (leNat bs) (get zeroVec t.v r.vreg)) })
/-- Perform parked elements in entry order: those that park again, and those that are left when one must wait. -/
def State.redoAll (s : State) : List Replay → List Replay × List Replay × State
  | [] => ([], [], s)
  | r :: rest => match s.redo r with
    | .done s => s.redoAll rest
    | .again r s =>
      let (a, w, s) := s.redoAll rest
      (r :: a, w, s)
    | .wait s => ([], r :: rest, s)
/-- A vector register of a slot has elements that have not arrived: a request or reply in flight, or a parked element. -/
def State.vecPending (s : State) (c n v : Nat) : Bool :=
  let hit (r : Req) : Bool := r.core == c && r.slot == n && r.dst.vregs.contains v
  s.reqs.any hit || s.replies.any (fun r => hit r.req) || (s.slot c n).replay.any fun r => (r.kind == 0 || r.kind == 2) && r.vreg == v
/-- Vector registers whose elements have all arrived are no longer pending. -/
def State.settleV (s : State) (c n : Nat) : State :=
  let keep := (s.slot c n).pendV.filter (s.vecPending c n)
  s.modSlot c n fun t => { t with pendV := keep }
/-- Parked elements of loads have left the queue: an instruction with none left whose destination was pending for 64 cycles counts so, at the
privilege that it had (R192). -/
def State.countWaited (s : State) (l : List Replay) : State :=
  (l.map (·.group)).dedup.foldl (fun s g => match l.find? fun r => r.group == g && (r.kind == 0 || r.kind == 2) with
    | none => s
    | some r => match r.xs with
      | none => s
      | some xs =>
        if r.issued + 64 ≤ s.curK.cycle.toNat && !s.groupLeft s.curCore s.curSlot g then
          s.loadWaited s.curCore s.curSlot (Status.unpack s.cur.trapstat).priv xs
        else s) s
/-- RQGO with i = 0, as RQGO and RTE perform it: false where an element must wait. -/
def State.replayAll (s : State) : Bool × State :=
  let l := s.cur.replay
  let (again, left, s) := s.redoAll l
  let s := (s.modCur fun t => { t with replay := again ++ left, replayPend := !again.isEmpty && left.isEmpty }).settleV s.curCore s.curSlot
  (left.isEmpty, s.countWaited l)
/-- RQGO (R375, R459). -/
def execRqgo (x : XA) (s : State) : Out :=
  let f := x.fld 2
  gate (.rqgo x) (lastBad f (2 ≤ f.base || f.d != 0 || f.s != 0 || f.t != 0)) (fun s =>
    if f.base = 1 then
      let l := s.cur.replay
      (((s.modCur fun t => { t with replay := [], replayPend := false }).settleV s.curCore s.curSlot).countWaited l).advance f
    else match s.replayAll with
      | (true, s) => s.advance f
      | (false, s) => s.waitFor .retry) s
/-- RQRD (R375). -/
def execRqrd (x : XA) (s : State) : Out :=
  let f := x.fld 2
  gate (.rqrd x) (fun s => firstTrap [lastBad f (f.s != 0 || f.t != 0) s, trapIf (2 * s.cur.replay.length ≤ f.immU) 0x0D (word f.immU)])
    (fun s => s.result f f.d ((s.cur.replay.flatMap Replay.words).getD f.immU 0)) s

/-! ## Traps and returns -/

/-- TRAP (R369). -/
def execTrap (x : XA) (s : State) : Out :=
  let f := x.fld 2
  gate (.trap x) (fun s => limits s [(4096 ≤ f.immU, f.immPos), (f.d != 0 || f.s != 0 || f.t != 0, f.last)])
    (fun s => s.trapAt (s.npc f) { cause := 0x1C, addr := word f.immU }) s
/-- The held commands of the executing slot are back in service when its ANVILFETCH handler returns (R513). -/
def State.requeue (s : State) : State :=
  let n := s.curSlot
  if !s.cur.anvTrap then s
  else
    let held := s.curK.anvq.countP fun k => k.slot == n && k.held
    let s := s.modCurK fun k => { k with anvq := k.anvq.map fun a => if a.slot = n then { a with held := false } else a }
    s.modCur fun t => { t with anvTrap := false, tiles := t.tiles + held }
/-- Elements that park again trap at the boundary after RTE, before the instruction that it returns to (R458, R459; log 34). -/
def reenter (vec : Word) (r : Replay) (t : Slot) : Slot :=
  let u := { trapReturn t with replayPend := false }
  trapEntry vec { cause := r.cause, addr := r.va } u.pc u
/-- RTE (R370, R459, R513). -/
def execRte (x : XA) (s : State) : Out :=
  let f := x.fld 2
  privGate (.rte x) (fun s => s.cur.st.priv == 0 || s.cur.st.priv < (Status.unpack s.cur.trapstat).priv)
    (fun s => firstTrap [lastBad f (f.base != 0 || f.d != 0 || f.s != 0 || f.t != 0) s,
      trapIf (s.cur.trappc.getLsbD 0) 0x04 s.cur.trappc])
    (fun s =>
      let (ok, s) := if s.cur.replay.isEmpty then (true, s) else s.replayAll
      if !ok then s.waitFor .retry
      else match s.cur.replay.head? with
        | some r => s.modCur (reenter (s.hearth s.cur.st.hearth).trapvec r)
        | none => (s.requeue).modCur trapReturn) s
/-- IDEM (R373). -/
def execIdem (x : XA) (s : State) : Out :=
  let f := x.fld 2
  gate (.idem x) (lastBad f (2 ≤ f.base || f.d != 0 || f.s != 0 || f.t != 0)) (fun s =>
    if f.base = 1 then (s.clearIdv).advance f
    else
      let npc := s.npc f
      let tail := word s.curK.log.tail.toNat
      (s.modCur fun t => { t with idempc := npc, idemctr := t.ctr, idemlog := tail, restarts := 0,
                                  st := { t.st with idv := true } }).advance f) s
/-- HALT (R374, R441). -/
def execHalt (x : XA) (s : State) : Out :=
  let f := x.fld 2
  gate (.halt x) (lastBad f (f.d != 0 || f.s != 0 || f.t != 0)) (fun s =>
    let pc := s.cur.pc
    let c := s.curCore
    let s := s.modCurK fun k => { k with halted := some f.immU }
    State.advance { s with hub := { s.hub with halts := s.hub.halts ++ [(f.immU, c, pc)] } } f) s

/-- A TLBI covers the translations of a page, by its tags, base and size (R374). -/
def tlbiCovers (kind h asid : Nat) (a n : Word) (hearth as base size : Nat) : Bool :=
  match kind with
  | 0 =>
    let lo := a.toNat
    let hi := lo + n.toNat
    let base := (va57 base).toNat
    hearth == h && as == asid && n != 0 && (2 ^ 64 < hi || (base < hi && lo < base + size))
  | 1 => hearth == h && as == a.bits 7 0
  | 2 => hearth == h
  | _ => true
/-- The TLB entries that a TLBI removes. -/
def tlbiHits (kind h asid : Nat) (a n : Word) (e : TlbEntry) : Bool := tlbiCovers kind h asid a n e.hearth e.asid e.base e.size
/-- A walk in progress over the range of a TLBI, which waits for its end (R120): a walk serves its block VA[56:21]. -/
def State.walksIn (s : State) (kind h asid : Nat) (a n : Word) : Bool :=
  s.dies.any fun e => e.2.walks.any fun w =>
    tlbiCovers kind h asid a n w.hearth (asidOf w.aspace) (w.va.toNat % 2 ^ 57 / 2 ^ 21 * 2 ^ 21) (2 ^ 21)
/-- A TLBI reaches every core: it waits for one whose clock is stopped (R120, R416). -/
def State.coresStopped (s : State) : Bool := s.coreIds.any s.clockStopped
/-- An answer that a miss holds is of a translation that a TLBI removes: it translates again. -/
def tlbiAnswer (kind h asid : Nat) (a n : Word) (m : Miss) : Bool :=
  match m.leaf with
  | some e => tlbiHits kind h asid a n (tlbOf m.hearth (asidOf m.aspace) (m.va.toNat % 2 ^ 57) e)
  | none => false
/-- The instruction-cache blocks that a TLBI removes: every block fetched under the asids that it touches (R120; log 35). -/
def tlbiCode (kind h asid : Nat) (a n : Word) (b : CodeBlock) : Bool :=
  match kind with
  | 0 => b.hearth == h && b.asid == asid && n != 0
  | 1 => b.hearth == h && b.asid == a.bits 7 0
  | 2 => b.hearth == h
  | _ => true
/-- Invalidate translations in the whole package (R120); a TLBI is a wake event of every core (R418). -/
def State.tlbi (s : State) (kind h asid : Nat) (a n : Word) : State :=
  { s with
    cores := s.cores.map fun e =>
      let k := e.2.roused
      (e.1, { k with tlb := k.tlb.filter fun t => !tlbiHits kind h asid a n t
                     icache := k.icache.filter fun b => !tlbiCode kind h asid a n b })
    dies := s.dies.map fun e => (e.1, { e.2 with tlb := e.2.tlb.filter fun t => !tlbiHits kind h asid a n t
                                                 misses := e.2.misses.filter fun m => !tlbiAnswer kind h asid a n m }) }
/-- TLBI (R120, R374): the issuer's releases are applied first (log 18), and it waits for the walks over its range. -/
def execTlbi (x : XA) (s : State) : Out :=
  let f := x.fld 2
  privGate (.tlbi x) (fun s => s.cur.st.priv == 0 || (f.base == 3 && s.cur.st.priv != 2)) (lastBad f (4 ≤ f.base || f.d != 0 || (f.base != 0 && f.t != 0)))
    (fun s =>
      let h := s.cur.st.hearth
      let asid := asidOf (s.hearth h).aspace
      let s := s.drain s.curCore 640
      if s.walksIn f.base h asid (s.w f.s) (s.w f.t) || s.coresStopped then s.waitFor .retry
      else (s.tlbi f.base h asid (s.w f.s) (s.w f.t)).advance f) s

/-! ## Tasks and continuations -/

/-- Tasks of a deterministic hearth have been created (R88, R484). -/
def State.created (s : State) (h : Nat) (ids : List Word) : State :=
  if (s.hearth h).det.on then s.modHearth h fun q => { q with det := { q.det with created := q.det.created ++ ids } } else s
/-- SPAWN after its release (R362): the status that it writes, and whether the record was not free; or the fault of a word. Reserving the
tail entry acquires TAIL (R73). A task of a phase that may not be created only has its entry written (R510). -/
def State.spawn (s : State) (id : Word) (c : Nat) (wrong : Bool) : Except (Nat × Word) (Nat × Bool × State) :=
  let h := s.cur.st.hearth
  match s.lookup s.curCore h id with
  | (.none, s) | (.arena, s) => .ok (2, false, s)
  | (.fault e a, _) => .error (e, a)
  | (.at tr, s) =>
    match s.hwReadWords h (tr + 8) 1 with
    | .error e => .error e
    | .ok cs =>
      let q := queueVA (s.hearth h) c ((cs.getD 0 0).bits 1 0)
      match s.hwReadWords h q 2 with
      | .error e => .error e
      | .ok ws =>
        if (ws.getD 1 0).bits 8 8 = 1 then .ok (2, false, s)
        else match s.queuePush h q id with
          | .fault e a => .error (e, a)
          | .full => .ok (1, false, s.acquireVA s.curCore s.curSlot (q + 24))
          | .ok s' =>
            if wrong && (cs.getD 0 0).bits 39 36 == 0 then .ok (0, false, s'.acquireVA s.curCore s.curSlot (q + 24))
            else match s'.casTask h tr 0 1 with
            | .error e => .error e
            | .ok (free, s') =>
              let s := s'.acquireVA s.curCore s.curSlot (q + 24)
              .ok (if free then 0 else 2, !free, s.created h (if free then [id] else []))
/-- The phase that a hearth runs (R89). -/
def Hearth.curPhase (q : Hearth) : Nat := match q.det.current with
  | some p => p.1
  | none => q.phase.toNat
/-- SPAWN (R362). In deterministic mode a wrong phase or a second creation traps after the entry is written, and a second creation also
fails the phase (R470). -/
def execSpawn (x : XA) (s : State) : Out :=
  let f := x.fld 2
  gate (.spawn x) (fun s => firstTrap [lastBad f (f.base != 0) s, trapIf (!coreExists ((s.w f.t).bits 12 0)) 0x0D (s.w f.t)])
    (fun s =>
      let id := s.w f.s
      let c := (s.w f.t).bits 12 0
      let h := s.cur.st.hearth
      let wrong := s.cur.st.det && taskPhase id != ((s.hearth h).curPhase + 1) % 2 ^ 16
      let s := s.pkgRelease
      match s.spawn id c wrong with
      | .error e => s.orTrap (s.hwFail e)
      | .ok (st, second, s) =>
        if s.cur.st.det && second then (s.dupTask h id).trap { cause := 0x16 }
        else if wrong then s.trap { cause := 0x16 }
        else s.result f f.d (word st)) s

/-- The deferred faults of copies and tiles that EXIT names (R453, R454). -/
def exitFault (t : Slot) : Option Deferred := t.firstFault fun d => 2 ≤ d.count
/-- EXIT (R87, R201, R364). -/
def execExit (x : XA) (s : State) : Out :=
  let f := x.fld 2
  match exitFault s.cur with
  | some d => .next (s.consume d)
  | none =>
    gate (.exit x) (lastBad f (f.base != 0 || f.s != 0 || f.t != 0)) (fun s =>
      let t := s.cur
      if t.copies ≠ 0 ∨ t.tiles ≠ 0 then s.waitFor (.counts (2 ^ 64) (2 ^ 64) 0 0)
      else if s.exitWaits s.curCore s.curSlot then s.waitFor .retry
      else match s.exitFault? s.curCore s.curSlot with
      | some e => s.orTrap (s.hwFail e)
      | none =>
        let v := s.w f.d
        (s.discardCmds s.curCore s.curSlot).endTask s.curCore s.curSlot v) s

/-- The words of a continuation record (R79, R363). -/
def contWords (t : Slot) (npc link : Word) (live : BitVec 16) : List Word :=
  billetWords { t.billet with pc := npc, status := { t.st with live := live, idv := false }.pack, link := link } ++ [t.key, t.ctr]
/-- The thread leaves and its continuation waits, or is handed on at once (R363). -/
def State.yieldTo (s : State) (record : Word) (chan : Option (Nat × Nat)) (future : Nat) (ready : State → Bool) : State :=
  let c := s.curCore
  let n := s.curSlot
  let h := s.cur.st.hearth
  let s := s.leave c n
  let w : ContWait := { record := record, hearth := h, stamp := (s.slot c n).rc, chan := chan, future := future, core := c }
  let s := if ready s then { s with conts := s.conts ++ [w] } else { s with contWaits := s.contWaits ++ [w] }
  (s.keepAt c n record).freeSlot c n
/-- Write the record and leave; the resident frames are spilled first (log 22). -/
def State.yieldWrite (s : State) (f : Fld) (record link : Word) (chan : Option (Nat × Nat)) (future : Nat) (ready : State → Bool) : State :=
  s.withPlace record .write fun pa _ s => s.withPlace (record + 168) .write fun _ _ s =>
    match s.place pa with
    | .dram _ =>
      match s.spillAll with
      | (some (some r), _) => s.trap r
      | (some none, _) => s.waitFor .retry
      | (none, s') =>
        match s'.hwWords s.cur.st.hearth record (contWords s'.cur (s.npc f) link (BitVec.ofNat 16 ((s.w f.t).bits 15 0))) with
        | .error e => s.orTrap (s.hwFail e)
        | .ok s => s.yieldTo record chan future ready
    | _ => s.trap { cause := 0x0C, addr := record }
/-- The PA is of DRAM of the package. -/
def State.inDram (s : State) (pa : Nat) : Bool :=
  match s.place pa with
  | .dram _ => true
  | _ => false
/-- YIELDC (R363). It waits for the thread's loads, stores and tiles (log 36). -/
def execYieldc (x : XA) (s : State) : Out :=
  let f := x.fld 2
  gate (.yieldc x) (fun s => firstTrap [lastBad f (2 ≤ f.base) s, trapIf s.cur.st.det 0x17 0, trapIf (!s.cur.st.vclean) 0x14 0,
      if f.base = 1 then alignTwo (s.w f.s) (s.w f.d) 16 else alignTrap (s.w f.s) 16])
    (fun s =>
      let t := s.cur
      match t.firstFault (·.count != 2) with
      | some d => s.consume d
      | none =>
        if t.loads ≠ 0 ∨ t.stores ≠ 0 ∨ t.tiles ≠ 0 then s.waitFor .retry
        else
          let c := s.curCore
          if f.base = 0 then
            let ch := (s.w f.d).bits 2 0
            s.yieldWrite f (s.w f.s) (word (3 * 2 ^ 61 + ch * 2 ^ 14 + c * 2 + 1)) (some (c, ch)) 0 (fun s => !(s.chan c ch).busy)
          else
            let a := s.w f.d
            s.withTwo (s.w f.s) .write a .read fun rpa opa s =>
            if !s.inDram rpa ∧ (s.inDram opa ∨ (s.w f.s).toNat ≤ a.toNat) then s.trap { cause := 0x0C, addr := s.w f.s }
            else s.withObj a 16 .read fun fpa s =>
              s.yieldWrite f (s.w f.s) (word (3 * 2 ^ 61 + a.bits 56 0)) none fpa (fun s => 2 ≤ futState (s.memW fpa))) s

/-- The fields of a store with ord rel at a scope, which never migrates (R365). -/
def relFld (f : Fld) (sc : Nat) : Fld := { f with px := [.pxm (BitVec.ofNat 3 sc) 2 0 3] }
/-- TAILW (R365). -/
def execTailw (x : XA) (s : State) : Out :=
  let f := x.fld 2
  gate (.tailw x) (fun s => firstTrap [
      limits s [(f.ord == 1 || f.ord == 3 || (f.sc != 0 && f.sc < 4) || f.cp != 0, f.pxmPos), (f.base != 0 || f.t != 0, f.last)],
      trapIf s.cur.st.det 0x16 (s.w f.s), alignTrap (s.w f.s) 8])
    (fun s => s.store (relFld f (max f.sc 4)) (s.w f.s) (leBytes 8 (s.w f.d).toNat) (fun s => (s.clearIdv).finish f)) s

/-! ## Messages and channels -/

/-- The entries of a core's message queue that are taken or reserved (R78, R366). -/
def State.msgTaken (s : State) (c : Nat) : Nat := (s.core c).msgs.length + s.messages.countP fun m => m.core == c && !m.irq
/-- SEND behind its permit (R366): a core that does not exist is out of range (log 37). -/
def execSend (x : XA) (s : State) : Out :=
  let f := x.fld 2
  let full (s : State) : Bool := let c := (s.w f.d).bits 12 0; coreExists c && 32 ≤ s.msgTaken c
  gate (.send x) (fun s => firstTrap [
      limits s [(64 ≤ f.immU, f.immPos), (f.ord == 1 || storeOrdBad f || f.ord == 3 || f.cp != 0, f.pxmPos), (f.t != 0, f.last)],
      trapIf s.cur.st.det 0x16 0, trapIf (!coreExists ((s.w f.d).bits 12 0)) 0x0D (s.w f.d), alignTrap (s.w f.s) 32])
    (fun s =>
      if full s then s.waitFor .retry
      else s.withRecord (s.w f.s) 4 fun _ ws s =>
        let s := if f.ord = 2 then (s.release s.curCore s.curSlot f.sc []).drain s.curCore 640 else s
        let t := s.cur
        let m : Msg := { core := (s.w f.d).bits 12 0, hearth := t.st.hearth, chan := f.immU, payload := ws, rc := t.rc, issued := s.curK.cycle.toNat,
                         src := some (s.curCore, s.curSlot) }
        let s := { s with messages := s.messages ++ [m] }
        ((s.modCur fun t => { t with stores := t.stores + 1 }).clearIdv).finish f) s
/-- The channel entry that an instruction names. -/
def State.chanEntry (s : State) (c ch : Nat) : Word := get 0 (s.core c).chans ch
/-- Write a channel entry. -/
def State.setChanEntry (s : State) (c ch : Nat) (v : Word) : State := s.modCore c fun k => { k with chans := put k.chans ch v }
/-- An entry that is valid with another hearth. -/
def foreignEntry (e : Word) (h : Nat) : Bool := e.bits 63 63 == 1 && e.bits 59 56 != h
/-- The limits that CHAN, BLK and UNBLK share. -/
def chanLimits (f : Fld) (bad : Bool) (s : State) : Option TrapRec :=
  firstTrap [limits s [(64 ≤ f.immU, f.immPos), (bad, f.last)], trapIf (!coreExists ((s.w f.d).bits 12 0)) 0x0D (s.w f.d)]
/-- CHAN (R367). -/
def execChan (x : XA) (s : State) : Out :=
  let f := x.fld 2
  gate (.chan x) (fun s =>
      let h := s.cur.st.hearth
      firstTrap [chanLimits f (f.t != 0) s,
        trapIf (s.cur.st.priv != 2 && ((s.w f.s).bits 59 56 != h || foreignEntry (s.chanEntry ((s.w f.d).bits 12 0) f.immU) h)) 0x0E 0])
    (fun s => (s.setChanEntry ((s.w f.d).bits 12 0) f.immU (s.w f.s)).advance f) s
/-- The checks of BLK and UNBLK (R367, R509). -/
def blkChk (f : Fld) (s : State) : Option TrapRec :=
  let c := (s.w f.d).bits 12 0
  let e := s.chanEntry c f.immU
  firstTrap [chanLimits f (f.s != 0 || f.t != 0) s, trapIf s.cur.st.det 0x16 0, trapIf (foreignEntry e s.cur.st.hearth) 0x0E 0,
    trapIf (e.bits 63 63 == 0) 0x12 (word (c + f.immU * 2 ^ 13))]
/-- BLK (R367). -/
def execBlk (x : XA) (s : State) : Out :=
  let f := x.fld 2
  gate (.blk x) (blkChk f) (fun s =>
    let c := (s.w f.d).bits 12 0
    (s.setChanEntry c f.immU (s.chanEntry c f.immU ||| (1#64 <<< 62))).advance f) s
/-- UNBLK (R367). -/
def execUnblk (x : XA) (s : State) : Out :=
  let f := x.fld 2
  gate (.unblk x) (blkChk f) (fun s =>
    let c := (s.w f.d).bits 12 0
    (s.setChanEntry c f.immU (s.chanEntry c f.immU &&& ~~~(1#64 <<< 62))).advance f) s

/-- Change the executing core's governor; its run counts begin from zero (R368). -/
def State.setGov (s : State) (g : Governor → Governor) : State :=
  s.modCluster (clusterOf s.curCore) fun q => { q with gov := { g q.gov with hiRun := [], loRun := [], hearth := s.cur.st.hearth } }
/-- The defined bits of SCTL (R80); GOVCFG writes the others as 0 (R499). -/
def sctlMask : Word := 0xFFFF1F
/-- GOVCFG (R368). -/
def execGovcfg (x : XA) (s : State) : Out :=
  let f := x.fld 2
  gate (.govcfg x) (fun s =>
      let v := s.w f.s
      let g := (s.cluster (clusterOf s.curCore)).gov
      firstTrap [lastBad f (6 ≤ f.base || f.d != 0 || f.t != 0 || (f.base == 5 && f.s != 0)) s,
        trapIf (f.base == 4 && v.bits 17 16 == 3) 0x0D v, trapIf (g.enabled && g.hearth != s.cur.st.hearth) 0x0E 0,
        if f.base < 4 then alignTrap v 64 else none])
    (fun s =>
      let v := s.w f.s
      let h := s.cur.st.hearth
      if f.base < 4 then
        s.withPlace (v + 8) .write fun _ _ s =>
          match s.hwReadWords h (v + 8) 1 with
          | .error e => s.orTrap (s.hwFail e)
          | .ok ws => match s.hwWords h (v + 8) [setField (ws.getD 0 0 &&& sctlMask) 9 8 f.base] with
            | .error e => s.orTrap (s.hwFail e)
            | .ok s => (s.setGov fun g => { g with rings := put g.rings f.base v }).advance f
      else if f.base = 4 then
        (s.setGov fun g => { g with assign := (List.range 8).map (fun j => (j, v.bits (2 * j + 1) (2 * j))), g := 2 ^ v.bits 17 16,
                                    enabled := v.bits 18 18 = 1 }).advance f
      else (s.setGov fun g => { g with rings := [], enabled := false }).advance f) s

end Sys2Proof.Machine
end

