-- ==== Sys2Proof/Machine/Sched.lean ====
section
/-! DEFINITION. The scheduler of a core: run queues, dispatch, messages, continuations and the stage governor (R53-R55, R65, R74-R81,
R450, R465, R470). -/

namespace Sys2Proof.Machine

/-- The core's boot test has failed: it receives no billet (R538). -/
def State.bootBad (s : State) (c : Nat) : Bool := (get {} s.hub.boots c).bstat.bits 63 60 == 3
/-- What another agent sends to a core waits at its source: the core's clock is stopped (R416), its die has no power (R18, R522), it is in boot
test (R533), or its boot test has failed and it is not yet quarantined (R538). -/
def State.deaf (s : State) (c : Nat) : Bool :=
  s.clockStopped c || (s.die (dieOf c)).powerLost || (s.core c).bootTest || (s.bootBad c && !(s.core c).quarantined)
/-- The core may take threads: it is not in boot test, quarantined, halted or gated, and its domain runs (R416, R464, R522, R525, R533). -/
def State.coreTakes (s : State) (c : Nat) : Bool :=
  let k := s.core c
  let d := s.die (dieOf c)
  coreExists c && !k.bootTest && !s.bootBad c && !k.quarantined && k.halted.isNone && !k.pw.gated && !k.pw.paused && !k.pw.vrfail && !d.trip3 && !d.powerLost
/-- The core's scheduler acts: it does not prepare to gate either (R417). -/
def State.coreServes (s : State) (c : Nat) : Bool := s.coreTakes c && !(s.core c).pw.preparing
/-- The lowest-numbered free slot. -/
def Core.freeSlot? (k : Core) : Option Nat := (List.range 16).find? fun n => !(k.slot n).busy
/-- The next arrival count of a core. -/
def State.nextArr (s : State) (c : Nat) : State := s.modCore c fun k => { k with arr := k.arr + 1 }

/-! ## Run queues (R54) -/

/-- The run-queue area of a hearth on a core: its address and number of entries; none while clog is outside 12-24. -/
def runArea (q : Hearth) (c : Nat) : Option (Word × Nat) :=
  let clog := q.rqbase.bits 4 0
  if clog < 12 ∨ 24 < clog then none else some (va57 (q.rqbase.bits 56 12 * 4096 + c * 2 ^ clog), (2 ^ clog - 64) / 256)
/-- The address of the entry at a count of a run queue whose area begins at a. -/
def runEntry (q : Hearth) (c : Nat) (a count : Word) : Word :=
  match runArea q c with
  | some (_, n) => a + word (0x40 + 256 * (count.toNat % n))
  | none => a
/-- The head entry of a run queue: its address, the queue's HEAD, and the words of the entry with ARR as the last. A queue whose HEAD or
TAIL faults counts as empty, and one whose head entry faults has no frame to resume; neither writes a record (log 151). -/
def State.runHead (s : State) (c h : Nat) : Option (Word × Word × List Word) :=
  match runArea (s.hearth h) c with
  | none => none
  | some (a, n) => match s.hwReadWords h a 2 with
    | .error _ => none
    | .ok ws =>
      let head := ws.getD 0 0
      if head = ws.getD 1 0 then none
      else match s.hwReadWords h (a + word (0x40 + 256 * (head.toNat % n))) 25 with
        | .error _ => none
        | .ok es => some (a, head, es)
/-- A run queue of a hearth holds frames, or cannot yet be read: the core dispatches no task (R74 step 1). -/
def State.runHeld (s : State) (c h : Nat) : Bool :=
  !(s.hearth h).suspended && match runArea (s.hearth h) c with
  | none => false
  | some (a, _) => match s.hwReadWords h a 2 with
    | .error e => e.1 == hwWait
    | .ok ws => ws.getD 0 0 != ws.getD 1 0
/-- What an append to a run queue does. -/
inductive Appended where
  | ok (s : State)
  /-- The queue is full, or clog is outside 12-24. -/
  | full
  | fault (cause : Nat) (addr : Word)
  deriving DecidableEq, Repr
/-- Append a frame to a core's run queue, with what hardware keeps of its thread. -/
def State.runAppend (s : State) (c : Nat) (x : Frame) (q : Kept) : Appended :=
  let h := x.hearth
  match runArea (s.hearth h) c with
  | none => .full
  | some (a, n) => match s.hwReadWords h a 2 with
    | .error e => .fault e.1 e.2
    | .ok ws =>
      let tail := ws.getD 1 0
      if n ≤ (tail - ws.getD 0 0).toNat then .full
      else match s.hwWords h (a + word (0x40 + 256 * (tail.toNat % n))) (wordsOfFrame x ++ [(s.core c).arr]) with
        | .error e => .fault e.1 e.2
        | .ok s => match s.hwWords h (a + 8) [tail + 1] with
          | .error e => .fault e.1 e.2
          | .ok s => .ok ((s.nextArr c).keep h (a + word (0x40 + 256 * (tail.toNat % n))) q)
/-- The eviction form of a frame (R45). -/
def evictedFrame (x : Frame) : Frame := { x with kind := 2, handle := 0 }
/-- The clock that the log handle of a frame stands for (R53); none while its release is not published. -/
def State.handleClock (s : State) (x : Frame) : Option Clock :=
  if x.kind ≠ 1 then some {}
  else
    let l := (s.core (x.handle.bits 12 0)).log
    if x.handle.bits 63 16 ≤ (get 0 l.pubtail x.hearth).toNat then some (get {} l.pubstamp x.hearth) else none
/-- A frame's thread takes a slot, with what was kept of it (R53, R138, R450), and is ready no sooner than the slot (R30): the task of an
evicted waiter runs again (R71). A region that restarts on the core begins at its log's tail (R462, R464). -/
def State.placeFrame (s : State) (c n : Nat) (x : Frame) (q : Kept) (clk : Clock) : State :=
  let t := (slotOfFrame x).withKept q
  let k := s.core c
  let t := if t.st.idv then { t with idemlog := word k.log.tail.toNat } else t
  let s := s.setSlot c n { t with rc := k.resume.max clk, readyAt := (k.slot n).readyAt, st := { t.st with hearth := x.hearth } }
  let s := s.modCore c fun k => { k with rcache := [] }
  if x.kind ≠ 2 then s
  else match s.casThread c x.hearth t.taskid 4 2 with
    | .ok s => s
    | .error e => if e.1 = hwWait then s else s.report { s.threadRecord c n e.1 5 with addr := e.2 }

/-! ## Continuations (R79, R363) -/

/-- Start a continuation in a slot; a record that cannot be read is reported and its thread does not resume. What was kept of the thread
comes back, and its copies are the slot's (R363). -/
def State.startCont (s : State) (c n h : Nat) (record : Word) (clk : Clock) : State :=
  match s.readBillet h record, s.hwReadWords h (record + 0xA0) 2 with
  | .ok t, .ok ws =>
    let k := s.core c
    ((s.setSlot c n { t with key := ws.getD 0 0, ctr := ws.getD 1 0, rc := k.resume.max clk, readyAt := (k.slot n).readyAt }).modCore c
      fun k => { k with rcache := [] }).takeKept c n h record
  | .error e, _ => s.report { cause := e.1, cls := 5, hearth := h, core := c, slot := n, addr := e.2 }
  | _, .error e => s.report { cause := e.1, cls := 5, hearth := h, core := c, slot := n, addr := e.2 }
/-- CONTINUATION_RESUME (R79): the record reaches its core, which resumes it in a free slot or when one frees, in the order of arrival
among its run-queue frames. -/
def execContinuationResume (i : Nat) (s : State) : Out :=
  match s.conts[i]? with
  | none => .next s
  | some w =>
    if (s.core w.core).quarantined || s.deaf w.core then .next s
    else
      let s := { s with conts := dropNth s.conts i }
      .next ((s.modCore w.core fun k => { k.roused with conts := k.conts ++ [(k.arr.toNat * 16 + w.hearth, w.record, w.stamp)] }).nextArr w.core)

/-! ## Queue heads (R72-R76) -/

/-- What the scheduler finds at a level of a hearth's queue. -/
inductive Head where
  /-- Empty, not yet full, gated, of another phase or stage, waiting for a pinned range, or not readable yet. -/
  | none
  /-- The task, its queue's head count and descriptor, and for a pull ring what the core has fetched. -/
  | task (id : Word) (head : Word) (desc : Word) (buf : Option Pulled)
  /-- The queue cannot be used: the cause and address of R74. -/
  | bad (cause : Nat) (addr : Word)
  deriving DecidableEq, Repr
/-- A channel entry is valid for a hearth and unblocked. -/
def openEntry (e : Word) (h : Nat) : Bool := e.bits 63 63 == 1 && e.bits 62 62 == 0 && e.bits 59 56 == h
/-- What a dispatch reads of a task's record (R68, R73, R74). -/
inductive Rec where
  /-- No record has the id. -/
  | none
  | arena
  /-- Its address, CTRL and footprint words. -/
  | at (tr ctrl : Word) (fp : List Word)
  | fault (cause : Nat) (addr : Word)
  deriving DecidableEq, Repr
/-- The record of a queue entry: from the arena, or as the core has fetched it. -/
def State.entryRecord (s : State) (h : Nat) (id : Word) (buf : Option Pulled) : Rec :=
  match buf with
  | some p =>
    match p.bad with
    | some e => .fault e.1 e.2
    | none => if p.words.getD 0 0 = id then .at (recordVA (s.hearth h) (taskNo id)) (p.words.getD 1 0) ((p.words.drop 3).take 8) else .none
  | none => match s.taskRecord h id with
    | .none => .none
    | .arena => .arena
    | .fault e a => .fault e a
    | .at tr => match s.hwReadWords h (tr + 8) 10 with
      | .error e => .fault e.1 e.2
      | .ok ws => .at tr (ws.getD 0 0) (ws.drop 2)
/-- The governor of a core's cluster gives a task of a hearth to another stage's cores (R81). -/
def State.otherStage (s : State) (c h : Nat) (id : Word) : Bool :=
  let g := (s.cluster (clusterOf c)).gov
  g.enabled && g.hearth == h && match Config.stageOf h id with
    | some i => get 0 g.assign (c % 8) != i
    | none => false
/-- The record of a queue head does not hold it back (R75, R78, R81, R89); one that waits for a pinned range leaves its level empty (log 138). -/
def State.ungated (s : State) (c h : Nat) (id : Word) (buf : Option Pulled) : Bool :=
  let q := s.hearth h
  let phaseOk := !q.det.on || (match q.det.current with
    | some p => taskPhase id == p.1
    | none => false)
  phaseOk && !s.otherStage c h id && match s.entryRecord h id buf with
    | .at _ ctrl fp =>
      let e := get 0 (s.core c).chans (ctrl.bits 15 10)
      (ctrl.bits 16 16 == 0 || (e.bits 63 63 == 1 && e.bits 62 62 == 0)) &&
        !(ctrl.bits 39 36 == 1 && (rangesOf fp).any fun r => r.pinned (s.core c))
    | .fault e _ => e != hwWait
    | _ => true
/-- Read the entry at a count of a ring: its TASKID if it is full. -/
def State.ringEntry? (s : State) (h : Nat) (base : Word) (slog : Nat) (i : Word) : Except (Nat × Word) (Option Word) :=
  match s.hwReadWords h (base + word (16 * (i.toNat % 2 ^ slog))) 2 with
  | .error e => .error e
  | .ok es => .ok (if es.getD 1 0 = i + 1 then some (es.getD 0 0) else none)
/-- Read the head of a level (R72-R74): a slog outside 4 to 16 cannot be used, whatever the rest of the descriptor holds (log 115). -/
def State.levelHead (s : State) (c h p : Nat) : Head :=
  let d := queueVA (s.hearth h) c p
  match s.hwReadWords h d 4 with
  | .error e => if e.1 = hwWait then .none else .bad e.1 e.2
  | .ok ws =>
    let slog := (ws.getD 1 0).bits 4 0
    let head := ws.getD 2 0
    let open_ (id : Word) (buf : Option Pulled) : Head := if s.ungated c h id buf then .task id head d buf else .none
    if slog < 4 ∨ 16 < slog then .bad 0x62 (d + 8)
    else if head = ws.getD 3 0 then .none
    else match (s.core c).pulled.find? fun e => e.hearth == h && e.level == p && e.head == head with
      | some e => open_ e.task (some e)
      | none => match s.ringEntry? h (ws.getD 0 0) slog head with
        | .error e => if e.1 = hwWait then .none else .bad e.1 e.2
        | .ok (some id) => open_ id none
        | .ok none => .none
/-- The entries of a pull ring from a count on that the tongs fetch, n at most, with their records (R73). -/
def State.pullFrom (s : State) (h p : Nat) (base : Word) (slog : Nat) (tail i : Word) : Nat → List Pulled
  | 0 => []
  | n + 1 =>
    if i = tail then []
    else match s.ringEntry? h base slog i with
      | .ok (some id) =>
        let tr := recordVA (s.hearth h) (taskNo id)
        match s.hwReadWords h tr 32 with
        | .ok ws => { hearth := h, level := p, head := i, task := id, words := ws } :: s.pullFrom h p base slog tail (i + 1) n
        | .error e =>
          if e.1 = hwWait then []
          else { hearth := h, level := p, head := i, task := id, words := [], bad := some e } :: s.pullFrom h p base slog tail (i + 1) n
      | _ => []
/-- The scheduler of a core acquires TAIL of a pull ring of a level and fetches up to 8 entries and their records, when it has none left
(R73; log 124). -/
def State.pull (s : State) (c h p : Nat) : State :=
  let q := s.hearth h
  let d := queueVA q c p
  match s.hwReadWords h d 4 with
  | .error _ => s
  | .ok ws =>
    let slog := (ws.getD 1 0).bits 4 0
    let head := ws.getD 2 0
    if (ws.getD 1 0).bits 8 8 = 0 ∨ slog < 4 ∨ 16 < slog ∨ q.trbase.bits 4 0 < 8 ∨ 24 < q.trbase.bits 4 0 ∨ head = ws.getD 3 0 ∨
        (s.core c).pulled.any (fun e => e.hearth == h && e.level == p && e.head == head) then s
    else
      let clk := s.clockAt h (d + 24)
      let es := s.pullFrom h p (ws.getD 0 0) slog (ws.getD 3 0) head 8
      s.modCore c fun k =>
        { k with pulled := k.pulled.filter (fun e => !(e.hearth == h && e.level == p)) ++ es, resume := k.resume.max clk, rcache := [] }
/-- The first message of a hearth that competes at a level: the earliest of a valid and unblocked channel (R78). A message whose channel entry
has come to name another hearth stays in the queue, and starts if the entry names its own again (log 152). -/
def State.levelMsg (s : State) (c h p : Nat) : Option Nat :=
  let k := s.core c
  k.msgs.findIdx? fun m =>
    let e := get 0 k.chans m.chan
    m.hearth == h && openEntry e h && e.bits 61 60 == p
/-- A queue that the scheduler cannot use: one record, and nothing more from the hearth (R74, R470). -/
def State.queueFault (s : State) (c h cause : Nat) (addr : Word) : State :=
  (s.report { cause := 0x62, cls := 5, hearth := h, core := c, addr := addr, detail := word cause }).stopDispatch c h
/-- The starvation count of a level (R76). -/
def Core.starved (k : Core) (h p : Nat) : Nat := get 0 k.starve (4 * h + p)
/-- ChooseLevel (R76), among candidate levels. -/
def Core.chooseLevel (k : Core) (h : Nat) (cand : List Nat) : Option (Nat × Core) :=
  let pick := match (cand.filter fun p => 64 ≤ k.starved h p).reverse with
    | p :: _ => some p
    | [] => cand.head?
  pick.map fun p =>
    (p, { k with starve := put (cand.foldl (fun m q => if p < q then put m (4 * h + q) (k.starved h q + 1) else m) k.starve) (4 * h + p) 0 })

/-! ## Starts -/

/-- The clock with which a thread starts from a record whose state changed at its home (R138). -/
def State.startClock (s : State) (c h : Nat) (tr : Word) : Clock :=
  let r := (s.core c).resume
  match s.hwPA h tr .atomic with
  | .ok pa => if paClass pa = 0 then r.max (s.appliedClock (homeOf pa)) else r
  | .error _ => r
/-- Start a thread from a record found in state st, in a slot, with its footprint (R74, R75). Its compare-and-swap, an acquire, has been
won; a parked thread takes back what was kept of it, and fetches no footprint again (log 125). -/
def State.startRecord (s : State) (c n h : Nat) (tr : Word) (st : Nat) (fp : List Word) (t : Slot) : State :=
  let rs := if st = 1 then rangesOf fp else []
  let s := (s.setSlot c n { t with rc := s.startClock c h tr, readyAt := (s.slot c n).readyAt }).modCore c fun k => { k with rcache := [] }
  let s := if st = 3 then s.takeKept c n h tr else s.unkeep h tr
  let s := s.modSlot c n fun t => { t with fetch := rs, wait := if rs.isEmpty then .none else .footprint }
  if rs.any (·.bad (s.core c).log) then s.taskAbort c n 0x63 else s
/-- The thread of a queue entry's record, as the arena or the core's buffer holds it. -/
def State.entryThread (s : State) (h : Nat) (tr : Word) (buf : Option Pulled) : Except (Nat × Word) Slot :=
  match buf with
  | some p => .ok (s.threadOf h tr p.words)
  | none => s.startTask h tr
/-- Dispatch the head task of a level (R74), and say whether a thread has started: an entry whose record does not exist, or whose state is
neither queued nor parked, is discarded, and so is one whose compare-and-swap on the arena's record fails; one whose record cannot be read
is reported too. -/
def State.dispatchTask (s : State) (c n h : Nat) (id head desc : Word) (buf : Option Pulled) : Bool × State :=
  let r := s.entryRecord h id buf
  let t := match r with
    | .at tr _ _ => s.entryThread h tr buf
    | _ => .error (0, 0)
  if (match t with
      | .error e => e.1 == hwWait
      | .ok _ => false) || (match r with
      | .at tr _ _ => s.recordWaits h tr
      | _ => false) then (false, s)
  else match s.hwWords h (desc + 16) [head + 1] with
    | .error (e, a) => (false, if e = hwWait then s else s.queueFault c h e a)
    | .ok s =>
      let s := s.modCore c fun k => { k with pulled := k.pulled.filter fun e => some e != buf }
      let lost (e : Nat) (a : Word) : State := s.report { cause := e, cls := 5, hearth := h, core := c, task := id, addr := a }
      match r with
      | .arena => (false, (s.report { cause := 0x62, cls := 5, hearth := h, core := c, task := id }).stopDispatch c h)
      | .none => (false, s)
      | .fault e a => (false, lost e a)
      | .at tr ctrl fp =>
        let st := ctrl.bits 39 36
        if st ≠ 1 ∧ st ≠ 3 then (false, s)
        else match t with
          | .error (e, a) => (false, lost e a)
          | .ok t => match s.casTask h tr st 2 with
            | .error e => (false, lost e.1 e.2)
            | .ok (false, s) => (false, s)
            | .ok (true, s) => (true, s.startRecord c n h tr st fp t)
/-- The thread that a message starts (R78); a record delivery starts at the interrupt vector, at S (R450). -/
def msgSlot (q : Hearth) (entry : Word) (m : Msg) : Slot :=
  { busy := true, pc := if m.irq then word (q.trapvec.bits 56 9 * 512 + 0x140) else va57 (entry.bits 55 0 * 2),
    st := { live := 0x000F, priv := if m.irq then 1 else 0, hearth := m.hearth },
    stk := (List.range 4).map fun i => (i, m.payload.getD i 0), taskid := noTask, key := noTask }
/-- Start the message at a place of the queue. -/
def State.startMsg (s : State) (c n i : Nat) : State :=
  match (s.core c).msgs[i]? with
  | none => s
  | some m =>
    let k := s.core c
    let s := s.setSlot c n { msgSlot (s.hearth m.hearth) (get 0 k.chans m.chan) m with rc := k.resume.max m.rc, readyAt := (k.slot n).readyAt }
    s.modCore c fun k => { k with msgs := dropNth k.msgs i, rcache := [] }

/-- The hearths in the round-robin order of a core (R74). -/
def Core.hearthOrder (k : Core) : List Nat := (List.range 16).map fun i => (k.lastHearth + 1 + i) % 16
/-- Dispatch from a hearth, if it has work for the core: the level by R76, and messages and the queue head of a level in turns (R78), a message
first where neither has been taken yet (log 152). A discarded entry is no dispatch. QTBASE of 0 binds no queue (log 126). A core that
dispatches nothing more from a hearth (R470) goes on starting its messages, the reports to its supervisor among them (log 153). -/
def State.dispatchHearth (s : State) (c n h : Nat) : Option State :=
  let q := s.hearth h
  if q.suspended then none
  else
    let idle := (s.core c).stopped.contains h || q.qtbase == 0
    let s := if idle then s else (List.range 4).foldl (fun s p => s.pull c h p) s
    let k := s.core c
    let heads := if idle then [] else (List.range 4).map fun p => (p, s.levelHead c h p)
    match heads.findSome? fun e => match e.2 with
        | .bad cause a => some (cause, a)
        | _ => none with
    | some (cause, a) => some (s.queueFault c h cause a)
    | none =>
      let task (p : Nat) : Option (Word × Word × Word × Option Pulled) := match get .none heads p with
        | .task id head d buf => some (id, head, d, buf)
        | _ => none
      let cand := (List.range 4).filter fun p => (task p).isSome || (s.levelMsg c h p).isSome
      match k.chooseLevel h cand with
      | none => none
      | some (p, k') =>
        let s := s.setCore c k'
        let turn (m : Bool) (s : State) : State :=
          s.modCore c fun k => { k with msgTurn := put k.msgTurn (4 * h + p) m, lastHearth := h }
        let fromQueue (e : Word × Word × Word × Option Pulled) : State :=
          match s.dispatchTask c n h e.1 e.2.1 e.2.2.1 e.2.2.2 with
          | (true, s) => turn false s
          | (false, s) => s
        match task p, s.levelMsg c h p with
        | some e, some i => some (if get false k.msgTurn (4 * h + p) then fromQueue e else turn true (s.startMsg c n i))
        | some e, none => some (fromQueue e)
        | none, some i => some (turn true (s.startMsg c n i))
        | none, none => none
/-- The run-queue frames of a core whose hearth is not suspended, by ARR: the hearth and its queue's head. -/
def State.runHeads (s : State) (c : Nat) : List (Nat × Nat × Word × Word × List Word) :=
  (List.range 16).filterMap fun h =>
    if (s.hearth h).suspended then none
    else (s.runHead c h).map fun r => ((r.2.2.getD 24 0).toNat, h, r.1, r.2.1, r.2.2)
/-- Resume the head frame of a hearth's run queue, an entry with its queue's address and HEAD (R47, R53, R54): a HEAD that cannot be
written leaves the frame, and a record is written. None while the frame must wait. -/
def State.resumeFrame (s : State) (c n h : Nat) (a head : Word) (ws : List Word) : Option State :=
  let entry := runEntry (s.hearth h) c a head
  let x := frameOf (ws.take 24)
  match s.handleClock { x with hearth := h }, s.hwWords h a [head + 1] with
  | none, _ => none
  | some _, .error (e, b) =>
    if e = hwWait then none
    else some (s.report { cause := e, cls := 5, hearth := h, core := c, task := x.billet.taskid, addr := b })
  | some clk, .ok s =>
    let s := (s.placeFrame c n { x with hearth := h } (s.keptAt h entry) clk).unkeep h entry
    some (s.modSlot c n fun t => { t with st := { t.st with priv := s.billetPriv h (entry + 32) t.st.priv } })
/-- Resume the oldest run-queue frame or continuation of a core in a slot (R53, R66, R74, R79). -/
def State.resumeOldest (s : State) (c n : Nat) : Option State :=
  let conts := (s.core c).conts.filter fun x => !(s.hearth (x.1 % 16)).suspended
  let frame (e : Nat × Nat × Word × Word × List Word) : Option State := s.resumeFrame c n e.2.1 e.2.2.1 e.2.2.2.1 e.2.2.2.2
  let cont (x : Nat × Word × Clock) : State :=
    (s.modCore c fun k => { k with conts := k.conts.erase x }).startCont c n (x.1 % 16) x.2.1 x.2.2
  match leastBy (·.1) (s.runHeads c), leastBy (·.1) conts with
  | some e, some x => if e.1 ≤ x.1 / 16 then frame e else some (cont x)
  | some e, none => frame e
  | none, some x => some (cont x)
  | none, none => none
/-- DISPATCH (R53, R74-R79): one entry of a queue is taken, or discarded, in a step. What the fabric carries has arrived (log 18). -/
def execDispatch (c : Nat) (s : State) : Out :=
  if !s.coreServes c then .next s
  else match (s.core c).freeSlot? with
    | none => .next s
    | some n =>
      let s := { s.settle with curCore := c }
      match s.resumeOldest c n with
      | some s => .next s
      | none => if (List.range 16).any (s.runHeld c) then .next s else .next (((s.core c).hearthOrder.findSome? (s.dispatchHearth c n)).getD s)
/-- FOOTPRINT_LANDED (R75, R470, R473): the ranges are those that the record held at the dispatch (R67). -/
def execFootprintLanded (c n : Nat) (s : State) : Out :=
  let t := s.slot c n
  let h := t.st.hearth
  if t.wait ≠ .footprint ∨ s.clockStopped c ∨ (t.fetch.any fun r => r.pinned (s.core c)) then .next s
  else match ({ s with curCore := c } : State).fetchRanges c h t.fetch with
    | .error e => .next (if e = hwWait then s else s.taskAbort c n 0x63)
    | .ok s => .next ((s.pinRanges c h t.taskid t.fetch).modSlot c n fun t => { t with fetch := [], wait := .none })

/-! ## Frames (R53-R55, R65, R465-R467) -/

/-- The core that serves in place of a quarantined one (R465). -/
def State.nextCore (s : State) (c : Nat) : Nat :=
  let ok (x : Nat) : Bool := coreExists x && !(s.core x).quarantined
  let own := ((List.range 8).map fun i => clusterOf c * 8 + (c + 1 + i) % 8).find? ok
  match own with
  | some x => x
  | none =>
    let die := dieOf c
    let others := (List.range 160).flatMap fun i => (List.range 8).map fun j => die * 2048 + (clusterNo c + 1 + i) % 160 * 8 + j
    (others.find? ok).getD c
/-- A resent frame has left its source core's departure buffer, or is back in it (R54). -/
def State.resentBack (s : State) (x : Flight) (left : Bool) : State :=
  if !x.resent then s
  else s.modCore x.src fun k =>
    { k with departing := if left then del k.departing x.frame.hearth
        else k.departing.map fun e => if e.1 = x.frame.hearth then (e.1, e.2.1, e.2.2.1, false) else e }
/-- An earlier posted write on a frame's path has not landed: the path keeps their order (R146, R416). -/
def State.framesBehind (s : State) (x : Flight) : Bool :=
  !x.resent && s.reqs.any fun r => r.posted && !r.hold && paClass r.pa == 1 && s.ownPackage r.pa && r.id < x.id && r.core == x.src &&
    paCore r.pa == x.frame.target
/-- FRAME_ARRIVAL (R53-R55, R465, R467): a free slot, the run queue, or a refusal; a frame of a hearth that was reset is discarded. A frame
comes once its release is published. Where a slot is free, a frame waits behind queued ones, and no fault of its own hearth's queue counts
(log 127). A frame of a suspended hearth is saved in its eviction form (R55, R94). A frame for a core that takes nothing yet waits at its source (R416, R533), and one for a core that prepares to gate takes effect as if it
did not (R418). -/
def execFrameArrival (i : Nat) (s : State) : Out :=
  match s.frames[i]? with
  | none => .next s
  | some x =>
    let c := x.frame.target
    let k := s.core c
    let rest := dropNth s.frames i
    if s.deaf c || s.framesBehind x then .next s
    else if k.quarantined then .next { s with frames := rest ++ [{ x with frame := { x.frame with target := s.nextCore c } }] }
    else if x.dead then .next (({ s with frames := rest } : State).resentBack x true)
    else match s.handleClock x.frame with
      | none => .next s
      | some clk =>
        let s := ({ s with frames := rest, curCore := c } : State).modCore c Core.roused
        let queued := !(s.runHeads c).isEmpty
        match (if queued || !s.coreTakes c || (s.hearth x.frame.hearth).suspended then none else (s.core c).freeSlot?) with
        | some n => .next ((s.placeFrame c n x.frame x.kept clk).resentBack x true)
        | none =>
          let saved := (s.hearth x.frame.hearth).suspended
          match s.runAppend c (if saved then evictedFrame x.frame else x.frame) x.kept with
          | .ok s => .next ((if saved then s.modCore c fun k => { k with resume := k.resume.max clk } else s).resentBack x true)
          | .full => .next { s with refused := s.refused ++ [x] }
          | .fault e a =>
            let s := if e = hwWait then s
              else s.report { cause := e, cls := 5, hearth := x.frame.hearth, core := c, task := x.frame.billet.taskid, addr := a }
            .next { s with refused := s.refused ++ [x] }
/-- FRAME_REFUSED (R54): the frame is in its source core's departure buffer. -/
def execFrameRefused (i : Nat) (s : State) : Out :=
  match s.refused[i]? with
  | none => .next s
  | some x =>
    let out : State := { s with refused := dropNth s.refused i }
    if s.clockStopped x.src then .next s
    else if x.dead then .next (out.resentBack x true)
    else if x.resent then .next (out.resentBack x false)
    else if (get? (s.core x.src).departing x.frame.hearth).isSome then .next s
    else .next (out.modCore x.src fun k => { k with departing := put k.departing x.frame.hearth (x.frame, x.kept, false) })
/-- DEPARTURE_RESEND (R54): the buffer stays occupied until the frame is accepted. -/
def execDepartureResend (c h : Nat) (s : State) : Out :=
  match if s.clockStopped c then none else get? (s.core c).departing h with
  | some (x, q, false) =>
    let s := s.modCore c fun k => { k with departing := put k.departing h (x, q, true) }
    .next { s with frames := s.frames ++ [{ frame := x, src := c, kept := q, resent := true }] }
  | _ => .next s
/-- A waiter that the core may evict (R65): its thread fits a frame, with nothing outstanding. -/
def evictable (t : Slot) : Bool :=
  t.busy && (match t.wait with
    | .obj _ => true
    | _ => false) && t.st.vclean && t.loads == 0 && t.stores == 0 && t.copies == 0 && t.tiles == 0 && t.deferred.isEmpty &&
    t.st.priv ≤ (Status.unpack t.trapstat).priv
/-- EVICT_WAITER (R54, R65, R71, R138): a release, and the frame joins the run queue with the PC of the wait; a full queue evicts nothing,
and one that cannot be written is reported. -/
def execEvictWaiter (c n : Nat) (s : State) : Out :=
  if !evictable (s.slot c n) || s.clockStopped c then .next s
  else match s.spillSlot c n with
    | (some _, s) => .next s
    | (none, s') =>
      let s' := s'.leave c n
      let t := s'.slot c n
      match (s'.casThread c t.st.hearth t.taskid 2 4).bind fun s' => match s'.runAppend c (s'.frameOfSlot c n 2 c 0) t.kept with
        | .fault e a => .error (e, a)
        | r => .ok r with
      | .ok (.ok s) =>
        let s := { s with homes := s.homes.map fun (e : Nat × Home) => (e.1, { e.2 with watches := e.2.watches.filter fun w => !(w.core == c && w.slot == n) }) }
        .next (s.freeSlot c n)
      | .ok _ => .next s
      | .error e => .next (if e.1 = hwWait then s else s.report { s.threadRecord c n e.1 5 with addr := e.2 })

/-! ## Messages (R78, R366, R450) -/

/-- The sender of a message hears from its target (R366): its count falls, or a refused message is a deferred fault. -/
def State.msgAck (s : State) (m : Msg) (ok : Bool) : State :=
  match m.src with
  | none => s
  | some (c, n) => s.modSlot c n fun t =>
    if ok then { t with stores := t.stores - 1 }
    else { t with deferred := t.deferred ++ [{ count := 1, cause := 0x12, addr := word (m.core + m.chan * 2 ^ 13),
                                               issued := m.issued }] }
/-- MESSAGE_ARRIVAL (R78, R366): the message joins the target's queue of 32 entries, or is dropped by the channel check. -/
def execMessageArrival (i : Nat) (s : State) : Out :=
  match s.messages[i]? with
  | none => .next s
  | some m =>
    let k := s.core m.core
    let e := get 0 k.chans m.chan
    if s.deaf m.core || m.src.any (fun p => s.clockStopped p.1) then .next s
    else if e.bits 63 63 = 0 ∨ e.bits 59 56 ≠ m.hearth then
      .next ((({ s with messages := dropNth s.messages i } : State).modCore m.core Core.roused).msgAck m false)
    else if 32 ≤ k.msgs.length then .next s
    else .next ((({ s with messages := dropNth s.messages i } : State).modCore m.core fun k => { k.roused with msgs := k.msgs ++ [m] }).msgAck m true)

/-! ## The stage governor (R80, R81) -/

/-- The occupancy of a stage ring with its thresholds: occupancy, hi and lo, in 64ths. -/
def State.occupancy (s : State) (h : Nat) (a : Word) : Option (Nat × Nat × Nat) :=
  match s.hwReadWords h a 4 with
  | .error _ => none
  | .ok ws =>
    let c := ws.getD 1 0
    some (64 * (ws.getD 3 0 - ws.getD 2 0).toNat / 2 ^ c.bits 4 0, c.bits 23 18, c.bits 17 12)
/-- Move cores from the stage of least to that of most occupancy (R81). -/
def Governor.move (g : Governor) (occ : List (Nat × Nat)) : Governor :=
  let g := { g with hiRun := [], loRun := [] }
  match leastBy (·.2) occ, leastBy (fun e => 2 ^ 64 - e.2) occ with
  | some (donor, _), some (taker, _) =>
    let serving := (List.range 8).filter fun j => get 0 g.assign j == donor
    if donor ≠ taker ∧ g.g + 1 ≤ serving.length then
      { g with assign := (serving.take g.g).foldl (fun m j => put m j taker) g.assign }
    else g
  | _, _ => g
/-- A run count after a check. -/
def runCount (m : List (Nat × Nat)) (i : Nat) (hit : Bool) : Nat := if hit then get 0 m i + 1 else 0
/-- GOVERNOR_CHECK (R81). A ring that cannot be read takes no part in the check. -/
def execGovernorCheck (cl : Nat) (s : State) : Out :=
  let g := (s.cluster cl).gov
  if !g.enabled then .next s
  else
    let s := { s with curCore := 8 * cl }
    let obs : List (Nat × Nat × Nat × Nat) := g.rings.filterMap fun e => (s.occupancy g.hearth e.2).map fun o => (e.1, o)
    let g := { g with hiRun := obs.map fun (e : Nat × Nat × Nat × Nat) => (e.1, runCount g.hiRun e.1 (e.2.2.1 ≤ e.2.1)),
                      loRun := obs.map fun (e : Nat × Nat × Nat × Nat) => (e.1, runCount g.loRun e.1 (e.2.1 ≤ e.2.2.2)) }
    let g := if (g.hiRun ++ g.loRun).any fun e => 4 ≤ e.2 then g.move (obs.map fun (e : Nat × Nat × Nat × Nat) => (e.1, e.2.1)) else g
    .next (s.modCluster cl fun q => { q with gov := g })

end Sys2Proof.Machine
end

