-- ==== Sys2Proof/Machine/Fabric.lean ====
section
/-! DEFINITION. The events of the memory system: stamps, beacons and pieces (R130-R136), requests at their units and their replies
(R51, R142-R148, R454, R457, R487), walks, slot fills, experience adds and stream fetches. -/

namespace Sys2Proof.Machine

/-! ## Releases, beacons and pieces (R130-R135) -/

/-- RELEASE_STAMP (R130, R131). -/
def execReleaseStamp (c : Nat) (s : State) : Out := .next (if s.clockStopped c then s else s.stampRelease c)
/-- The largest value that a beacon of a die may carry (R134): every piece stamped up to it has been delivered to its home. Host memory has
none. -/
def State.beaconValue (s : State) (e : Nat) : BitVec 32 :=
  match (s.pieces.filter fun p => p.die == e && p.home % 641 != 640 && !p.arrived).map (fun p => p.stamp.comp e) with
  | [] => (s.die e).vc.comp e
  | a :: r => r.foldl serialMin a - 1
/-- BEACON (R134). -/
def execBeacon (e : Nat) (s : State) : Out :=
  .next (if e < 4 then { s with beacons := put s.beacons e (s.beaconValue e) } else s)
/-- BEACON_RECEIPT (R134): the latest beacon of a die reaches a home. -/
def execBeaconReceipt (hm e : Nat) (s : State) : Out :=
  match get? s.beacons e with
  | none => .next s
  | some b => .next (if hm < 640 then s.modHome hm fun q => { q with kh := q.kh.setComp e (serialMax b (q.kh.comp e)) } else s)
/-- The piece with a number. -/
def State.piece? (s : State) (id : Nat) : Option Piece := s.pieces.find? (·.id == id)
/-- A home receives the pieces of a writer's die in the order of their stamps (R135). -/
def State.comesNext (s : State) (p : Piece) : Bool :=
  640 ≤ p.home || !s.pieces.any fun y => y.home == p.home && y.die == p.die && !y.arrived && y.id != p.id &&
    !serialGe (y.stamp.comp p.die) (p.stamp.comp p.die)
/-- PIECE_ARRIVAL (R135, R136). -/
def execPieceArrival (id : Nat) (s : State) : Out :=
  match s.piece? id with
  | none => .next s
  | some p =>
    if p.arrived || !s.comesNext p then .next s
    else
      let (n, s) := s.fresh
      .next { s with pieces := s.pieces.map fun y => if y.id == id then { y with arrived := true, arr := n } else y }
/-- PIECE_APPLY (R135, R136). A link that is down carries no write to host memory (R526). -/
def execPieceApply (id : Nat) (s : State) : Out :=
  match s.piece? id with
  | none => .next s
  | some p => .next (if s.applicable p && (p.home != 640 || s.hub.linkUp) then s.applyPiece p else s)
/-- PIECE_ACK (R132). -/
def execPieceAck (id : Nat) (s : State) : Out :=
  match s.piece? id with
  | none => .next s
  | some p => .next (if p.applied && !s.clockStopped p.core then s.ackPiece p else s)
/-- CLUSTER_UNIT_WRITEBACK (R142): of the word with a word address. -/
def execClusterUnitWriteback (cl w : Nat) (s : State) : Out := .next (if s.clusterStill cl then s else s.cuWriteback cl w)

/-! ## Requests at their units -/

/-- The request with a number. -/
def State.req? (s : State) (id : Nat) : Option Req := s.reqs.find? (·.id == id)
/-- A request has been served or dropped. -/
def State.dropReq (s : State) (id : Nat) : State := { s with reqs := s.reqs.filter fun (r : Req) => r.id != id }
/-- A unit answers a request: a value with its clock, or a cause. -/
def State.answer (s : State) (r : Req) (value : Nat) (clk : Clock) (cause : Nat) : State :=
  let s := s.dropReq r.id
  { s with replies := s.replies ++ [{ req := r, value := value, clk := clk, cause := cause }] }
/-- An earlier posted write of the core to the same core has not landed: one path keeps their order (R146), and a load of the thread
sees them (R121). A migration frame on that path that left earlier comes first too (R416). -/
def State.postedBefore (s : State) (r : Req) : Bool :=
  s.reqs.any (fun q => q.posted && paClass q.pa == 1 && q.id < r.id && q.core == r.core && paCore q.pa == paCore r.pa &&
    paPackage q.pa == paPackage r.pa) ||
  (s.ownPackage r.pa && s.frames.any fun x => !x.resent && x.id < r.id && x.src == r.core && x.frame.target == paCore r.pa)
/-! ### The queues of the DRAM banks (R493) -/

/-- The bank of a request among those of its home. -/
def Req.bank (r : Req) : Nat := 16 * lineLayer (r.pa / 64) + lineBank (r.pa / 64)
/-- No request is queued at a home or waits for a place. -/
def Home.idle (q : Home) : Bool := q.queue.isEmpty && q.waiting.isEmpty
/-- The requests in a bank's queue, oldest first. -/
def State.bankQueue (s : State) (hm b : Nat) : List Nat :=
  ((s.home hm).queue.filter fun e => e.1 == b && (s.req? e.2).isSome).map (·.2)
/-- A request joins its bank's queue of 64, or waits at its source. -/
def State.bankJoin (s : State) (r : Req) : State :=
  let hm := homeOf r.pa
  let q := s.home hm
  if (q.queue ++ q.waiting).any (·.2 == r.id) then s
  else if (s.bankQueue hm r.bank).length < 64 then s.modHome hm fun q => { q with queue := q.queue ++ [(r.bank, r.id)] }
  else s.modHome hm fun q => { q with waiting := q.waiting ++ [(r.bank, r.id)] }
/-- Whether it is a request's turn at its bank, which serves its queue in age order; one that comes behind others joins them. -/
def State.bankTurn (s : State) (r : Req) : Bool × State :=
  let hm := homeOf r.pa
  if (s.home hm).idle then (true, s)
  else match s.bankQueue hm r.bank with
    | [] => (true, s)
    | i :: _ => if i = r.id then (true, s) else (false, s.bankJoin r)
/-- The waiting request that a bank admits next: the oldest of the next source after the last admitted one, in rising order with wrap. -/
def State.nextWaiting (s : State) (hm b : Nat) : Option Req :=
  let q := s.home hm
  let rs := (q.waiting.filter (·.1 == b)).filterMap fun e => s.req? e.2
  let last := get 0 q.lastSrc b
  match leastBy (·.core) (rs.filter fun r => last < r.core) with
  | some r => some r
  | none => leastBy (·.core) rs
/-- A bank has served a request: its entry frees, and a waiting request is admitted. -/
def State.bankServed (s : State) (r : Req) : State :=
  let hm := homeOf r.pa
  if (s.home hm).idle then s
  else
    let gone (e : Nat × Nat) : Bool := e.2 == r.id || (s.req? e.2).isNone
    let s := s.modHome hm fun q => { q with queue := q.queue.filter (fun e => !gone e), waiting := q.waiting.filter fun e => !gone e }
    if 64 ≤ (s.bankQueue hm r.bank).length then s
    else match s.nextWaiting hm r.bank with
      | none => s
      | some x => s.modHome hm fun q =>
          { q with queue := q.queue ++ [(r.bank, x.id)], waiting := q.waiting.filter (·.2 != x.id), lastSrc := put q.lastSrc r.bank x.core }

/-! ### Requests at local store and homes -/

/-- The record that a DRAM error met by a request leaves (R491, R540): class 3 in a region, else 4. -/
def State.reqRecord (s : State) (r : Req) : Record :=
  { cause := 0, cls := if (s.slot r.core r.slot).st.idv then 3 else 4, hearth := r.hearth, slot := r.slot % 16, core := r.core, task := r.task,
    pc := r.pc, addr := r.va, owner := r.own }
/-- What a bank does with a request: serve it, keep it waiting, or refuse it by its owner (R98, R149, R533). -/
def State.bankState (s : State) (r : Req) (write : Bool) : Option Bool :=
  let k := s.core (paCore r.pa)
  if r.hold || s.postedBefore r then none
  else if !s.ownPackage r.pa then some (!s.farRefuses r.pa)
  else if (s.die (paDie r.pa)).powerLost || (k.bootTest && paCore r.pa != r.core) then none
  else if k.lsRefusedN (paOff r.pa) r.size r.hearth r.priv write then some false
  else if s.lsStalled (paCore r.pa) (paOff r.pa) r.size then none
  else some true
/-- Bytes of a bank as a request reads them. -/
def State.bankRead (s : State) (r : Req) : List Byte :=
  if !s.ownPackage r.pa then s.bytes r.pa r.size
  else if paCore r.pa = r.core then s.coreBytes r.core r.slot (paOff r.pa) r.size
  else s.readLS (paCore r.pa) (paOff r.pa) r.size
/-- Write bytes to a bank for a request; its stamp raises the bank clock (R266). -/
def State.bankWrite (s : State) (r : Req) (bs : List Byte) : State :=
  if !s.ownPackage r.pa then s.setBytes r.pa bs
  else if paCore r.pa = r.core then s.coreWrite r.core r.slot (paOff r.pa) bs
  else s.writeLS (paCore r.pa) (paOff r.pa) bs
/-- A request's stamp raises the clock of its bank (R266). -/
def State.bankStamp (s : State) (r : Req) : State :=
  match r.stamp with
  | some v => if s.ownPackage r.pa then s.raiseBank (paCore r.pa) (paOff r.pa) v else s
  | none => s
/-- The clock of a request's bank. -/
def State.bankClock (s : State) (r : Req) : Clock :=
  if s.ownPackage r.pa then get {} (s.core (paCore r.pa)).bankclk (bankOf (paOff r.pa)) else {}

/-- A WATCH at its home (R286): it is answered where the word differs, where the table is full, or where the word is poisoned. -/
def State.homeWatch (s : State) (r : Req) (v : Word) : State :=
  let hm := homeOf r.pa
  if !s.homeReady hm r.rc then s
  else
  let s := s.readLines (s.reqRecord r) r.pa 8
  if s.poisoned r.pa 8 then s.answer r 0 (s.appliedClock hm) 0x47
  else if s.memW r.pa ≠ v ∨ 256 ≤ (s.home hm).watches.length then s.answer r 0 (s.appliedClock hm) 0
  else if r.slot = 16 then s.dropReq r.id
  else (s.dropReq r.id).modHome hm fun q =>
    { q with watches := q.watches ++ [{ pa := r.pa, core := r.core, slot := r.slot, task := r.task }] }
/-- Another package has answered: what was free of it is so again at its next answer. -/
def State.farDone (s : State) (pa : Nat) : State := if s.ownPackage pa then s else { s with freeCtr := s.freeCtr + 1 }
/-- A load at its unit (R100, R133, R135, R156, R487, R526). -/
def State.unitLoad (s : State) (r : Req) : State :=
  let pa := r.pa
  if paClass pa = 1 then
    match s.bankState r false with
    | none => s
    | some false => ((s.answer r 0 {} 0x46).reached pa).farDone pa
    | some true => ((s.answer r (leNat (s.bankRead r)) (s.bankClock r) 0).reached pa).farDone pa
  else if paClass pa = 0 ∧ s.ownPackage pa then
    let hm := homeOf pa
    if !s.homeReady hm r.rc then s
    else
    let s := s.readLines (s.reqRecord r) pa r.size
    match s.poisonPast pa r.size r.fwd with
    | some i => s.answer r i (s.appliedClock hm) 0x47
    | none =>
      let bs := if r.det then (List.range r.size).map fun i => s.detByte r.hearth r.task (pa + i) else s.bytes pa r.size
      s.answer r (leNat (overlay r.fwd bs)) (s.appliedClock hm) 0
  else if paHost pa ∧ !s.hub.linkUp then s.answer r 0 {} 0x47
  else (s.answer r (leNat (overlay r.fwd (s.unitBytes pa r.size))) {} 0).farDone pa
/-- The request goes to a DRAM bank of the package (R493). -/
def State.atBank (s : State) (r : Req) : Bool := paClass r.pa == 0 && s.ownPackage r.pa
/-- A store of boot test waits for the thread's earlier ones to the same bytes (R533). -/
def State.bootBefore (s : State) (r : Req) : Bool :=
  s.reqs.any fun q => q.id < r.id && q.core == r.core && q.slot == r.slot && q.posted && q.pa < r.pa + r.size && r.pa < q.pa + q.size
/-- HOME_ACCESS (R133, R135, R136, R286, R493, R533): a load, a watch, or a store of boot test, in its turn at a DRAM bank, where it waits for
its clock. -/
def execHomeAccess (id : Nat) (s : State) : Out :=
  match s.req? id with
  | none => .next s
  | some r =>
    if r.hold then .next s
    else
      let at_ (go : State → State) : Out :=
        if !s.atBank r then .next (go s)
        else match s.bankTurn r with
          | (false, s) => .next s
          | (true, s) => if !s.homeReady (homeOf r.pa) r.rc then .next (s.bankJoin r) else .next ((go s).bankServed r)
      match r.op with
      | .load _ => if paClass r.pa = 1 then .next (s.unitLoad r) else at_ fun s => s.unitLoad r
      | .watch v _ => at_ fun s => s.homeWatch r v
      | .boot bs => if s.bootBefore r then .next s else at_ fun s => (s.unitWrite r.pa bs false).answer r 0 {} 0
      | _ => .next s

/-- An atomic at a bank (R51, R142, R266). -/
def State.bankAtomic (s : State) (r : Req) : State :=
  let m := leNat (s.bankRead r)
  let s := match atomicNew r.op r.size m with
    | some v => s.bankWrite r (leBytes r.size v)
    | none => s
  let s := s.bankStamp r
  ((s.answer r m (s.bankClock r) 0).reached r.pa).farDone r.pa
/-- REMOTE_STORE_ARRIVAL (R146, R266): a store or an atomic at the bank of its owner. -/
def execRemoteStoreArrival (id : Nat) (s : State) : Out :=
  match s.req? id with
  | none => .next s
  | some r =>
    if paClass r.pa ≠ 1 then .next s
    else
      let at_ (go : State → State) : Out := match s.bankState r true with
        | none => .next s
        | some false => .next (((s.answer r 0 {} 0x46).reached r.pa).farDone r.pa)
        | some true => .next (go s)
      match r.op with
      | .store bs => at_ fun s => (((s.bankWrite r bs).bankStamp r).answer r 0 {} 0).farDone r.pa
      | .amo .. | .amov .. | .cas .. | .cas16 .. => at_ fun s => s.bankAtomic r
      | _ => .next s
/-- A mailbox counter after a PUT (R283). -/
def Mailbox.raised (b : Mailbox) (stamp : Option Clock) : Mailbox :=
  { value := if b.value = 0xFFFFFFFF then b.value else b.value + 1, clk := b.clk.max (stamp.getD {}) }
/-- PUT_LANDING (R147, R282-R284): the bytes, and then the counter. -/
def execPutLanding (id : Nat) (s : State) : Out :=
  match s.req? id with
  | none => .next s
  | some r =>
    match r.op with
    | .put bs tag =>
      match s.bankState r true with
      | none => .next s
      | some false => .next (((s.answer r 0 {} 0x46).reached r.pa).farDone r.pa)
      | some true =>
        let c := paCore r.pa
        let i := mailIdx r.hearth tag
        let s := (s.bankWrite r bs).bankStamp r
        let s := s.modCore c fun k => { k with mail := put k.mail i ((get {} k.mail i).raised r.stamp) }
        .next ((s.answer r 0 {} 0).testMail c r.hearth tag)
    | _ => .next s

/-! ## Atomics at clus scope and wider (R142, R143) -/

/-- Every earlier piece of the issuer addressed to the place has been applied, and the home has applied the request's clock (R143). A cluster
unit that has written the words back reads them again only once that is applied. -/
def State.atomicReady (s : State) (r : Req) : Bool :=
  let hm := s.pieceHome (r.pa / 8)
  let d := dieOf r.core
  (640 ≤ hm || s.homeReady hm r.rc) &&
    !s.pieces.any fun p => p.core == r.core && p.home == hm && !p.applied &&
      (match r.stamp with
        | some v => serialGe (v.comp d) (p.stamp.comp d)
        | none => true) &&
    !(r.sc == 2 && s.pieces.any fun p => p.core == noCore d && !p.applied &&
      p.entries.any fun e => e.task == noTask && r.pa / 8 ≤ e.wadr && 8 * e.wadr < r.pa + r.size)
/-- Bring a word into a cluster unit (R142), for an atomic on n words from w0 on. A full unit first writes back its word of lowest address but
for those. -/
def State.cuFill (s : State) (cl h w0 n w : Nat) : State :=
  if (get? (s.cluster cl).cu w).isSome then s
  else
    let s := if (s.cluster cl).cu.length < 256 then s
      else match (s.cluster cl).cu.find? fun e => e.1 < w0 || w0 + n ≤ e.1 with
        | some e => s.cuWriteback cl e.1
        | none => s
    let v := s.memW (8 * w)
    s.modCluster cl fun q => { q with cu := put q.cu w (v, h) }
/-- The value of consecutive words of a cluster unit. -/
def State.cuRead (s : State) (cl w : Nat) : Nat → Nat
  | 0 => 0
  | n + 1 => (get (0, 0) (s.cluster cl).cu w).1.toNat + 2 ^ 64 * s.cuRead cl (w + 1) n
/-- An atomic at the cluster unit of its issuer. -/
def State.cuAtomic (s : State) (r : Req) : State :=
  let cl := clusterOf r.core
  let w := r.pa / 8
  let n := (r.size + 7) / 8
  let s := (List.range n).foldl (fun s i => s.cuFill cl r.hearth w n (w + i)) s
  let o := 8 * (r.pa % 8)
  let x := s.cuRead cl w n
  let m := natBits x o (8 * r.size)
  let s := match atomicNew r.op r.size m with
    | some v =>
      let y := x - m * 2 ^ o + v * 2 ^ o
      s.modCluster cl fun q => { q with cu := (List.range n).foldl (fun c i => put c (w + i) (word (y / 2 ^ (64 * i)), r.hearth)) q.cu }
    | none => s
  s.answer r m (if s.ownPackage r.pa then s.appliedClock (homeOf r.pa) else {}) 0
/-- An atomic at a home or at the hub port. An atomic at a home answers the word's watches (R286). -/
def State.homeAtomic (s : State) (r : Req) : State :=
  let m := s.memNat r.pa r.size
  let dram := paClass r.pa = 0 && s.ownPackage r.pa
  let s := match atomicNew r.op r.size m with
    | some v => s.writeAt r.pa (leBytes r.size v)
    | none => s
  let s := if dram then s.wakeHome r.pa r.size else s
  s.answer r m (if dram then s.appliedClock (homeOf r.pa) else {}) 0
/-- An atomic meets poison (R487, R488): a returning one is answered with it, for another the unit writes a record. -/
def State.poisonAtomic (s : State) (r : Req) : State :=
  if r.dst ≠ .none then s.answer r ((s.poisonOff r.pa r.size).getD 0) {} 0x47
  else (s.report { cause := 0x47, cls := 4, hearth := r.hearth, slot := r.slot % 16, core := r.core, task := r.task, pc := r.pc,
                   addr := word r.pa, owner := r.own }).answer r 0 {} 0
/-- An atomic. -/
def ReqOp.isAtomic : ReqOp → Bool
  | .amo .. | .amov .. | .cas .. | .cas16 .. => true
  | _ => false
/-- The request is an update of a deterministic phase (R159, R160, R281). -/
def State.detUpdate (s : State) (r : Req) : Bool := r.det && r.dst == Dest.none && (s.hearth r.hearth).det.on
/-- ATOMIC_EXECUTE (R142, R143). -/
def execAtomicExecute (id : Nat) (s : State) : Out :=
  match s.req? id with
  | none => .next s
  | some r =>
    if !r.op.isAtomic || r.hold || r.sc < 2 || s.detUpdate r || !s.atomicReady r || (r.sc == 2 && s.clusterStill (clusterOf r.core)) then
      .next s
    else if paHost r.pa ∧ !s.hub.linkUp then .next (s.poisonAtomic r)
    else
      let run (s : State) : State :=
        let s := if s.atBank r then s.readLines (s.reqRecord r) r.pa r.size else s
        if s.poisoned r.pa r.size then s.poisonAtomic r else if r.sc = 2 then s.cuAtomic r else s.homeAtomic r
      if r.sc = 2 || !s.atBank r then .next (run s)
      else match s.bankTurn r with
        | (false, s) => .next s
        | (true, s) => .next ((run s).bankServed r)
/-- An AMO of a deterministic task becomes an update of the phase. -/
def Req.detUpd (r : Req) : Option DetUpd :=
  match r.op with
  | .amo op v => some { pa := r.pa, size := r.size, op := op, value := v, task := r.task, seq := r.seq, hearth := r.hearth }
  | _ => none
/-- DET_UPDATE_ARRIVAL (R159, R160, R281, R405): integers go to the accumulators, FP updates to the holding buffer. An accumulator
stands as the list of its updates, which commute. -/
def execDetUpdateArrival (id : Nat) (s : State) : Out :=
  match s.req? id with
  | none => .next s
  | some r =>
    match r.detUpd with
    | none => .next s
    | some u =>
      if r.hold || !s.detUpdate r || r.sc < 2 || !s.atomicReady r then .next s
      else
        let s0 := s
        let s := s.checkMerge r.hearth r.task ((List.range r.size).map (r.pa + ·)) true
        let s' := if 8 ≤ u.op then s.holdUpdate r.hearth u
          else some (s.modHearth r.hearth fun q => { q with det := { q.det with accs := q.det.accs ++ [u] } })
        .next (match s' with
          | some s => s.answer r 0 (s.appliedClock (homeOf r.pa)) 0
          | none => s0)

/-! ## Replies (R51, R137, R153, R454, R457, R487) -/

/-- The reply to a request. -/
def State.reply? (s : State) (id : Nat) : Option Reply := s.replies.find? (·.req.id == id)
/-- A reply has been taken. -/
def State.dropReply (s : State) (id : Nat) : State := { s with replies := s.replies.filter fun (r : Reply) => r.req.id != id }
/-- Another request or reply of the instruction is in flight. -/
def State.repliesLeft (s : State) (r : Req) : Bool := s.reqs.any (·.group == r.group) || s.replies.any (·.req.group == r.group)
/-- A failing reply of an instruction waits for the others: a request, or a reply of success. -/
def State.groupWaits (s : State) (r : Req) : Bool :=
  s.reqs.any (·.group == r.group) || s.replies.any fun q => q.req.group == r.group && q.cause == 0
/-- The request acquires (R137). -/
def ReqOp.acquires : ReqOp → Bool
  | .load a | .amov _ _ a | .cas _ _ a | .cas16 _ _ _ _ a => a
  | _ => false
/-- Write the value of a reply; its ring entries are no longer pending. -/
def Slot.receive (t : Slot) (d : Dest) (v : Nat) : Slot :=
  match d with
  | .none => t
  | .w e sz => { t.setEntry e (extend sz v) with pendW := t.pendW.erase e }
  | .w2 a b => { (t.setEntry a (word (v % 2 ^ 64))).setEntry b (word (v / 2 ^ 64)) with pendW := (t.pendW.erase a).erase b }
  | .v reg l et fmt scale => { t with v := put t.v reg (putElem et fmt scale l v (get zeroVec t.v reg)) }
/-- A component of RC that lags its sequencer's counter by 2^30 is raised to the clock of a reply (R135). -/
def Clock.keepUp (rc clk : Clock) (vc : Nat → BitVec 32) : Clock :=
  (List.range 4).foldl (fun r e =>
    if 2 ^ 30 ≤ (vc e - r.comp e).toNat ∧ serialGe (vc e) (r.comp e) then r.setComp e (serialMax (r.comp e) (clk.comp e)) else r) rc
/-- An element or value of a load has come, or failed. When none of the instruction's is left, a destination that was pending for 64 cycles
counts so at its load slot (R192). -/
def State.loadPended (s : State) (r : Req) : State :=
  match r.xs with
  | none => s
  | some xs =>
    if r.issued + 64 ≤ (s.core r.core).cycle.toNat && !s.groupLeft r.core r.slot r.group then s.loadWaited r.core r.slot r.priv xs else s
/-- The last reply of a load has been written: the loads count falls (R153). -/
def State.loadDone (s : State) (r : Req) : State :=
  let s := if s.repliesLeft r then s else s.modSlot r.core r.slot fun t => { t with loads := t.loads - 1 }
  s.loadPended r
/-- A word enters the read cache, which holds 8,192 (R110, R139; log 111). -/
def State.fillRead (s : State) (c w : Nat) : State :=
  s.modCore c fun k =>
    let m := put k.rcache w (s.memW (w * 8))
    { k with rcache := m.drop (m.length - 8192) }
/-- A load or value-returning atomic returns its value (R51, R137). -/
def State.loadValue (s : State) (p : Reply) : State :=
  let r := p.req
  let s := s.dropReply r.id
  let s := (s.modSlot r.core r.slot fun t =>
    let t := t.receive r.dst p.value
    { t with rc := t.rc.keepUp p.clk fun e => (s.die e).vc.comp e }).settleV r.core r.slot
  let s := if r.op.acquires then s.acquireAt r.core r.slot p.clk else s
  let s := if r.fill && !r.op.acquires then s.fillRead r.core (r.pa / 8) else s
  s.loadDone r
/-- The marks that failing requests leave on their registers (R454, R487). -/
def failMarks (d : Deferred) (regs : List Nat) : List Mark :=
  regs.dedup.map fun e => { reg := e, poison := d.cause == 0x47, cause := d.cause, addr := d.addr, issued := d.issued }
/-- The address of the lowest byte that a failing reply names (R447). -/
def Reply.faultAddr (p : Reply) : Word := p.req.va + word p.value
/-- The deferred fault of the failing replies of one instruction: that of its lowest faulting byte (R447, R454). -/
def groupFault (p : Reply) (ps : List Reply) (count : Nat) : Deferred :=
  let q := (leastBy (fun (x : Reply) => x.faultAddr.toNat) (ps.filter (·.cause != 0))).getD p
  { count := count, cause := q.cause, addr := q.faultAddr, issued := p.req.issued }
/-- The failing replies of one instruction become one deferred fault of its thread, which stays counted (R153, R454, R487). -/
def State.failGroup (s : State) (p : Reply) (count : Nat) : State :=
  let g := p.req.group
  let ps := s.replies.filter (·.req.group == g)
  let s := { s with replies := s.replies.filter fun (q : Reply) => q.req.group != g }
  let d := groupFault p ps count
  State.loadPended (((s.modSlot p.req.core p.req.slot fun t =>
    { t with
      deferred := t.deferred ++ [d]
      pendW := t.pendW.filter fun e => !(ps.flatMap (·.req.dst.entries)).contains e
      markW := failMarks d (ps.flatMap (·.req.dst.entries)) ++ t.markW
      markV := failMarks d (ps.flatMap (·.req.dst.vregs)) ++ t.markV }).settleV p.req.core p.req.slot)) p.req
/-- A vector element whose reply carries poison (R457): its thread restarts its region, the element parks and the slot traps at its
next boundary, or the register is marked. -/
def State.elemPoison (s : State) (p : Reply) (reg l et : Nat) : State :=
  let r := p.req
  let t := s.slot r.core r.slot
  if t.st.idv then { s with curCore := r.core, curSlot := r.slot }.regionRestart p.faultAddr
  else
    let s := s.dropReply r.id
    let s := if t.replay.length < 32 then
        s.modSlot r.core r.slot fun t =>
          let e : Replay :=
            { cause := 0x47, kind := r.seq, vreg := reg, lane := l, va := p.faultAddr, elem := r.va, et := et, group := r.group,
              issued := r.issued, xs := r.xs }
          { t with replay := t.replay ++ [e],
                   replayPend := true, st := { t.st with vclean := false } }
      else (s.modSlot r.core r.slot fun t => { t with markV := ⟨reg, true, 0x47, p.faultAddr, r.issued⟩ :: t.markV }).settleV r.core r.slot
    s.loadDone r
/-- The answer of a WATCH (R286): it completes and acquires, or meets poison (R487). -/
def State.watchReply (s : State) (p : Reply) (npc : Word) : State :=
  let r := p.req
  let s := s.dropReply r.id
  match (s.slot r.core r.slot).wait with
  | .watch pa _ =>
    if pa ≠ r.pa then s
    else if p.cause = 0 then (s.acquireAt r.core r.slot p.clk).modSlot r.core r.slot fun t => { t with wait := .none, pc := npc }
    else
      let s := s.modSlot r.core r.slot fun t => { t with wait := .none }
      { s with curCore := r.core, curSlot := r.slot }.consumePoison r.va
  | _ => s
/-- LOAD_REPLY (R51, R137, R416, R454, R457, R487). -/
def execLoadReply (id : Nat) (s : State) : Out :=
  match s.reply? id with
  | none => .next s
  | some p =>
    let r := p.req
    match r.op with
    | .watch _ npc => .next (if s.clockStopped r.core then s else s.watchReply p npc)
    | _ =>
      if r.dst = .none ∨ s.clockStopped r.core then .next s
      else if r.slot = 16 then .next (s.dropReply id)
      else if p.cause = 0 then .next (s.loadValue p)
      else match r.dst with
        | .v reg l et .. => if p.cause = 0x47 then .next (s.elemPoison p reg l et)
            else .next (if s.groupWaits r then s else s.failGroup p 0)
        | _ => .next (s.failGroup p 0)
/-- STORE_ACK (R153, R416, R454). -/
def execStoreAck (id : Nat) (s : State) : Out :=
  match s.reply? id with
  | none => .next s
  | some p =>
    let r := p.req
    match r.op with
    | .watch .. => .next s
    | _ =>
      if r.dst ≠ .none ∨ s.clockStopped r.core then .next s
      else if r.slot = 16 then .next (s.dropReply id)
      else if p.cause = 0 then
        let s := s.dropReply id
        .next (if s.repliesLeft r then s else s.modSlot r.core r.slot fun t => { t with stores := t.stores - 1 })
      else .next (if s.groupWaits r then s else s.failGroup p 1)

/-! ## Walks, slots and streams -/

/-- WALK_COMPLETE (R118, R119, R478): a walk reads its tables once their homes have applied its clock. A leaf fills the die's TLB and
answers every queued miss of its hearth and asid inside its page; a fault ends the walk, and those that have joined it meet it. -/
def execWalkComplete (e id : Nat) (s : State) : Out :=
  match (s.die e).walks.find? (·.id == id) with
  | none => .next s
  | some w =>
    let s := if s.latent.isEmpty then s else (s.walkEntries w.aspace w.va).foldl
      (fun s pa => s.readLines { cause := 0, cls := 4, hearth := w.hearth, addr := w.va } pa 16) s
    let ended (s : State) (f : Die → Die) : State := s.modDie e fun q => f { q with walks := q.walks.filter (·.id != id) }
    match s.walk (some w.rc) w.hearth w.aspace w.va with
    | .wait => .next s
    | .fault n => .next (ended s fun q => { q with misses := q.misses.map fun m => if w.joined m then { m with cause := some n } else m })
    | .leaf l =>
      let t := tlbOf w.hearth (asidOf w.aspace) (w.va.toNat % 2 ^ 57) l
      .next (ended s fun q => { q with tlb := (t :: q.tlb.filter (· != t)).take 8192, misses := answerAll t q.misses })
/-- Adds of a core for an entry are on their way to its home. -/
def State.addsAway (s : State) (c : Nat) (e : XEntry) : Bool :=
  s.xadds.any fun d => d.core == c && d.hearth == e.hearth && d.idx == e.idx && d.task == e.task
/-- The base of an entry arrives (R195, R196): a refill replaces it, once the core's own adds have been made, but for the entry of a
deterministic task, whose base is the value at the phase's start (R201). A translation that faults drops the entry; a slot of a frozen section
takes no deltas (R193). -/
def State.fillEntry (s : State) (c h i : Nat) (e : XEntry) : Option XEntry :=
  if e.hearth ≠ h ∨ e.idx ≠ i ∨ (e.task.isSome ∧ e.base.isSome) ∨ s.addsAway c e then some e
  else match s.entryPlace c e with
    | none => none
    | some (pa, xa) =>
      if s.poisoned pa 8 then some e
      else
        let v := if e.task.isSome then get (s.memW pa) (s.hearth h).det.snap (pa / 8) else s.memW pa
        some (if xa = 2 then e.clean (some v) else { e with base := some v, chk := none })
/-- SLOT_FILL (R195): the bases of a core's entries of a slot. -/
def execSlotFill (c h i : Nat) (s : State) : Out :=
  .next (if s.clockStopped c then s else s.modCore c fun k => { k with xcache := k.xcache.filterMap (s.fillEntry c h i) })
/-- An add or a clear at a slot (R197, R334); a poisoned slot is left as it is, as R488 says of atomics. -/
def State.expApply (s : State) (d : XAdd) : State :=
  if s.poisoned d.pa 8 then s
  else (s.snapSlot d.hearth d.pa).writeAt d.pa
    (leBytes 8 (if d.clear then expClear (s.memW d.pa) d.frozen else expAdd (s.memW d.pa) d).toNat)
/-- EXPERIENCE_ADD (R18, R197, R198, R201): adds of a core to one slot arrive in the order in which it sent them, at a die that has power. One
without a task is made at once, in a phase as well (log 132). -/
def execExperienceAdd (id : Nat) (s : State) : Out :=
  match s.xadds.find? (fun (x : XAdd) => x.id == id) with
  | none => .next s
  | some d =>
    if (s.die (homeOf d.pa / 160)).powerLost || s.xadds.any (fun x => x.core == d.core && x.pa == d.pa && x.id < d.id) then .next s
    else
      let s0 := s
      let s := { s with xadds := s.xadds.filter fun (x : XAdd) => x.id != id }
      match d.task with
      | some t =>
        if (s.hearth d.hearth).det.on then
          .next ((s.holdUpdate d.hearth { pa := d.pa, size := 8, op := 0, value := 0, task := t, seq := 0, hearth := d.hearth, x := some d }).getD s0)
        else .next (s.expApply d)
      | none => .next (s.expApply d)
/-- The stream may fetch another vector (R327): the index of the next one that is neither fetched nor known to fault. -/
def Stream.fetchIdx (b : Stream) : Option Nat :=
  if b.write then none
  else ((List.range b.lead).map (b.next + ·)).find? fun i => i < b.count && (get? b.fetched i).isNone && !b.bad.contains i
/-- STREAM_FETCH (R192, R327): an element vector arrives; one that faults is left to the popping instruction. -/
def execStreamFetch (c n r : Nat) (s : State) : Out :=
  match get? (s.slot c n).streams r with
  | none => .next s
  | some b =>
    match if s.clockStopped c then none else b.fetchIdx with
    | none => .next s
    | some i =>
      let s := { s with curCore := c, curSlot := n }
      let t := s.cur
      let bad (s : State) : State := (s.streamUpdate b).modStream r fun b => { b with bad := i :: b.bad }
      if (elemAlign b.et (streamElems b i)).isSome then .next (bad s)
      else
      let (l, s') := s.resolveAll .read b.et (streamElems b i)
      match plan t l with
      | .wait => .next s'
      | .trap _ | .restart _ => .next (bad s')
      | .go ok parked =>
        let s' := s'.readElems ok
        match s'.loadNow b.et zeroVec ok with
        | none => .next s'
        | some (x, bad2) =>
          if !parked.isEmpty || !bad2.isEmpty then .next (bad s')
          else .next ((s'.streamUpdate b).modStream r fun b => { b with fetched := put b.fetched i x })

/-! ## Barriers and sleeps -/

/-- BARRIER_ARRIVAL (R59-R61): an arrival that the network carries for a thread of a hearth, with its record; one for another hearth's
object is discarded. -/
def execBarrierArrival (b : BarId) (h : Nat) (drop : Bool) (record : BitVec 20) (s : State) : Out :=
  .next (if (s.bar b).hearth = h then (s.arrive b drop record {}).2 else s)
/-- SLEEP_EXPIRY (R287). -/
def execSleepExpiry (c n : Nat) (s : State) : Out :=
  match (s.slot c n).wait with
  | .sleep till npc =>
    if till ≤ (s.core c).cycle.toNat && !s.clockStopped c then .next (s.modSlot c n fun t => { t with wait := .none, pc := npc }) else .next s
  | _ => .next s

end Sys2Proof.Machine
end

