-- ==== Sys2Proof/Machine/Phases.lean ====
section
/-! DEFINITION. Deterministic phases at the hub and the homes: the count of exits, the merge at commit and what an abort discards
(R89, R157-R160, R201, R407, R482-R484). -/

namespace Sys2Proof.Machine

/-- Change a hearth's deterministic state. -/
def State.modDet (s : State) (h : Nat) (f : Det → Det) : State := s.modHearth h fun q => { q with det := f q.det }

/-- A home has acknowledged everything that an ended task sent (R89): the pieces of its releases, its atomics and its experience adds. -/
def State.taskQuiet (s : State) (h : Nat) (task : Word) : Bool :=
  !(s.pieces.any (fun p => p.hearth == h && p.entries.any (·.task == task)) ||
    s.cores.any (fun k => k.2.log.closed.any fun g => g.hearth == h && g.entries.any (·.task == task)) ||
    s.reqs.any (fun r => r.hearth == h && r.task == task && r.op.isAtomic) ||
    s.replies.any (fun r => r.req.hearth == h && r.req.task == task && r.req.op.isAtomic && r.req.dst == Dest.none) ||
    s.xadds.any (fun x => x.hearth == h && x.task == some task))
/-- EXIT_COUNT (R89): of an ended task of a hearth, by its place among those that are not counted yet. -/
def execExitCount (h n : Nat) (s : State) : Out :=
  match (s.hearth h).det.exiting[n]? with
  | none => .next s
  | some (_, task) =>
    if !s.taskQuiet h task then .next s
    else .next (s.modDet h fun d => { d with exiting := dropNth d.exiting n, counted := task :: d.counted.filter (· != task) })

/-- The exits of a phase that the hub has counted. -/
def Det.countOf (d : Det) (p : Nat) : Nat := d.counted.countP fun t => taskPhase t == p
/-- All tasks of the current phase have been counted, and it has not failed (R89, R482). -/
def Det.complete (d : Det) : Bool :=
  match d.current with
  | some (p, n) => !d.failed && !d.aborting && n ≤ d.countOf p
  | none => false

/-- The updates that entries of a home's overflow log hold, from the i-th on, as memory has them (R406, R407). An entry that cannot be read,
or that names no location of the home or no operation, gives none; an experience add, whose layout no rule gives, is as the crucible took it
(log 15). None while an entry must wait (log 118). -/
def State.logUpdates (s : State) (h hm i : Nat) : List DetUpd → Option (List DetUpd)
  | [] => some []
  | u :: r => (s.logUpdates h hm (i + 1) r).bind fun l =>
    if u.x.isSome then some (u :: l)
    else match s.hwReadWords h ((s.hearth h).overflowVA hm + word (0x40 + 32 * i)) 4 with
      | .error e => if e.1 = hwWait then none else some l
      | .ok ws => match DetUpd.ofEntry h ws with
        | some u => some (if paClass u.pa = 0 ∧ s.ownPackage u.pa ∧ homeOf u.pa = hm then u :: l else l)
        | none => some l
/-- The deferred updates of a hearth at a home. -/
def State.homeUpdates (s : State) (h hm : Nat) : Option (List DetUpd) :=
  let q := s.home hm
  (s.asHub.logUpdates h hm 0 (q.overflow.filter fun u => u.hearth == h)).map fun l =>
    (s.hearth h).det.accs.filter (fun u => homeOf u.pa == hm) ++ q.holding.filter (fun u => u.hearth == h) ++ l
/-- The least task among updates. -/
def leastTask : List DetUpd → Word
  | [] => noTask
  | u :: r => if r.isEmpty then u.task else if taskNo (leastTask r) < taskNo u.task then leastTask r else u.task
/-- Experience adds at commit: ascending task id, and each task's in the order in which it sent them (R201). -/
def State.applyAdds (s : State) (us : List DetUpd) : State :=
  let key (u : DetUpd) : Nat := match u.x with
    | some d => d.id
    | none => 0
  (us.mergeSort fun a b => taskNo a.task < taskNo b.task || (taskNo a.task == taskNo b.task && key a ≤ key b)).foldl
    (fun s u => match u.x with
      | some d => s.expApply d
      | none => s) s
/-- The deferred updates of one word (R157-R160, R407): a poisoned word stays as it is, and its home writes one record. -/
def State.mergeWord (s : State) (h w : Nat) (us : List DetUpd) : State :=
  let s := s.readLines { cause := 0, cls := 4, hearth := h, task := leastTask us, addr := word (8 * w) } (8 * w) 8
  if s.poisoned (8 * w) 8 then
    s.report { cause := 0x47, cls := 4, hearth := h, task := leastTask us, addr := word (8 * w) }
  else
    let s := s.applyInts (us.filter fun u => u.x.isNone && u.op < 8)
    let s := s.applyFloats (us.filter fun u => u.x.isNone && 8 ≤ u.op)
    s.applyAdds (us.filter fun u => u.x.isSome)
/-- The deferred entries of a hearth at a home in the order of commit (R157): by task, and each task's in log order. -/
def Det.entriesAt (d : Det) (hm : Nat) : List LogEntry :=
  ((d.pieces.filter fun p => p.home == hm).flatMap (·.entries)).mergeSort fun a b => taskNo a.task ≤ taskNo b.task
/-- Drop what a home holds of a hearth's phase. -/
def State.dropDeferred (s : State) (h : Nat) (p : Nat → Bool) : State :=
  let s := s.modDet h fun d =>
    { d with pieces := d.pieces.filter fun (x : Piece) => !p x.home, accs := d.accs.filter fun (u : DetUpd) => !p (homeOf u.pa) }
  { s with homes := s.homes.map fun (e : Nat × Home) =>
      if (p e.1 : Bool) = true then
        (e.1, { e.2 with holding := e.2.holding.filter (fun (u : DetUpd) => u.hearth != h),
                         overflow := e.2.overflow.filter (fun (u : DetUpd) => u.hearth != h) })
      else e }
/-- HOME_COMMIT_MERGE (R18, R157, R159, R160, R201, R407): a home that has power applies the plain stores first, then the updates word by word,
those of its overflow log as memory has them then. -/
def execHomeCommitMerge (hm h : Nat) (s : State) : Out :=
  let d := (s.hearth h).det
  let s' := (d.entriesAt hm).foldl (fun s e => s.applyEntry h false e) s
  match if d.committing && !(s.die (hm / 160)).powerLost then s'.homeUpdates h hm else none with
  | none => .next s
  | some us =>
    let s := s'
    let s := (us.map updLoc).dedup.foldl (fun s w => s.mergeWord h w (us.filter fun u => updLoc u == w)) s
    .next ((s.dropDeferred h (· == hm)).modDet h fun d => { d with merged := hm :: d.merged.filter (· != hm) })
/-- Something of a hearth is deferred at some home. -/
def State.deferredLeft (s : State) (h : Nat) : Bool :=
  let d := (s.hearth h).det
  !d.pieces.isEmpty || !d.accs.isEmpty || s.homes.any fun e => (e.2.holding ++ e.2.overflow).any fun u => u.hearth == h
/-- The current phase ends: the phase's tasks and counts go. -/
def Det.ended (d : Det) : Det :=
  match d.current with
  | some (p, _) =>
    { d with current := none, counted := d.counted.filter fun t => taskPhase t != p, created := d.created.filter fun t => taskPhase t != p,
             failed := false, aborting := false, awaited := [], committing := false, merged := [], reported := [], snap := [], seqs := [], fills := [],
             exiting := d.exiting.filter fun e => e.1 != p }
  | none => d
/-- The current phase of a hearth ends; the slot caches keep no base of its start (R201). -/
def State.endPhase (s : State) (h : Nat) : State :=
  match (s.hearth h).det.current with
  | some (p, _) => (s.dropPhaseEntries h p).modDet h Det.ended
  | none => s
/-- The result futures of a phase's tasks, in ascending task id (R302; log 133). -/
def State.applyFills (s : State) (l : List Fill) : State :=
  (l.mergeSort fun a b => taskNo a.task ≤ taskNo b.task).foldl (fun s x => s.tryFuture x.core x.pa x.state x.value) s
/-- PHASE_COMMIT (R89, R157, R436): once every task is counted the hub lets the homes merge; when none holds anything more, the futures of
its tasks are filled, the phase is committed and HPHASE takes it. -/
def execPhaseCommit (h : Nat) (s : State) : Out :=
  let d := (s.hearth h).det
  match d.current with
  | none => .next s
  | some (p, _) =>
    if !d.committing then .next (if d.complete then s.modDet h fun d => { d with committing := true } else s)
    else if s.deferredLeft h then .next s
    else .next (((s.applyFills d.fills).endPhase h).modHearth h fun q => { q with phase := BitVec.ofNat 16 p })

/-- The tasks of a phase that were created and have not ended (R484). -/
def Det.unended (d : Det) (p : Nat) : List Word :=
  d.created.filter fun t => taskPhase t == p && !d.counted.contains t && !d.exiting.any fun e => e.2 == t
/-- The tasks that an abort still waits for (R484): of those created before it began, the ones that have not ended, or of which something is
under way. -/
def State.abortLeft (s : State) (h p : Nat) (running : Bool) : List Word :=
  let d := (s.hearth h).det
  (if running then d.awaited else d.created.filter fun t => taskPhase t == p).filter fun t =>
    !d.counted.contains t && !(d.exiting.any (fun e => e.2 == t) && s.taskQuiet h t)
/-- Every home discards a phase (R484). -/
def State.discardPhase (s : State) (h : Nat) : State := (s.dropDeferred h fun _ => true).endPhase h

end Sys2Proof.Machine
end

