-- ==== Sys2Proof/Machine/Commands.lean ====
section
/-! DEFINITION. The command queues, the journal and the commands of the host but for page tables and binaries (R94, R430-R439, R484,
R542). -/

namespace Sys2Proof.Machine

/-! ## Commands and the journal (R433, R438) -/

/-- Word n of a command. -/
def Command.w (c : Command) (n : Nat) : Word := c.words.getD n 0
/-- The code. -/
def Command.op (c : Command) : Nat := (c.w 0).bits 63 56
/-- The flags. -/
def Command.flags (c : Command) : Nat := (c.w 0).bits 55 48
/-- The aux field. -/
def Command.aux (c : Command) : Nat := (c.w 0).bits 47 32
/-- Bytes 0-15 of the digest of the command, as a number in byte order (R438). -/
def Command.digest (c : Command) : BitVec 128 := (Config.sha256 (c.words.flatMap fun w => leBytes 8 w.toNat)).setWidth 128
/-- Words m to n of a command are zero. -/
def Command.zero (c : Command) (m n : Nat) : Bool := (List.range (n + 1 - m)).all fun i => c.w (m + i) == 0
/-- The code is unknown, or a reserved byte is not zero (R434). -/
def Command.bad (c : Command) : Bool :=
  match c.op with
  | 1 => (c.w 3).bits 46 24 != 0
  | 2 => (c.w 1).bits 47 24 != 0 || !c.zero 2 7
  | 3 => (c.w 5).bits 63 16 != 0 || !c.zero 6 7
  | 4 => !c.zero 3 7
  | 5 => (c.w 5).bits 50 16 != 0 || !c.zero 6 7
  | 6 => (c.w 1).bits 63 16 != 0 || !c.zero 6 7
  | 7 | 8 | 9 => !c.zero 1 7
  | _ => true
/-- Write a command's journal entry in a state with a result (R438). -/
def State.journalCmd (s : State) (h : Nat) (c : Command) (state result : Nat) : State :=
  s.setJournal h (word c.seq) (journalEntry (word c.seq) c.digest c.queue state result (BitVec.ofNat 32 ((c.w 0).bits 31 0)))
/-- A command leaves the hearth's list. -/
def State.dropCmd (s : State) (h : Nat) (c : Command) : State :=
  s.modHearth h fun q => { q with commands := q.commands.filter fun (x : Command) => x.seq != c.seq }
/-- Refuse the commands at the head of the list that no event performs. -/
def State.refuseBad (s : State) (h : Nat) : Nat → State
  | 0 => s
  | n + 1 => match (s.hearth h).commands with
    | c :: _ => if !c.running && c.bad then ((s.journalCmd h c 4 1).dropCmd h c).refuseBad h n else s
    | [] => s
/-- A command ends: 3 done, 4 refused, 5 failed. -/
def State.endCmd (s : State) (h : Nat) (c : Command) (state result : Nat) : State :=
  let s := (s.journalCmd h c state result).dropCmd h c
  s.refuseBad h (s.hearth h).commands.length
/-- A command ends with a result that no rule states (log 4). -/
def State.endFree (s : State) (h : Nat) (c : Command) (state : Nat) : State :=
  let (v, s) := s.free
  s.endCmd h c state (v.toNat % 2 ^ 16)
/-- A command goes on running (R432). -/
def State.runCmdOn (s : State) (h : Nat) (c : Command) : State :=
  (s.journalCmd h c 2 0).modHearth h fun q =>
    { q with commands := q.commands.map fun (x : Command) => if x.seq == c.seq then { x with running := true } else x }
/-- The hearth's next command, where it has a code (R432). -/
def State.cmd? (s : State) (h op : Nat) : Option Command :=
  match (s.hearth h).commands with
  | c :: _ => if c.op = op ∧ !c.bad then some c else none
  | [] => none

/-- The hearth's next command, where it has a code, begins: the journal holds it as running (R432, R438). The same event acts for it, once it
runs (log 91). -/
def State.onCmd (s : State) (h op : Nat) (mine : Command → Bool) (go : Command → State → State) : Out :=
  match s.cmd? h op with
  | none => .next s
  | some c => .next (if !mine c then s else if c.running then go c s else s.runCmdOn h c)

/-! ## Queues (R430, R431, R439) -/

/-- A host write of a QTAIL (R431): a tail too far ahead, or behind the last one, sets err. -/
def State.doorbell (s : State) (h q : Nat) (tail : BitVec 32) : State :=
  let x := s.hearth h
  let head := get 0 x.qhead q
  if 16 ≤ h ∨ 4 ≤ q then s
  else if 256 < (tail - head).toNat ∨ (tail - head).toNat < (get 0 x.qtail q - head).toNat then
    s.modHearth h fun x => { x with qbase := put x.qbase q (get 0 x.qbase q ||| 4) }
  else s.modHearth h fun x => { x with qtail := put x.qtail q tail }
/-- QTAIL_DOORBELL (R431). -/
def execQtailDoorbell (h q : Nat) (tail : BitVec 32) (s : State) : Out := .next (if s.hub.linkUp then s.doorbell h q tail else s)
/-- The PA of a byte of host memory (R428). -/
def State.hostPA (s : State) (a : Nat) : Nat := s.hub.package * 2 ^ 50 + 2 * 2 ^ 46 + a % 2 ^ 45
/-- COMMAND_ACCEPT (R431, R438, R439): the hub reads the next command of an enabled queue. -/
def execCommandAccept (h q : Nat) (s : State) : Out :=
  let x := s.hearth h
  let b := get 0 x.qbase q
  let head := get 0 x.qhead q
  if 16 ≤ h ∨ 4 ≤ q ∨ b.bits 0 0 = 0 ∨ get 0 x.qtail q = head then .next s
  else
    let a := b.bits 63 14 * 2 ^ 14 + 64 * (head.toNat % 256)
    let pa := if b.bits 1 1 = 1 then a % 2 ^ 56 else s.hostPA a
    let seq := x.jseq + 1
    let c : Command := { seq := seq.toNat, queue := q, words := (List.range 8).map fun i => s.memW (pa + 8 * i) }
    let s := { s with hub := { s.hub with locked := true } }
    let s := s.modHearth h fun x =>
      { x with jseq := seq, qhead := put x.qhead q (head + 1), commands := x.commands ++ [c], wasReset := false }
    let s := s.journalCmd h c 1 0
    .next (s.refuseBad h (s.hearth h).commands.length)
/-- A host write of ACCEPT (R439): the first one sets the accepted features and locks them. -/
def State.setAccept (s : State) (v : BitVec 128) : State :=
  if s.hub.locked then s else { s with hub := { s.hub with accept := v &&& s.hub.features, locked := true } }
/-- ACCEPT_WRITE (R439). -/
def execAcceptWrite (v : BitVec 128) (s : State) : Out := .next (s.setAccept v)

/-! ## LAUNCH (R435, R436) -/

/-- The core that task i of a LAUNCH names. -/
def Command.launchCore (c : Command) (i : Nat) : Nat := (c.w 3).bits 63 51 + i * (c.w 3).bits 50 47
/-- The TASKID of task i: the phase stays (R435). -/
def Command.launchId (c : Command) (i : Nat) : Word := (c.w 2).extractLsb' 48 16 ++ ((c.w 2).setWidth 48 + BitVec.ofNat 48 i)
/-- The record of task i: the template with its own words (R435). -/
def launchRecord (c : Command) (tmpl : List Word) (fut : Word) (i : Nat) : List Word :=
  let bit (k : Nat) : Bool := c.flags.testBit k
  let val (k : Nat) : Word := c.w (4 + k) + (if k = natBits c.flags 4 2 then word (c.aux * i) else 0)
  let live := (List.range 4).foldl (fun (m : Word) k => if bit k then m ||| (1#64 <<< k) else m) (tmpl.getD 13 0)
  let ws := (List.range 4).foldl (fun (l : List Word) k => if bit k then setNth l (14 + k) (val k) else l) tmpl
  let ws := setNth (setNth (setNth ws 0 (c.launchId i)) 30 (c.launchId i)) 13 live
  if bit 6 then setNth ws 2 fut else ws
/-- The record of a task is free; none where that cannot be read. -/
def State.recordFree (s : State) (h : Nat) (tr : Word) : Except (Nat × Word) Bool :=
  (s.hwReadWords h (tr + 8) 1).map fun ws => (ws.getD 0 0).bits 39 36 == 0
/-- Create task i (R362, R435): false where its queue is full or a pull ring, where one of its places cannot be used, and at a second
creation of its id in the phase (R88, R470); none where an access must wait (log 118). -/
def State.launchOne (s : State) (h : Nat) (c : Command) (tmpl : List Word) (i : Nat) : Option (Bool × State) :=
  let q := s.hearth h
  let id := c.launchId i
  let tr := recordVA q (taskNo id)
  let fut := va57 (q.hres.bits 56 12 * 4096 + 16 * (taskNo id % 2 ^ q.trbase.bits 4 0))
  let desc := queueVA q (c.launchCore i) ((tmpl.getD 1 0).bits 1 0)
  let stop (e : Nat × Word) (s : State) : Option (Bool × State) := if e.1 = hwWait then none else some (false, s)
  if q.det.on && q.det.created.contains id then some (false, s.dupTask h id)
  else match s.recordFree h tr, s.hwReadWords h desc 2 with
    | .error e, _ | _, .error e => stop e s
    | .ok free, .ok ws =>
      if !free || (ws.getD 1 0).bits 8 8 = 1 then some (false, s)
      else match s.hwWords h tr (launchRecord c tmpl fut i) with
        | .error e => stop e s
        | .ok s =>
          match (if c.flags.testBit 6 then s.hwWords h fut [futWord 0 (taskNo id)] else .ok s) with
          | .error e => stop e s
          | .ok s => match s.queuePush h desc id with
            | .ok s => match s.casTask h tr 0 1 with
              | .ok (won, s) => some (won, if won then s.created h [id] else s)
              | .error e => stop e s
            | .full => some (false, s)
            | .fault e b => stop (e, b) s
/-- Create tasks until one cannot be created: its number, if there is one. -/
def State.launchAll (s : State) (h : Nat) (c : Command) (tmpl : List Word) : List Nat → Option (Option Nat × State)
  | [] => some (none, s)
  | i :: r => match s.launchOne h c tmpl i with
    | none => none
    | some (true, s) => s.launchAll h c tmpl r
    | some (false, s) => some (some i, s)
/-- LAUNCH (R435) of a running command. -/
def State.launch (s0 : State) (h : Nat) (c : Command) : State :=
  let s := s0.asHub
  let q := s.hearth h
  let is := List.range ((c.w 3).bits 23 0)
  let free := is.map fun i => s.recordFree h (recordVA q (taskNo (c.launchId i)))
  let waits := free.any fun x => match x with
    | .error e => e.1 == hwWait
    | .ok _ => false
  if c.flags.testBit 6 ∧ q.hres.bits 56 12 = 0 then s.endCmd h c 4 3
  else if q.trbase.bits 4 0 < 8 ∨ 24 < q.trbase.bits 4 0 then (s.report { cause := 0x62, cls := 5, hearth := h }).endFree h c 4
  else if is.any fun i => !coreExists (c.launchCore i) then s.endFree h c 4
  else if waits then s0
  else if free.any fun x => x.toOption != some true then s.endFree h c 4
  else match s.hwReadWords h (c.w 1) 32 with
    | .error e => if e.1 = hwWait then s0 else s.endFree h c 5
    | .ok tmpl => match s.launchAll h c tmpl is with
      | none => s0
      | some (some i, s) => s.endCmd h c 5 i
      | some (none, s) => s.endCmd h c 3 0
/-- LAUNCH (R435). -/
def execLaunch (h : Nat) (s : State) : Out := s.onCmd h 1 (fun _ => true) fun c s => s.launch h c

/-! ## PHASE (R484, R542) -/

/-- Declare the phase of a command (R542); one that has failed already is declared failed (R482). -/
def State.declare (s : State) (h : Nat) (c : Command) : State :=
  let q := s.hearth h
  let n := (c.w 1).bits 23 0
  if q.det.current.isSome ∨ n = 0 ∨ 2 ^ q.trbase.bits 4 0 < n then s.endCmd h c 4 2
  else
    let p := (c.w 1).bits 63 48
    (s.modDet h fun d => { d with on := true, current := some (p, n), failed := d.doomed.contains p,
                                  reported := if d.doomed.contains p then [640] else [], doomed := d.doomed.filter (· != p) }).endCmd h c 3 0
/-- PHASE_DECLARE: PHASE with flags 0b00 (R542). -/
def execPhaseDeclare (h : Nat) (s : State) : Out :=
  s.onCmd h 2 (fun c => c.flags % 4 == 0) fun c s => if !(s.hearth h).det.on then s.endCmd h c 4 3 else s.declare h c
/-- PHASE_ENTER_DETERMINISTIC: PHASE with flags 0b01 (R439, R542). -/
def execPhaseEnterDeterministic (h : Nat) (s : State) : Out :=
  s.onCmd h 2 (fun c => c.flags % 4 == 1) fun c s => if !s.hub.accept.getLsbD 0 then s.endFree h c 4 else s.declare h c
/-- PHASE_ABORT: PHASE with flags[1] = 1 (R484, R542). It runs until the phase's tasks that were created before it have ended and what they
sent has arrived. -/
def execPhaseAbort (h : Nat) (s : State) : Out :=
  s.onCmd h 2 (fun c => 2 ≤ c.flags % 4) fun c s =>
    let d := (s.hearth h).det
    let p := (c.w 1).bits 63 48
    if d.committing then s
    else if !d.on then s.endCmd h c 4 3
    else if d.current.map (·.1) ≠ some p then s.endCmd h c 4 2
    else
      let left := s.abortLeft h p d.aborting
      if left.isEmpty then (s.discardPhase h).endCmd h c 3 0
      else s.modDet h fun d => { d with failed := true, aborting := true, awaited := left }

/-! ## SIGNAL, SUSPEND and RESUME (R94, R434) -/

/-- SIGNAL (R434): a message as SEND sends it; it waits for its permit. A core that does not exist makes it fail. -/
def execSignal (h : Nat) (s : State) : Out :=
  s.onCmd h 6 (fun _ => true) fun c s =>
    let k := (c.w 1).bits 12 0
    let m : Msg := { core := k, hearth := h, chan := c.aux % 64, payload := (List.range 4).map fun i => c.w (2 + i), rc := {}, src := none }
    if !coreExists k then s.endFree h c 5
    else if 32 ≤ s.msgTaken k then s
    else { s with messages := s.messages ++ [m] }.endCmd h c 3 0
/-- The slots that hold threads of a hearth. -/
def State.threadsOf (s : State) (h : Nat) : List (Nat × Nat) :=
  s.cores.flatMap fun e => (e.2.slots.filter fun t => t.2.busy && t.2.st.hearth == h).map fun t => (e.1, t.1)
/-- A copy of the hearth is moving bytes. -/
def State.copying (s : State) (h : Nat) : Bool :=
  s.cores.any fun e => e.2.tongs.any fun x => x.2.busy && x.2.hearth == h && !s.quiesced e.1 x.2
/-- The frames of a hearth's run queue on a core take their eviction form (R45, R94), m of them from a count on: the clock that a frame's HANDLE
stands for joins the resume clock of its core (R53, R138). False where a release is not published yet, or a word cannot be reached. -/
def State.evictRun (s : State) (c h : Nat) (count : Word) : Nat → Bool × State
  | 0 => (true, s)
  | m + 1 => match runArea (s.hearth h) c with
    | none => (true, s)
    | some (a, _) =>
      let entry := runEntry (s.hearth h) c a count
      match s.hwReadWords h entry 24 with
      | .error _ => (false, s)
      | .ok ws =>
        let x := { frameOf ws with hearth := h }
        if x.kind ≠ 1 then s.evictRun c h (count + 1) m
        else match s.handleClock x, s.hwWords h entry ((wordsOfFrame (evictedFrame x)).take 2) with
          | none, _ | _, .error _ => (false, s)
          | some clk, .ok s => (s.modCore c fun k => { k with resume := k.resume.max clk }).evictRun c h (count + 1) m
/-- Those of every core's queue; one that cannot be read holds none. -/
def State.evictRuns (s : State) (h : Nat) : Bool × State :=
  if (runArea (s.hearth h) 0).isNone then (true, s)
  else s.coreIds.foldl (fun (r : Bool × State) c => match runArea (r.2.hearth h) c with
    | none => r
    | some (a, _) => match r.2.hwReadWords h a 2 with
      | .error e => (r.1 && e.1 != hwWait, r.2)
      | .ok ws =>
        let (ok, s) := r.2.evictRun c h (ws.getD 0 0) (ws.getD 1 0 - ws.getD 0 0).toNat
        (r.1 && ok, s)) (true, s)
/-- SUSPEND (R94): it goes on until every thread is taken, but for one that a store fault keeps in its slot (R477), the frames of the run queues
are saved, the copies that move have ended, and the experience deltas are sent. -/
def execSuspend (h : Nat) (s : State) : Out :=
  s.onCmd h 7 (fun _ => true) fun c s =>
    let s := s.modHearth h fun q => { q with suspended := true }
    let s := (s.threadsOf h).foldl (fun s p => s.preempt p.1 p.2) s
    let left := (s.threadsOf h).any fun p => (s.slot p.1 p.2).wait != .stuck || (s.slot p.1 p.2).abort.isSome
    let (ok, s) := s.asHub.evictRuns h
    if left || !ok || s.copying h then s
    else (s.coreIds.foldl (fun s k => s.sendEntries k (fun e => e.hearth == h) true) s).endCmd h c 3 0
/-- RESUME (R94): the reverse; a saved thread waits for its slot, for its tiles, and for what its image lies in. -/
def execResume (h : Nat) (s : State) : Out :=
  s.onCmd h 8 (fun _ => true) fun c s =>
    let s := s.modHearth h fun q => { q with suspended := false }
    let (ok, s) := (s.hearth h).saved.foldl (fun (r : Bool × State) e =>
      let (ok, s) := r.2.restoreThread h e.1 e.2.1
      (r.1 && ok, s)) (true, s)
    if ok then s.endCmd h c 3 0 else s

end Sys2Proof.Machine
end

