-- ==== Sys2Proof/Machine/Loader.lean ====
section
/-! DEFINITION. The commands that write page tables and load binaries: MAP, UNMAP and LOADBIN (R377-R390, R434, R437, R541). -/

namespace Sys2Proof.Machine

/-! ## The pool and the tables (R541) -/

/-- How a change of the page tables ends: done, the pool exhausted, or an entry in the way. -/
inductive Built where
  | ok (s : State)
  | pool (s : State)
  | conflict (s : State)
  deriving DecidableEq, Repr

/-- Go on after a change that is done. -/
def Built.then (b : Built) (f : State → Built) : Built :=
  match b with
  | .ok s => f s
  | r => r
/-- Make changes one after another. -/
def Built.each {α : Type} (f : State → α → Built) : List α → State → Built
  | [], s => .ok s
  | a :: r, s => (f s a).then (Built.each f r)

/-- Take the next n bytes of the hearth's pool at their alignment: none past the end, or outside the DRAM of the package. -/
def State.takePool (s : State) (h n : Nat) : Option (Nat × State) :=
  let q := s.hearth h
  let a := (q.hpool.bits 55 12 * 4096 + n - 1) / n * n
  if q.hpend.bits 55 12 * 4096 < a + n ∨ paClass a ≠ 0 ∨ paBad a ∨ paBad (a + n - 1) ∨ !s.ownPackage a then none
  else some (a, s.modHearth h fun q => { q with hpool := word (a + n) })

/-- A table that a walk reaches, or the end of the change. -/
inductive Reached where
  | table (pa : Nat) (s : State)
  | stop (b : Built)
  deriving DecidableEq, Repr

/-- The bytes of a table without entries. -/
def zeroTable : List Byte := List.replicate 8192 0
/-- The table that an entry names; an invalid entry takes one from the pool and names it (R541). -/
def State.tableAt (s : State) (h table idx : Nat) : Reached :=
  match s.tableEntry none table idx with
  | .leaf e =>
    if ebits e 63 63 = 0 then
      match s.takePool h 8192 with
      | none => .stop (.pool s)
      | some (t, s) => .table t ((s.writeAt t zeroTable).writeAt (table + 16 * idx) (leBytes 16 (2 ^ 63 + t)))
    else if ebits e 62 62 = 1 ∨ tableReserved e then .stop (.conflict s)
    else .table (ebits e 55 13 * 2 ^ 13) s
  | _ => .stop (.conflict s)
/-- Descend through tables by the indices of a VA. -/
def State.descend (s : State) (h table : Nat) : List Nat → Reached
  | [] => .table table s
  | i :: r => match s.tableAt h table i with
    | .table t s => s.descend h t r
    | x => x
/-- The indices of a VA above a level (R104). -/
def walkIndices (va : Word) (level : Nat) : List Nat :=
  va.bits 56 48 :: (List.range level).map fun l => va.bits (47 - 9 * l) (39 - 9 * l)
/-- The hearth's region table. -/
def Hearth.root (q : Hearth) : Nat := q.aspace.bits 55 13 * 2 ^ 13
/-- Write a level-3 entry for a VA. -/
def State.setLeaf (s : State) (h : Nat) (va : Word) (e : Nat) : Built :=
  match s.descend h (s.hearth h).root (walkIndices va 3) with
  | .table t s => .ok (s.writeAt (t + 16 * va.bits 20 12) (leBytes 16 e))
  | .stop b => b
/-- The region table does not lie in 8 KiB-aligned DRAM of the package (R541). -/
def State.rootBad (s : State) (h : Nat) : Bool :=
  let r := (s.hearth h).root
  paClass r != 0 || paBad r || !s.ownPackage r
/-- End a command that changed the tables. -/
def Built.finish (b : Built) (h : Nat) (c : Command) : State :=
  match b with
  | .ok s => s.endCmd h c 3 0
  | .pool s => s.endCmd h c 5 4
  | .conflict s => s.endFree h c 5

/-! ## MAP and UNMAP (R434) -/

/-- The page size field that MAP uses: the smallest that the interleave allows (R108; log 38). -/
def mapSize (lo : Nat) : Nat :=
  match lo % 4 with
  | 0 => 0
  | 1 => 1
  | _ => 3
/-- The leaf of page p of a MAP. -/
def Command.leaf (c : Command) (p : Nat) : Nat :=
  let lo := (c.w 5).bits 11 0
  let sz := pageSize (mapSize lo)
  let fr := (c.w 2).toNat + p * (if lo % 4 = 0 then sz else sz / 4)
  (c.w 4).toNat * 2 ^ 64 + 2 ^ 63 + 2 ^ 62 + mapSize lo * 2 ^ 58 + natBits fr 12 44 * 2 ^ 12 + lo
/-- A MAP that has no page to write its leaves for. -/
def Command.mapBad (c : Command) : Bool :=
  let sz := pageSize (mapSize ((c.w 5).bits 11 0))
  !canonical (c.w 1) || inWindow (c.w 1) || (c.w 1).toNat % sz != 0 || (c.w 3).toNat % sz != 0 || (c.w 2).toNat % 4096 != 0 ||
    (List.range ((c.w 3).toNat / sz)).any fun p => leafInvalid (BitVec.ofNat 128 (c.leaf p))
/-- MAP (R105, R107, R434, R541). -/
def execMap (h : Nat) (s : State) : Out :=
  s.onCmd h 3 (fun _ => true) fun c s =>
    let sz := pageSize (mapSize ((c.w 5).bits 11 0))
    if c.mapBad then s.endFree h c 4
    else if s.rootBad h then s.endCmd h c 4 6
    else (Built.each (fun s i => s.setLeaf h (c.w 1 + word (4096 * i)) (c.leaf (i / (sz / 4096))))
      (List.range ((c.w 3).toNat / 4096)) s).finish h c
/-- The place of the entry that maps a VA, at whichever level its leaf stands (R107). -/
def State.leafUnder (s : State) (va : Word) (table : Nat) : Nat → Option Nat
  | 0 => none
  | n + 1 =>
    let level := 3 - n
    let idx := va.bits (47 - 9 * level) (39 - 9 * level)
    match s.tableEntry none table idx with
    | .leaf e =>
      if ebits e 63 63 = 0 then none
      else if ebits e 62 62 = 1 ∨ level = 3 then some (table + 16 * idx)
      else s.leafUnder va (ebits e 55 13 * 2 ^ 13) n
    | _ => none
/-- The same from the region table. -/
def State.leafAddr (s : State) (h : Nat) (va : Word) : Option Nat :=
  match s.tableEntry none (s.hearth h).root (va.bits 56 48) with
  | .leaf e => if ebits e 63 63 = 0 then none else s.leafUnder va (ebits e 55 13 * 2 ^ 13) 4
  | _ => none
/-- Write 0 to the entry that maps a VA (R120). -/
def State.unmapPage (s : State) (h : Nat) (va : Word) : State :=
  match s.leafAddr h va with
  | some a => s.writeAt a (leBytes 16 0)
  | none => s
/-- UNMAP: the invalid leaves, then a TLBI of the range, which waits as any TLBI does: the command runs on (R120, R434). -/
def execUnmap (h : Nat) (s : State) : Out :=
  s.onCmd h 4 (fun _ => true) fun c s =>
    let s := (List.range ((c.w 2).toNat / 4096)).foldl (fun s i => s.unmapPage h (c.w 1 + word (4096 * i))) s
    let asid := (s.hearth h).aspace.bits 63 56
    if s.walksIn 0 h asid (c.w 1) (c.w 2) || s.coresStopped then s
    else (s.tlbi 0 h asid (c.w 1) (c.w 2)).endCmd h c 3 0

/-! ## Gelium files (R377-R390) -/

/-- A file in memory: its PA and length, the state that it is read from, and the bytes that relocations have filled. -/
structure Gof where
  pa : Nat
  len : Nat
  src : State
  fills : List (Nat × Byte) := []
/-- A byte. -/
def Gof.byte (g : Gof) (o : Nat) : Byte := (get? g.fills o).getD (g.src.byte (g.pa + o))
/-- n bytes. -/
def Gof.bytes (g : Gof) (o n : Nat) : List Byte := (List.range n).map fun i => g.byte (o + i)
/-- n bytes as a number. -/
def Gof.num (g : Gof) (o n : Nat) : Nat := leNat (g.bytes o n)
/-- Fill bytes. -/
def Gof.fill (g : Gof) (o : Nat) : List Byte → Gof
  | [] => g
  | b :: r => ({ g with fills := put g.fills o b } : Gof).fill (o + 1) r

/-- A section header (R378). -/
structure Sect where
  name : Nat
  ty : Nat
  flags : Nat
  addr : Nat
  off : Nat
  size : Nat
  align : Nat
  link : Nat
  info : Nat
  entsize : Nat
  deriving DecidableEq, Repr
/-- The section headers. -/
def Gof.sects (g : Gof) : List Sect :=
  (List.range (g.num 0x0C 4)).map fun i =>
    let o := g.num 0x10 8 + 48 * i
    ⟨g.num o 4, g.num (o + 4) 2, g.num (o + 6) 2, g.num (o + 8) 8, g.num (o + 16) 8, g.num (o + 24) 8, g.num (o + 32) 4, g.num (o + 36) 4,
      g.num (o + 40) 4, g.num (o + 44) 4⟩
/-- The sections of a type. -/
def ofType (l : List Sect) (ty : Nat) : List Sect := l.filter fun (x : Sect) => x.ty == ty
/-- The section is loaded into global memory at B + ADDR (R379). -/
def Sect.loaded (x : Sect) : Bool := [1, 2, 3, 4, 7, 8, 12].contains x.ty
/-- The section has no bytes in the file. -/
def Sect.bss (x : Sect) : Bool := x.ty == 4
/-- The header is that of a file that this loader takes (R377). -/
def Gof.headerBad (g : Gof) : Bool :=
  g.len < 64 || g.num 0 4 != 0x4D4C4547 || g.num 4 2 != 1 || g.num 8 4 != 64 || 2 ≤ g.num 6 2 || g.num 0x1C 4 != 0 ||
    g.num 0x30 16 != 0 || g.num 0x10 8 % 8 != 0 || g.len < g.num 0x10 8 + 48 * g.num 0x0C 4
/-- Bits of a word of the file are not zero. -/
def Gof.resBad (g : Gof) (o : Nat) (mask : Word) : Bool := word (g.num o 8) &&& mask != 0
/-- The index names a section of a type. -/
def Gof.isType (g : Gof) (n ty : Nat) : Bool := (g.sects[n]?).any fun x => x.ty == ty
/-- The fields of a header that no use gives a value are 0, and a link names a section of its type (R378, R380, R381). -/
def Gof.fieldsBad (g : Gof) (x : Sect) : Bool :=
  ([9, 10, 11, 13].contains x.ty && x.addr != 0) ||
  (if x.ty = 11 then !g.isType x.link 9 else if x.ty = 9 then !g.isType x.link 10 else x.link != 0) ||
  (x.ty != 7 && x.ty != 11 && x.info != 0) ||
  (if x.ty = 9 ∨ x.ty = 11 then x.entsize != 24 else ([1, 2, 3, 4, 5, 10, 13].contains x.ty && x.entsize != 0)) ||
  !(ofType g.sects 10).any (fun y => x.name < y.size)
/-- A reserved field of the tables of a section is not zero (R37, R44, R70, R75, R80, R377, R387). -/
def Gof.tableBad (g : Gof) (x : Sect) : Bool :=
  (x.ty == 8 && (List.range (x.size / 64)).any fun i =>
    let o := x.off + 64 * i
    g.resBad (o + 8) 0xFFFFFFFFFF0000E0 || (List.range 4).any fun j => g.resBad (o + 32 + 8 * j) (~~~0)) ||
  (x.ty == 7 && (List.range x.info).any fun i =>
    let o := x.off + 256 * i
    g.resBad (o + 8) (~~~ctrlMask) || (List.range 4).any (fun j => g.resBad (o + 0x20 + 16 * j) 0xFFFC0000FFF80000) ||
      g.resBad (o + 0x68) 0xFC00000000000000 || g.resBad (o + 0xF8) 0x1E00000000000000) ||
  (x.ty == 7 && (List.range ((x.size - 256 * x.info) / 16)).any fun i => g.resBad (x.off + 256 * x.info + 16 * i) 0xFFFFFFFFFFFFFF00)
/-- A section breaks a rule of R378, R379, R385, R386, R389 or R390. -/
def Gof.sectBad (g : Gof) (x : Sect) : Bool :=
  g.fieldsBad x || g.tableBad x ||
  x.ty == 0 || 13 < x.ty || 2 ≤ x.flags || (x.flags == 1 && x.ty != 6) || (!x.bss && g.len < x.off + x.size) ||
    (List.range 31).all (fun i => x.align != 2 ^ i) || (x.loaded && (x.addr % 4096 != 0 || x.addr % x.align != 0)) ||
    (x.ty == 6 && (x.size % 8 != 0 || 65536 < x.size / 8)) ||
    (x.ty == 12 && (g.num (x.off + 0x1C) 4 != 0 || 508 < g.num (x.off + 0x18) 4 || x.size < 0x1000 + 8 * g.num (x.off + 0x18) 4)) ||
    (x.ty == 13 && (g.num x.off 2 != 1 || g.num (x.off + 2) 2 != 0 || x.size != 7864))
/-- Two loaded sections overlap (R379). -/
def overlaps (l : List Sect) : Bool :=
  match l with
  | [] => false
  | x :: r => (x.loaded && r.any fun (y : Sect) => y.loaded && x.addr < y.addr + y.size && y.addr < x.addr + x.size) || overlaps r
/-- The layout is not that of a Gelium file: .sig, where there is one, stands last (R390). -/
def Gof.layoutBad (g : Gof) : Bool :=
  (g.sects != [] && !g.isType (g.num 0x18 4) 10) || g.sects.any g.sectBad || overlaps g.sects || ([5, 6, 7, 8, 9, 10, 11, 12, 13].any fun ty => 1 < (ofType g.sects ty).length) ||
    (ofType g.sects 13).any fun (x : Sect) =>
      x.off < g.num 0x10 8 + 48 * g.num 0x0C 4 || g.sects.any fun (y : Sect) => y.ty != 13 && !y.bss && x.off < y.off + y.size
/-- The signature verifies with the hearth's key; a file without one needs ACCEPT bit 4 (R390, R437). -/
def Gof.signed (g : Gof) (q : Hearth) (accept : BitVec 128) : Bool :=
  match ofType g.sects 13 with
  | x :: _ =>
    let digest := leBytes 32 (Config.sha256 (g.bytes 0 x.off)).toNat
    g.num (x.off + 4) 4 < 8 && Config.signatureOk (g.bytes (x.off + 8) 7856 ++ digest) (get 0 q.hkey (g.num (x.off + 4) 4))
  | [] => accept.getLsbD 4

/-! ## Relocations (R380-R383) -/

/-- The value of a symbol after loading at B; none where it is undefined (R380, R382). -/
def Gof.symbol (g : Gof) (b n : Nat) : Option Nat :=
  match ofType g.sects 9 with
  | [] => none
  | y :: _ =>
    let o := y.off + 24 * n
    let sect := g.num (o + 4) 2
    let value := g.num (o + 8) 8
    if y.size < 24 * n + 24 then none
    else if sect = 0xFFFF then some value
    else if sect = 0 then if g.num (o + 7) 1 = 2 then some 0 else none
    else if g.num (o + 6) 1 = 4 ∨ g.num (o + 6) 1 = 5 then some value
    else match g.sects[sect]? with
      | none => none
      | some x => some (if x.ty = 5 then value else b + value)
/-- The chain at an offset: each prefix with its offset, then the parcel that ends it (R214, R383). -/
def Gof.chain (g : Gof) (o : Nat) : Nat → List (Nat × Nat)
  | 0 => []
  | n + 1 =>
    let p := g.num o 2
    if p / 512 = 0x7B then [(o, p), (o + 2, g.num (o + 2) 2)]
    else if 0x78 ≤ p / 512 ∧ p / 512 < 0x7E then (o, p) :: g.chain (o + 2) n
    else [(o, p)]
/-- The PXI that stands immediately before PXX, and the PXX. -/
def xsPair : List (Nat × Nat) → Option (Nat × Nat)
  | (a, p) :: (b, q) :: r => if p / 512 = 0x78 ∧ q / 512 = 0x7D then some (a, b) else xsPair ((b, q) :: r)
  | _ => none
/-- The offsets of the PXIs that extend the immediate, in chain order. -/
def immPxis : List (Nat × Nat) → List Nat
  | (a, p) :: (b, q) :: r =>
    (if p / 512 = 0x78 ∧ q / 512 ≠ 0x7D then [a] else []) ++ immPxis ((b, q) :: r)
  | _ => []
/-- Fill the payload of a prefix. -/
def Gof.payload (g : Gof) (o v : Nat) : Gof := g.fill o (leBytes 2 (g.num o 2 / 512 * 512 + v % 512))
/-- One relocation (R381-R383): none where its kind does not reach a loader, or it cannot be filled. -/
def Gof.relocate (g : Gof) (b xb : Nat) (x : Sect) (o : Nat) : Option Gof :=
  let at_ := x.off + g.num o 8
  let kind := g.num (o + 0x14) 1
  let npxi := g.num (o + 0x15) 1
  match g.symbol b (g.num (o + 0x10) 4) with
  | none => none
  | some v =>
    let va := v + g.num (o + 8) 8
    if x.bss ∨ x.size ≤ g.num o 8 ∨ g.num (o + 0x16) 2 ≠ 0 then none
    else if g.num 6 2 = 1 ∧ x.ty = 1 ∧ (kind = 3 ∨ kind = 6) then none
    else if kind = 3 then
      let ch := g.chain at_ 5
      let w := 9 * npxi + 5
      let iv : Int := (word va).toInt
      match ch.getLast? with
      | none => none
      | some (m, p) =>
        if p / 512 ≠ 0x29 ∨ (immPxis ch).length ≠ npxi ∨ iv < -(2 ^ (w - 1)) ∨ 2 ^ (w - 1) ≤ iv then none
        else
          let g := g.fill m (leBytes 2 (p / 32 * 32 + va % 32))
          some ((immPxis ch).zipIdx.foldl (fun g e => g.payload e.1 (natBits (va % 2 ^ 64) (5 + 9 * (npxi - 1 - e.2)) 9)) g)
    else if kind = 4 then
      let u := (va + xb) % 2 ^ 64
      match xsPair (g.chain at_ 5) with
      | none => none
      | some (i, j) => if 65536 ≤ u then none else some ((g.payload i (u / 512)).payload j u)
    else if kind = 6 then if x.size < g.num o 8 + 8 then none else some (g.fill at_ (leBytes 8 va))
    else none
/-- All relocations of the file. -/
def Gof.relocated (g : Gof) (b xb : Nat) : Option Gof :=
  match ofType g.sects 11 with
  | [] => some g
  | r :: _ => match g.sects[r.info]? with
    | none => if r.size = 0 then some g else none
    | some x => (List.range (r.size / 24)).foldl (fun (a : Option Gof) i => a.bind fun g => g.relocate b xb x (r.off + 24 * i)) (some g)

/-! ## The link table (R380, R389) -/

/-- The string at an offset of .str. -/
def Gof.text (g : Gof) (n : Nat) : List Byte :=
  match ofType g.sects 10 with
  | [] => []
  | y :: _ => ((List.range (y.size - n)).map fun i => g.byte (y.off + n + i)).takeWhile (· != 0)
/-- The kernels that a file defines, by name, with their addresses at B: its symbols of kind 3 that other binaries may see. -/
def Gof.kernels (g : Gof) (b : Nat) : List (List Byte × Word) :=
  (ofType g.sects 9).flatMap fun (y : Sect) => (List.range (y.size / 24)).filterMap fun n =>
    let o := y.off + 24 * n
    if g.num (o + 6) 1 = 3 ∧ (g.num (o + 7) 1 = 1 ∨ g.num (o + 7) 1 = 2) ∧ g.num (o + 4) 2 ≠ 0 then
      (g.symbol b n).map fun v => (g.text (g.num o 4), word v)
    else none
/-- The link table is written: each entry is the address of the kernel of its name in the hearth, or 0 (log 135). -/
def Gof.bind (g : Gof) (known : List (List Byte × Word)) : Gof :=
  (ofType g.sects 12).foldl (fun g (x : Sect) => (List.range (g.num (x.off + 0x18) 4)).foldl (fun g n =>
    let d := x.off + 0x20 + 8 * n
    let v := if g.num (d + 4) 4 ≠ 0 then 0 else ((known.find? fun e => e.1 == g.text (g.num d 4)).map (·.2)).getD 0
    g.fill (x.off + 0x1000 + 8 * n) (leBytes 8 v.toNat)) g) g

/-! ## LOADBIN (R437) -/

/-- What LOADBIN loads: the file, the hearth, its operands. -/
structure Load where
  g : Gof
  h : Nat
  b : Nat
  xb : Nat
  cores : List Nat
/-- The permissions of a page of a section at U (R379, R389). -/
def Sect.perms (x : Sect) (page : Nat) : Nat :=
  match x.ty with
  | 1 => 0xB0
  | 2 | 7 => 0x90
  | 12 => if page = 0 then 0xD0 else 0x90
  | _ => 0xD0
/-- A 4 KiB leaf of a hearth (R105). -/
def leafOf (q : Hearth) (h frame perms xa : Nat) : Nat :=
  q.aspace.bits 63 56 * 2 ^ 120 + xa * 2 ^ 118 + 2 ^ 63 + 2 ^ 62 + frame + h % 16 * 2 ^ 8 + perms
/-- Load one page of a section: a frame, its bytes and its leaf. -/
def Load.page (l : Load) (x : Sect) (s : State) (p : Nat) : Built :=
  match s.takePool l.h 4096 with
  | none => .pool s
  | some (f, s) =>
    let n := min 4096 (x.size - 4096 * p)
    let bs := if x.bss then List.replicate n 0 else l.g.bytes (x.off + 4096 * p) n
    (s.writeAt f bs).setLeaf l.h (word (l.b + x.addr + 4096 * p)) (leafOf (s.hearth l.h) l.h f (x.perms p) 0)
/-- Load a section into global memory. -/
def Load.section_ (l : Load) (s : State) (x : Sect) : Built :=
  if x.loaded then Built.each (l.page x) (List.range ((x.size + 4095) / 4096)) s else .ok s
/-- The xa field of the page of a VA becomes that of a section (R199); translations of the page are invalidated where it changes. -/
def State.setXa (s : State) (h : Nat) (va : Word) (xa : Nat) : State :=
  match s.leafAddr h va with
  | none => s
  | some a =>
    let e := BitVec.ofNat 128 (s.memNat a 16)
    if ebits e 119 118 = xa then s
    else (s.writeAt (a + 8) (leBytes 8 (setField (word (s.memNat (a + 8) 8)) 55 54 xa).toNat)).tlbi 0 h ((s.hearth h).aspace.bits 63 56) va 1
/-- Seed one slot (R199, R385): a page is mapped for it where no leaf maps its VA yet, and the page's xa is that of the section (log 136). -/
def Load.seed (l : Load) (x : Sect) (s : State) (i : Nat) : Built :=
  let va := slotVA (s.hearth l.h) (l.xb + i)
  let bs := l.g.bytes (x.off + 8 * i) 8
  let xa := if x.flags = 1 then 2 else 1
  match s.hwPA l.h va .read with
  | .ok pa => .ok ((s.setXa l.h va xa).writeAt pa bs)
  | .error _ => match s.takePool l.h 4096 with
    | none => .pool s
    | some (f, s) =>
      (s.setLeaf l.h va (leafOf (s.hearth l.h) l.h f 0x90 xa)).then fun s =>
        .ok (s.writeAt (f + va.toNat % 4096) bs)
/-- Set the entries of a stage ring to the empty state (R388). -/
def Load.ring (l : Load) (x : Sect) (s : State) (i : Nat) : Built :=
  let o := x.off + 64 * i
  let base := word (l.g.num o 8)
  let n := 2 ^ (l.g.num (o + 8) 8 % 32)
  .ok ((List.range n).foldl (fun s j =>
    match s.hwWords l.h (base + word (16 * j)) [futWord 0 (taskNo noTask)] with
    | .ok s => s
    | .error _ => s) s)
/-- Write the channel entries of .tasks to the named cores (R387). -/
def Load.channels (l : Load) (x : Sect) (s : State) : State :=
  (List.range ((x.size - 256 * x.info) / 16)).foldl (fun s i =>
    let o := x.off + 256 * x.info + 16 * i
    let w := word (l.g.num (o + 8) 8 % 2 ^ 64)
    let w := setField w 59 56 l.h
    l.cores.foldl (fun (s : State) c => s.modCore c fun k => { k with chans := put k.chans (l.g.num o 1 % 64) w }) s) s
/-- Write .lstore to the named cores (R386). -/
def Load.lstore (l : Load) (x : Sect) (s : State) : State :=
  l.cores.foldl (fun (s : State) c => s.writeLS c x.addr (l.g.bytes x.off x.size)) s
/-- The .lstore image does not fit a named core: in its log ring, or in a bank that the hearth does not own (R386). -/
def Load.lstoreBad (l : Load) (s : State) (x : Sect) : Bool :=
  x.size != 0 && l.cores.any fun c =>
    let k := s.core c
    k.log.base < x.addr + x.size || (List.range 32).any fun bank =>
      bank * 2 ^ 13 < x.addr + x.size && x.addr < (bank + 1) * 2 ^ 13 && k.bankOwner bank != l.h
/-- Everything that LOADBIN writes. -/
def Load.write (l : Load) (s : State) : Built :=
  let ss := l.g.sects
  (Built.each l.section_ ss s).then fun s =>
  (Built.each (fun s (x : Sect) => Built.each (l.seed x) (List.range (x.size / 8)) s) (ofType ss 6) s).then fun s =>
  (Built.each (fun s (x : Sect) => Built.each (l.ring x) (List.range (x.size / 64)) s) (ofType ss 8) s).then fun s =>
  let s := (ofType ss 5).foldl (fun s x => l.lstore x s) s
  .ok ((ofType ss 7).foldl (fun s x => l.channels x s) s)
/-- A place of the file that the loader never maps (R95, R389): a section at a VA that is not canonical or lies in page 0, and a seed in page 0 where
nothing maps that (log 164). -/
def Load.unmappable (l : Load) (s : State) : Bool :=
  l.g.sects.any fun (x : Sect) =>
    let a := (l.b + x.addr) % 2 ^ 64
    let e := (slotVA (s.hearth l.h) l.xb).toNat % 2 ^ 57
    (x.loaded && x.size != 0 && !(4096 ≤ a && a + x.size ≤ 2 ^ 56) && !(2 ^ 64 - 2 ^ 56 ≤ a && a + x.size ≤ 2 ^ 64)) ||
      (x.ty == 6 && x.size != 0 && (e < 4096 || 2 ^ 57 < e + x.size) && (s.leafAddr l.h 0).isNone)
/-- The .lstore image waits for a core in boot test (R533), and for a copy to its place (R149). -/
def Load.lstoreWaits (l : Load) (s : State) (x : Sect) : Bool :=
  x.size != 0 && l.cores.any fun c => (s.core c).bootTest || s.lsStalled c x.addr x.size
/-- LOADBIN (R437, R541) of a running command. -/
def State.loadbin (s0 : State) (h : Nat) (c : Command) : State :=
  let s := s0.asHub
  let pa := if c.flags.testBit 1 then (c.w 1).toNat % 2 ^ 56 else s.hostPA (c.w 1).toNat
  let cores := (List.range ((c.w 5).bits 15 0)).map fun i => (c.w 5).bits 63 51 + i
  let g : Gof := ⟨pa, (c.w 2).toNat, s, []⟩
  let b := (c.w 3).toNat
  if paHost pa ∧ !s.hub.linkUp then s.endFree h c 5
  else if g.headerBad ∨ BitVec.ofNat 128 (g.num 0x20 16) &&& ~~~s.hub.accept ≠ 0 ∨ g.layoutBad ∨
      !g.signed (s.hearth h) s.hub.accept ∨ b % 4096 ≠ 0 ∨ !(cores.all coreExists) then s.endFree h c 4
  else match g.relocated b (c.w 4).toNat with
    | none => s.endFree h c 4
    | some g =>
      let known := g.kernels b ++ (s.hearth h).kernels
      let l : Load := ⟨g.bind known, h, b, (c.w 4).toNat, cores⟩
      if (ofType g.sects 5).any (l.lstoreBad s) || l.unmappable s then s.endFree h c 4
      else if s.rootBad h then s.endCmd h c 4 6
      else if (ofType g.sects 5).any (l.lstoreWaits s) then s0
      else (l.write (s.modHearth h fun q => { q with kernels := known })).finish h c
/-- LOADBIN. -/
def execLoadbin (h : Nat) (s : State) : Out := s.onCmd h 5 (fun _ => true) fun c s => s.loadbin h c

end Sys2Proof.Machine
end

