-- ==== Sys2Proof/Machine/Device.lean ====
section
/-! DEFINITION. Quarantine, DRAM faults and repairs, the quench ladder, host loss, resets, boot, reductions, the host's accesses and the
fabric's errors (R427-R429, R440-R443, R464, R465, R481, R489-R492, R522-R529, R533-R538). -/

namespace Sys2Proof.Machine

/-! ## Quarantine (R464, R465, R481) -/

/-- The thread leaves a quarantined core as a frame: it is vector-clean, and no TaskAbort of it waits. -/
def Slot.departs (t : Slot) : Bool := t.st.vclean && t.abort.isNone
/-- The thread restarts its region on another core. -/
def Slot.restartable (t : Slot) : Bool := t.departs && t.st.idv
/-- Nothing that the slot's thread must take with it is still on its way (R52); a restart discards its loads (R462). -/
def Slot.quiet (t : Slot) : Bool :=
  !t.departs || ((t.loads == 0 || (t.restartable && t.restarts != 2)) && t.stores == 0 && t.copies == 0 && t.tiles == 0)
/-- What a departing thread cannot take with it: it takes the trap that is due at its boundary; an adoption that has begun is undone, a held
channel is cancelled, and its commands leave the queue where the anvil has stopped for them (log 39). -/
def State.unhand (s : State) (c n : Nat) : State :=
  if !(s.slot c n).departs then s
  else
    let s := s.unclaimOwner c n
    let s := if (s.slot c n).st.idv then s else (s.boundary c n).getD s
    let s := s.cancelAll c n
    if (s.core c).anvq.any fun a => a.slot == n && a.held then s.discardCmds c n else s
/-- The thread of a slot restarts its region, before it leaves; one that has restarted twice takes a trap (R462). -/
def State.restartSlot (s : State) (c n : Nat) : State := { s with curCore := c, curSlot := n }.restartRegion 0x82 (s.slot c n).pc
/-- Dispose of the thread of a slot: threads aborted and frames sent. A thread whose region restarts makes no release, and idv stays 1 (R462,
R464); its RC joins the resume clock. -/
def State.disposeSlot (s : State) (c n : Nat) : State × Nat × Nat :=
  if !(s.slot c n).departs then (s.killTask c n 0x82, 1, 0)
  else match s.spillSlot c n with
    | (some _, s) => (s.killTask c n 0x82, 1, 0)
    | (none, s) =>
      let s := if (s.slot c n).st.idv then s.modCore c fun k => { k with resume := k.resume.max (k.slot n).rc } else s.leave c n
      let (id, s) := s.fresh
      let x : Flight := { frame := s.frameOfSlot c n 2 (s.nextCore c) 0, src := c, kept := (s.slot c n).kept, id := id }
      (({ s with frames := s.frames ++ [x] } : State).freeSlot c n, 0, 1)
/-- Forward the frames of a hearth's run queue, at most m of them, each with the privilege that its page gives it (R47). -/
def State.forwardRun (s : State) (c h : Nat) : Nat → State × Nat
  | 0 => (s, 0)
  | m + 1 => match s.runHead c h with
    | none => (s, 0)
    | some (a, head, ws) =>
      let entry := runEntry (s.hearth h) c a head
      let x := { frameOf (ws.take 24) with hearth := h, target := s.nextCore c }
      let st := Status.unpack x.billet.status
      let x := { x with billet := { x.billet with status := { st with priv := s.billetPriv h (entry + 32) st.priv }.pack } }
      let (id, s) := s.fresh
      let f : Flight := { frame := x, src := c, kept := s.keptAt h entry, id := id }
      match s.hwWords h a [head + 1] with
      | .error _ => (s, 0)
      | .ok s =>
        let (s, k) := ({ s.unkeep h entry with frames := s.frames ++ [f] } : State).forwardRun c h m
        (s, k + 1)
/-- The slots of a core whose threads it has still to dispose of. -/
def Core.toDispose (k : Core) : List Nat := (List.range 16).filter fun n => (k.slot n).busy && (k.slot n).abort.isNone
/-- A quarantined core closes its open segment, and what releases at core scope closed of it, without a record (R480, R481). -/
def State.closeQuarantined (s : State) (c : Nat) : State :=
  let l := (s.core c).log
  if l.openEntries.isEmpty && !l.closed.any (fun g => g.sc == 1 && g.hearth == l.openHearth) then s
  else s.closeLog c { sc := 3, publish := false }
/-- The disposal of a quarantined core's threads and frames, and its record: the regions restart first (R481). -/
def State.dispose (s : State) (c n : Nat) : State :=
  let who := s.threadRecord c n 0x82 3
  let ts := (s.core c).toDispose
  let s := ((ts.filter fun n => (s.slot c n).restartable).foldl (fun s n => s.restartSlot c n) s).closeQuarantined c
  let (s, ab, fr) := ts.foldl (fun (r : State × Nat × Nat) n =>
    let (s, a, f) := r.1.disposeSlot c n
    (s, r.2.1 + a, r.2.2 + f)) (s, 0, 0)
  let (s, fr) := (List.range 16).foldl (fun (r : State × Nat) h =>
    let m := match runArea (r.1.hearth h) c with
      | some (_, m) => m
      | none => 0
    let (s, k) := r.1.forwardRun c h m
    (s, r.2 + k)) (s, fr)
  s.report { who with detail := word ((s.core c).softErrs % 2 ^ 32 * 2 ^ 32 + ab % 2 ^ 16 * 2 ^ 16 + fr % 2 ^ 16) }
/-- A quarantined core disposes of its threads once nothing that they take with them is on its way; until then each of its opportunities tries
again (log 39). -/
def State.disposal (s : State) (c : Nat) : State :=
  let s := { (s.core c).toDispose.foldl (fun s n => s.unhand c n) s with curCore := c }
  let ready (n : Nat) : Bool := (s.slot c n).quiet && (!(s.slot c n).departs || (s.spillSlot c n).1 != some none)
  if (s.core c).toDispose.all ready then s.dispose c (s.core c).quarSlot else s
/-- Quarantine a core for the instruction of a slot. -/
def State.quarantine (s : State) (c n : Nat) : State :=
  if !coreExists c ∨ (s.core c).quarantined then s
  else (s.modCore c fun k => { k with quarantined := true, quarSlot := n }).disposal c
/-- A soft error has been counted: a core whose count rises by 64 within 1 s is quarantined (R451, R464). Whether a second has passed since the
count's present base is a free value. -/
def State.softLimit (s : State) (c n : Nat) : State :=
  let (v, s) := s.free
  let s := if v.getLsbD 0 then s.modCore c fun k => { k with softBase := k.softErrs - 1 } else s
  if (s.core c).softBase + 64 ≤ (s.core c).softErrs then s.quarantine c n else s
/-- QUARANTINE (R464). -/
def execQuarantine (c k : Nat) (s : State) : Out := .next (s.quarantine c k)

/-! ## DRAM (R489-R492) -/

/-- A device error (R445, R451): one record for each hearth that it touches, or for the firmware's hearth (log 40). -/
def State.deviceError (s : State) (r : Record) (hs : List Nat) : State :=
  (if hs.isEmpty then [0] else hs).foldl (fun (s : State) h => s.report { r with hearth := h }) s
/-- The record of a home's own read of a line (R491): class 5, charged to the firmware's hearth (log 40). -/
def ownRead (line : Nat) : Record := { cause := 0xE1, cls := 5, hearth := 0, addr := word (64 * line) }
/-- A line of 64 bytes is DRAM of the package. -/
def State.ownLine (s : State) (line : Nat) : Bool :=
  let pa := 64 * line
  paClass pa == 0 && !paBad pa && pa < 2 ^ 56 && s.ownPackage pa
/-- DRAM_PATROL (R486, R489-R491): the patrol reads the line of 64 bytes with this number, with the errors that it has. The symbols `upset` of
the line `bad` are those that go bad after it, until that line is next read (log 145). -/
def execDramPatrol (line bad : Nat) (upset : List Nat) (s : State) : Out :=
  let s := if s.ownLine line then s.readLine (ownRead line) line else s
  let more := (upset.filter (· < 72)).dedup
  .next (if more.isEmpty || !s.ownLine bad then s else { s with latent := put s.latent bad more })
/-- The number of a repair (R492). -/
def repairNo : RepairKind → Nat
  | .row => 1
  | .bank => 2
  | .erasure => 3
  | .exhausted => 4
/-- A line lies in a bank of a layer. -/
def inBank (layer bank line : Nat) : Bool := lineLayer line == layer && lineBank line == bank
/-- A line lies in a row of it. -/
def inRow (layer bank row line : Nat) : Bool := inBank layer bank line && lineRow line == row
/-- A row is due to be remapped (R492): after a DRAMUE, or corrections in four distinct lines. The second within which they come is not held
(log 155). -/
def Home.rowDue (q : Home) (layer bank row : Nat) : Bool :=
  q.ues.any (inRow layer bank row) || 4 ≤ ((q.fixed.map (·.1)).filter (inRow layer bank row)).dedup.length
/-- The row remaps of a bank. -/
def Home.remaps (q : Home) (layer bank : Nat) : Nat := get 0 q.rows (16 * layer + bank)
/-- A bank is due to be moved (R492): it needs a ninth row remap, or four erasure entries cover it. -/
def Home.bankDue (q : Home) (layer bank row : Nat) : Bool :=
  (8 ≤ q.remaps layer bank && q.rowDue layer bank row) ||
    4 ≤ (List.range 8).countP fun n =>
      let e := (get 0 q.erasures (8 * layer + n)).toNat
      natBits e 31 1 == 1 && (natBits e 19 1 == 1 || natBits e 20 4 == bank)
/-- The symbol position of a rank that has been corrected in 16 distinct lines (R490). -/
def Home.badSymbol (q : Home) (layer : Nat) : Option Nat :=
  (List.range 72).find? fun y => 16 ≤ ((q.fixed.filter fun e => lineLayer e.1 == layer && e.2.contains y).map (·.1)).dedup.length
/-- The first place of a layer's erasure table that holds no valid entry. -/
def Home.freeErasure (q : Home) (layer : Nat) : Option Nat :=
  (List.range 8).find? fun n => !(get 0 q.erasures (8 * layer + n)).getLsbD 31
/-- What the home has found in the lines of a repaired place is settled. -/
def Home.settled (q : Home) (p : Nat → Bool) : Home :=
  { q with fixed := q.fixed.filter fun e => !p e.1, ues := q.ues.filter fun l => !p l }
/-- A repair takes its spare (R490, R492): none where it is not due or no spare is left. The column of a new erasure entry, and whether it covers
every bank or column, are those of `v`. -/
def Home.repair (q : Home) (r : RepairKind) (layer bank row : Nat) (v : Word) : Option Home :=
  match r with
  | .row => if q.rowDue layer bank row && q.remaps layer bank < 8 then
      some ({ q with rows := put q.rows (16 * layer + bank) (q.remaps layer bank + 1) }.settled (inRow layer bank row)) else none
  | .bank => if q.bankDue layer bank row && q.banks < 2 then
      some ({ q with banks := q.banks + 1, rows := put q.rows (16 * layer + bank) 0 }.settled (inBank layer bank)) else none
  | .erasure => match q.badSymbol layer, q.freeErasure layer with
    | some y, some n => some { q with
        erasures := put q.erasures (8 * layer + n) (BitVec.ofNat 32 (2 ^ 31 + y * 2 ^ 24 + bank * 2 ^ 20 + v.bits 12 0 * 2 ^ 7))
        fixed := q.fixed.map fun e => if lineLayer e.1 = layer then (e.1, e.2.filter (· != y)) else e }
    | _, _ => none
  | .exhausted => if q.bankDue layer bank row && 2 ≤ q.banks then some q else none
/-- The lines of a home that a repair copies. -/
def repairCopies (r : RepairKind) (layer bank row line : Nat) : Bool :=
  match r with
  | .row => inRow layer bank row line
  | .bank => inBank layer bank line
  | .erasure | .exhausted => false
/-- A home copies lines: it reads each, correcting it or poisoning it (R491, R492). -/
def State.copyLines (s : State) (hm : Nat) (p : Nat → Bool) : State :=
  ((s.latent.map (·.1)).filter fun l => homeOf (64 * l) = hm ∧ p l).foldl (fun s l => s.readLine (ownRead l) l) s
/-- REPAIR_COMPLETE (R490, R492): the copy of the lines is one event with its end (log 155). It carries data and poison, so that no byte of a sound
line changes. -/
def execRepairComplete (hm : Nat) (r : RepairKind) (layer bank row : Nat) (s : State) : Out :=
  if 640 ≤ hm ∨ 8 ≤ layer ∨ 16 ≤ bank ∨ 2 ^ 16 ≤ row then .next s
  else
    let (v, s') := (s.copyLines hm (repairCopies r layer bank row)).free
    match (s.home hm).repair r layer bank row v with
    | none => .next s
    | some _ =>
      let d := repairNo r * 2 ^ 56 + layer * 2 ^ 48 + bank * 2 ^ 44 + row * 2 ^ 28
      .next ((s'.modHome hm fun q => (q.repair r layer bank row v).getD q).report { cause := 0xE2, cls := 2, hearth := 0, detail := word d })

/-! ## The quench ladder (R522-R524) -/

/-- The hearths with a thread on a die. -/
def State.dieHearths (s : State) (e : Nat) : List Nat :=
  (List.range 16).filter fun h => s.cores.any fun k => dieOf k.1 == e && k.2.slots.any fun t => t.2.busy && t.2.st.hearth == h
/-- Save every thread of a die that may be taken (R92, R522). -/
def State.saveDie (s : State) (e : Nat) : State :=
  (s.coreIds.filter fun c => dieOf c == e).foldl (fun s c => (List.range 16).foldl (fun s n =>
    let s' := s.stopSequence c n
    if !(s.slot c n).busy || s.sequenceWaits c n then s else if s'.takeable c n then (s'.saveThread c n).2 else s') s) s
/-- THERMAL_TRIP (R522). A trip 3 that stands saves the threads that could not be taken before. -/
def execThermalTrip (e trip : Nat) (s : State) : Out :=
  let d := s.die e
  if 4 ≤ e ∨ d.powerLost then .next s
  else match trip with
    | 1 => .next (if d.trip1 then s else
        (s.modDie e fun d => { d with trip1 := true }).report { cause := 0xA0, cls := 2, hearth := 0, })
    | 2 => .next (if d.trip2 then s else
        (s.modDie e fun d => { d with trip2 := true }).report { cause := 0xA1, cls := 2, hearth := 0, })
    | 3 =>
      if d.trip3 then .next (s.saveDie e)
      else
        let hs := s.dieHearths e
        let s := (s.modDie e fun d => { d with trip3 := true }).saveDie e
        .next (hs.foldl (fun (s : State) h => s.report { cause := 0xA2, cls := 5, hearth := h, }) s)
    | 4 =>
      let hs := s.dieHearths e
      .next ((s.modDie e fun d => { d with powerLost := true }).deviceError { cause := 0xA3, cls := 6, hearth := 0 } hs)
    | _ => .next s
/-- THERMAL_RELEASE (R523, R524): trip 4 has no release. -/
def execThermalRelease (e trip : Nat) (s : State) : Out :=
  if 4 ≤ e then .next s
  else match trip with
    | 1 => .next (s.modDie e fun d => { d with trip1 := false })
    | 2 => .next (s.modDie e fun d => { d with trip2 := false })
    | 3 => .next (s.modDie e fun d => { d with trip3 := false })
    | _ => .next s

/-! ## The host link (R428, R526, R527) -/

/-- The hearths with an enabled queue. -/
def State.queueHearths (s : State) : List Nat :=
  (List.range 16).filter fun h => (List.range 4).any fun q => (get 0 (s.hearth h).qbase q).bits 0 0 == 1
/-- The hub takes the link as lost (R526): queues stop, with heads and tails kept. -/
def State.loseHost (s : State) : State :=
  let hs := s.queueHearths
  let s := { s with hub := { s.hub with linkUp := false } }
  let s := { s with hearths := s.hearths.map fun (e : Nat × Hearth) =>
    (e.1, { e.2 with qbase := e.2.qbase.map fun (b : Nat × Word) => (b.1, b.2 &&& ~~~1) }) }
  s.deviceError { cause := 0xC0, cls := 6, hearth := 0 } hs
/-- HOST_LOSS (R526). -/
def execHostLoss (s : State) : Out := .next (if s.hub.linkUp then s.loseHost else s)
/-- IDE_FAILURE (R526). -/
def execIdeFailure (s : State) : Out :=
  .next (if s.hub.linkUp then (s.deviceError { cause := 0xC1, cls := 6, hearth := 0 } s.queueHearths).loseHost else s)
/-- HOST_LINK_RETURN (R527). -/
def execHostLinkReturn (s : State) : Out := .next { s with hub := { s.hub with linkUp := true } }
/-- The PA of byte D of the HDM decoder's range (R428). -/
def State.hdmPA (s : State) (d : Nat) : Nat := s.hub.package * 2 ^ 50 + d / 0x3000000000 * 2 ^ 48 + d % 0x3000000000
/-- HOST_MEMORY_ACCESS (R428, R526): a store of bytes of one line of 64, or a load of the line, whose value only the host sees (log 41). The home
reads the line for a load, and for a store of a part of a word (R491). -/
def execHostMemoryAccess (d : Nat) (store : Option (List Byte)) (s : State) : Out :=
  let pa := s.hdmPA d
  if 0xC000000000 ≤ d ∨ !s.hub.linkUp ∨ (s.die (paDie pa)).powerLost then .next s
  else match store with
    | some bs =>
      if 64 < d % 64 + bs.length then .next s
      else
        let s := if d % 8 = 0 ∧ bs.length % 8 = 0 then s else s.readLine (ownRead (pa / 64)) (pa / 64)
        .next (s.writeAt pa bs)
    | none => .next (s.readLine (ownRead (pa / 64)) (pa / 64))
/-- A host write of a hub register (R429-R431, R436, R439, R541): QBASE with its W1C err, QTAIL, a half of ACCEPT, HRES, HPOOL, HPEND, and
HKEY while the hearth is reset. Every other register is RO or unassigned for the host. -/
def State.hostWrite (s : State) (off : Nat) (v : Word) : State :=
  let h := (off - 0x100000) / 0x10000
  let r := off % 0x10000 / 8 * 8
  match hubReg off with
  | some (.qbase h q) => s.modHearth h fun x =>
      { x with qbase := put x.qbase q ((v &&& 0xFFFFFFFFFFFFC003) ||| (get 0 x.qbase q &&& 4 &&& ~~~v)) }
  | some (.accept hi) => s.setAccept (BitVec.ofNat 128 (v.toNat * (if hi then 2 ^ 64 else 1)))
  | some (.hres h) => s.hubWrite (.hres h) v false
  | some (.hpool h) => s.hubWrite (.hpool h) v false
  | some (.hpend h) => s.hubWrite (.hpend h) v false
  | some _ => s
  | none =>
    if 0x100000 ≤ off ∧ 0x40 ≤ r ∧ r < 0x60 then s.doorbell h ((r - 0x40) / 8) (v.setWidth 32)
    else if off < 0x100000 ∨ 16 ≤ h ∨ r < 0x100 ∨ 0x200 ≤ r ∨ !(s.hearth h).wasReset then s
    else
      let k := (r - 0x100) / 32
      s.modHearth h fun x =>
        { x with hkey := put x.hkey k (BitVec.ofNat 256 ((List.range 4).foldl (fun n i =>
            n + (if i = r % 32 / 8 then v.toNat else natBits (get 0 x.hkey k).toNat (64 * i) 64) * 2 ^ (64 * i)) 0)) }
/-- The hearth supervisor opens a send context for its hearth and a port, with the base of a receive ring in device memory (R443; log 112). -/
def State.openContext (s : State) (n hearth port : Nat) (ring : Option Word) : State :=
  if 256 ≤ n ∨ 16 ≤ hearth ∨ 4 ≤ port then s
  else { s with hub := { s.hub with
    ctxs := s.hub.ctxs.filter (fun e => e.1 != n) ++ [(n, hearth, port)]
    rings := s.hub.rings.filter (fun e => e.1 != n) ++ match ring with
      | some a => [(n, a, 0)]
      | none => [] } }
/-- REGISTER_WRITE (R8, R429, R443): the host writes a hub register through BAR0, or a supervisor opens a context of the transport. -/
def execRegisterWrite (w : HubPlace) (v : Word) (s : State) : Out :=
  match w with
  | .reg off => .next (if off % 8 = 0 ∧ s.hub.linkUp then s.hostWrite off v else s)
  | .context n h port ring => .next (s.openContext n h port (if ring then some v else none))

/-! ## Resets (R528, R529) -/

/-- A channel of a hearth that a reset cancels (R528): it stops where it is, with no release and no arrival. -/
def Channel.cancelled (x : Channel) (c h : Nat) : Channel :=
  if x.hearth = h ∧ (x.busy ∨ x.held.isSome) then
    { x with busy := false, flt := false, held := none, cxl := true, buf := [], bind := none, net := none, owner := (c, 16), away := none }
  else x
/-- The core c without the work of a hearth (R528). A frame of the hearth that a full queue has refused, and that its departure buffer holds, is
discarded with the buffer: that it counts as in flight no further is the model's choice (log 156). -/
def Core.resetHearth (k : Core) (c h : Nat) : Core :=
  let mine (n : Nat) : Bool := (k.slot n).busy && (k.slot n).st.hearth == h
  { k with
    msgs := k.msgs.filter fun (m : Msg) => m.hearth != h
    departing := del k.departing h
    stopped := k.stopped.filter fun x => x != h
    pulled := k.pulled.filter fun (p : Pulled) => p.hearth != h
    conts := k.conts.filter fun (e : Nat × Word × Clock) => e.1 % 16 != h
    anvq := k.anvq.filter fun (a : AnvCmd) => a.hearth != h
    seqr := k.seqr.filter fun (q : Sequence) => !mine q.slot
    tiles := k.tiles.map fun (e : Nat × Tile) => if e.2.claimed && mine e.2.slot then (e.1, {}) else e
    tongs := k.tongs.map fun (e : Nat × Channel) => (e.1, e.2.cancelled c h)
    xcache := k.xcache.filter fun (e : XEntry) => e.hearth != h
    pins := k.pins.filter fun (p : Pin) => p.hearth != h
    mail := k.mail.filter fun (e : Nat × Mailbox) => e.1 / 16 != h
    chans := k.chans.filter fun (e : Nat × Word) => e.2.bits 59 56 != h
    log := { k.log with openEntries := if k.log.openHearth = h then [] else k.log.openEntries, pubtail := del k.log.pubtail h } }
/-- The registers of a hearth after its reset: JSEQ is 1 and journal entry 1 holds the RESET (R528). -/
def resetRegs (c : Command) : Hearth :=
  { jseq := 1, journal := put [] 1 (journalEntry 1 c.digest c.queue 3 0 (BitVec.ofNat 32 ((c.w 0).bits 31 0))) }
/-- The frames of a hearth's run queues are discarded (R528): each queue's HEAD takes its TAIL (log 165). A queue that cannot be used holds none. -/
def State.emptyRunQueues (s : State) (h : Nat) : State :=
  if (runArea (s.hearth h) 0).isNone then s
  else s.coreIds.foldl (fun s c => match runArea (s.hearth h) c with
    | none => s
    | some (a, _) => match s.asHub.hwReadWords h a 2 with
      | .error _ => s
      | .ok ws => if ws.getD 0 0 = ws.getD 1 0 then s else (s.asHub.hwWords h a [ws.getD 1 0]).toOption.getD s) s
/-- RESET of a hearth (R528) but for its fault ring: frames in flight are discarded when they arrive (R467). -/
def State.resetHearth (s : State) (h : Nat) (c : Command) : State :=
  let dead (x : Flight) : Flight := if x.frame.hearth = h then { x with dead := true, resent := false } else x
  let s := (s.emptyRunQueues h).dropHearthMisses h
  let s := { s with
    frames := s.frames.map dead
    refused := s.refused.map dead
    dies := s.dies.map fun (e : Nat × Die) => (e.1, { e.2 with walks := e.2.walks.filter fun w => w.hearth != h })
    messages := s.messages.filter fun (m : Msg) => m.hearth != h
    contWaits := s.contWaits.filter fun (w : ContWait) => w.hearth != h
    conts := s.conts.filter fun (w : ContWait) => w.hearth != h }
  let gone := s.threadsOf h
  let s := { s with
    clusters := s.clusters.map fun (e : Nat × Cluster) =>
      match s.anvRunning e.1 with
      | some (_, a) => if a.hearth = h then (e.1, { e.2 with running := none }) else e
      | none => e }
  let s := { s with cores := s.cores.map fun (e : Nat × Core) => (e.1, e.2.resetHearth e.1 h) }
  let s := gone.foldl (fun (s : State) p => s.freeSlot p.1 p.2) s
  let s := { s with
    homes := s.homes.map fun (e : Nat × Home) =>
      (e.1, { e.2 with watches := e.2.watches.filter fun (w : Watch) => !gone.contains (w.core, w.slot) })
    crossings := s.crossings.filter fun (e : Nat × Crossing) => match e.2 with
      | .watch _ w => !gone.contains (w.core, w.slot)
      | .barrier n .. => !gone.contains (e.1, n)
    barriers := s.barriers.filter fun (e : Nat × Barrier) => e.2.hearth != h }
  (s.discardPhase h).modHearth h fun _ => resetRegs c
/-- RESET (R434, R528). The fault ring's next SEQ is 1. -/
def execReset (h : Nat) (s : State) : Out :=
  s.onCmd h 9 (fun _ => true) fun c s => match s.asHub.hwWords h (s.faultRing h + 24) [1] with
    | .ok s => s.resetHearth h c
    | .error e => if e.1 = hwWait then s else s.resetHearth h c
/-- The listed bytes of memory at some addresses become free values. -/
def State.loseMemory (s : State) (p : Nat → Bool) : State :=
  s.mem.foldl (fun (s : State) e =>
    if p e.1 then
      let (v, s) := s.free
      { s with mem := Memory.write s.mem e.1 (v.setWidth 8) }
    else s) s
/-- The package's own memory is lost in a device reset; other memory keeps its bytes (R529). -/
def State.losePackageMemory (s : State) : State := s.loseMemory fun a => 2 ^ 56 ≤ a || (paClass a ≤ 1 && s.ownPackage a)
/-- DEVICE_RESET (R529): every register at its reset value; poison bits, erasure tables and the package's place in the torus stay, and what is
still to happen outside the part. -/
def State.deviceReset (s : State) : State :=
  let s := s.losePackageMemory
  { State.reset with
    mem := s.mem
    agenda := s.agenda
    poison := s.poison
    latent := s.latent
    stuck := s.stuck
    homes := s.homes.map fun (e : Nat × Home) => (e.1, { erasures := e.2.erasures, rows := e.2.rows, banks := e.2.banks })
    hub := { State.reset.hub with package := s.hub.package, features := s.hub.features }
    nextId := s.nextId
    freeCtr := s.freeCtr }
/-- DEVICE_RESET. -/
def execDeviceReset (s : State) : Out := .next s.deviceReset

/-! ## Boot, attestation and firmware (R440, R441, R533-R538) -/

/-- The images that verify against the fused key, by number (R440): the root of trust verifies image 0, the housekeeping firmware, which then
verifies the others. -/
def verifiedImages (images : List (List Byte)) : List Nat :=
  let ok := (images.zipIdx.filter fun e => Config.signatureOk e.1 Config.fusedKey).map (·.2)
  if ok.contains 0 then ok else []
/-- BOOT (R440): the digests of images 0 to 7 are the measurements; those beyond 0 are made by the firmware, if it has verified. Where `reinit`
says so, the housekeeping processor reinitialises the DRAM: its contents are free values, and its poison bits are cleared (R486; log 163). -/
def execBoot (images : List (List Byte)) (reinit : Bool) (s : State) : Out :=
  let images := images.take 8
  let ok := verifiedImages images
  let s := { s with hub := { s.hub with
    measurements := ((images.take (if ok.contains 0 then 8 else 1)).zipIdx).map fun (e : List Byte × Nat) => (e.2, Config.sha256 e.1)
    verified := ok } }
  .next (if reinit && ok.contains 0 then
    { s.loseMemory fun a => paClass a == 0 && s.ownPackage a && a < 2 ^ 56 with poison := [], latent := [] } else s)
/-- Answer an SPDM request of a kind over the DOE mailbox. -/
def State.spdm (s : State) (kind : Nat) (data : List Byte) : State :=
  { s with hub := { s.hub with spdm := s.hub.spdm ++ [(kind, Config.spdmAnswer kind data)] } }
/-- The measurements as bytes. -/
def Hub.measured (q : Hub) : List Byte := (List.range 8).flatMap fun i => leBytes 32 (get 0 q.measurements i).toNat
/-- SPDM_GET_VERSION (R440). -/
def execSpdmGetVersion (s : State) : Out := .next (s.spdm 0 [])
/-- SPDM_GET_CAPABILITIES (R440). -/
def execSpdmGetCapabilities (s : State) : Out := .next (s.spdm 1 [])
/-- SPDM_NEGOTIATE_ALGORITHMS (R440). -/
def execSpdmNegotiateAlgorithms (s : State) : Out := .next (s.spdm 2 [])
/-- SPDM_GET_DIGESTS (R440). -/
def execSpdmGetDigests (s : State) : Out := .next (s.spdm 3 [])
/-- SPDM_GET_CERTIFICATE (R440). -/
def execSpdmGetCertificate (s : State) : Out := .next (s.spdm 4 [])
/-- SPDM_CHALLENGE (R440). -/
def execSpdmChallenge (nonce : BitVec 256) (s : State) : Out := .next (s.spdm 5 (leBytes 32 nonce.toNat ++ s.hub.measured))
/-- SPDM_GET_MEASUREMENTS (R440): the SHA-256 measurements, and what the response adds. -/
def execSpdmGetMeasurements (s : State) : Out :=
  .next { s with hub := { s.hub with spdm := s.hub.spdm ++ [(6, s.hub.measured ++ Config.spdmAnswer 6 s.hub.measured)] } }
/-- SPDM_KEY_EXCHANGE (R440): it also sets the IDE keys. -/
def execSpdmKeyExchange (share : BitVec 256) (s : State) : Out :=
  let s := s.spdm 7 (leBytes 32 share.toNat)
  .next { s with hub := { s.hub with ideKey := some (Config.ideKey share) } }
/-- FIRMWARE_THREAD_START (R440, R441, R533, R538): a thread of a verified image, by a frame at F in a named free slot of its target in boot
test, or in that core's run queue. -/
def execFirmwareThreadStart (image : Nat) (slot : Option Nat) (fr : Frame) (s : State) : Out :=
  let c := fr.target
  let x := { fr with hearth := 0, kind := 2 }
  if !coreExists c ∨ (Status.unpack fr.billet.status).priv ≠ 2 ∨ !s.hub.verified.contains 0 ∨ !s.hub.verified.contains image then .next s
  else match slot with
    | some n =>
      if 16 ≤ n ∨ !(s.core c).bootTest ∨ (s.core c).quarantined ∨ (s.slot c n).busy then .next s else .next (s.placeFrame c n x {} {})
    | none => match if (s.core c).bootTest then .full else ({ s with curCore := c } : State).runAppend c x {} with
      | .ok s => .next (s.modCore c Core.roused)
      | _ => .next s
/-- BCTL_VIEW (R534, R537). -/
def execBctlView (c : Nat) (v : Word) (s : State) : Out :=
  .next (if coreExists c ∧ v.bits 1 1 = 0 then s.setBctl c v else s)
/-- BCTL_DONE (R534). -/
def execBctlDone (c : Nat) (v : Word) (s : State) : Out :=
  .next (if coreExists c ∧ v.bits 1 1 = 1 then s.setBctl c v else s)
/-- LSREP_WRITE (R536). -/
def execLsrepWrite (c n : Nat) (v : Word) (s : State) : Out := .next (if coreExists c ∧ n < 4 then s.setLsrep c n v else s)
/-- BOOT_TIMEOUT (R538): the housekeeping processor quarantines a core whose program has not written done, or has failed. -/
def execBootTimeout (c : Nat) (s : State) : Out :=
  let b := get {} s.hub.boots c
  .next (if b.bctl.bits 1 1 = 1 ∧ b.bstat.bits 63 60 ≠ 3 then s else s.quarantine c 0)

/-! ## Reductions and the network (R442, R443) -/

/-- A reduction object exists (R429, R442). -/
def redExists (h j : Nat) : Bool := h < 16 && j < 4
/-- REDUCTION_CTL_WRITE (R442). -/
def execReductionCtlWrite (h j : Nat) (v : Word) (s : State) : Out := .next (if redExists h j then s.setRedCtl h j v else s)
/-- REDUCTION_CONTRIBUTE (R442): the contribution of a package, of this one through its CONTRIB. -/
def execReductionContribute (h j pkg : Nat) (v : Word) (s : State) : Out :=
  if !redExists h j ∨ 64 ≤ pkg then .next s
  else
    let s := if pkg = s.hub.package then s.setReduction h j { get {} (s.hearth h).reductions j with contrib := v } else s
    .next (s.contribute h j pkg v)
/-- REDUCTION_GEN_CLEAR (R442). -/
def execReductionGenClear (h j : Nat) (v : Word) (s : State) : Out := .next (if redExists h j then s.clearRedGen h j v else s)
/-- UET_RECEIVE (R443): the message is written to the context's receive ring in device memory; a context without a ring drops it. -/
def execUetReceive (ctx : Nat) (payload : List Byte) (s : State) : Out :=
  match s.hub.rings.find? fun (e : Nat × Word × Nat) => e.1 == ctx with
  | none => .next s
  | some (_, base, off) =>
    let s := s.writeAt ((base.toNat + off) % 2 ^ 56) payload
    .next { s with hub := { s.hub with rings := s.hub.rings.map fun (e : Nat × Word × Nat) =>
      if e.1 == ctx then (ctx, base, off + payload.length) else e } }

/-! ## Losses in the fabric (R446, R467, R481) -/

/-- POD_LINK_FAILURE (R446): the accesses to other packages that are in flight are lost (log 42); one record for each hearth of one. -/
def execPodLinkFailure (link : Nat) (s : State) : Out :=
  if 8 ≤ link ∨ s.hub.podLinksDown.contains link then .next s
  else
    let lost (r : Req) : Bool := !r.hold && !s.ownPackage r.pa
    let hs := ((s.reqs.filter lost).map (·.hearth)).dedup
    let s := { s with hub := { s.hub with podLinksDown := s.hub.podLinksDown ++ [link] }
                      reqs := s.reqs.filter fun (r : Req) => !lost r }
    .next (hs.foldl (fun (s : State) h => s.report { cause := 0xC2, cls := 5, hearth := h }) s)
/-- FABRIC_ERROR (R467, R481): a frame, or a piece of a segment, is lost. -/
def execFabricError (what : FabricLoss) (s : State) : Out :=
  match what with
  | .frame n => match s.frames[n]? with
    | none => .next s
    | some x => .next ((({ s with frames := dropNth s.frames n } : State).resentBack x true).report
        { cause := 0xE3, cls := 6, hearth := x.frame.hearth, task := x.frame.billet.taskid })
  | .piece n => match s.pieces[n]? with
    | none => .next s
    | some p => if p.arrived then .next s else
      .next (({ s with pieces := dropNth s.pieces n } : State).report { cause := 0xE3, cls := 6, hearth := p.hearth,
                                                                         task := (p.entries.head?.map (·.task)).getD noTask })

end Sys2Proof.Machine
end

