-- ==== Sys2Proof/Machine/FloatOps.lean ====
section
/-! DEFINITION. The scalar floating-point instructions (R243-R246). -/

namespace Sys2Proof.Machine

/-- FP64 with f = 0 and FP32 with f = 1 (R243). -/
def fpFmt (f : Fld) : Fmt := if f.f = 1 then fp32 else fp64
/-- A source of a format: the low bits of its register (R243). -/
def Fmt.of (f : Fmt) (w : Word) : Num := f.decode (w.toNat % 2 ^ f.bits)
/-- The code in the low bits of a register. -/
def Fmt.code (f : Fmt) (w : Word) : Nat := w.toNat % 2 ^ f.bits

/-- rm = sr is illegal outside the narrowing conversions (R243). -/
def srBad (s : State) (f : Fld) : Option TrapRec := illfld s (f.rm = 5) f.pxrPos
/-- rm must be 0 (R244, R245). -/
def rmZero (s : State) (f : Fld) : Option TrapRec := illfld s (f.rm != 0) f.pxrPos

/-- An arithmetic instruction with two sources (R244). -/
def fp2 (i : Instr) (f : Fld) (op : Nat → Num → Num → Num) (s : State) : Out :=
  gate i (fun s => firstTrap [rcZero s f, srBad s f]) (fun s =>
    let m := fpFmt f
    s.result f f.d (word (m.round f.rm 0 0 0 (op f.rm (m.of (srcA f s.cur)) (m.of (srcB f s.cur)))))) s
/-- FADD (R244). -/
def execFadd (x : RR) (s : State) : Out := fp2 (.fadd x) x.fld Num.add s
/-- FSUB (R244). -/
def execFsub (x : RR) (s : State) : Out := fp2 (.fsub x) x.fld (fun rm a b => Num.add rm a b.neg) s
/-- FMUL (R244). -/
def execFmul (x : RR) (s : State) : Out := fp2 (.fmul x) x.fld (fun _ a b => a.mul b) s
/-- FDIV (R244). -/
def execFdiv (x : RR) (s : State) : Out := fp2 (.fdiv x) x.fld (fun _ a b => a.div b) s
/-- FMA: s * t + d with one rounding (R244). -/
def execFma (x : RR) (s : State) : Out :=
  gate (.fma x) (fun s => firstTrap [rcZero s x.fld, srBad s x.fld]) (fun s =>
    let f := x.fld
    let m := fpFmt f
    let p := (m.of (s.w f.s)).mul (m.of (s.w f.t))
    s.result f f.d (word (m.round f.rm 0 0 0 (Num.add f.rm p (m.of (s.w f.d)))))) s
/-- FSQRT (R244). -/
def execFsqrt (x : RR) (s : State) : Out :=
  gate (.fsqrt x) (fun s => firstTrap [rcZero s x.fld, srBad s x.fld, tZero s x.fld]) (fun s =>
    let f := x.fld
    let m := fpFmt f
    s.result f f.d (word (m.round f.rm 0 0 0 (m.of (s.w f.s)).sqrt))) s
/-- An operation on two codes, whose rm must be 0 (R245). -/
def fpCode (i : Instr) (f : Fld) (op : Fmt → Nat → Nat → Nat) (s : State) : Out :=
  gate i (fun s => firstTrap [rcZero s f, rmZero s f]) (fun s =>
    let m := fpFmt f
    s.result f f.d (word (op m (m.code (srcA f s.cur)) (m.code (srcB f s.cur))))) s
/-- FMIN (R245). -/
def execFmin (x : RR) (s : State) : Out := fpCode (.fmin x) x.fld Fmt.min s
/-- FMAX (R245). -/
def execFmax (x : RR) (s : State) : Out := fpCode (.fmax x) x.fld Fmt.max s
/-- FCMP: a one-hot code (R245). -/
def execFcmp (x : RR) (s : State) : Out := fpCode (.fcmp x) x.fld Fmt.compare s
/-- FCLASS: the class of a bit pattern (R245). -/
def execFclass (x : RR) (s : State) : Out :=
  gate (.fclass x) (fun _ => none) (fun s =>
    let f := x.fld
    let m := fpFmt f
    s.result f f.d (word (m.classify (m.code (s.w f.s))))) s

/-- The conversion draws (R176, R246): sr on a conversion to a narrower format. -/
def fcvtNarrows (f : Fld) : Bool := (f.t = 0 && f.f = 0) || f.t = 7 || f.t = 9
/-- The result of FCVT by its code t (R246), with a draw for rm = sr. -/
def fcvtResult (f : Fld) (draw : Nat) (w : Word) : Word :=
  let m := fpFmt f
  let i (lo hi : Int) := wordI ((m.of w).toRange f.rm lo hi)
  match f.t with
  | 0 => if f.f = 1 then word (fp64.round f.rm 0 0 0 (fp32.of w)) else word (fp32.round f.rm 0 0 draw (fp64.of w))
  | 1 => i (-2 ^ 63) (2 ^ 63 - 1)
  | 2 => i 0 (2 ^ 64 - 1)
  | 3 => i (-2 ^ 31) (2 ^ 31 - 1)
  | 4 => i 0 (2 ^ 32 - 1)
  | 5 => word (m.round f.rm 0 0 0 (Num.ofInt w.toInt))
  | 6 => word (m.round f.rm 0 0 0 (Num.ofInt w.toNat))
  | 7 => word (fp16.round f.rm 0 0 draw (m.of w))
  | 8 => word (m.round f.rm 0 0 0 (fp16.of w))
  | 9 => word (bf16.round f.rm 0 0 draw (m.of w))
  | 10 => word (m.round f.rm 0 0 0 (bf16.of w))
  | _ => word (m.round f.rm 0 0 0 (Num.ofInt (signed 32 (w.toNat % 2 ^ 32))))
/-- FCVT (R246): with rm = sr it draws once, and the counter rises when it commits (R176). -/
def execFcvt (x : RR) (s : State) : Out :=
  gate (.fcvt x)
    (fun s => firstTrap [rcZero s x.fld, illfld s (12 ≤ x.fld.t) x.fld.pxrPos,
      illfld s (x.fld.rm = 5 && !fcvtNarrows x.fld) x.fld.pxrPos])
    (fun s =>
      let f := x.fld
      let t := s.cur
      let s' := s.result f f.d (fcvtResult f (sparkDraw t.ctr 0 t.key).toNat (t.w f.s))
      if f.rm = 5 then s'.modCur fun t => { t with ctr := t.ctr + 1 } else s') s

end Sys2Proof.Machine
end

