-- ==== Sys2Proof/Machine/Pending.lean ====
section
/-! DEFINITION. The events that stand ready in a state: what the other agents do next where the state itself names no order (log 43). An
event that cannot take place yet leaves the state as it is. -/

namespace Sys2Proof.Machine

/-- The oldest of n events in flight first, then the others. -/
def oldestFirst (n : Nat) (f : Nat → State → Out) : List (State → Out) :=
  if n = 0 then [] else f 0 :: ((List.range (n - 1)).reverse.map fun i => f (i + 1))
/-- The homes that a round of beacons advances: those whose clock is behind what a die would now send. -/
def State.beaconHomes (s : State) : List Nat :=
  let vs := (List.range 4).map s.beaconValue
  let behind (k : Clock) : Bool := vs.zipIdx.any fun v => !serialGe (k.comp v.2) v.1
  let own := s.homes.filter (·.1 < 640)
  (own.filter fun e => behind e.2.kh).map (·.1) ++
    if behind {} && own.length < 640 then (List.range 640).filter fun h => (get? s.homes h).isNone else []
/-- Releases and pieces (R130-R135). -/
def State.pendingPieces (s : State) : List (State → Out) :=
  (s.cores.filter fun e => !e.2.log.closed.isEmpty).map (fun e => execReleaseStamp e.1) ++
  s.pieces.flatMap (fun p => [execPieceArrival p.id, execPieceApply p.id, execPieceAck p.id]) ++
  (List.range 4).map (fun e => execBeacon e) ++ s.beaconHomes.flatMap fun h => (List.range 4).map fun e => execBeaconReceipt h e
/-- The events that serve a request. -/
def Req.events (r : Req) : List (State → Out) :=
  match r.op with
  | .load _ | .watch .. | .boot _ => [execHomeAccess r.id]
  | .store _ => [execRemoteStoreArrival r.id]
  | .put .. => [execPutLanding r.id]
  | _ => if r.sc = 1 ∨ paClass r.pa = 1 then [execRemoteStoreArrival r.id] else [execAtomicExecute r.id, execDetUpdateArrival r.id]
/-- Requests and replies (R51, R142-R148). -/
def State.pendingReqs (s : State) : List (State → Out) :=
  s.reqs.flatMap Req.events ++ s.replies.flatMap fun p => [execLoadReply p.req.id, execStoreAck p.req.id]
/-- Frames, messages and continuations (R53, R54, R78, R79). -/
def State.pendingThreads (s : State) : List (State → Out) :=
  oldestFirst s.frames.length execFrameArrival ++ oldestFirst s.refused.length execFrameRefused ++
  s.cores.flatMap (fun e => e.2.departing.map fun d => execDepartureResend e.1 d.1) ++
  oldestFirst s.messages.length execMessageArrival ++ oldestFirst s.conts.length execContinuationResume
/-- The events of a domain's regulator and clock (R414, R415). -/
def domainPending (d : Domain) (changes paused : Bool) : List (State → Out) :=
  (if changes then [execVoltageRampDone d] else []) ++ if paused then [execClockRestart d] else []
/-- The events of one core and its units. -/
def Core.pending (k : Core) (c : Nat) : List (State → Out) :=
  (k.xcache.filter fun x => x.base.isNone).map (fun x => execSlotFill c x.hearth x.idx) ++
  k.slots.flatMap (fun t => (t.2.streams.filter fun b => !b.2.write).map fun b => execStreamFetch c t.1 b.1) ++
  (k.tongs.filter fun x => x.2.busy).flatMap (fun x => [execTongsTransfer c x.1, execCopyFault c x.1, execCopyComplete c x.1]) ++
  (if k.seqr.isSome then [execSequencerQueue c] else []) ++
  (if k.anvq.isEmpty then [] else
    [execAnvilCommandStart (clusterOf c), execAnvilCommandComplete (clusterOf c) .clean, execAnvilFetchFault (clusterOf c)]) ++
  domainPending (.core c) k.pw.change.isSome k.pw.paused ++
  (if k.pw.gated then [fun s => if s.tailMoved c then execGateWake c s else .next s] else []) ++
  (if k.log.newSize.isSome then [execLogsizeWrite c] else []) ++
  ((k.slots.filter fun t => t.2.wait == .footprint).map fun t => execFootprintLanded c t.1) ++
  (if k.bootTest then [] else [execDispatch c])
/-- The events of a hearth at the hub. -/
def Hearth.pending (q : Hearth) (h : Nat) (homes : List Nat) : List (State → Out) :=
  (match q.commands with
  | [] => []
  | _ :: _ => [execLaunch h, execPhaseDeclare h, execPhaseEnterDeterministic h, execPhaseAbort h, execMap h, execUnmap h, execLoadbin h, execSignal h, execSuspend h,
      execResume h, execReset h]) ++
  ((List.range 4).filter fun i => (get 0 q.qbase i).bits 0 0 == 1 && get 0 q.qtail i != get 0 q.qhead i).map (fun i => execCommandAccept h i) ++
  oldestFirst q.det.exiting.length (execExitCount h) ++
  (if q.det.current.isNone then [] else
    execPhaseCommit h :: (if q.det.committing then homes.map (fun hm => execHomeCommitMerge hm h) ++ [execPhaseCommit h] else []))
/-- The homes with something deferred for a hearth. -/
def State.deferHomes (s : State) (q : Hearth) : List Nat :=
  (q.det.pieces.map (·.home) ++ q.det.accs.map (fun u => homeOf u.pa) ++
    (s.homes.filter fun e => !e.2.holding.isEmpty || !e.2.overflow.isEmpty).map (·.1)).dedup
/-- Every event that stands ready, in the order in which the model lets them take place. -/
def State.pending (s : State) : List (State → Out) :=
  s.pendingPieces ++ s.pendingReqs ++ s.dies.flatMap (fun e => e.2.walks.map fun w => execWalkComplete e.1 w.id) ++
  s.xadds.map (fun x => execExperienceAdd x.id) ++ s.pendingThreads ++ s.cores.flatMap (fun e => e.2.pending e.1) ++
  s.clusters.flatMap (fun e => domainPending (.cluster e.1) e.2.change.isSome e.2.paused) ++
  s.hearths.flatMap fun e => e.2.pending e.1 (s.deferHomes e.2)
/-- The listed core that follows c, with wrap. -/
def State.focusAfter (s : State) (c : Nat) : Nat :=
  match s.coreIds.find? (c < ·) with
  | some x => x
  | none => s.coreIds.headD c
/-- An event takes place. -/
def after (s : State) (e : State → Out) : State :=
  match e s with
  | .next s => s
  | _ => s
/-- After an opportunity that no slot takes: the events that stand ready take place, and next is the next core's opportunity (log 43). -/
def State.onward (s : State) : State :=
  s.pending.foldl after { s with focus := s.focusAfter s.focus }

end Sys2Proof.Machine
end

