-- ==== Sys2Proof/Machine/Issue.lean ====
section
/-! DEFINITION. Issue: which slot of a core issues at an opportunity of a pipe (R29-R35, R410), and placing a program. -/

namespace Sys2Proof.Machine

/-- The core's slots may issue at all: it is neither quarantined, nor its clock stopped, nor its die halted or without power
(R416, R464, R522, R525). -/
def State.coreRuns (s : State) (c : Nat) : Bool :=
  let k := s.core c
  let d := s.die (dieOf c)
  !k.quarantined && !k.pw.paused && !k.pw.vrfail && !d.trip3 && !d.powerLost

/-- The counts are at or below limits (R154, R285). -/
def countsOk (t : Slot) (l st cp tl : Nat) : Bool := t.loads ≤ l && t.stores ≤ st && t.copies ≤ cp && t.tiles ≤ tl

/-- The wait of a slot is over, or names a fault that is to be taken (R33 condition 1). -/
def State.waitOver (s : State) (c : Nat) (t : Slot) : Bool :=
  match t.wait with
  | .none | .retry => true
  | .counts l st cp tl => countsOk t l st cp tl || (namedFault t l st cp tl).isSome
  | .acq core tail => tail ≤ (get 0 (s.core core).log.pubtail t.st.hearth).toNat
  | .sleep till _ => till ≤ (s.core c).cycle.toNat
  | .chan ch => !(get {} (s.core c).tongs ch).busy
  | _ => false

/-- A trap of an anvil command breaks a wait that re-executes (R512); one that a wt field makes ends first. -/
def anvBreaks (t : Slot) : Bool :=
  t.anvPend.isSome &&
    match t.wait with
    | .counts _ _ _ tl => tl < 2 ^ 64
    | .stuck | .footprint => false
    | _ => true
/-- The slot holds a thread that may issue, apart from its next instruction (R33 conditions 1 and 2). -/
def State.slotLive (s : State) (c n : Nat) : Bool :=
  let k := s.core c
  let t := k.slot n
  t.busy && t.readyAt ≤ k.cycle.toNat && k.issuedS != some n && (s.waitOver c t || anvBreaks t)

/-- The scoreboard permits an instruction (R33 condition 4): no source and no destination is pending. -/
def scoreboardOk (t : Slot) (u : Use) : Bool :=
  (u.rw ++ u.ww).all (fun n => !t.pendW.contains (t.entry n)) && (u.rv ++ u.wv).all (fun n => !t.pendV.contains n)
/-- The streams permit it (R33 condition 5): each bound read stream that it reads holds its next vector or has met that vector's
fault (R327), unless it has ended. -/
def streamsOk (t : Slot) (u : Use) : Bool :=
  u.rv.all fun n =>
    match get? t.streams n with
    | some b => b.write || b.count ≤ b.next || (get? b.fetched b.next).isSome || b.bad.contains b.next
    | none => true

/-- The bound read streams that keep an instruction waiting have been found late (R327). -/
def markLate (u : Use) (t : Slot) : Slot :=
  { t with streams := t.streams.map fun p =>
      if u.rv.contains p.1 && !p.2.write && (get? p.2.fetched p.2.next).isNone then (p.1, { p.2 with late := true }) else p }

/-- The scalar or the vector pipe of a core has the turn. -/
def Core.takesPage (k : Core) (page : Bool) : Bool := (k.pipe == 1) == page

/-- A slot has used an opportunity: it is next ready four core cycles later (R30), and the pipe's pointer follows it (R31). -/
def State.tookTurn (s : State) (c n pipe : Nat) : State :=
  let s := s.modCore c fun k => if pipe = 0 then { k with ptrS := n, issuedS := some n } else { k with ptrV := n }
  s.modSlot c n fun t => { t with readyAt := (s.core c).cycle.toNat + 4 }
/-- An instruction of a slot has issued (R30, R31, R411). -/
def State.issued (s : State) (c n pipe : Nat) : State := (s.modPower c fun p => { p with issued := p.issued + 1 }).tookTurn c n pipe

/-- The end of an opportunity: the vector pipe's follows the scalar pipe's, and after it the core cycle ends (R29). -/
def State.tick (s : State) (c : Nat) : State :=
  s.modCore c fun k =>
    if k.pipe = 0 then { k with pipe := 1 }
    else { k with pipe := 0, issuedS := none, cycle := k.cycle + 1, pw := { k.pw with cycles := k.pw.cycles + 1 } }

/-- The thread of a slot takes a trap at an opportunity. -/
def State.slotTrap (s : State) (c n : Nat) (pc : Word) (r : TrapRec) : State :=
  { s with curCore := c, curSlot := n }.trapAt pc r

/-- The wait of a slot ends: a sleep continues after its instruction (R287); every other wait re-executes or has committed. -/
def endWait (t : Slot) : Slot :=
  match t.wait with
  | .sleep _ npc => { t with wait := .none, pc := npc }
  | _ => { t with wait := .none }

/-- What an attempt at a slot comes to: nothing issues and the opportunity goes on to the next slot, or it is used. `mem` says that the slot
waits on a memory reply, a permit or a stream (R411). -/
inductive Attempt where
  | skip (mem : Bool) (s : State)
  | used (o : Out)

/-- The wait is for a reply or a permit (R411): the limits that a wt field sets are permits, and those of WAIT and EXIT conditions of waking
(R33, R35). -/
def Wait.onMemory : Wait → Bool
  | .retry => true
  | .counts _ _ _ tl => 2 ^ 64 ≤ tl
  | _ => false
/-- The wait is one of R33 condition 6, or another that an instruction meets before it has an effect: it issues when the wait is over. -/
def Wait.beforeIssue : Wait → Bool
  | .retry | .counts .. | .chan _ | .acq .. | .footprint | .stuck => true
  | _ => false
/-- An attempt at an instruction that leaves its thread waiting for a reply or a permit, at the same address, is no issue (R33, R35). -/
def stillWaits (before : Slot) (after : Slot) : Bool :=
  after.busy && after.pc == before.pc && after.taskid == before.taskid && after.wait.beforeIssue
/-- The checker found that the first execution of an instruction which retires does not match, and its second agrees: the instruction commits
and a record is written (R463; log 137). -/
def State.checked (s before : State) (c n : Nat) : State :=
  if !(before.core c).mismatch || (s.slot c n).atVector then s
  else ((s.modCore c fun k => { k with mismatch := false }).report
    { before.threadRecord c n 0x82 2 with addr := (before.slot c n).pc }).softLimit c n

/-- The translations that a slot's instruction waits for (R119). -/
def State.missCount (s : State) (c n : Nat) : Nat := ((s.die (dieOf c)).misses.filter fun m => m.core == c && m.who == n).length
/-- An attempt that leaves its instruction waiting has acted: it has issued, and completes when its wait is over, at no further cost (R31,
R35; log 148). -/
def State.beganIn (s s' : State) (c n : Nat) : Bool := (s'.slot c n).begun || s.missCount c n < s'.missCount c n
/-- The instruction of a slot has ended: its translations are no longer held (R478). -/
def State.ended (s before : State) (c n : Nat) : State :=
  let s := (s.checked before c n).dropMisses c n
  if (s.slot c n).begun then s.modSlot c n fun t => { t with begun := false } else s
/-- Execute a fetched instruction in a slot. -/
def State.tryInstr (ex : Instr → State → Out) (s : State) (c n : Nat) (i : Instr) : Attempt :=
  let k := s.core c
  let t := s.slot c n
  let u := useOf i (fldOf i)
  if !scoreboardOk t u then .skip true s
  else if !streamsOk t u then .skip true (if k.takesPage (i.page != 0) then s.modSlot c n (markLate u) else s)
  else if !k.takesPage (i.page != 0) then .skip false s
  else
    match ex i ({ s with curCore := c, curSlot := n }.modCur fun t => { t with atVector := false }) with
    | .next s' =>
      if stillWaits t (s'.slot c n) then
        if !t.begun && s.beganIn s' c n then .used (.next ((s'.modSlot c n fun t => { t with begun := true }).issued c n k.pipe))
        else .skip (s'.slot c n).wait.onMemory s'
      else if t.begun then .skip false (s'.ended s c n)
      else .used (.next ((s'.ended s c n).issued c n k.pipe))
    | o => .used o

/-- An opportunity offered to a slot (R31). A trap at an instruction boundary uses none (R452): the handler's first instruction is offered the
same one. A fetch that faults uses one as a decode trap does, of the pipe that R29 gives to what was decoded before it (log 149). -/
def State.trySlot (ex : Instr → State → Out) (s : State) (c n : Nat) : Attempt :=
  if !s.slotLive c n then .skip ((s.slot c n).busy && (s.slot c n).wait.onMemory) s
  else
    let s := { (s.boundary c n).getD s with curCore := c, curSlot := n }.modSlot c n endWait
    match s.fetchSlot c n with
    | (.wait, s) => .skip true s
    | (.fault cause a page, s) =>
      if (s.slot c n).atVector then .skip false (s.vectorFault c n cause)
      else if (s.core c).takesPage page then
        .used (.next ((State.fetchFault { s with curCore := c, curSlot := n } cause a).dropMisses c n |>.tookTurn c n (s.core c).pipe))
      else .skip false s
    | (.trap cause idx page, s) =>
      let pc := (s.slot c n).pc
      if (s.core c).takesPage page then
        .used (.next ((s.slotTrap c n pc { cause := cause, addr := pc + word (2 * idx) }).dropMisses c n |>.tookTurn c n (s.core c).pipe))
      else .skip false s
    | (.instr i _, s) => s.tryInstr ex c n i

/-- The slots in the order of the pipe's pointer (R31). -/
def Core.order (k : Core) : List Nat :=
  let p := if k.pipe = 0 then k.ptrS else k.ptrV
  (List.range 16).map fun i => (p + 1 + i) % 16

/-- A lost opportunity of the vector pipe ends a cycle in which no slot was ready, when the scalar pipe's was lost too: it counts where a
slot waits on memory (R411). -/
def State.lost (s : State) (c : Nat) (mem : Bool) : State :=
  let k := s.core c
  if k.pipe == 1 && k.issuedS.isNone && mem then s.modPower c fun p => { p with stall := p.stall + 1 } else s
/-- Offer the opportunity to each slot in turn; if none takes it, it is lost (R31), and the other agents act (log 43). -/
def issueFrom (ex : Instr → State → Out) (c : Nat) (mem : Bool) : List Nat → State → Out
  | [], s => .next ((s.lost c mem).tick c).onward
  | n :: rest, s =>
    match s.trySlot ex c n with
    | .skip m s => issueFrom ex c (mem || m) rest s
    | .used (.next s) => .next (s.tick c)
    | .used o => o

/-- Some slot would issue to the pipe whose turn it is. -/
def State.wouldIssue (ex : Instr → State → Out) (s : State) (c : Nat) : Bool :=
  (s.core c).order.any fun n => match s.trySlot ex c n with
    | .used _ => true
    | .skip .. => false
/-- An opportunity of a cycle that is not fetch-enabled: the cycle counts once as wanted when a slot was ready for either pipe (R410,
R411). -/
def State.disabled (ex : Instr → State → Out) (s : State) (c : Nat) : State :=
  let k := s.core c
  let want := k.pipe == 0 && (s.wouldIssue ex c || (s.setCore c { k with pipe := 1 }).wouldIssue ex c)
  (if want then s.modPower c fun p => { p with want := p.want + 1 } else s).tick c
/-- Hardware corrects an error of the core's register files or local store, and counts it (R451). -/
def State.scrubbed (s : State) (c : Nat) : State :=
  if (s.core c).upset then (s.modCore c fun k => { k with upset := false, softErrs := k.softErrs + 1 }).softLimit c (s.core c).ptrS else s
/-- An opportunity of a core that does not run: a quarantined one goes on with the disposal of its threads (R464). -/
def State.standing (s : State) (c : Nat) : State :=
  if (s.core c).quarantined && !s.clockStopped c && !(s.core c).toDispose.isEmpty then s.disposal c else s
/-- One issue opportunity of a core (R29, R410). A core whose clock is stopped does nothing (R416). -/
def issue (ex : Instr → State → Out) (c : Nat) (s : State) : Out :=
  let s := if s.coreRuns c then s.scrubbed c else s
  if !s.coreRuns c then .next (s.standing c).onward
  else if !s.fetchEnabled c then .next (s.disabled ex c).onward
  else issueFrom ex c false (s.core c).order s

/-- A slot with a firmware thread at an address: F, hearth 0, no task record, nothing live (R441, R538; log 9). -/
def programSlot (pc : Word) : Slot where
  busy := true
  pc := pc
  st := { priv := 2, hearth := 0 }
  taskid := 0x0000FFFFFFFFFFFF

/-- The bytes of parcels in memory (R203). -/
def parcelBytes (ps : List Parcel) : List Byte := ps.flatMap fun p => leBytes 2 p.toNat

/-- Place parcels at offset 0 of core 0's local store, and a firmware thread at them in slot 0, next to issue (log 9). -/
def State.loadProgram (s : State) (ps : List Parcel) : State :=
  let s := { s with agenda := [], focus := 0, curCore := 0, curSlot := 0 }
  let s := s.setBytes (lsPA s 0 0) (parcelBytes ps ++ List.replicate (10 - 2 * ps.length) 0)
  let page := match decode ps with
    | .ok i _ => i.page != 0
    | _ => false
  s.modCore 0 fun k =>
    { k with icache := [], pipe := if page then 1 else 0, issuedS := none, ptrS := 15, ptrV := 15,
             slots := put k.slots 0 (programSlot (windowVA 0 0)), halted := none, quarantined := false,
             pw := { k.pw with gated := false, paused := false, vrfail := false, fduty := 0x10 },
             lsown0 := k.lsown0 &&& ~~~(0xF : Word) }

end Sys2Proof.Machine
end

