-- ==== Sys2Proof/Machine/Scalar.lean ====
section
/-! DEFINITION. The integer, move, immediate, address and bit-field instructions (R231-R242, R256). -/

namespace Sys2Proof.Machine

/-- Limits of the integer instructions: a present PXR has rc = 0 and sz = 0 (R231). -/
def intChk (f : Fld) (s : State) : Option TrapRec := firstTrap [rcZero s f, szZero s f]
/-- A binary operation at the width of R233. -/
def bin (f : Fld) (op : (n : Nat) → BitVec n → BitVec n → BitVec n) (a b : Word) : Word :=
  if f.f = 1 then (op 32 (a.setWidth 32) (b.setWidth 32)).signExtend 64 else op 64 a b
/-- A unary operation at the width of R233. -/
def una (f : Fld) (op : (n : Nat) → BitVec n → BitVec n) (a : Word) : Word :=
  if f.f = 1 then (op 32 (a.setWidth 32)).signExtend 64 else op 64 a
/-- The two- and three-operand forms of R235. -/
def int2 (i : Instr) (f : Fld) (op : (n : Nat) → BitVec n → BitVec n → BitVec n) (s : State) : Out :=
  gate i (intChk f) (fun s => s.result f f.d (bin f op (srcA f s.cur) (srcB f s.cur))) s
/-- The unary forms of R237. -/
def int1 (i : Instr) (f : Fld) (op : (n : Nat) → BitVec n → BitVec n) (s : State) : Out :=
  gate i (fun _ => none) (fun s => s.result f f.d (una f op (s.w f.s))) s
/-- The RI forms of R240 on a signed immediate. -/
def intI (i : Instr) (f : Fld) (op : Word → Word → Word) (s : State) : Out :=
  gate i (intChk f) (fun s => s.result f f.d (op (srcI f s.cur) (wordI f.immS))) s
/-- The shifts by an immediate of R240: 64 or more traps. -/
def shiftI (i : Instr) (f : Fld) (op : Word → Nat → Word) (s : State) : Out :=
  gate i (fun s => firstTrap [rcZero s f, szZero s f, illfld s (64 ≤ f.immU) f.immPos])
    (fun s => s.result f f.d (op (srcI f s.cur) f.immU)) s

/-- The shift amount of an n-bit operation (R235). -/
def amount {n : Nat} (b : BitVec n) : Nat := b.toNat % n
/-- A truth value of a comparison. -/
def flag {n : Nat} (b : Bool) : BitVec n := if b then 1 else 0
/-- Leading zero bits. -/
def clzOf (n : Nat) (a : BitVec n) : BitVec n := BitVec.ofNat n (if a = 0 then n else n - 1 - Nat.log2 a.toNat)
/-- Trailing zero bits. -/
def ctzOf (n : Nat) (a : BitVec n) : BitVec n := BitVec.ofNat n (((List.range n).find? a.getLsbD).getD n)
/-- One bits. -/
def popcOf (n : Nat) (a : BitVec n) : BitVec n := BitVec.ofNat n ((List.range n).countP a.getLsbD)
/-- Bytes in reverse order. -/
def bswapOf (n : Nat) (a : BitVec n) : BitVec n := BitVec.ofNat n (leNat (leBytes (n / 8) a.toNat).reverse)
/-- Signed division (R235, R236). -/
def divS (n : Nat) (a b : BitVec n) : BitVec n := if b = 0 then -1 else BitVec.ofInt n (a.toInt.tdiv b.toInt)
/-- Unsigned division. -/
def divU (n : Nat) (a b : BitVec n) : BitVec n := if b = 0 then -1 else BitVec.ofNat n (a.toNat / b.toNat)
/-- Signed remainder. -/
def remS (n : Nat) (a b : BitVec n) : BitVec n := if b = 0 then a else BitVec.ofInt n (a.toInt.tmod b.toInt)
/-- Unsigned remainder. -/
def remU (n : Nat) (a b : BitVec n) : BitVec n := if b = 0 then a else BitVec.ofNat n (a.toNat % b.toNat)
/-- The high half of the signed product. -/
def mulhS (n : Nat) (a b : BitVec n) : BitVec n := BitVec.ofInt n (a.toInt * b.toInt / 2 ^ n)
/-- The high half of the unsigned product. -/
def mulhU (n : Nat) (a b : BitVec n) : BitVec n := BitVec.ofNat n (a.toNat * b.toNat / 2 ^ n)

/-- NOP does nothing but advance the PC (R256). -/
def execNop (x : Z9) (s : State) : Out := gate (.nop x) (fun _ => none) (fun s => s.advance x.fld) s
/-- ADD: a + b, wrapping (R235). -/
def execAdd (x : RR) (s : State) : Out := int2 (.add x) x.fld (fun _ a b => a + b) s
/-- SUB: a - b, wrapping (R235). -/
def execSub (x : RR) (s : State) : Out := int2 (.sub x) x.fld (fun _ a b => a - b) s
/-- MUL: the low half of a * b (R235). -/
def execMul (x : RR) (s : State) : Out := int2 (.mul x) x.fld (fun _ a b => a * b) s
/-- MULH: the high half of the signed product (R235). -/
def execMulh (x : RR) (s : State) : Out := int2 (.mulh x) x.fld mulhS s
/-- MULHN: the high half of the unsigned product (R235). -/
def execMulhn (x : RR) (s : State) : Out := int2 (.mulhn x) x.fld mulhU s
/-- DIV: the signed quotient, truncated toward zero (R236) (R235). -/
def execDiv (x : RR) (s : State) : Out := int2 (.div x) x.fld divS s
/-- DIVN: the unsigned quotient (R236) (R235). -/
def execDivn (x : RR) (s : State) : Out := int2 (.divn x) x.fld divU s
/-- REM: the signed remainder, with the sign of a (R236) (R235). -/
def execRem (x : RR) (s : State) : Out := int2 (.rem x) x.fld remS s
/-- REMN: the unsigned remainder (R236) (R235). -/
def execRemn (x : RR) (s : State) : Out := int2 (.remn x) x.fld remU s
/-- AND: a AND b (R235). -/
def execAnd (x : RR) (s : State) : Out := int2 (.and x) x.fld (fun _ a b => a &&& b) s
/-- OR: a OR b (R235). -/
def execOr (x : RR) (s : State) : Out := int2 (.or x) x.fld (fun _ a b => a ||| b) s
/-- XOR: a XOR b (R235). -/
def execXor (x : RR) (s : State) : Out := int2 (.xor x) x.fld (fun _ a b => a ^^^ b) s
/-- SHL: a shifted left (R235). -/
def execShl (x : RR) (s : State) : Out := int2 (.shl x) x.fld (fun _ a b => a <<< amount b) s
/-- SHR: a shifted right, logical (R235). -/
def execShr (x : RR) (s : State) : Out := int2 (.shr x) x.fld (fun _ a b => a >>> amount b) s
/-- SAR: a shifted right, arithmetic (R235). -/
def execSar (x : RR) (s : State) : Out := int2 (.sar x) x.fld (fun _ a b => a.sshiftRight (amount b)) s
/-- ROL: a rotated left (R235). -/
def execRol (x : RR) (s : State) : Out := int2 (.rol x) x.fld (fun _ a b => a.rotateLeft (amount b)) s
/-- ROR: a rotated right (R235). -/
def execRor (x : RR) (s : State) : Out := int2 (.ror x) x.fld (fun _ a b => a.rotateRight (amount b)) s
/-- MIN: the lesser, signed (R235). -/
def execMin (x : RR) (s : State) : Out := int2 (.min x) x.fld (fun _ a b => if a.slt b then a else b) s
/-- MAX: the greater, signed (R235). -/
def execMax (x : RR) (s : State) : Out := int2 (.max x) x.fld (fun _ a b => if b.slt a then a else b) s
/-- MINN: the lesser, unsigned (R235). -/
def execMinn (x : RR) (s : State) : Out := int2 (.minn x) x.fld (fun _ a b => if a.ult b then a else b) s
/-- MAXN: the greater, unsigned (R235). -/
def execMaxn (x : RR) (s : State) : Out := int2 (.maxn x) x.fld (fun _ a b => if b.ult a then a else b) s
/-- CMPEQ: 1 if a = b, else 0 (R235). -/
def execCmpeq (x : RR) (s : State) : Out := int2 (.cmpeq x) x.fld (fun _ a b => flag (a == b)) s
/-- CMPLT: 1 if a < b, signed, else 0 (R235). -/
def execCmplt (x : RR) (s : State) : Out := int2 (.cmplt x) x.fld (fun _ a b => flag (a.slt b)) s
/-- CMPLTN: 1 if a < b, unsigned, else 0 (R235). -/
def execCmpltn (x : RR) (s : State) : Out := int2 (.cmpltn x) x.fld (fun _ a b => flag (a.ult b)) s
/-- CLZ: leading zero bits (R237). -/
def execClz (x : RR) (s : State) : Out := int1 (.clz x) x.fld clzOf s
/-- CTZ: trailing zero bits (R237). -/
def execCtz (x : RR) (s : State) : Out := int1 (.ctz x) x.fld ctzOf s
/-- POPC: one bits (R237). -/
def execPopc (x : RR) (s : State) : Out := int1 (.popc x) x.fld popcOf s
/-- BSWAP: bytes in reverse order (R237). -/
def execBswap (x : RR) (s : State) : Out := int1 (.bswap x) x.fld bswapOf s
/-- ABS: the absolute value; the most negative value gives itself (R237). -/
def execAbs (x : RR) (s : State) : Out := int1 (.abs x) x.fld (fun _ a => if a.msb then -a else a) s
/-- Limits of SEXT and ZEXT (R237). -/
def extChk (f : Fld) (s : State) : Option TrapRec :=
  firstTrap [rcZero s f, tZero s f, illfld s (f.f = 1) f.last]
/-- SEXT: s sign-extended from the width of sz (R237). -/
def execSext (x : RR) (s : State) : Out :=
  gate (.sext x) (extChk x.fld) (fun s =>
    let f := x.fld
    let n := 8 * szBytes f.sz
    s.result f f.d (wordI (signed n ((s.w f.s).toNat % 2 ^ n)))) s
/-- ZEXT: s zero-extended from the width of sz (R237). -/
def execZext (x : RR) (s : State) : Out :=
  gate (.zext x) (extChk x.fld) (fun s =>
    let f := x.fld
    s.result f f.d (word ((s.w f.s).toNat % 2 ^ (8 * szBytes f.sz)))) s
/-- SEL: s or t by the condition in d (R238). -/
def execSel (x : RR) (s : State) : Out :=
  gate (.sel x) (intChk x.fld) (fun s =>
    let f := x.fld
    let c := if f.f = 1 then (s.w f.d).setWidth 32 != 0 else s.w f.d != 0
    let v := if c then s.w f.s else s.w f.t
    s.result f f.d (if f.f = 1 then sext32 v else v)) s

/-- MOV of a scalar register (R239). A PXR with rc 0 or 1 traps. -/
def execMov (x : RR) (s : State) : Out :=
  gate (.mov x) (fun s => illfld s x.fld.pxr x.fld.pxrPos) (fun s =>
    let f := x.fld
    s.result f f.d (if f.f = 1 then sext32 (s.w f.s) else s.w f.s)) s
/-- Limits of the MOVs of loop and mask registers (R239): t below 8, sz = 0, and the unused register field 0. -/
def movChk (f : Fld) (unused : Nat) (s : State) : Option TrapRec :=
  firstTrap [szZero s f, illfld s (8 ≤ f.t) f.pxrPos, illfld s (unused != 0) f.last]
/-- The key of a loop register: each core holds a set for every hearth (R239). -/
def loopKey (s : State) (t : Nat) : Nat := 8 * s.cur.st.hearth + t
/-- MOV l<t>, s (R239). -/
def execMovToLoop (x : RR) (s : State) : Out :=
  gate (.movToLoop x) (fun s => movChk x.fld x.fld.d s) (fun s =>
    let f := x.fld
    let v := s.w f.s
    let k := loopKey s f.t
    (s.modCurK fun q => { q with loops := put q.loops k v }).advance f) s
/-- MOV d, l<t> (R239). -/
def execMovFromLoop (x : RR) (s : State) : Out :=
  gate (.movFromLoop x) (fun s => movChk x.fld x.fld.s s) (fun s =>
    let f := x.fld
    s.result f f.d (get 0 s.curK.loops (loopKey s f.t))) s
/-- MOV m<t>, s (R239): the thread loses vclean (R48). -/
def execMovToMask (x : RR) (s : State) : Out :=
  gate (.movToMask x) (fun s => movChk x.fld x.fld.d s) (fun s =>
    let f := x.fld
    (s.modCur fun q => q.setMask f.t (q.w f.s)).advance f) s
/-- MOV d, m<t> (R239). -/
def execMovFromMask (x : RR) (s : State) : Out :=
  gate (.movFromMask x) (fun s => movChk x.fld x.fld.s s) (fun s =>
    let f := x.fld
    s.result f f.d (s.cur.mask f.t)) s
/-- ADDI (R240). -/
def execAddi (x : RI) (s : State) : Out := intI (.addi x) x.fld (fun a i => a + i) s
/-- ANDI (R240). -/
def execAndi (x : RI) (s : State) : Out := intI (.andi x) x.fld (fun a i => a &&& i) s
/-- ORI (R240). -/
def execOri (x : RI) (s : State) : Out := intI (.ori x) x.fld (fun a i => a ||| i) s
/-- XORI (R240). -/
def execXori (x : RI) (s : State) : Out := intI (.xori x) x.fld (fun a i => a ^^^ i) s
/-- SHLI (R240). -/
def execShli (x : RI) (s : State) : Out := shiftI (.shli x) x.fld (fun a n => a <<< n) s
/-- SHRI (R240). -/
def execShri (x : RI) (s : State) : Out := shiftI (.shri x) x.fld (fun a n => a >>> n) s
/-- SARI (R240). -/
def execSari (x : RI) (s : State) : Out := shiftI (.sari x) x.fld (fun a n => a.sshiftRight n) s
/-- MOVI (R240). -/
def execMovi (x : RI) (s : State) : Out :=
  gate (.movi x) (fun _ => none) (fun s => s.result x.fld x.fld.d (wordI x.fld.immS)) s
/-- ADDPC: the PC plus the immediate, in bytes (R240). -/
def execAddpc (x : RI) (s : State) : Out :=
  gate (.addpc x) (fun _ => none) (fun s => s.result x.fld x.fld.d (s.cur.pc + wordI x.fld.immS)) s
/-- LEA: an address without an access (R241). -/
def execLea (x : RR) (s : State) : Out :=
  gate (.lea x) (fun s => firstTrap [rcZero s x.fld, illfld s (!x.fld.pxr && x.fld.f == 1) x.fld.last])
    (fun s => s.result x.fld x.fld.d (effAddr x.fld s.cur)) s

/-- The position of a bit field (R242). -/
def bitPos (f : Fld) : Nat := natBits f.immU 6 6
/-- The length of a bit field (R242). -/
def bitLen (f : Fld) : Nat := natBits f.immU 0 6 + 1
/-- Limits of the bit-field immediates (R242). -/
def bitChk (f : Fld) (s : State) : Option TrapRec :=
  illfld s (2 ^ 12 ≤ f.immU || 64 < bitPos f + bitLen f) f.immPos
/-- BITX: a bit field of s, zero-extended, or sign-extended with f = 1 (R242). -/
def execBitx (x : RR) (s : State) : Out :=
  gate (.bitx x) (bitChk x.fld) (fun s =>
    let f := x.fld
    let v := natBits (s.w f.s).toNat (bitPos f) (bitLen f)
    s.result f f.d (if f.f = 1 then wordI (signed (bitLen f) v) else word v)) s
/-- BITI: insert the low bits of s into a bit field of d (R242). -/
def execBiti (x : RR) (s : State) : Out :=
  gate (.biti x) (fun s => firstTrap [bitChk x.fld s, illfld s (x.fld.f = 1) x.fld.last]) (fun s =>
    let f := x.fld
    let m : Word := word (2 ^ bitLen f - 1)
    s.result f f.d (((s.w f.s &&& m) <<< bitPos f) ||| (s.w f.d &&& ~~~(m <<< bitPos f)))) s

end Sys2Proof.Machine
end

