-- ==== Sys2Proof/Machine/Dispatch.lean ====
section
/-! DEFINITION. The meaning of every row of the table, one arm each. -/

namespace Sys2Proof.Machine

def exec (i : Instr) (s : State) : Host.Outcome State Fault Refusal :=
  match i with
  | .nop x => Sys2Proof.Machine.execNop x s
  | .add x => Sys2Proof.Machine.execAdd x s
  | .addi x => Sys2Proof.Machine.execAddi x s
  | .sub x => Sys2Proof.Machine.execSub x s
  | .mul x => Sys2Proof.Machine.execMul x s
  | .mulh x => Sys2Proof.Machine.execMulh x s
  | .mulhn x => Sys2Proof.Machine.execMulhn x s
  | .div x => Sys2Proof.Machine.execDiv x s
  | .divn x => Sys2Proof.Machine.execDivn x s
  | .rem x => Sys2Proof.Machine.execRem x s
  | .remn x => Sys2Proof.Machine.execRemn x s
  | .and x => Sys2Proof.Machine.execAnd x s
  | .andi x => Sys2Proof.Machine.execAndi x s
  | .or x => Sys2Proof.Machine.execOr x s
  | .ori x => Sys2Proof.Machine.execOri x s
  | .xor x => Sys2Proof.Machine.execXor x s
  | .xori x => Sys2Proof.Machine.execXori x s
  | .shl x => Sys2Proof.Machine.execShl x s
  | .shr x => Sys2Proof.Machine.execShr x s
  | .sar x => Sys2Proof.Machine.execSar x s
  | .shli x => Sys2Proof.Machine.execShli x s
  | .shri x => Sys2Proof.Machine.execShri x s
  | .sari x => Sys2Proof.Machine.execSari x s
  | .rol x => Sys2Proof.Machine.execRol x s
  | .ror x => Sys2Proof.Machine.execRor x s
  | .clz x => Sys2Proof.Machine.execClz x s
  | .ctz x => Sys2Proof.Machine.execCtz x s
  | .popc x => Sys2Proof.Machine.execPopc x s
  | .bswap x => Sys2Proof.Machine.execBswap x s
  | .sext x => Sys2Proof.Machine.execSext x s
  | .zext x => Sys2Proof.Machine.execZext x s
  | .min x => Sys2Proof.Machine.execMin x s
  | .max x => Sys2Proof.Machine.execMax x s
  | .minn x => Sys2Proof.Machine.execMinn x s
  | .maxn x => Sys2Proof.Machine.execMaxn x s
  | .abs x => Sys2Proof.Machine.execAbs x s
  | .cmpeq x => Sys2Proof.Machine.execCmpeq x s
  | .cmplt x => Sys2Proof.Machine.execCmplt x s
  | .cmpltn x => Sys2Proof.Machine.execCmpltn x s
  | .sel x => Sys2Proof.Machine.execSel x s
  | .mov x => Sys2Proof.Machine.execMov x s
  | .movToLoop x => Sys2Proof.Machine.execMovToLoop x s
  | .movFromLoop x => Sys2Proof.Machine.execMovFromLoop x s
  | .movToMask x => Sys2Proof.Machine.execMovToMask x s
  | .movFromMask x => Sys2Proof.Machine.execMovFromMask x s
  | .movi x => Sys2Proof.Machine.execMovi x s
  | .lea x => Sys2Proof.Machine.execLea x s
  | .addpc x => Sys2Proof.Machine.execAddpc x s
  | .bitx x => Sys2Proof.Machine.execBitx x s
  | .biti x => Sys2Proof.Machine.execBiti x s
  | .fadd x => Sys2Proof.Machine.execFadd x s
  | .fsub x => Sys2Proof.Machine.execFsub x s
  | .fmul x => Sys2Proof.Machine.execFmul x s
  | .fma x => Sys2Proof.Machine.execFma x s
  | .fdiv x => Sys2Proof.Machine.execFdiv x s
  | .fsqrt x => Sys2Proof.Machine.execFsqrt x s
  | .fmin x => Sys2Proof.Machine.execFmin x s
  | .fmax x => Sys2Proof.Machine.execFmax x s
  | .fcmp x => Sys2Proof.Machine.execFcmp x s
  | .fcvt x => Sys2Proof.Machine.execFcvt x s
  | .fclass x => Sys2Proof.Machine.execFclass x s
  | .br x => Sys2Proof.Machine.execBr x s
  | .beqz x => Sys2Proof.Machine.execBeqz x s
  | .bnez x => Sys2Proof.Machine.execBnez x s
  | .bltz x => Sys2Proof.Machine.execBltz x s
  | .bgez x => Sys2Proof.Machine.execBgez x s
  | .beq x => Sys2Proof.Machine.execBeq x s
  | .bne x => Sys2Proof.Machine.execBne x s
  | .blt x => Sys2Proof.Machine.execBlt x s
  | .bltn x => Sys2Proof.Machine.execBltn x s
  | .bge x => Sys2Proof.Machine.execBge x s
  | .bgen x => Sys2Proof.Machine.execBgen x s
  | .jmp x => Sys2Proof.Machine.execJmp x s
  | .call x => Sys2Proof.Machine.execCall x s
  | .icall x => Sys2Proof.Machine.execIcall x s
  | .ret x => Sys2Proof.Machine.execRet x s
  | .entry x => Sys2Proof.Machine.execEntry x s
  | .loops x => Sys2Proof.Machine.execLoops x s
  | .loope x => Sys2Proof.Machine.execLoope x s
  | .spillw x => Sys2Proof.Machine.execSpillw x s
  | .fillw x => Sys2Proof.Machine.execFillw x s
  | .ld x => Sys2Proof.Machine.execLd x s
  | .ldx x => Sys2Proof.Machine.execLdx x s
  | .st x => Sys2Proof.Machine.execSt x s
  | .stx x => Sys2Proof.Machine.execStx x s
  | .lda x => Sys2Proof.Machine.execLda x s
  | .rel x => Sys2Proof.Machine.execRel x s
  | .acq x => Sys2Proof.Machine.execAcq x s
  | .fence x => Sys2Proof.Machine.execFence x s
  | .amo x => Sys2Proof.Machine.execAmo x s
  | .amov x => Sys2Proof.Machine.execAmov x s
  | .cas x => Sys2Proof.Machine.execCas x s
  | .cas16 x => Sys2Proof.Machine.execCas16 x s
  | .isync x => Sys2Proof.Machine.execIsync x s
  | .put x => Sys2Proof.Machine.execPut x s
  | .waitm x => Sys2Proof.Machine.execWaitm x s
  | .wait x => Sys2Proof.Machine.execWait x s
  | .watch x => Sys2Proof.Machine.execWatch x s
  | .sleep x => Sys2Proof.Machine.execSleep x s
  | .mig x => Sys2Proof.Machine.execMig x s
  | .barr x => Sys2Proof.Machine.execBarr x s
  | .bara x => Sys2Proof.Machine.execBara x s
  | .bard x => Sys2Proof.Machine.execBard x s
  | .barw x => Sys2Proof.Machine.execBarw x s
  | .bari x => Sys2Proof.Machine.execBari x s
  | .futw x => Sys2Proof.Machine.execFutw x s
  | .futs x => Sys2Proof.Machine.execFuts x s
  | .futp x => Sys2Proof.Machine.execFutp x s
  | .lock x => Sys2Proof.Machine.execLock x s
  | .unlock x => Sys2Proof.Machine.execUnlock x s
  | .qpush x => Sys2Proof.Machine.execQpush x s
  | .qpop x => Sys2Proof.Machine.execQpop x s
  | .vadd x => Sys2Proof.Machine.execVadd x s
  | .vsub x => Sys2Proof.Machine.execVsub x s
  | .vmul x => Sys2Proof.Machine.execVmul x s
  | .vfma x => Sys2Proof.Machine.execVfma x s
  | .vfms x => Sys2Proof.Machine.execVfms x s
  | .vmin x => Sys2Proof.Machine.execVmin x s
  | .vmax x => Sys2Proof.Machine.execVmax x s
  | .vabs x => Sys2Proof.Machine.execVabs x s
  | .vneg x => Sys2Proof.Machine.execVneg x s
  | .vdiv x => Sys2Proof.Machine.execVdiv x s
  | .vsqrt x => Sys2Proof.Machine.execVsqrt x s
  | .vrcp x => Sys2Proof.Machine.execVrcp x s
  | .vrsq x => Sys2Proof.Machine.execVrsq x s
  | .vexp2 x => Sys2Proof.Machine.execVexp2 x s
  | .vlog2 x => Sys2Proof.Machine.execVlog2 x s
  | .viadd x => Sys2Proof.Machine.execViadd x s
  | .visub x => Sys2Proof.Machine.execVisub x s
  | .vimul x => Sys2Proof.Machine.execVimul x s
  | .vand x => Sys2Proof.Machine.execVand x s
  | .vor x => Sys2Proof.Machine.execVor x s
  | .vxor x => Sys2Proof.Machine.execVxor x s
  | .vnot x => Sys2Proof.Machine.execVnot x s
  | .vshl x => Sys2Proof.Machine.execVshl x s
  | .vshr x => Sys2Proof.Machine.execVshr x s
  | .vsar x => Sys2Proof.Machine.execVsar x s
  | .vcmp x => Sys2Proof.Machine.execVcmp x s
  | .vsel x => Sys2Proof.Machine.execVsel x s
  | .vsplat x => Sys2Proof.Machine.execVsplat x s
  | .vperm x => Sys2Proof.Machine.execVperm x s
  | .vred x => Sys2Proof.Machine.execVred x s
  | .vscan x => Sys2Proof.Machine.execVscan x s
  | .vcvt x => Sys2Proof.Machine.execVcvt x s
  | .vld x => Sys2Proof.Machine.execVld x s
  | .vst x => Sys2Proof.Machine.execVst x s
  | .vlds x => Sys2Proof.Machine.execVlds x s
  | .vsts x => Sys2Proof.Machine.execVsts x s
  | .vgath x => Sys2Proof.Machine.execVgath x s
  | .vscat x => Sys2Proof.Machine.execVscat x s
  | .vrel x => Sys2Proof.Machine.execVrel x s
  | .mand x => Sys2Proof.Machine.execMand x s
  | .mor x => Sys2Proof.Machine.execMor x s
  | .mnot x => Sys2Proof.Machine.execMnot x s
  | .mpop x => Sys2Proof.Machine.execMpop x s
  | .mfirst x => Sys2Proof.Machine.execMfirst x s
  | .sbind x => Sys2Proof.Machine.execSbind x s
  | .sunb x => Sys2Proof.Machine.execSunb x s
  | .slead x => Sys2Proof.Machine.execSlead x s
  | .vrand x => Sys2Proof.Machine.execVrand x s
  | .xbr x => Sys2Proof.Machine.execXbr x s
  | .xsel x => Sys2Proof.Machine.execXsel x s
  | .xrd x => Sys2Proof.Machine.execXrd x s
  | .xlead x => Sys2Proof.Machine.execXlead x s
  | .xunr x => Sys2Proof.Machine.execXunr x s
  | .xclr x => Sys2Proof.Machine.execXclr x s
  | .xflush x => Sys2Proof.Machine.execXflush x s
  | .tcfg x => Sys2Proof.Machine.execTcfg x s
  | .tzero x => Sys2Proof.Machine.execTzero x s
  | .tld x => Sys2Proof.Machine.execTld x s
  | .tst x => Sys2Proof.Machine.execTst x s
  | .mma x => Sys2Proof.Machine.execMma x s
  | .mmax x => Sys2Proof.Machine.execMmax x s
  | .gset x => Sys2Proof.Machine.execGset x s
  | .tsave x => Sys2Proof.Machine.execTsave x s
  | .trest x => Sys2Proof.Machine.execTrest x s
  | .mseq x => Sys2Proof.Machine.execMseq x s
  | .swcfg x => Sys2Proof.Machine.execSwcfg x s
  | .cpy x => Sys2Proof.Machine.execCpy x s
  | .cpys x => Sys2Proof.Machine.execCpys x s
  | .cpyn x => Sys2Proof.Machine.execCpyn x s
  | .waitc x => Sys2Proof.Machine.execWaitc x s
  | .chst x => Sys2Proof.Machine.execChst x s
  | .spawn x => Sys2Proof.Machine.execSpawn x s
  | .yieldc x => Sys2Proof.Machine.execYieldc x s
  | .exit x => Sys2Proof.Machine.execExit x s
  | .tailw x => Sys2Proof.Machine.execTailw x s
  | .send x => Sys2Proof.Machine.execSend x s
  | .chan x => Sys2Proof.Machine.execChan x s
  | .blk x => Sys2Proof.Machine.execBlk x s
  | .unblk x => Sys2Proof.Machine.execUnblk x s
  | .govcfg x => Sys2Proof.Machine.execGovcfg x s
  | .idem x => Sys2Proof.Machine.execIdem x s
  | .trap x => Sys2Proof.Machine.execTrap x s
  | .rte x => Sys2Proof.Machine.execRte x s
  | .csrr x => Sys2Proof.Machine.execCsrr x s
  | .csrw x => Sys2Proof.Machine.execCsrw x s
  | .csrs x => Sys2Proof.Machine.execCsrs x s
  | .csrc x => Sys2Proof.Machine.execCsrc x s
  | .halt x => Sys2Proof.Machine.execHalt x s
  | .tlbi x => Sys2Proof.Machine.execTlbi x s
  | .rqrd x => Sys2Proof.Machine.execRqrd x s
  | .rqgo x => Sys2Proof.Machine.execRqgo x s
  | .dispatch a => Sys2Proof.Machine.execDispatch a s
  | .frameArrival a => Sys2Proof.Machine.execFrameArrival a s
  | .frameRefused a => Sys2Proof.Machine.execFrameRefused a s
  | .departureResend a b => Sys2Proof.Machine.execDepartureResend a b s
  | .evictWaiter a b => Sys2Proof.Machine.execEvictWaiter a b s
  | .footprintLanded a b => Sys2Proof.Machine.execFootprintLanded a b s
  | .messageArrival a => Sys2Proof.Machine.execMessageArrival a s
  | .continuationResume a => Sys2Proof.Machine.execContinuationResume a s
  | .governorCheck a => Sys2Proof.Machine.execGovernorCheck a s
  | .preempt a b => Sys2Proof.Machine.execPreempt a b s
  | .releaseStamp a => Sys2Proof.Machine.execReleaseStamp a s
  | .beacon a => Sys2Proof.Machine.execBeacon a s
  | .beaconReceipt a b => Sys2Proof.Machine.execBeaconReceipt a b s
  | .pieceArrival a => Sys2Proof.Machine.execPieceArrival a s
  | .pieceApply a => Sys2Proof.Machine.execPieceApply a s
  | .pieceAck a => Sys2Proof.Machine.execPieceAck a s
  | .homeAccess a => Sys2Proof.Machine.execHomeAccess a s
  | .loadReply a => Sys2Proof.Machine.execLoadReply a s
  | .remoteStoreArrival a => Sys2Proof.Machine.execRemoteStoreArrival a s
  | .storeAck a => Sys2Proof.Machine.execStoreAck a s
  | .putLanding a => Sys2Proof.Machine.execPutLanding a s
  | .atomicExecute a => Sys2Proof.Machine.execAtomicExecute a s
  | .clusterUnitWriteback a b => Sys2Proof.Machine.execClusterUnitWriteback a b s
  | .walkComplete a b => Sys2Proof.Machine.execWalkComplete a b s
  | .slotFill a b c => Sys2Proof.Machine.execSlotFill a b c s
  | .experienceAdd a => Sys2Proof.Machine.execExperienceAdd a s
  | .streamFetch a b c => Sys2Proof.Machine.execStreamFetch a b c s
  | .tongsTransfer a b => Sys2Proof.Machine.execTongsTransfer a b s
  | .copyComplete a b => Sys2Proof.Machine.execCopyComplete a b s
  | .copyFault a b => Sys2Proof.Machine.execCopyFault a b s
  | .anvilCommandStart a => Sys2Proof.Machine.execAnvilCommandStart a s
  | .anvilCommandComplete a b => Sys2Proof.Machine.execAnvilCommandComplete a b s
  | .anvilFetchFault a => Sys2Proof.Machine.execAnvilFetchFault a s
  | .sequencerQueue a => Sys2Proof.Machine.execSequencerQueue a s
  | .anvilWatchdog a => Sys2Proof.Machine.execAnvilWatchdog a s
  | .barrierArrival a b c d => Sys2Proof.Machine.execBarrierArrival a b c d s
  | .sleepExpiry a b => Sys2Proof.Machine.execSleepExpiry a b s
  | .quarantine a b => Sys2Proof.Machine.execQuarantine a b s
  | .detUpdateArrival a => Sys2Proof.Machine.execDetUpdateArrival a s
  | .exitCount a b => Sys2Proof.Machine.execExitCount a b s
  | .phaseCommit a => Sys2Proof.Machine.execPhaseCommit a s
  | .homeCommitMerge a b => Sys2Proof.Machine.execHomeCommitMerge a b s
  | .dramPatrol a b c => Sys2Proof.Machine.execDramPatrol a b c s
  | .repairComplete a b c d e => Sys2Proof.Machine.execRepairComplete a b c d e s
  | .bellowsInterval => Sys2Proof.Machine.execBellowsInterval s
  | .fdutyWrite a b => Sys2Proof.Machine.execFdutyWrite a b s
  | .levelRequest a b => Sys2Proof.Machine.execLevelRequest a b s
  | .voltageRampDone a => Sys2Proof.Machine.execVoltageRampDone a s
  | .clockRestart a => Sys2Proof.Machine.execClockRestart a s
  | .logsizeWrite a => Sys2Proof.Machine.execLogsizeWrite a s
  | .gatePrepare a => Sys2Proof.Machine.execGatePrepare a s
  | .gateCommit a => Sys2Proof.Machine.execGateCommit a s
  | .gateWake a => Sys2Proof.Machine.execGateWake a s
  | .plimitWrite a => Sys2Proof.Machine.execPlimitWrite a s
  | .thermalTrip a b => Sys2Proof.Machine.execThermalTrip a b s
  | .thermalRelease a b => Sys2Proof.Machine.execThermalRelease a b s
  | .vrfail a => Sys2Proof.Machine.execVrfail a s
  | .qtailDoorbell a b c => Sys2Proof.Machine.execQtailDoorbell a b c s
  | .commandAccept a b => Sys2Proof.Machine.execCommandAccept a b s
  | .launch a => Sys2Proof.Machine.execLaunch a s
  | .phaseDeclare a => Sys2Proof.Machine.execPhaseDeclare a s
  | .phaseEnterDeterministic a => Sys2Proof.Machine.execPhaseEnterDeterministic a s
  | .phaseAbort a => Sys2Proof.Machine.execPhaseAbort a s
  | .map a => Sys2Proof.Machine.execMap a s
  | .unmap a => Sys2Proof.Machine.execUnmap a s
  | .loadbin a => Sys2Proof.Machine.execLoadbin a s
  | .signal a => Sys2Proof.Machine.execSignal a s
  | .suspend a => Sys2Proof.Machine.execSuspend a s
  | .resume a => Sys2Proof.Machine.execResume a s
  | .reset a => Sys2Proof.Machine.execReset a s
  | .acceptWrite a => Sys2Proof.Machine.execAcceptWrite a s
  | .reductionCtlWrite a b c => Sys2Proof.Machine.execReductionCtlWrite a b c s
  | .reductionContribute a b c d => Sys2Proof.Machine.execReductionContribute a b c d s
  | .reductionGenClear a b c => Sys2Proof.Machine.execReductionGenClear a b c s
  | .hostMemoryAccess a b => Sys2Proof.Machine.execHostMemoryAccess a b s
  | .uetReceive a b => Sys2Proof.Machine.execUetReceive a b s
  | .hostLoss => Sys2Proof.Machine.execHostLoss s
  | .ideFailure => Sys2Proof.Machine.execIdeFailure s
  | .deviceReset => Sys2Proof.Machine.execDeviceReset s
  | .boot a b => Sys2Proof.Machine.execBoot a b s
  | .spdmGetVersion => Sys2Proof.Machine.execSpdmGetVersion s
  | .spdmGetCapabilities => Sys2Proof.Machine.execSpdmGetCapabilities s
  | .spdmNegotiateAlgorithms => Sys2Proof.Machine.execSpdmNegotiateAlgorithms s
  | .spdmGetDigests => Sys2Proof.Machine.execSpdmGetDigests s
  | .spdmGetCertificate => Sys2Proof.Machine.execSpdmGetCertificate s
  | .spdmChallenge a => Sys2Proof.Machine.execSpdmChallenge a s
  | .spdmGetMeasurements => Sys2Proof.Machine.execSpdmGetMeasurements s
  | .spdmKeyExchange a => Sys2Proof.Machine.execSpdmKeyExchange a s
  | .firmwareThreadStart a b c => Sys2Proof.Machine.execFirmwareThreadStart a b c s
  | .bctlView a b => Sys2Proof.Machine.execBctlView a b s
  | .bctlDone a b => Sys2Proof.Machine.execBctlDone a b s
  | .lsrepWrite a b c => Sys2Proof.Machine.execLsrepWrite a b c s
  | .bootTimeout a => Sys2Proof.Machine.execBootTimeout a s
  | .registerWrite a b => Sys2Proof.Machine.execRegisterWrite a b s
  | .podLinkFailure a => Sys2Proof.Machine.execPodLinkFailure a s
  | .fabricError a => Sys2Proof.Machine.execFabricError a s
  | .hostLinkReturn => Sys2Proof.Machine.execHostLinkReturn s

end Sys2Proof.Machine
end

