-- ==== Sys2Proof/Machine/Step.lean ====
section
/-! DEFINITION. One step: the next event of the agenda, or one issue opportunity of the focus core (R29-R35, R410; log 8). -/

namespace Sys2Proof.Machine

/-- One step of the package (log 8). -/
def step (s : State) : Out :=
  match s.agenda with
  | i :: rest => exec i { s with agenda := rest }
  | [] => issue exec s.focus s

/-- A firmware thread in slot 0 of core 0 with the parcels of an instruction at offset 0 of that core's local store, and its
pipe's turn (log 9). -/
def State.withFetchWord (s : State) (nbits w : Nat) : State := s.loadProgram (tableParcels nbits w)

end Sys2Proof.Machine
end

