-- ==== Sys2Proof/Safety.lean ====
section
/-! DEFINITION. What counts as a safe state, and the words in which the claims speak of one instruction: when it may run, what it
leaves alone, and where it goes (R37, R127, R232, R447, R500). -/

namespace Sys2Proof.Machine

/-- Memory keeps its canonical form. -/
def State.MemOk (s : State) : Prop := Memory.wf s.mem

/-- The executing thread may run i: its privilege suffices (R500) and no register that i reads stands for a failed load
(R454, R487). -/
abbrev Ready (i : Instr) (s : State) : Prop :=
  minPriv i ≤ s.cur.st.priv ∧ sourceMark s.cur (useOf i (fldOf i)) = none

/-- Everything but the thread in the executing slot is as before: every other slot, core, register, message and every byte of
memory. -/
def OnlyCur (s t : State) : Prop := t = s.setSlot s.curCore s.curSlot t.cur

/-- A thread u is t after w<d> has been written with v and nothing else, the PC apart: the other fifteen registers, the flags of
STATUS but live[d], the vector and mask registers and every special register are as before (R232). A mark on w<d> ends. -/
def Slot.Wrote (t u : Slot) (d : Nat) (v : Word) : Prop :=
  u.w d = v ∧ (∀ n < 16, n ≠ d → u.w n = t.w n) ∧
    u = { t with
      stk := u.stk
      markW := t.markW.filter (·.reg != t.entry d)
      st := { t.st with live := t.st.live ||| (1#16 <<< d) }
      pc := u.pc }

/-- i runs to a next state, writes v to its destination, goes on at the next instruction and changes nothing else. -/
def Writes (i : Instr) (s : State) (v : Word) : Prop :=
  ∃ t, exec i s = .next t ∧ OnlyCur s t ∧ s.cur.Wrote t.cur (fldOf i).d v ∧ t.cur.pc = s.npc (fldOf i)

/-- i runs to a next state in which only the PC has changed, to a. -/
def Jumps (i : Instr) (s : State) (a : Word) : Prop := exec i s = .next (s.jump a)

/-- i takes a precise trap at its own PC, and has no other effect. -/
def Traps (i : Instr) (s : State) (r : TrapRec) : Prop := exec i s = .next (s.trap r)

/-- The trap ILLFLD that names parcel n of the executing instruction (R496). -/
def illfldAt (s : State) (n : Nat) : TrapRec := { cause := 0x03, addr := s.cur.pc + word (2 * n) }

/-- A PXR, where present, has rc = 0 and sz = 0 (R231). -/
abbrev PlainPxr (f : Fld) : Prop := f.pxr = true → f.rc = 0 ∧ f.sz = 0

end Sys2Proof.Machine
end

