-- ==== Sys2Proof/Certificates/Slice0/Obligations.lean ====
section
/-! DEFINITION. The statements for the provers: what the rules of the spec say of each instruction and event. The tables of
`Sys2Proof.Claims` restate the tables of the spec. -/

open Sys2Proof Sys2Proof.Machine

namespace Sys2Proof.Claims

open Sys2Proof.Machine

/-! ## Scalar instructions -/

/-- The results of R235 and R236, in the order of R235's table, as integers formed from operands of n bits. The shift amount is the
second operand modulo n. -/
def rrTable : List ((RR → Instr) × ((n : Nat) → BitVec n → BitVec n → Int)) := [
  (.add, fun _ a b => a.toInt + b.toInt),
  (.sub, fun _ a b => a.toInt - b.toInt),
  (.mul, fun _ a b => a.toInt * b.toInt),
  (.mulh, fun n a b => a.toInt * b.toInt / 2 ^ n),
  (.mulhn, fun n a b => (a.toNat * b.toNat : Int) / 2 ^ n),
  (.div, fun _ a b => if b.toNat = 0 then -1 else a.toInt.tdiv b.toInt),
  (.divn, fun _ a b => if b.toNat = 0 then -1 else (a.toNat / b.toNat : Nat)),
  (.rem, fun _ a b => if b.toNat = 0 then a.toInt else a.toInt - b.toInt * a.toInt.tdiv b.toInt),
  (.remn, fun _ a b => if b.toNat = 0 then a.toNat else a.toNat - b.toNat * (a.toNat / b.toNat : Nat)),
  (.and, fun _ a b => (a.toNat &&& b.toNat : Nat)),
  (.or, fun _ a b => (a.toNat ||| b.toNat : Nat)),
  (.xor, fun _ a b => (a.toNat ^^^ b.toNat : Nat)),
  (.shl, fun n a b => a.toNat * 2 ^ (b.toNat % n)),
  (.shr, fun n a b => a.toNat / 2 ^ (b.toNat % n)),
  (.sar, fun n a b => a.toInt / 2 ^ (b.toNat % n)),
  (.rol, fun n a b => a.toNat * 2 ^ (b.toNat % n) + a.toNat / 2 ^ (n - b.toNat % n)),
  (.ror, fun n a b => a.toNat / 2 ^ (b.toNat % n) + a.toNat * 2 ^ (n - b.toNat % n)),
  (.min, fun _ a b => min a.toInt b.toInt),
  (.max, fun _ a b => max a.toInt b.toInt),
  (.minn, fun _ a b => (min a.toNat b.toNat : Nat)),
  (.maxn, fun _ a b => (max a.toNat b.toNat : Nat)),
  (.cmpeq, fun _ a b => if a.toNat = b.toNat then 1 else 0),
  (.cmplt, fun _ a b => if a.toInt < b.toInt then 1 else 0),
  (.cmpltn, fun _ a b => if a.toNat < b.toNat then 1 else 0)]

/-- An operation at the width of R233: on 64 bits with f = 0; with f = 1 on the low 32 bits, sign-extended. -/
def atWidth (f : Fld) (g : (n : Nat) → BitVec n → BitVec n → Int) (a b : Word) : Word :=
  if f.f = 1 then (BitVec.ofInt 32 (g 32 (a.setWidth 32) (b.setWidth 32))).signExtend 64 else BitVec.ofInt 64 (g 64 a b)
/-- The first source: s in the three-operand form, which carries PXR, else d (R212, R235). -/
def firstSrc (f : Fld) (s : State) : Word := if f.pxr then s.w f.s else s.w f.d
/-- The second source: t in the three-operand form, else s. -/
def secondSrc (f : Fld) (s : State) : Word := if f.pxr then s.w f.t else s.w f.s
/-- The source of an RI instruction: t with PXR, else d (R240). -/
def immSrc (f : Fld) (s : State) : Word := if f.pxr then s.w f.t else s.w f.d

end Sys2Proof.Claims

/-- SEXT and ZEXT with f = 0, and with t = 0 and rc = 0 in a PXR, extend w<s> from the width that sz names (8, 16, 32 or 64 bits;
64 without PXR). SEL writes w<s> when w<d> is not zero and w<t> when it is, by low halves and sign-extended with f = 1. MOV
without PXR copies w<s>, with f = 1 its low half sign-extended; with a PXR of class 0 or 1 MOV traps with ILLFLD. With sz = 0 and
t below 8, and the unused register field 0: MOV l<t>, s writes loop register t of the thread's hearth on the executing core and no
other loop register, and leaves the thread as it was but for the PC; MOV d, l<t> reads it; MOV m<t>, s writes that mask register
of the thread and clears vclean, leaving the other mask registers, every scalar register and memory; MOV d, m<t> reads it. With t
at or above 8 each traps with ILLFLD at its PXR. -/
def Obligations.MovesAndExtensions : Prop :=
  (∀ (x : RR) (s : State),
    let w := [8, 16, 32, 64].getD (x.fld.sz % 4) 64
    (Ready (.sext x) s → x.f = 0 → (x.fld.pxr = true → x.fld.t = 0 ∧ x.fld.rc = 0) →
      Writes (.sext x) s (((s.w x.fld.s).setWidth w).signExtend 64)) ∧
    (Ready (.zext x) s → x.f = 0 → (x.fld.pxr = true → x.fld.t = 0 ∧ x.fld.rc = 0) →
      Writes (.zext x) s (((s.w x.fld.s).setWidth w).setWidth 64)) ∧
    (Ready (.sel x) s → PlainPxr x.fld →
      let c := if x.f = 1 then (s.w x.fld.d).toNat % 2 ^ 32 else (s.w x.fld.d).toNat
      let v := if c ≠ 0 then s.w x.fld.s else s.w x.fld.t
      Writes (.sel x) s (if x.f = 1 then (v.setWidth 32).signExtend 64 else v)) ∧
    (Ready (.mov x) s → x.fld.pxr = false →
      Writes (.mov x) s (if x.f = 1 then ((s.w x.fld.s).setWidth 32).signExtend 64 else s.w x.fld.s)) ∧
    (Ready (.mov x) s → x.fld.pxr = true → Traps (.mov x) s (illfldAt s x.fld.pxrPos))) ∧
    (∀ (x : RR) (s : State), x.fld.pxr = true → x.fld.sz = 0 →
    let l := 8 * s.cur.st.hearth + x.fld.t
    (x.fld.t < 8 → x.fld.d = 0 → Ready (.movToLoop x) s → ∃ t : State, exec (.movToLoop x) s = .next t ∧
      get 0 t.curK.loops l = s.w x.fld.s ∧ (∀ j, j ≠ l → get 0 t.curK.loops j = get 0 s.curK.loops j) ∧
      t.cur = { s.cur with pc := s.npc x.fld } ∧ t.mem = s.mem) ∧
    (x.fld.t < 8 → x.fld.s = 0 → Ready (.movFromLoop x) s → Writes (.movFromLoop x) s (get 0 s.curK.loops l)) ∧
    (x.fld.t < 8 → x.fld.d = 0 → Ready (.movToMask x) s → ∃ t : State, exec (.movToMask x) s = .next t ∧ OnlyCur s t ∧
      t.cur.mask x.fld.t = s.w x.fld.s ∧ (∀ j < 8, j ≠ x.fld.t → t.cur.mask j = s.cur.mask j) ∧
      t.cur = { s.cur with m := t.cur.m, mlive := t.cur.mlive, st := { s.cur.st with vclean := false }, pc := s.npc x.fld }) ∧
    (x.fld.t < 8 → x.fld.s = 0 → Ready (.movFromMask x) s → Writes (.movFromMask x) s (s.cur.mask x.fld.t)) ∧
    (8 ≤ x.fld.t → ∀ i ∈ [Instr.movToLoop x, .movFromLoop x, .movToMask x, .movFromMask x], Ready i s →
      Traps i s (illfldAt s x.fld.pxrPos)))

/-- For the RI format with no, one, two or three PXI prefixes, the signed immediate is the concatenation of the payloads, in
order, and the five base bits read as two's complement, and the unsigned immediate the same bits read as unsigned. ADDI, ANDI,
ORI, XORI with a signed immediate, SHLI, SHRI, SARI with an immediate below 64, on w<d>, or w<t> with a PXR whose rc and sz are 0;
MOVI writes the immediate and ADDPC the PC plus the immediate. Each completes and changes nothing else. A shift immediate of 64 or
more traps with ILLFLD at the parcel that holds the immediate. -/
def Obligations.ImmediateInstructions : Prop :=
  (∀ (a b c : BitVec 9) (d : BitVec 4) (i : BitVec 5),
    (RI.mk [] d i).fld.immS = i.toInt ∧ (RI.mk [.pxi a] d i).fld.immS = (a ++ i).toInt ∧
    (RI.mk [.pxi a, .pxi b] d i).fld.immS = (a ++ b ++ i).toInt ∧
    (RI.mk [.pxi a, .pxi b, .pxi c] d i).fld.immS = (a ++ b ++ c ++ i).toInt ∧
    (RI.mk [] d i).fld.immU = i.toNat ∧ (RI.mk [.pxi a] d i).fld.immU = (a ++ i).toNat ∧
    (RI.mk [.pxi a, .pxi b] d i).fld.immU = (a ++ b ++ i).toNat ∧
    (RI.mk [.pxi a, .pxi b, .pxi c] d i).fld.immU = (a ++ b ++ c ++ i).toNat) ∧
    (∀ (x : RI) (s : State),
    let a := Claims.immSrc x.fld s
    (PlainPxr x.fld →
      (Ready (.addi x) s → Writes (.addi x) s (BitVec.ofInt 64 (a.toInt + x.fld.immS))) ∧
      (Ready (.andi x) s → Writes (.andi x) s (a &&& BitVec.ofInt 64 x.fld.immS)) ∧
      (Ready (.ori x) s → Writes (.ori x) s (a ||| BitVec.ofInt 64 x.fld.immS)) ∧
      (Ready (.xori x) s → Writes (.xori x) s (a ^^^ BitVec.ofInt 64 x.fld.immS)) ∧
      (x.fld.immU < 64 →
        (Ready (.shli x) s → Writes (.shli x) s (BitVec.ofNat 64 (a.toNat * 2 ^ x.fld.immU))) ∧
        (Ready (.shri x) s → Writes (.shri x) s (BitVec.ofNat 64 (a.toNat / 2 ^ x.fld.immU))) ∧
        (Ready (.sari x) s → Writes (.sari x) s (BitVec.ofInt 64 (a.toInt / 2 ^ x.fld.immU)))) ∧
      (64 ≤ x.fld.immU → ∀ i ∈ [Instr.shli x, .shri x, .sari x], Ready i s → Traps i s (illfldAt s x.fld.immPos))) ∧
    (Ready (.movi x) s → Writes (.movi x) s (BitVec.ofInt 64 x.fld.immS)) ∧
    (Ready (.addpc x) s → Writes (.addpc x) s (s.cur.pc + BitVec.ofInt 64 x.fld.immS)))

/-- With n = 64, or 32 with f = 1, and a the low n bits of w<s>: CLZ writes the k at most n with a below 2^(n-k) and, for k below
n, bit n-1-k of a set; CTZ the k at most n with 2^k dividing a and, for k below n, bit k set; POPC the number of set bits; BSWAP
the value whose byte j is byte n/8-1-j of a, sign-extended from n bits; ABS the absolute value, the most negative value giving
itself. Each completes and changes nothing else. LEA writes w<s> plus the index (w<t>, scaled by the size of sz with f = 1, when
PXR is present with rc = 0) plus the immediate; with f = 1 and no PXR it traps with ILLFLD. With pos = Imm[11:6], len = Imm[5:0] +
1, no higher bit of Imm set and pos + len at most 64: BITX writes bits pos to pos+len-1 of w<s>, zero- or with f = 1 sign-
extended; BITI with f = 0 writes w<d> with those bits replaced by the low len bits of w<s>. Otherwise both trap with ILLFLD. -/
def Obligations.BitOperations : Prop :=
  (∀ (x : RR) (s : State),
    let n := if x.fld.f = 1 then 32 else 64
    let a := (s.w x.fld.s).toNat % 2 ^ n
    (Ready (.clz x) s → ∃ k ≤ n, Writes (.clz x) s (word k) ∧ a < 2 ^ (n - k) ∧ (k < n → 2 ^ (n - 1 - k) ≤ a)) ∧
    (Ready (.ctz x) s → ∃ k ≤ n, Writes (.ctz x) s (word k) ∧ a % 2 ^ k = 0 ∧ (k < n → a.testBit k = true)) ∧
    (Ready (.popc x) s → Writes (.popc x) s (word ((List.range n).countP a.testBit))) ∧
    (Ready (.bswap x) s → ∃ v : Word, Writes (.bswap x) s v ∧ (n = 32 → v = sext32 v) ∧
      ∀ j < n / 8, natBits v.toNat (8 * j) 8 = natBits a (n - 8 - 8 * j) 8) ∧
    (Ready (.abs x) s → Writes (.abs x) s (Claims.atWidth x.fld (fun _ a _ => (a.toInt.natAbs : Int)) (s.w x.fld.s) 0))) ∧
    (∀ (x : RR) (s : State),
    let f := x.fld
    (Ready (.lea x) s → (f.pxr = true → f.rc = 0) → (x.f = 1 → f.pxr = true) →
      let idx := if f.pxr then (if x.f = 1 then s.w f.t * BitVec.ofNat 64 (szBytes f.sz) else s.w f.t) else 0
      Writes (.lea x) s (s.w f.s + idx + BitVec.ofInt 64 f.immS)) ∧
    (Ready (.lea x) s → f.pxr = false → x.f = 1 → Traps (.lea x) s (illfldAt s f.last)) ∧
    (∀ pos len, pos = f.immU / 64 % 64 → len = f.immU % 64 + 1 →
      (f.immU < 2 ^ 12 → pos + len ≤ 64 →
        (Ready (.bitx x) s → ∃ v, Writes (.bitx x) s v ∧ ∀ k < 64, v.getLsbD k =
          if k < len then (s.w f.s).getLsbD (pos + k) else x.f = 1 && (s.w f.s).getLsbD (pos + len - 1)) ∧
        (Ready (.biti x) s → x.f = 0 → ∃ v, Writes (.biti x) s v ∧ ∀ k < 64, v.getLsbD k =
          if pos ≤ k ∧ k < pos + len then (s.w f.s).getLsbD (k - pos) else (s.w f.d).getLsbD k)) ∧
      (2 ^ 12 ≤ f.immU ∨ 64 < pos + len → ∀ i ∈ [Instr.bitx x, .biti x], Ready i s → Traps i s (illfldAt s f.immPos))))

/-- For each instruction of R235's table, in both operand forms and both widths: if the thread may run it and a PXR that is
present has rc = 0 and sz = 0, exec answers a next state in which w<d> holds the tabulated result of the two sources (formed on 64
bits, or on 32 bits and sign-extended), the PC is the next instruction, and nothing else of the package has changed. For every
integer instruction of R235 and R240 that accepts PXR: if PXR is present with rc or sz not 0 and the thread may run the
instruction, exec takes the trap ILLFLD (cause 0x03) whose TRAPADDR is the address of the PXR parcel, and has no other effect. -/
def Obligations.IntegerInstructions : Prop :=
  (∀ p ∈ Claims.rrTable, ∀ (x : RR) (s : State), Ready (p.1 x) s → PlainPxr x.fld →
    Writes (p.1 x) s (Claims.atWidth x.fld p.2 (Claims.firstSrc x.fld s) (Claims.secondSrc x.fld s))) ∧
    ((∀ p ∈ Claims.rrTable, ∀ (x : RR) (s : State), Ready (p.1 x) s → x.fld.pxr = true → x.fld.rc ≠ 0 ∨ x.fld.sz ≠ 0 →
      Traps (p.1 x) s (illfldAt s x.fld.pxrPos)) ∧
    (∀ c ∈ [Instr.addi, .andi, .ori, .xori, .shli, .shri, .sari], ∀ (x : RI) (s : State), Ready (c x) s →
      x.fld.pxr = true → x.fld.rc ≠ 0 ∨ x.fld.sz ≠ 0 → Traps (c x) s (illfldAt s x.fld.pxrPos)))

namespace Sys2Proof.Claims

open Sys2Proof.Machine

/-- The arithmetic of R244 on exact values. -/
def fpTable : List ((RR → Instr) × (Nat → Machine.Num → Machine.Num → Machine.Num)) := [
  (.fadd, fun rm a b => Machine.Num.add rm a b),
  (.fsub, fun rm a b => Machine.Num.add rm a b.neg),
  (.fmul, fun _ a b => a.mul b),
  (.fdiv, fun _ a b => a.div b)]
/-- The format of a scalar floating instruction (R243): FP64 with f = 0, FP32 with f = 1. -/
def fmtOf (f : Fld) : Fmt := if f.f = 1 then fp32 else fp64
/-- The value of a register in a format: its low bits (R243). -/
def valueOf (f : Fld) (w : Word) : Machine.Num := (fmtOf f).decode (w.toNat % 2 ^ (fmtOf f).bits)
/-- An exact value rounded once to the format by rm (R172), in the low bits of a register whose upper bits are zero. -/
def rounded (f : Fld) (x : Machine.Num) : Word := BitVec.ofNat 64 ((fmtOf f).round f.rm 0 0 0 x)

end Sys2Proof.Claims

/-- With rc = 0 in a PXR and rm not sr, each writes the exact sum, difference, product, quotient, s*t + d or square root of its
sources, read in FP64 or with f = 1 in FP32 from the low half, rounded once by rm, in the low bits of w<d> with the upper bits
zero; it completes and changes nothing else. With rm = sr each traps with ILLFLD at its PXR. FSQRT needs t = 0 in its PXR. -/
def Obligations.FloatArithmetic : Prop :=
  ∀ (x : RR) (s : State), (x.fld.pxr = true → x.fld.rc = 0) →
    let f := x.fld
    (∀ p ∈ Claims.fpTable, Ready (p.1 x) s → f.rm ≠ 5 → Writes (p.1 x) s (Claims.rounded f
      (p.2 f.rm (Claims.valueOf f (Claims.firstSrc f s)) (Claims.valueOf f (Claims.secondSrc f s))))) ∧
    (Ready (.fma x) s → f.rm ≠ 5 → Writes (.fma x) s (Claims.rounded f
      (Machine.Num.add f.rm ((Claims.valueOf f (s.w f.s)).mul (Claims.valueOf f (s.w f.t))) (Claims.valueOf f (s.w f.d))))) ∧
    (Ready (.fsqrt x) s → f.rm ≠ 5 → (f.pxr = true → f.t = 0) →
      Writes (.fsqrt x) s (Claims.rounded f (Claims.valueOf f (s.w f.s)).sqrt)) ∧
    (f.rm = 5 → ∀ i ∈ [Instr.fadd x, .fsub x, .fmul x, .fdiv x, .fma x, .fsqrt x], Ready i s →
      Traps i s (illfldAt s f.pxrPos))

/-- With rc = 0 and rm = 0 in a PXR: FMIN and FMAX return the other source when exactly one is NaN, the canonical NaN when both
are, and otherwise the lesser or greater source code with -0 below +0. FCMP writes 1 for less, 2 for equal (both zeros equal), 4
for greater and 8 when a source is NaN. FCLASS writes the one bit of the class of its source's bit pattern. Each completes and
changes nothing else; FMIN, FMAX and FCMP with rm not 0 trap with ILLFLD. With rc = 0 in a PXR and t below 12, FCVT writes the
conversion of R246 that t and f name, rounded by rm; conversion to an integer gives 0 for NaN and the nearer bound when out of
range. Where rm is not sr it changes nothing else; where rm is sr on a conversion to a narrower floating format it uses lane 0's
draw of the thread's key and counter and the counter rises by one. A code of 12 or more, and sr on any other conversion, trap with
ILLFLD. -/
def Obligations.FloatComparesAndConversions : Prop :=
  (∀ (x : RR) (s : State), (x.fld.pxr = true → x.fld.rc = 0) →
    let f := x.fld
    let m := Claims.fmtOf f
    let ca := (Claims.firstSrc f s).toNat % 2 ^ m.bits
    let cb := (Claims.secondSrc f s).toNat % 2 ^ m.bits
    let a := m.decode ca
    let b := m.decode cb
    let canon := m.nan
    (f.rm = 0 →
      (Ready (.fmin x) s → Writes (.fmin x) s (BitVec.ofNat 64 (
        if a = .nan then (if b = .nan then canon else cb) else if b = .nan then ca
        else if a.cmp b = .lt ∨ (a.cmp b = .eq ∧ a.sign = true) then ca else cb))) ∧
      (Ready (.fmax x) s → Writes (.fmax x) s (BitVec.ofNat 64 (
        if a = .nan then (if b = .nan then canon else cb) else if b = .nan then ca
        else if a.cmp b = .gt ∨ (a.cmp b = .eq ∧ a.sign = false) then ca else cb))) ∧
      (Ready (.fcmp x) s → Writes (.fcmp x) s (
        if a = .nan ∨ b = .nan then 8 else if a.cmp b = .lt then 1 else if a.cmp b = .eq then 2 else 4))) ∧
    (f.rm ≠ 0 → ∀ i ∈ [Instr.fmin x, .fmax x, .fcmp x], Ready i s → Traps i s (illfldAt s f.pxrPos)) ∧
    (Ready (.fclass x) s →
      let c := (s.w f.s).toNat % 2 ^ m.bits
      let neg := c / 2 ^ (m.eb + m.mb) = 1
      let ex := c / 2 ^ m.mb % 2 ^ m.eb
      let fr := c % 2 ^ m.mb
      Writes (.fclass x) s (BitVec.ofNat 64 (2 ^ (
        if ex = 2 ^ m.eb - 1 then (if fr = 0 then (if neg then 0 else 7) else if fr < 2 ^ (m.mb - 1) then 8 else 9)
        else if ex = 0 then (if fr = 0 then (if neg then 3 else 4) else (if neg then 2 else 5))
        else (if neg then 1 else 6)))))) ∧
    (∀ (x : RR) (s : State), Ready (.fcvt x) s → (x.fld.pxr = true → x.fld.rc = 0) →
    let f := x.fld
    let v := s.w f.s
    let narrows := (f.t = 0 ∧ f.f ≠ 1) ∨ f.t = 7 ∨ f.t = 9
    let draw := (sparkDraw s.cur.ctr 0 s.cur.key).toNat
    let toInt (lo hi : Int) : Word := BitVec.ofInt 64 ((Claims.valueOf f v).toRange f.rm lo hi)
    let half (m : Fmt) : Word := BitVec.ofNat 64 (m.round f.rm 0 0 draw (Claims.valueOf f v))
    let r : Word := [
      if f.f = 1 then BitVec.ofNat 64 (fp64.round f.rm 0 0 0 (fp32.decode (v.toNat % 2 ^ 32)))
        else BitVec.ofNat 64 (fp32.round f.rm 0 0 draw (fp64.decode v.toNat)),
      toInt (-2 ^ 63) (2 ^ 63 - 1), toInt 0 (2 ^ 64 - 1), toInt (-2 ^ 31) (2 ^ 31 - 1), toInt 0 (2 ^ 32 - 1),
      Claims.rounded f (Machine.Num.ofInt v.toInt), Claims.rounded f (Machine.Num.ofInt v.toNat),
      half fp16, Claims.rounded f (fp16.decode (v.toNat % 2 ^ 16)),
      half bf16, Claims.rounded f (bf16.decode (v.toNat % 2 ^ 16)),
      Claims.rounded f (Machine.Num.ofInt (v.setWidth 32).toInt)].getD f.t 0
    (f.t < 12 → f.rm ≠ 5 → Writes (.fcvt x) s r) ∧
    (narrows → f.rm = 5 → ∃ t : State, exec (.fcvt x) s = .next t ∧ OnlyCur s t ∧ t.cur.ctr = s.cur.ctr + 1 ∧
      s.cur.Wrote { t.cur with ctr := s.cur.ctr } f.d r ∧ t.cur.pc = s.npc f) ∧
    (12 ≤ f.t ∨ (f.rm = 5 ∧ ¬narrows) → Traps (.fcvt x) s (illfldAt s f.pxrPos)))

namespace Sys2Proof.Claims

open Sys2Proof.Machine

/-! ## Branches, calls and the window -/

/-- The conditional branches on one register (R247). -/
def branchRI : List ((RI → Instr) × (Int → Bool)) := [
  (.beqz, fun a => a = 0), (.bnez, fun a => a ≠ 0), (.bltz, fun a => a < 0), (.bgez, fun a => 0 ≤ a)]
/-- The conditional branches on two registers (R247): signed and unsigned values of both. -/
def branchRR : List ((RR → Instr) × ((n : Nat) → BitVec n → BitVec n → Bool)) := [
  (.beq, fun _ a b => a.toNat = b.toNat), (.bne, fun _ a b => a.toNat ≠ b.toNat),
  (.blt, fun _ a b => a.toInt < b.toInt), (.bltn, fun _ a b => a.toNat < b.toNat),
  (.bge, fun _ a b => b.toInt ≤ a.toInt), (.bgen, fun _ a b => b.toNat ≤ a.toNat)]
/-- Where a branch leads: its first parcel plus twice the offset when taken, else the next instruction (R218, R247). -/
def branchTo (s : State) (f : Fld) (taken : Bool) : Word :=
  if taken then s.cur.pc + BitVec.ofInt 64 (2 * f.immS) else s.npc f
/-- The state after a branch: only the PC moves, and with PXX the site's slot learns the outcome. -/
def branched (s : State) (f : Fld) (taken : Bool) : State :=
  if f.pxx then (s.jump (branchTo s f taken)).branchUpdate f.xs taken else s.jump (branchTo s f taken)

end Sys2Proof.Claims

/-- For each branch of R247: exec answers the state in which only the PC has changed, to PC + 2*Off when the tabulated condition
holds of the registers (of their low halves with f = 1 in the two-register forms) and to the next instruction otherwise; with PXX
the outcome then updates slot xs. -/
def Obligations.ConditionalBranches : Prop :=
  (∀ p ∈ Claims.branchRI, ∀ (x : RI) (s : State), Ready (p.1 x) s →
      exec (p.1 x) s = .next (Claims.branched s x.fld (p.2 (s.w x.fld.d).toInt))) ∧
    (∀ p ∈ Claims.branchRR, ∀ (x : RR) (s : State), Ready (p.1 x) s →
      exec (p.1 x) s = .next (Claims.branched s x.fld
        (if x.f = 1 then p.2 32 ((s.w x.fld.d).setWidth 32) ((s.w x.fld.s).setWidth 32) else p.2 64 (s.w x.fld.d) (s.w x.fld.s))))

/-- An update of a slot never changes the thread that makes it, nor memory (R193). Where the slot is in range on a page with xa =
1, and the core holds its base b, of kind 1, with frz = 0 and no deltas, the core's view afterwards has taken or ntaken one higher
(below 2^24 - 1), hist shifted left by one with the outcome in its lowest bit, and the kind and flags of b. -/
def Obligations.SiteUpdates : Prop :=
  ∀ (s : State) (xs : Nat) (taken : Bool),
    let t := s.branchUpdate xs taken
    let h := s.cur.st.hearth
    t.cur = s.cur ∧ t.mem = s.mem ∧
    ∀ pa a s' b, slotInRange (s.hearth h) xs = true → s.translateCur (slotVA (s.hearth h) xs) .read = (.ok pa a, s') →
      a.xa = 1 → s.entryOf s.curCore h xs s.cur.xtask = { hearth := h, idx := xs, task := s.cur.xtask, base := some b, kind := 0 } →
      b.bits 7 4 = 1 → b.bits 3 3 = 0 → b.bits 63 40 < 2 ^ 24 - 1 → b.bits 39 16 < 2 ^ 24 - 1 →
      (s.curK.xcache.filter (fun e => !e.is h xs s.cur.xtask)).length < 256 →
      let v := (t.entryOf s.curCore h xs s.cur.xtask).view
      v.bits 63 40 = b.bits 63 40 + (if taken then 1 else 0) ∧ v.bits 39 16 = b.bits 39 16 + (if taken then 0 else 1) ∧
        v.bits 15 8 = (2 * b.bits 15 8 + if taken then 1 else 0) % 256 ∧ v.bits 7 0 = b.bits 7 0

/-- BR goes to PC + 2*Off, LOOPE to PC - 2*Imm and NOP to the next instruction, and nothing else changes. JMP with d = f = 0 goes
to w<s> when that is even, traps with ILLPC when it is odd, and traps with ILLFLD when d or f is not 0. LOOPS adds one to the
index half of w<d> while it is below the bound half; else it leaves w<d> and goes to PC + 2*Off, updating slot xs with PXX. ENTRY
writes w6 - 8*Imm to w14. -/
def Obligations.JumpsAndLoops : Prop :=
  (∀ (x : Z9) (s : State), Ready (.br x) s → Jumps (.br x) s (s.cur.pc + BitVec.ofInt 64 (2 * x.fld.immS))) ∧
    (∀ (x : Z9) (s : State), Ready (.loope x) s → Jumps (.loope x) s (s.cur.pc - BitVec.ofNat 64 (2 * x.fld.immU))) ∧
    (∀ (x : Z9) (s : State), Ready (.nop x) s → Jumps (.nop x) s (s.npc x.fld)) ∧
    (∀ (x : RR) (s : State), Ready (.jmp x) s →
      (x.d = 0 → x.f = 0 → (s.w x.fld.s).toNat % 2 = 0 → Jumps (.jmp x) s (s.w x.fld.s)) ∧
      (x.d = 0 → x.f = 0 → (s.w x.fld.s).toNat % 2 = 1 → Traps (.jmp x) s { cause := 0x04, addr := s.w x.fld.s }) ∧
      (x.d ≠ 0 ∨ x.f ≠ 0 → Traps (.jmp x) s (illfldAt s x.fld.last))) ∧
    (∀ (x : RI) (s : State), Ready (.loops x) s →
      let idx := (s.w x.fld.d).toNat / 2 ^ 32
      let bound := (s.w x.fld.d).toNat % 2 ^ 32
      (idx < bound → Writes (.loops x) s (BitVec.ofNat 64 ((idx + 1) * 2 ^ 32 + bound))) ∧
      (bound ≤ idx → x.fld.pxx = false → Jumps (.loops x) s (s.cur.pc + BitVec.ofNat 64 (2 * x.fld.immU))) ∧
      (bound ≤ idx → x.fld.pxx = true → exec (.loops x) s =
        .next ((s.jump (s.cur.pc + BitVec.ofNat 64 (2 * x.fld.immU))).loopEnd x.fld.xs idx))) ∧
    (∀ (x : Z9) (s : State), Ready (.entry x) s → ∃ t : State, exec (.entry x) s = .next t ∧ OnlyCur s t ∧
      s.cur.Wrote t.cur 14 (s.w 6 - BitVec.ofNat 64 (8 * x.fld.immU)) ∧ t.cur.pc = s.npc x.fld)

/-- Every parcel whose bits [15:9] are 0 decodes, alone, to a NOP that ignores the other bits; a NOP after a prefix does not
decode; and exec of a NOP answers the state in which only the PC has moved, to the next instruction. -/
def Obligations.NopDoesNothing : Prop :=
  (∀ z : BitVec 9, decode [BitVec.ofNat 16 z.toNat] = .ok (.nop ⟨[], z⟩) 1) ∧
    (∀ (q : Prefix) (z : BitVec 9), decode [q.parcel, BitVec.ofNat 16 z.toNat] = .trap 0x02 0) ∧
    (∀ (x : Z9) (s : State), x.px = [] → Ready (.nop x) s → exec (.nop x) s = .next (s.jump (s.cur.pc + 2)))

namespace Sys2Proof.Claims

open Sys2Proof.Machine

/-- A call's effect on the window (R39, R249): the caller's w8 to w14 become w0 to w6, w7 holds the return address, one more frame
is resident, live moves with the window, and idv falls. The upper frame holds free values. Memory and all else but the number of
free values taken are as before. -/
def Called (s t : State) (ra target : Word) : Prop :=
  t.cur.pc = target ∧ t.cur.w 7 = ra ∧ (∀ n < 7, t.cur.w n = s.cur.w (n + 8)) ∧ t.cur.wlow = (s.cur.wlow + 1) % 12 ∧
  (∀ n < 8, get 0 t.cur.stk (s.cur.entry n) = s.cur.w n) ∧
  t.cur.st = { s.cur.st with resid := s.cur.st.resid + 1, live := (s.cur.st.live >>> 8) ||| 0x0080, idv := false } ∧
  t.mem = s.mem ∧ t.freeCtr = s.freeCtr + 8 ∧
  t.cur = { s.cur with pc := t.cur.pc, stk := t.cur.stk, wlow := t.cur.wlow, st := t.cur.st, markW := t.cur.markW }

end Sys2Proof.Claims

/-- With fewer than ten resident frames, the window base below 12, and for ICALL no DRAM line in error: CALL goes to PC + 2*Off
and ICALL, when the instruction fetched at w<s> is an ENTRY, to w<s>; the caller's w8 to w14 become w0 to w6, w7 holds the address
of the next instruction, the caller's w0 to w7 stay in the stack, resid rises by one, live moves with the window, and memory is
unchanged. With resid = 10 both trap with SPILL and change nothing else. ICALL traps with ILLPC on an odd target, with NOPAD where
another instruction or no instruction decodes, and with ILLFLD when d or f is not 0. -/
def Obligations.CallsMoveTheWindow : Prop :=
  (∀ (x : Z9) (s : State), Ready (.call x) s → s.cur.wlow < 12 →
      (s.cur.st.resid ≠ 10 → ∃ t : State, exec (.call x) s = .next t ∧
        Claims.Called s t (s.npc x.fld) (s.cur.pc + BitVec.ofInt 64 (2 * x.fld.immS))) ∧
      (s.cur.st.resid = 10 → Traps (.call x) s { cause := 0x07 })) ∧
    (∀ (x : RR) (s : State), Ready (.icall x) s → s.cur.wlow < 12 → s.latent = [] →
      let a := s.w x.fld.s
      (x.d ≠ 0 ∨ x.f ≠ 0 → Traps (.icall x) s (illfldAt s x.fld.last)) ∧
      (x.d = 0 → x.f = 0 → a.toNat % 2 = 1 → Traps (.icall x) s { cause := 0x04, addr := a }) ∧
      (x.d = 0 → x.f = 0 → a.toNat % 2 = 0 → ∀ s' i n,
        s.fetch s.curCore s.curSlot s.cur.st.hearth s.cur.st.priv s.cur.rc a = (.instr i n, s') →
        ((∃ z, i = .entry z) → s.cur.st.resid ≠ 10 → ∃ t : State, exec (.icall x) s = .next t ∧
          Claims.Called s' t (s.npc x.fld) a ∧ s'.cur = s.cur ∧ s'.mem = s.mem) ∧
        ((∃ z, i = .entry z) → s.cur.st.resid = 10 → exec (.icall x) s = .next (s'.trap { cause := 0x07 })) ∧
        ((∀ z, i ≠ .entry z) → exec (.icall x) s = .next (s'.trap { cause := 0x06, addr := a }))) ∧
      (x.d = 0 → x.f = 0 → a.toNat % 2 = 0 → ∀ s' c n p,
        s.fetch s.curCore s.curSlot s.cur.st.hearth s.cur.st.priv s.cur.rc a = (.trap c n p, s') →
        exec (.icall x) s = .next (s'.trap { cause := 0x06, addr := a })))

/-- RET with z = 0, w7 even and a resident frame goes to w7, moves the window down, lowers resid, moves live, clears idv and
changes nothing else; with w7 odd it traps with ILLPC and with no resident frame with FILL. If a CALL runs in a state with fewer
than ten resident frames, and a RET runs in the state that it leaves, then w0 to w7 hold what they held before the call, w8 to w14
too, and the PC is the address after the CALL. -/
def Obligations.ReturnRestoresCaller : Prop :=
  (∀ (x : Z9) (s : State), Ready (.ret x) s →
      (x.z = 0 → (s.w 7).toNat % 2 = 0 → s.cur.st.resid ≠ 0 → exec (.ret x) s = .next (s.modCur fun t =>
        { t with wlow := (t.wlow + 11) % 12, pc := s.w 7,
                 st := { t.st with resid := t.st.resid - 1, live := (t.st.live <<< 8) ||| 0x00FF, idv := false } })) ∧
      (x.z = 0 → (s.w 7).toNat % 2 = 1 → Traps (.ret x) s { cause := 0x04, addr := s.w 7 }) ∧
      (x.z = 0 → (s.w 7).toNat % 2 = 0 → s.cur.st.resid = 0 → Traps (.ret x) s { cause := 0x08 }) ∧
      (x.z ≠ 0 → Traps (.ret x) s (illfldAt s x.fld.last))) ∧
    (∀ (x y : Z9) (s t : State), Ready (.call x) s → s.cur.wlow < 12 → s.cur.st.resid ≠ 10 → exec (.call x) s = .next t →
      y.z = 0 → (s.npc x.fld).toNat % 2 = 0 → s.cur.markW = [] → s.cur.markV = [] →
      ∃ u : State, exec (.ret y) t = .next u ∧ (∀ n < 15, u.cur.w n = s.cur.w n) ∧ u.cur.wlow = s.cur.wlow ∧
        u.cur.st.resid = s.cur.st.resid ∧ u.cur.pc = s.npc x.fld ∧ u.mem = s.mem)

namespace Sys2Proof.Claims

open Sys2Proof.Machine

/-- The frame that spillp names is 64 bytes of the local store of core c at offset off (R40, R255). -/
abbrev SpillFrame (p : BitVec 25) (c off : Nat) : Prop :=
  c = 64 * p.toNat / 2 ^ 18 ∧ off = 64 * p.toNat % 2 ^ 18
/-- Every cell of memory but those of n bytes at pa reads as before. -/
def MemoryBut (s t : State) (pa n : Nat) : Prop :=
  ∀ k, (∀ i < n, k ≠ s.cell (pa + i)) → Memory.read t.mem k = Memory.read s.mem k

end Sys2Proof.Claims

/-- At S or F with z = 0: where the frame that spillp (for FILLW spillp - 1) names lies in an existing core's local store that
does not refuse it, no result is pending in the frame, the owner serves it, neither a copy nor a posted write of the thread stands
before it and no LOGSIZE write stalls the stores, and the thread watches no word, SPILLW with a resident frame completes: it
stores the oldest frame's eight registers at that address, raises spillp, lowers resid, goes on at the next instruction, and no
other byte of memory changes, but for what a defective cell returns; with BCTL.view on the own core it goes on in the same way and
changes no memory. FILLW with resid below 10 completes: it writes the eight words to the frame below the oldest, lowers spillp,
raises resid, goes on, memory is unchanged, and another core that owns the frame is not gated after it. That the round trip to
another core is one step is the model's choice (log 50). SPILLW with resid = 0 and FILLW with resid = 10 trap with WINSTATE. -/
def Obligations.SpillAndFill : Prop :=
  (∀ (x : Z9) (s : State) (c off : Nat), x.z = 0 → Ready (.spillw x) s → s.cur.st.resid ≠ 0 →
      Claims.SpillFrame s.cur.st.spillp c off → coreExists c = true →
      (s.core c).lsRefusedN off 64 s.cur.st.hearth s.cur.st.priv true = false →
      let fr := (s.cur.wlow + 24 - s.cur.st.resid) % 12
      framePending s.cur fr = false → spillBusy s s.cur.st.spillp.toNat = false → (∀ a n, s.cur.wait ≠ .watch a n) →
      ∃ t : State, exec (.spillw x) s = .next t ∧
        t.cur = { s.cur with pc := s.npc x.fld, st := { s.cur.st with spillp := s.cur.st.spillp + 1, resid := s.cur.st.resid - 1 } } ∧
        ((s.core c).view = false → s.stuck = [] → (∀ i < 8, t.memW (lsPA s c off + 8 * i) = get 0 s.cur.stk (8 * fr + i)) ∧
          Claims.MemoryBut s t (lsPA s c off) 64) ∧
        ((s.core c).view = true → t.mem = s.mem)) ∧
    (∀ (x : Z9) (s : State) (c off : Nat), x.z = 0 → Ready (.fillw x) s → s.cur.st.resid ≠ 10 →
      Claims.SpillFrame (s.cur.st.spillp - 1) c off → coreExists c = true →
      (s.core c).lsRefusedN off 64 s.cur.st.hearth s.cur.st.priv false = false →
      let fr := (s.cur.wlow + 24 - s.cur.st.resid + 11) % 12
      framePending s.cur fr = false → frameBusy s (s.cur.st.spillp - 1).toNat = false →
      ∃ t : State, exec (.fillw x) s = .next t ∧ t.mem = s.mem ∧
        (c = s.curCore ∨ (s.core c).pw.gated = false → (s.core c).pw.preparing = false → OnlyCur s t) ∧
        (c ≠ s.curCore → (t.core c).pw.gated = false) ∧
        t.cur.st = { s.cur.st with spillp := s.cur.st.spillp - 1, resid := s.cur.st.resid + 1 } ∧ t.cur.pc = s.npc x.fld ∧
        ((s.core c).view = false → ∀ i < 8, get 0 t.cur.stk (8 * fr + i) = s.memW (lsPA s c off + 8 * i)) ∧
        (∀ e, e / 8 ≠ fr → get 0 t.cur.stk e = get 0 s.cur.stk e) ∧
        t.cur = { s.cur with pc := t.cur.pc, stk := t.cur.stk, markW := t.cur.markW, st := t.cur.st }) ∧
    (∀ (x : Z9) (s : State), x.z = 0 →
      (Ready (.spillw x) s → s.cur.st.resid = 0 → Traps (.spillw x) s { cause := 0x09 }) ∧
      (Ready (.fillw x) s → s.cur.st.resid = 10 → Traps (.fillw x) s { cause := 0x09 }))

namespace Sys2Proof.Claims

open Sys2Proof.Machine

/-! ## Traps -/

/-- The entry points of R369 for the causes that a thread meets, by cause. -/
def entryOffset (cause : Nat) : Nat :=
  if cause = 0x07 then 0x040 else if cause = 0x08 then 0x080 else if cause = 0x0B then 0x0C0 else if cause = 0x1C then 0x100 else 0

end Sys2Proof.Claims

/-- For every state and precise trap: TRAPPC is the PC, TRAPSTAT the STATUS, TRAPADDR the trap's address, TRAPCAUSE holds the
cause in [63:56] and the class in [55:53]; priv becomes S, or stays F; the PC is TRAPVEC.base*512 plus the offset of R369 for the
cause; idv falls for every cause but MISALIGN; and no scalar, vector or mask register, no other STATUS field and no byte of memory
changes, nor anything of another slot. -/
def Obligations.TrapEntrySavesAndEnters : Prop :=
  ∀ (s : State) (r : TrapRec), r.cause < 256 → r.cls < 8 →
    let t := s.trap r
    let vec := (s.hearth s.cur.st.hearth).trapvec
    t.cur.trappc = s.cur.pc ∧ t.cur.trapstat = s.cur.st.pack ∧ t.cur.trapaddr = r.addr ∧
    t.cur.trapcause.bits 63 56 = r.cause ∧ t.cur.trapcause.bits 55 53 = r.cls ∧
    (s.cur.st.adepth = 0 → t.cur.trapcause.bits 52 52 = 0) ∧
    (1 ≤ s.cur.st.adepth → t.cur.trapcause.bits 52 52 = 1 ∧ t.cur.trapcause.bits 47 0 = s.cur.taskid.bits 47 0) ∧
    t.cur.pc = BitVec.ofNat 64 (vec.bits 56 9 * 512 + Claims.entryOffset r.cause) ∧
    t.cur.st = { s.cur.st with priv := if s.cur.st.priv = 2 then 2 else 1, idv := s.cur.st.idv && r.cause == 0x0B } ∧
    t.cur.stk = s.cur.stk ∧ t.cur.v = s.cur.v ∧ t.cur.m = s.cur.m ∧ OnlyCur s t

/-- SPILLW, FILLW, BARI, CHAN, GOVCFG, RTE, RQRD, RQGO and TLBI at U, and HALT and TLBI with i = 3 below F, take the trap PRIV
(cause 0x05) whatever their operands, before any other check, and nothing else changes. -/
def Obligations.PrivilegeChecks : Prop :=
  (∀ i ∈ [Instr.spillw, .fillw], ∀ (x : Z9) (s : State), s.cur.st.priv = 0 → Traps (i x) s { cause := 0x05 }) ∧
    (∀ (x : RI) (s : State), s.cur.st.priv = 0 → Traps (.bari x) s { cause := 0x05 }) ∧
    (∀ i ∈ [Instr.chan, .govcfg, .rte, .rqrd, .rqgo, .tlbi, .halt], ∀ (x : XA) (s : State), s.cur.st.priv = 0 →
      Traps (i x) s { cause := 0x05 }) ∧
    (∀ (x : XA) (s : State), s.cur.st.priv ≤ 1 → Traps (.halt x) s { cause := 0x05 } ∧
      (x.i = 3 → Traps (.tlbi x) s { cause := 0x05 }))

namespace Sys2Proof.Claims

open Sys2Proof.Machine

/-! ## Memory -/

/-- What the executing thread waits for after an instruction with a wt field (R264). -/
def wtWait (f : Fld) (s : State) : Wait :=
  let any := 2 ^ 64
  if f.wt = 1 then .counts 0 any any any else if f.wt = 2 then .counts any 0 any any
  else if f.wt = 3 then .counts any any 0 any else s.cur.wait
/-- The registers of the executing thread after an instruction: those of the list hold its values, every other what it held. -/
def Regs (s t : State) (l : List (Nat × Word)) : Prop :=
  ∀ n < 16, t.cur.w n = match l.find? (·.1 == n) with
    | some p => p.2
    | none => s.w n
/-- The thread after an instruction that writes the listed registers, with clock rc: the PC is the next instruction, the wait that of
wt, the written registers are live, and every special register, flag, vector register and count is as before. -/
def Ran (s t : State) (f : Fld) (regs : List Nat) (rc : Clock) : Prop :=
  t.cur = { s.cur with
    stk := t.cur.stk
    markW := t.cur.markW
    st := { s.cur.st with live := regs.foldl (fun l n => l ||| (1#16 <<< n)) s.cur.st.live }
    pc := s.npc f
    wait := wtWait f s
    rc := rc }
/-- The fields of a load are legal (R259, R262, R263): not rel, a scope exactly with acq and acqrel, an index only with PXR. -/
abbrev LoadForm (f : Fld) : Prop :=
  f.ord ≠ 2 ∧ (f.ord = 0 ↔ f.sc = 0) ∧ (f.f = 1 → f.pxr = true) ∧ (f.pxr = true → f.rc = 0)
/-- The fields of a store are legal (R259, R261-R263). -/
abbrev StoreForm (f : Fld) : Prop :=
  f.ord ≠ 1 ∧ (f.ord = 0 ↔ f.sc = 0) ∧ (f.f = 1 → f.pxr = true) ∧ (f.pxr = true → f.rc = 0 ∧ f.sz < 4)
/-- The address of LD and ST (R260). -/
def addrOf (f : Fld) (s : State) : Word :=
  s.w f.s + (if f.pxr then (if f.f = 1 then s.w f.t * BitVec.ofNat 64 (szBytes f.sz) else s.w f.t) else 0) + BitVec.ofInt 64 f.immS
/-- The step of LDX and STX (R268). -/
def stepBy (f : Fld) (s : State) : Word :=
  if f.pxr then (if f.f = 1 then s.w f.t * BitVec.ofNat 64 (szBytes f.sz) else s.w f.t) else BitVec.ofNat 64 (szBytes f.sz)
/-- n bytes at offset off of the executing core's own local store, which nothing refuses to the thread or delays (R98, R149), outside
the boot-test view (R537); for a write no cell of a local store is defective. -/
abbrev OwnLS (s : State) (off n : Nat) (write : Bool) : Prop :=
  coreExists s.curCore = true ∧ s.hub.package < 64 ∧ s.curK.view = false ∧ off + n ≤ 2 ^ 18 ∧ off % n = 0 ∧
    s.curK.lsRefusedN off n s.cur.st.hearth s.cur.st.priv write = false ∧ s.ownBusy off n = false ∧ (write = true → s.stuck = [])
/-- The bytes that lie there, as a number. -/
def ownNat (s : State) (off n : Nat) : Nat := s.memNat (lsPA s s.curCore off) n
/-- The value of a load (R261, R267): zero-extended, or with sz of 4 and more sign-extended. -/
def loaded (f : Fld) (raw : Nat) : Word :=
  let x := BitVec.ofNat (8 * szBytes f.sz) raw
  if 4 ≤ f.sz then x.signExtend 64 else x.setWidth 64
/-- The clock of an acquire from a bank of the core's own local store (R266). -/
def bankClock (s : State) (f : Fld) (off : Nat) : Clock :=
  if f.ord = 1 then s.cur.rc.max (get {} s.curK.bankclk (off / 2 ^ 13)) else s.cur.rc

end Sys2Proof.Claims

/-- For a plain or acquire load with legal fields, whose address lies aligned in the own core's window where nothing refuses or
delays it, by a thread with no unstamped release: LD and LDA write the value, extended by sz, to w<d>; LDX does so at w<s> and
then adds the step to w<s>; an acquire raises the thread's required clock by the bank's. The PC, the wait of wt and the live bits
are as stated, no other register or field of the thread changes, and memory is unchanged. -/
def Obligations.LocalLoads : Prop :=
  (∀ (x : RR) (s : State) (off : Nat), Ready (.ld x) s → Claims.LoadForm x.fld → x.fld.ord ≠ 3 →
      Claims.addrOf x.fld s = windowVA s.curCore off → Claims.OwnLS s off (szBytes x.fld.sz) false →
      s.unstamped s.curCore s.curSlot = false →
      ∃ t : State, exec (.ld x) s = .next t ∧ Claims.Ran s t x.fld [x.fld.d] (Claims.bankClock s x.fld off) ∧ t.mem = s.mem ∧
        Claims.Regs s t [(x.fld.d, Claims.loaded x.fld (Claims.ownNat s off (szBytes x.fld.sz)))]) ∧
    (∀ (x : RR) (s : State) (off : Nat), Ready (.ldx x) s → Claims.LoadForm x.fld → x.fld.ord ≠ 3 → x.d ≠ x.s →
      s.w x.fld.s = windowVA s.curCore off → Claims.OwnLS s off (szBytes x.fld.sz) false →
      s.unstamped s.curCore s.curSlot = false →
      ∃ t : State, exec (.ldx x) s = .next t ∧ Claims.Ran s t x.fld [x.fld.d, x.fld.s] (Claims.bankClock s x.fld off) ∧ t.mem = s.mem ∧
        Claims.Regs s t [(x.fld.d, Claims.loaded x.fld (Claims.ownNat s off (szBytes x.fld.sz))),
          (x.fld.s, s.w x.fld.s + Claims.stepBy x.fld s)]) ∧
    (∀ (x : RI) (s : State) (off : Nat), Ready (.lda x) s → Claims.LoadForm x.fld → x.fld.ord ≠ 3 → x.fld.t = 0 →
      s.cur.pc + BitVec.ofInt 64 x.fld.immS = windowVA s.curCore off → Claims.OwnLS s off (szBytes x.fld.sz) false →
      s.unstamped s.curCore s.curSlot = false →
      ∃ t : State, exec (.lda x) s = .next t ∧ Claims.Ran s t x.fld [x.fld.d] (Claims.bankClock s x.fld off) ∧ t.mem = s.mem ∧
        Claims.Regs s t [(x.fld.d, Claims.loaded x.fld (Claims.ownNat s off (szBytes x.fld.sz)))])

/-- For a plain store with legal fields, whose address (for ST w<s> plus index plus immediate, for STX w<s>) lies aligned in the
own core's window where nothing refuses or delays it, no change of the log's size pending: the bytes there are the low bytes of
w<d>, least significant first, every other byte of memory reads as before, ST writes no register and STX adds the step to w<s>
after the access; no other field of the thread changes. -/
def Obligations.LocalStores : Prop :=
  (∀ (x : RR) (s : State) (off : Nat), Ready (.st x) s → Claims.StoreForm x.fld → x.fld.ord = 0 → s.cur.wait = .none →
      Claims.addrOf x.fld s = windowVA s.curCore off → Claims.OwnLS s off (szBytes x.fld.sz) true → s.curK.storesStall = false →
      ∃ t : State, exec (.st x) s = .next t ∧ Claims.Ran s t x.fld [] s.cur.rc ∧ Claims.Regs s t [] ∧
        Claims.ownNat t off (szBytes x.fld.sz) = (s.w x.fld.d).toNat % 2 ^ (8 * szBytes x.fld.sz) ∧
        Claims.MemoryBut s t (lsPA s s.curCore off) (szBytes x.fld.sz)) ∧
    (∀ (x : RR) (s : State) (off : Nat), Ready (.stx x) s → Claims.StoreForm x.fld → x.fld.ord = 0 → s.cur.wait = .none →
      s.w x.fld.s = windowVA s.curCore off → Claims.OwnLS s off (szBytes x.fld.sz) true → s.curK.storesStall = false →
      ∃ t : State, exec (.stx x) s = .next t ∧ Claims.Ran s t x.fld [x.fld.s] s.cur.rc ∧
        Claims.Regs s t [(x.fld.s, s.w x.fld.s + Claims.stepBy x.fld s)] ∧
        Claims.ownNat t off (szBytes x.fld.sz) = (s.w x.fld.d).toNat % 2 ^ (8 * szBytes x.fld.sz) ∧
        Claims.MemoryBut s t (lsPA s s.curCore off) (szBytes x.fld.sz))

namespace Sys2Proof.Claims

open Sys2Proof.Machine

/-- A DRAM address of the package, to which the executing thread's access at a translates, in the state that the translation leaves
(its TLB entries may be new). -/
abbrev ToDram (s s' : State) (a : Word) (k : Acc) (pa : Nat) (at_ : Attr) : Prop :=
  s.translateCur a k = (.ok pa at_, s') ∧ paClass pa = 0 ∧ s'.ownPackage pa = true

end Sys2Proof.Claims

/-- For LD with legal fields, plain or acquire, at an aligned address that translates to DRAM of the package: if no release of the
thread is unstamped, a request slot is free, no posted store of a core in boot test is on its way there and neither the log nor
the read cache supplies the bytes, exec answers a next state in which exactly one request has been added (with the physical
address, size, policy to acquire and destination of the load, and the thread's required clock), the thread's loads count is one
higher, the destination is pending and live, the PC has moved on, and memory is unchanged. -/
def Obligations.GlobalLoadsLeaveAsRequests : Prop :=
  ∀ (x : RR) (s s' : State) (pa : Nat) (a : Attr), Ready (.ld x) s → Claims.LoadForm x.fld → x.fld.ord ≠ 3 → s.cur.wlow < 12 →
    (Claims.addrOf x.fld s).toNat % szBytes x.fld.sz = 0 → Claims.ToDram s s' (Claims.addrOf x.fld s) .read pa a →
    s'.unstamped s.curCore s.curSlot = false → s'.reqFull s.curCore = false →
    (s.curK.bootTest = true → s'.postedOver s.curCore s.curSlot pa (szBytes x.fld.sz) = false) →
    s'.served (x.fld.ord = 1) (policy x.fld a) pa (szBytes x.fld.sz) = none →
    ∃ (t : State) (r : Req), exec (.ld x) s = .next t ∧ t.reqs = s'.reqs ++ [r] ∧ r.pa = pa ∧ r.size = szBytes x.fld.sz ∧
      r.op = .load (x.fld.ord = 1) ∧ r.dst = .w (s.cur.entry x.fld.d) x.fld.sz ∧ r.rc = s.cur.rc ∧ r.hold = false ∧
      r.core = s.curCore ∧ r.slot = s.curSlot ∧ t.cur.loads = s.cur.loads + 1 ∧ s.cur.entry x.fld.d ∈ t.cur.pendW ∧
      t.cur.st.live.getLsbD x.fld.d = true ∧ t.cur.stk = s.cur.stk ∧ t.cur.pc = s.npc x.fld ∧ t.mem = s.mem

/-- For a plain ST with legal fields at an aligned address that translates to DRAM of the package, by a thread whose hearth owns
the open log segment, with room in the ring, no change of the log's size pending, and no open entry for its word: the store is
appended as one entry with the word address, data and byte mask, the tail rises by one, no byte of DRAM changes and the PC moves
on. If a plain LD of the same size by the same thread then translates to the same address, with none of its releases unstamped, it
returns the stored bytes at once. -/
def Obligations.StoreIsLoggedAndForwarded : Prop :=
  ∀ (x : RR) (s s' : State) (pa : Nat) (a : Attr), Ready (.st x) s → Claims.StoreForm x.fld → x.fld.ord = 0 →
    s.cur.wait = .none → s.curK.bootTest = false → (Claims.addrOf x.fld s).toNat % szBytes x.fld.sz = 0 →
    Claims.ToDram s s' (Claims.addrOf x.fld s) .write pa a →
    s.curK.log.openHearth = s.cur.st.hearth → s.curK.log.newSize = none → s.curK.log.used < s.curK.log.entries →
    (∀ e ∈ s.curK.log.openEntries, e.wadr ≠ pa / 8) → coreExists s.curCore = true → s.hub.package < 64 →
    let n := szBytes x.fld.sz
    let v := (s.w x.fld.d).toNat % 2 ^ (8 * n)
    ∃ (t : State) (e : LogEntry), exec (.st x) s = .next t ∧ t.curK.log.openEntries = s.curK.log.openEntries ++ [e] ∧
      e.wadr = pa / 8 ∧ e.data = BitVec.ofNat 64 (v * 2 ^ (8 * (pa % 8))) ∧
      e.mask = BitVec.ofNat 8 ((2 ^ n - 1) * 2 ^ (pa % 8)) ∧ e.task = s.cur.taskid ∧
      t.curK.log.tail = s.curK.log.tail + 1 ∧ (∀ p < 2 ^ 56, paClass p = 0 → t.byte p = s.byte p) ∧ Claims.Ran s t x.fld [] s.cur.rc ∧
      ∀ (y : RR) (t' : State) (b : Attr), Ready (.ld y) t → Claims.LoadForm y.fld → y.fld.ord = 0 → y.fld.pxx = false →
        szBytes y.fld.sz = n → Claims.addrOf y.fld t = Claims.addrOf x.fld s →
        Claims.ToDram t t' (Claims.addrOf y.fld t) .read pa b → t.unstamped t.curCore t.curSlot = false →
        ∃ u : State, exec (.ld y) t = .next u ∧ Claims.Regs t u [(y.fld.d, Claims.loaded y.fld v)]

/-- For LD and ST with legal fields: at an address that is not a multiple of the size and that translates, they trap with ALIGN
where the effective policy is dev and with MISALIGN otherwise, with the address in TRAPADDR; at an aligned address of the own
core's local store that the bank check refuses, with cause 0x46. LD, LDX, LDA, ST and STX with fields that are not legal, and LDX
with d = s, trap with ILLFLD at one of their parcels. In deterministic mode AMOV, CAS, CAS16, FUTS, FUTP, LOCK, UNLOCK, QPUSH and
QPOP with legal fields trap with DETATOM, with their address in TRAPADDR. No register, no byte of memory and nothing but the trap
registers, PC and STATUS changes (and translation buffers). -/
def Obligations.MisalignedAndRefused : Prop :=
  (∀ (x : RR) (s s' : State) (pa : Nat) (a : Attr) (off : Nat),
    let n := szBytes x.fld.sz
    let va := Claims.addrOf x.fld s
    let c := if policy x.fld a = 2 then 0x0A else 0x0B
    (Ready (.ld x) s → Claims.LoadForm x.fld →
      (va.toNat % n ≠ 0 → s.translateCur va .read = (.ok pa a, s') → exec (.ld x) s = .next (s'.trap { cause := c, addr := va })) ∧
      (va = windowVA s.curCore off → off + n ≤ 2 ^ 18 → off % n = 0 → coreExists s.curCore = true → s.hub.package < 64 →
        s.curK.lsRefusedN off n s.cur.st.hearth s.cur.st.priv false = true → Traps (.ld x) s { cause := 0x46, addr := va })) ∧
    (Ready (.st x) s → Claims.StoreForm x.fld →
      (va.toNat % n ≠ 0 → s.translateCur va .write = (.ok pa a, s') → exec (.st x) s = .next (s'.trap { cause := c, addr := va })) ∧
      (va = windowVA s.curCore off → off + n ≤ 2 ^ 18 → off % n = 0 → coreExists s.curCore = true → s.hub.package < 64 →
        s.curK.lsRefusedN off n s.cur.st.hearth s.cur.st.priv true = true → Traps (.st x) s { cause := 0x46, addr := va }))) ∧
    (∀ (x : RR) (s : State),
      let refused (i : Instr) : Prop := Ready i s → ∃ p ≤ x.fld.last, Traps i s (illfldAt s p)
      (¬Claims.LoadForm x.fld → refused (.ld x) ∧ refused (.ldx x)) ∧ (x.d = x.s → refused (.ldx x)) ∧
      (¬Claims.StoreForm x.fld → refused (.st x) ∧ refused (.stx x))) ∧
    (∀ (x : RI) (s : State), ¬Claims.LoadForm x.fld ∨ (x.fld.pxr = true ∧ x.fld.t ≠ 0) → Ready (.lda x) s →
      ∃ p ≤ x.fld.last, Traps (.lda x) s (illfldAt s p)) ∧
    (∀ (x : RR) (s : State), s.cur.st.det = true →
      let f := x.fld
      let atom (i : Instr) (a : Word) : Prop := Ready i s → Traps i s { cause := 0x16, addr := a }
      (f.rc = 0 → f.sz = 2 ∨ f.sz = 3 → x.f = 0 →
        atom (.cas x) (s.w f.s) ∧ (f.t ≤ 7 → atom (.amov x) (s.w f.s + BitVec.ofNat 64 f.immU))) ∧
      (f.rc = 0 → f.sz = 0 → x.f = 0 → f.t % 2 = 0 → f.d % 2 = 0 → atom (.cas16 x) (s.w f.s)) ∧
      atom (.futs x) (s.w f.s) ∧ atom (.qpush x) (s.w f.s) ∧ (x.f = 0 → atom (.futp x) (s.w f.s)) ∧
      (x.d = 0 → x.f = 0 → atom (.lock x) (s.w f.s) ∧ atom (.unlock x) (s.w f.s)) ∧
      (x.f = 0 → (f.pxr = true → f.rc = 0 ∧ f.sz = 0 ∧ f.t ≠ f.d) → atom (.qpop x) (s.w f.s)))

namespace Sys2Proof.Claims

open Sys2Proof.Machine

/-- What AMO leaves (R276), by its code t: n bytes, old value m, operand v, both below 2^(8n). -/
def amoNew (t n m v : Nat) : Nat :=
  let f := if n = 4 then fp32 else fp64
  let si (x : Nat) : Int := (BitVec.ofNat (8 * n) x).toInt
  [(m + v) % 2 ^ (8 * n), m &&& v, m ||| v, m ^^^ v, if si m ≤ si v then m else v, if si v ≤ si m then m else v, min m v, max m v,
    f.round 0 0 0 0 (Machine.Num.add 0 (f.decode m) (f.decode v)), f.min m v, f.max m v].getD t 0
/-- What AMOV leaves, by its code. -/
def amovNew (t n m v : Nat) : Nat :=
  if t = 0 then v else if t ≤ 3 then amoNew (t - 1) n m v else amoNew t n m v
/-- The thread after an atomic that writes the listed registers: as after a load, with idv down (R373). -/
def RanAtomic (s t : State) (f : Fld) (regs : List Nat) (rc : Clock) : Prop :=
  t.cur = { s.cur with
    stk := t.cur.stk
    markW := t.cur.markW
    st := { s.cur.st with live := regs.foldl (fun l n => l ||| (1#16 <<< n)) s.cur.st.live, idv := false }
    pc := s.npc f
    wait := wtWait f s
    rc := rc }

end Sys2Proof.Claims

/-- For a plain or acquiring atomic with legal fields at core scope, on aligned bytes of the own core's local store that nothing
refuses or delays: AMO leaves Op(m, w<d>) and writes no register; AMOV leaves Op(m, w<d>) or w<d> and returns m; CAS leaves w<t>
where the low bytes of w<d> equal m and else m, and returns m zero-extended; CAS16 does so with register pairs on 16 bytes. No
other byte of memory and no other register changes; idv falls. -/
def Obligations.LocalAtomics : Prop :=
  ∀ (x : RR) (s : State) (off : Nat), s.cur.wait = .none →
    let f := x.fld
    let n := szBytes f.sz
    let m := Claims.ownNat s off n
    let rc := Claims.bankClock s f off
    let fields := f.rc = 0 ∧ (f.sz = 2 ∨ f.sz = 3) ∧ x.f = 0 ∧ f.sc ≤ 1
    let pa := lsPA s s.curCore off
    (Ready (.amo x) s → fields → f.t ≤ 10 → f.ord = 0 → s.w f.s + BitVec.ofNat 64 f.immU = windowVA s.curCore off →
      Claims.OwnLS s off n true →
      ∃ t : State, exec (.amo x) s = .next t ∧ Claims.RanAtomic s t f [] s.cur.rc ∧ Claims.Regs s t [] ∧
        Claims.ownNat t off n = Claims.amoNew f.t n m ((s.w f.d).toNat % 2 ^ (8 * n)) % 2 ^ (8 * n) ∧ Claims.MemoryBut s t pa n) ∧
    (Ready (.amov x) s → fields → f.t ≤ 7 → f.ord ≤ 1 → s.cur.st.det = false →
      s.w f.s + BitVec.ofNat 64 f.immU = windowVA s.curCore off → Claims.OwnLS s off n true →
      ∃ t : State, exec (.amov x) s = .next t ∧ Claims.RanAtomic s t f [f.d] rc ∧ Claims.Regs s t [(f.d, BitVec.ofNat 64 m)] ∧
        Claims.ownNat t off n = Claims.amovNew f.t n m ((s.w f.d).toNat % 2 ^ (8 * n)) % 2 ^ (8 * n) ∧ Claims.MemoryBut s t pa n) ∧
    (Ready (.cas x) s → fields → f.ord ≤ 1 → s.cur.st.det = false → s.w f.s = windowVA s.curCore off → Claims.OwnLS s off n true →
      ∃ t : State, exec (.cas x) s = .next t ∧ Claims.RanAtomic s t f [f.d] rc ∧ Claims.Regs s t [(f.d, BitVec.ofNat 64 m)] ∧
        Claims.ownNat t off n = (if (s.w f.d).toNat % 2 ^ (8 * n) = m then (s.w f.t).toNat % 2 ^ (8 * n) else m) ∧
        Claims.MemoryBut s t pa n) ∧
    (Ready (.cas16 x) s → f.rc = 0 → f.sz = 0 → x.f = 0 → f.sc ≤ 1 → f.ord ≤ 1 → f.t % 2 = 0 → f.d % 2 = 0 → f.t < 16 →
      s.cur.st.det = false → s.w f.s = windowVA s.curCore off → Claims.OwnLS s off 16 true →
      let m := Claims.ownNat s off 16
      let pair (r : Nat) : Nat := (s.w (r + 1)).toNat * 2 ^ 64 + (s.w r).toNat
      ∃ t : State, exec (.cas16 x) s = .next t ∧ Claims.RanAtomic s t f [f.d, f.d + 1] rc ∧
        Claims.Regs s t [(f.d, BitVec.ofNat 64 m), (f.d + 1, BitVec.ofNat 64 (m / 2 ^ 64))] ∧
        Claims.ownNat t off 16 = (if pair f.d = m then pair f.t else m) ∧ Claims.MemoryBut s t pa 16)

/-- For AMO, plain, with legal fields at an aligned address that translates to DRAM, with sc 0 or clus to pkg, outside
deterministic mode, by a thread whose hearth owns the open segment, with a free request slot: the open segment is closed by a
release at die scope, and one request is added that names the physical address, the operation and the operand and is held until
that release is stamped; stores rises by one, no register changes and memory is unchanged but for the log ring. -/
def Obligations.GlobalAtomicsShipTheSegment : Prop :=
  ∀ (x : RR) (s s' : State) (pa : Nat) (a : Attr), Ready (.amo x) s →
    let f := x.fld
    let va := s.w f.s + BitVec.ofNat 64 f.immU
    f.rc = 0 → (f.sz = 2 ∨ f.sz = 3) → x.f = 0 → f.t ≤ 10 → f.ord = 0 → (f.sc = 0 ∨ (2 ≤ f.sc ∧ f.sc ≤ 4)) →
    va.toNat % szBytes f.sz = 0 → Claims.ToDram s s' va .atomic pa a → s.cur.st.det = false → s.cur.wait = .none →
    s'.reqFull s.curCore = false → s.curK.log.openHearth = s.cur.st.hearth → coreExists s.curCore = true → s.hub.package < 64 →
    ∃ (t : State) (r : Req) (g : Segment), exec (.amo x) s = .next t ∧ t.reqs = s'.reqs ++ [r] ∧ r.pa = pa ∧ r.op = .amo f.t (s.w f.d) ∧ r.hold = true ∧
      r.dst = .none ∧ t.curK.log.openEntries = [] ∧ g ∈ t.curK.log.closed ∧ g.sc = 3 ∧ g.follow = [r.id] ∧ g.rc = s.cur.rc ∧
      (∀ e ∈ s.curK.log.openEntries, e ∈ g.entries) ∧ t.cur.stores = s.cur.stores + 1 ∧ t.cur.stk = s.cur.stk ∧
      t.cur.pc = s.npc f ∧ (∀ p < 2 ^ 56, paClass p = 0 → t.byte p = s.byte p)

/-- REL with sc 1 to 6, ord, cp and z 0, by a thread whose hearth owns the open segment: the open segment is empty afterwards, its
entries stand in a closed segment with that scope and the thread's clock, the tail is one higher, and stores rises by one exactly
at pod and sys. ACQ of a valid handle whose tail the core has published raises the thread's clock to that release's stamp and
empties the read cache; otherwise it waits for it; a malformed handle traps with OPRANGE. FENCE with nothing of the slot in flight
goes on and changes nothing else; with a value-returning request in flight it waits. ISYNC with f = 1 empties the instruction
cache of its core only and changes nothing else but the PC. -/
def Obligations.ReleaseAcquireFence : Prop :=
  (∀ (x : Z9) (s : State), Ready (.rel x) s → x.z = 0 → 1 ≤ x.fld.sc → x.fld.ord = 0 → x.fld.cp = 0 →
      s.curK.log.openHearth = s.cur.st.hearth → s.cur.wait = .none →
      ∃ (t : State) (g : Segment), exec (.rel x) s = .next t ∧ t.curK.log.openEntries = [] ∧ g ∈ t.curK.log.closed ∧ g.sc = x.fld.sc ∧
        g.rc = s.cur.rc ∧ g.publish = true ∧ (∀ e ∈ s.curK.log.openEntries, e ∈ g.entries) ∧
        t.curK.log.tail = s.curK.log.tail + 1 ∧ t.cur.stores = s.cur.stores + (if 5 ≤ x.fld.sc then 1 else 0) ∧
        t.cur.stk = s.cur.stk ∧ t.cur.pc = s.npc x.fld ∧ t.cur.wait = Claims.wtWait x.fld s ∧ t.cur.st = { s.cur.st with idv := false }) ∧
    (∀ (x : RR) (s : State), Ready (.acq x) s → x.d = 0 → x.f = 0 →
      let h := s.w x.fld.s
      let l := (s.core (h.bits 12 0)).log
      (h.bits 15 13 ≠ 0 ∨ 160 ≤ h.bits 10 3 → Traps (.acq x) s { cause := 0x0D, addr := h }) ∧
      (h.bits 15 13 = 0 → h.bits 10 3 < 160 →
        (h.bits 63 16 ≤ (get 0 l.pubtail s.cur.st.hearth).toNat → ∃ t : State, exec (.acq x) s = .next t ∧ t.curK.rcache = [] ∧
          t.cur = { s.cur with rc := s.cur.rc.max (get {} l.pubstamp s.cur.st.hearth), pc := s.npc x.fld } ∧ t.mem = s.mem) ∧
        ((get 0 l.pubtail s.cur.st.hearth).toNat < h.bits 63 16 → exec (.acq x) s =
          .next (s.modCur fun t => { t with wait := .acq (h.bits 12 0) (h.bits 63 16) })))) ∧
    (∀ (x : Z9) (s : State), Ready (.fence x) s → x.z = 0 →
      (s.reqs = [] → s.replies = [] → Jumps (.fence x) s (s.npc x.fld)) ∧
      ((∃ r ∈ s.reqs, r.core = s.curCore ∧ r.slot = s.curSlot ∧ r.dst ≠ .none) →
        exec (.fence x) s = .next (s.modCur fun t => { t with wait := .retry }))) ∧
    (∀ (x : RR) (s : State), Ready (.isync x) s → x.f = 1 → x.d = 0 → x.s = 0 →
      ∃ t : State, exec (.isync x) s = .next t ∧ t.curK = { s.curK with icache := [], slots := t.curK.slots } ∧ t.mem = s.mem ∧
        t.cur = { s.cur with pc := s.npc x.fld } ∧ ∀ c, c ≠ s.curCore → t.core c = s.core c)

/-- PUT with f = 0, plain, legal fields and an aligned address of the own package's local store that translates: one request is
added with the low bytes of w<s>, the tag and the target, stores rises by one, no register changes, memory is unchanged. WAITM of
a counter of the thread's hearth that holds at least n lowers it by n, raises the thread's clock to the counter's, and goes on; a
lower counter makes it wait, unchanged. WAIT with Imm below 4096 and no deferred fault that it names goes on when every count is
at or below its limit and otherwise waits with those limits. WATCH of an aligned word of the own core's local store, readable and
not delayed, goes on when the word differs from w<d> and otherwise waits for a write of it. SLEEP 0 goes on; SLEEP n waits until
the core has counted 64*n more cycles. MIG to the executing core, or by a thread that is not migratable, goes on; outside the
window it traps with SCOPE. None changes a register or a byte of memory. -/
def Obligations.PutsAndWaits : Prop :=
  ((∀ (x : RR) (s s' : State) (pa : Nat) (a : Attr), Ready (.put x) s → x.f = 0 → x.fld.ord = 0 → x.fld.sc = 0 → x.fld.rc = 0 →
      x.fld.sz < 4 → (s.w x.fld.d).toNat % szBytes x.fld.sz = 0 → s.translateCur (s.w x.fld.d) .write = (.ok pa a, s') →
      paClass pa = 1 → s'.ownPackage pa = true → s'.reqFull s.curCore = false → s.cur.wait = .none →
      ∃ (t : State) (r : Req), exec (.put x) s = .next t ∧ t.reqs = s'.reqs ++ [r] ∧ r.pa = pa ∧
        r.op = .put (leBytes (szBytes x.fld.sz) (s.w x.fld.s).toNat) x.fld.t ∧ r.hold = false ∧
        t.cur.stores = s.cur.stores + 1 ∧ t.cur.stk = s.cur.stk ∧ t.cur.pc = s.npc x.fld ∧ t.cur.wait = Claims.wtWait x.fld s ∧
        t.mem = s.mem) ∧
    (∀ (x : RI) (s : State), Ready (.waitm x) s →
      let i := 16 * s.cur.st.hearth + x.fld.d
      let b := get {} s.curK.mail i
      (x.fld.immU ≤ b.value.toNat → ∃ t : State, exec (.waitm x) s = .next t ∧
        get {} t.curK.mail i = { b with value := b.value - BitVec.ofNat 32 x.fld.immU } ∧
        (∀ j, j ≠ i → get {} t.curK.mail j = get {} s.curK.mail j) ∧ t.mem = s.mem ∧
        t.cur = { s.cur with rc := s.cur.rc.max b.clk, wait := .none, pc := s.npc x.fld }) ∧
      (b.value.toNat < x.fld.immU → exec (.waitm x) s =
        .next (s.modCur fun t => { t with wait := .mail x.fld.d x.fld.immU (s.npc x.fld) })))) ∧
    ((∀ (x : Z9) (s : State), Ready (.wait x) s → s.cur.deferred = [] → x.fld.immU < 4096 →
      let v := x.fld.immU
      let ok := s.cur.loads ≤ v / 512 ∧ s.cur.stores ≤ v / 64 % 8 ∧ s.cur.copies ≤ v / 8 % 8 ∧ s.cur.tiles ≤ v % 8
      (ok → Jumps (.wait x) s (s.npc x.fld)) ∧
      (¬ok → exec (.wait x) s = .next (s.modCur fun t => { t with wait := .counts (v / 512) (v / 64 % 8) (v / 8 % 8) (v % 8) }))) ∧
    (∀ (x : RR) (s : State) (off : Nat), Ready (.watch x) s → x.f = 0 → s.w x.fld.s = windowVA s.curCore off →
      Claims.OwnLS s off 8 false →
      (BitVec.ofNat 64 (Claims.ownNat s off 8) ≠ s.w x.fld.d → Jumps (.watch x) s (s.npc x.fld)) ∧
      (BitVec.ofNat 64 (Claims.ownNat s off 8) = s.w x.fld.d → exec (.watch x) s =
        .next (s.modCur fun t => { t with wait := .watch (lsPA s s.curCore off) (s.npc x.fld) }))) ∧
    (∀ (x : RI) (s : State), Ready (.sleep x) s → x.d = 0 →
      (x.fld.immU = 0 → Jumps (.sleep x) s (s.npc x.fld)) ∧
      (x.fld.immU ≠ 0 → exec (.sleep x) s =
        .next (s.modCur fun t => { t with wait := .sleep (s.curK.cycle.toNat + 64 * x.fld.immU) (s.npc x.fld) }))) ∧
    (∀ (x : RR) (s : State) (c off : Nat), Ready (.mig x) s → x.d = 0 → x.f = 0 → s.w x.fld.s = windowVA c off →
      off < 2 ^ 18 → coreExists c = true →
      c = s.curCore ∨ s.cur.st.pin = true ∨ s.cur.st.priv ≠ 0 ∨ s.cur.st.vclean = false → Jumps (.mig x) s (s.npc x.fld)) ∧
    (∀ (x : RR) (s : State), Ready (.mig x) s → x.d = 0 → x.f = 0 → (s.w x.fld.s).toNat < 0x00FFFFFF80000000 →
      Traps (.mig x) s { cause := 0x0C, addr := s.w x.fld.s }))

/-- When a migratable thread with no load, store or deferred fault outstanding, no resident frame, and no departure of its hearth
pending executes MIG to another core of the package: exec answers a next state in which the executing slot is empty, and one frame
of kind 1 is in flight to that core with the thread's hearth, key, counter and its billet: PC, STATUS, w0 to w15, TASKID and LINK.
-/
def Obligations.MigrationMovesTheThread : Prop :=
  ∀ (x : RR) (s : State) (c off : Nat), Ready (.mig x) s → x.d = 0 → x.f = 0 → s.w x.fld.s = windowVA c off → off < 2 ^ 18 →
    coreExists c = true → c ≠ s.curCore → s.cur.st.pin = false → s.cur.st.priv = 0 → s.cur.st.vclean = true → s.cur.copies = 0 →
    s.cur.tiles = 0 → s.cur.loads = 0 → s.cur.stores = 0 → s.cur.deferred = [] → s.cur.st.resid = 0 →
    get? s.curK.departing s.cur.st.hearth = none → (∀ m a, s.cur.wait ≠ .sleep m a) →
    ∃ (t : State) (fl : Flight), exec (.mig x) s = .next t ∧ t.frames = s.frames ++ [fl] ∧ t.slot s.curCore s.curSlot = {} ∧
      fl.frame.kind = 1 ∧ fl.frame.target = c ∧ fl.frame.hearth = s.cur.st.hearth ∧ fl.frame.key = s.cur.key ∧
      fl.frame.ctr = s.cur.ctr ∧ fl.frame.billet.pc = s.cur.pc ∧
      fl.frame.billet.status = ({ s.cur.st with idv := false } : Status).pack ∧
      fl.frame.billet.w = (List.range 16).map s.cur.w ∧ fl.frame.billet.taskid = s.cur.taskid ∧ fl.frame.billet.link = s.cur.link

namespace Sys2Proof.Claims

open Sys2Proof.Machine

/-! ## Barriers and objects in memory -/

/-- The executing core has no store and no release on its way: its log holds no entry, no piece is in flight, and its cluster's unit
holds no word; its store log belongs to the thread's hearth, the thread waits for nothing and has begun no adoption, and core and package
exist. -/
abbrev Quiet (s : State) : Prop :=
  s.pieces = [] ∧ s.releases = [] ∧ s.curK.log.openEntries = [] ∧ s.curK.log.closed = [] ∧
    s.curK.log.openHearth = s.cur.st.hearth ∧ (s.cluster (clusterOf s.curCore)).cu = [] ∧ s.cur.wait = .none ∧ s.cur.adopting = none ∧
    coreExists s.curCore = true ∧ s.hub.package < 64
/-- The object that a barrier instruction names (R56, R57, R289): its level sc, the executing core's cluster or die, the package, or
for pod package 0, and the index. -/
def barrierOf (f : Fld) (s : State) : BarId :=
  { lev := f.sc, unit := [0, 0, s.curCore / 8, s.curCore / 2048, s.hub.package, 0].getD f.sc 0, idx := f.immU }
/-- A barrier instruction is legal (R289), outside deterministic mode, on an object of the thread's hearth (R291). -/
abbrev BarrierForm (f : Fld) (s : State) : Prop :=
  2 ≤ f.sc ∧ f.sc ≤ 5 ∧ f.immU < [0, 0, 32, 64, 32, 16].getD f.sc 0 ∧ f.ord = 0 ∧ f.wt = 0 ∧ f.cp = 0 ∧ s.cur.st.det = false ∧
    (s.bar (barrierOf f s)).hearth = s.cur.st.hearth

end Sys2Proof.Claims

/-- For a legal arrival at an object q of the thread's hearth, by a thread of a quiet core whose BARLAST holds no record: on a
poisoned object it writes -1 and goes on; where q expects none, or BARD finds none to drop, the object is poisoned and the thread
traps with BAROVER; otherwise w<d> is the phase, and either the count of arrivals rises (BARA and BARD go on, BARR waits for the
end of the phase) or, for the last expected arrival, the phase flips, the count is 0, the next phase expects nexp and every one of
them goes on. BARD lowers nexp by one. BARW at a legal object q of the thread's hearth writes -1 on a poisoned object; where the
phase differs from bit 0 of w<d> it writes the phase, and the thread acquires the clock of the last phase; otherwise it waits for
the end of the phase. None of them changes the object. BARI at F with a count below 2^24, on a legal index: the object expects
that count, now and next, has no arrival, phase 0, no poison, the thread's hearth and an epoch one higher; the PC moves on and no
register changes. A count of 2^24 or more traps with OPRANGE. -/
def Obligations.BarrierInstructions : Prop :=
  (∀ (x : RI) (s : State), Claims.BarrierForm x.fld s → Claims.Quiet s → s.cur.barlast = 0 →
    let f := x.fld
    let b := Claims.barrierOf f s
    let q := s.bar b
    ∀ p ∈ [(Instr.barr, false, true), (.bara, false, false), (.bard, true, false)], Ready (p.1 x) s →
      let drop := p.2.1
      let nexp := if drop then q.nexp - 1 else q.nexp
      (q.poison = true → ∃ t : State, exec (p.1 x) s = .next t ∧ t.cur.w f.d = -1 ∧ t.cur.pc = s.npc f ∧ t.bar b = q) ∧
      (q.poison = false → q.expected = 0 ∨ (drop = true ∧ q.nexp = 0) → ∃ t : State, exec (p.1 x) s = .next t ∧
        t.bar b = { q with poison := true } ∧ t.cur.trapcause.bits 63 56 = 0x18 ∧ t.cur.trappc = s.cur.pc ∧ t.cur.stk = s.cur.stk) ∧
      (q.poison = false → q.expected ≠ 0 → (drop = true → q.nexp ≠ 0) → ∃ t : State, exec (p.1 x) s = .next t ∧
        t.cur.w f.d = (if q.phase then 1 else 0) ∧ (∀ n < 16, n ≠ f.d → t.cur.w n = s.cur.w n) ∧
        (q.arrived + 1 ≠ q.expected →
          (t.bar b).arrived = q.arrived + 1 ∧ (t.bar b).phase = q.phase ∧ (t.bar b).nexp = nexp ∧
          (if p.2.2 then t.cur.wait = .barrier b f.d q.phase true (s.npc f) ∧ t.cur.pc = s.cur.pc
            else t.cur.wait = .none ∧ t.cur.pc = s.npc f)) ∧
        (q.arrived + 1 = q.expected →
          (t.bar b).arrived = 0 ∧ (t.bar b).phase = !q.phase ∧ (t.bar b).nexp = nexp ∧ (t.bar b).expected = nexp ∧
          t.cur.wait = .none ∧ t.cur.pc = s.npc f))) ∧
    ((∀ (x : RI) (s : State), Claims.BarrierForm x.fld s → Ready (.barw x) s → s.cur.wait = .none →
      let f := x.fld
      let b := Claims.barrierOf f s
      let q := s.bar b
      let w := (s.w f.d).getLsbD 0
      (q.poison = true → Writes (.barw x) s (-1)) ∧
      (q.poison = false → q.phase ≠ w → ∃ t : State, exec (.barw x) s = .next t ∧ t.cur.w f.d = (if q.phase then 1 else 0) ∧
        t.cur.pc = s.npc f ∧ t.cur.rc = s.cur.rc.max (if f.sc = 5 then {} else q.last) ∧ t.curK.rcache = [] ∧ t.bar b = q ∧
        t.mem = s.mem ∧ ∀ n < 16, n ≠ f.d → t.cur.w n = s.cur.w n) ∧
      (q.poison = false → q.phase = w → exec (.barw x) s =
        .next (s.modCur fun t => { t with wait := .barrier b f.d w false (s.npc f) }))) ∧
    (∀ (x : RI) (s : State), Ready (.bari x) s → s.cur.st.priv = 2 → s.cur.wait = .none →
      let f := x.fld
      let b := Claims.barrierOf f s
      2 ≤ f.sc → f.sc ≤ 5 → f.immU < [0, 0, 32, 64, 32, 16].getD f.sc 0 → f.ord = 0 → f.wt = 0 → f.cp = 0 →
      ((s.w f.d).toNat < 2 ^ 24 → ∃ t : State, exec (.bari x) s = .next t ∧
        t.bar b = { s.bar b with expected := BitVec.ofNat 24 (s.w f.d).toNat, nexp := BitVec.ofNat 24 (s.w f.d).toNat, arrived := 0,
                                 phase := false, poison := false, hearth := s.cur.st.hearth, epoch := (s.bar b).epoch + 1, now := {} } ∧
        t.cur = { s.cur with pc := s.npc f } ∧ t.mem = s.mem) ∧
      (2 ^ 24 ≤ (s.w f.d).toNat → Traps (.bari x) s { cause := 0x0D, addr := s.w f.d })))

namespace Sys2Proof.Claims

open Sys2Proof.Machine

/-- The executing core's TLB serves an address a outside the window, for which no miss of the thread is queued: it translates to pa for accesses
of kind k (R107, R117). -/
abbrev TlbHit (s : State) (a : Word) (k : Acc) (pa : Nat) : Prop :=
  canonical a = true ∧ inWindow a = false ∧ s.missAt s.curCore s.curSlot s.cur.st.hearth a = none ∧ ((s.curK.tlb.find? fun t : TlbEntry => t.serves s.cur.st.hearth
      ((s.hearth s.cur.st.hearth).aspace.bits 63 56) (a.toNat % 2 ^ 57)).any fun e =>
    match finishTr e.leaf (a.toNat % 2 ^ 57) s.cur.st.priv k with
    | .ok p _ => p == pa
    | _ => false) = true
/-- An object word of n bytes at a lies at pa in DRAM of the package, its address aligned (R294), its die with power, and no word of DRAM poisoned
or in error. -/
abbrev ObjAt (s : State) (a : Word) (n : Nat) (k : Acc) (pa : Nat) : Prop :=
  TlbHit s a k pa ∧ paClass pa = 0 ∧ pa < 2 ^ 56 ∧ pa % n = 0 ∧ s.ownPackage pa = true ∧ s.poison = [] ∧ a.toNat % n = 0 ∧ s.latent = [] ∧
    (s.die (homeOf pa / 160)).powerLost = false
/-- Every byte of DRAM outside the listed ranges reads as before. -/
def DramBut (s t : State) (l : List (Nat × Nat)) : Prop :=
  ∀ p < 2 ^ 56, paClass p = 0 → (∀ r ∈ l, p < r.1 ∨ r.1 + r.2 ≤ p) → t.byte p = s.byte p

end Sys2Proof.Claims

/-- For a 16-aligned future in DRAM that the core's TLB serves, by a thread of a quiet core outside deterministic mode: FUTS with
f = 0 on an empty or claimed future makes its state full, keeps its owner and writes w<d> to word 1, with f = 1 on an empty one
makes it claimed by w<d>[47:0]; FUTP on an empty or claimed one makes it poison with w<d>; on any other state but FUTP's poison
they trap with FUTSTATE and the future is unchanged. FUTW of a full one writes word 1 to w<d>, and 2 to w<t> with PXR; of a poison
one it writes w<d> and 3 with PXR and traps with POISONED without. Each that completes goes on at the next instruction, and no
other byte of DRAM changes. For an 8-aligned lock word in DRAM that the core's TLB serves, by a thread of a quiet core outside
deterministic mode: LOCK of a word with held = 0 writes held = 1 and the low 48 bits of TASKID as owner, keeping waiters, and goes
on; of a word that the same task holds it traps with LOCKSTATE. UNLOCK by the holder writes held = 0 and waiters = 0 and keeps the
owner; by another task, or of a free word, it traps with LOCKSTATE and the word is unchanged. No other byte of DRAM and no
register changes. That what passes between core and homes completes in one step is the model's choice (log 18). -/
def Obligations.FuturesAndLocks : Prop :=
  (∀ (x : RR) (s : State) (pa : Nat), Claims.Quiet s → s.cur.st.det = false →
    let f := x.fld
    let a := s.w f.s
    let v := s.w f.d
    let st := (s.memW pa).bits 63 62
    let owner := (s.memW pa).bits 47 0
    (Ready (.futs x) s → x.f = 0 → Claims.ObjAt s a 16 .atomic pa →
      (st < 2 → ∃ t : State, exec (.futs x) s = .next t ∧ t.memW pa = BitVec.ofNat 64 (2 * 2 ^ 62 + owner) ∧ t.memW (pa + 8) = v ∧
        Claims.DramBut s t [(pa, 16)] ∧ t.cur.stk = s.cur.stk ∧ t.cur.pc = s.npc f) ∧
      (2 ≤ st → ∃ t : State, exec (.futs x) s = .next t ∧ t.cur.trapcause.bits 63 56 = 0x19 ∧ t.cur.trapaddr = a ∧
        Claims.DramBut s t [])) ∧
    (Ready (.futs x) s → x.f = 1 → Claims.ObjAt s a 16 .atomic pa →
      (st = 0 → ∃ t : State, exec (.futs x) s = .next t ∧ t.memW pa = BitVec.ofNat 64 (2 ^ 62 + v.bits 47 0) ∧
        Claims.DramBut s t [(pa, 8)] ∧ t.cur.stk = s.cur.stk ∧ t.cur.pc = s.npc f) ∧
      (st ≠ 0 → ∃ t : State, exec (.futs x) s = .next t ∧ t.cur.trapcause.bits 63 56 = 0x19 ∧ Claims.DramBut s t [])) ∧
    (Ready (.futp x) s → x.f = 0 → Claims.ObjAt s a 16 .atomic pa →
      (st < 2 → ∃ t : State, exec (.futp x) s = .next t ∧ t.memW pa = BitVec.ofNat 64 (3 * 2 ^ 62 + owner) ∧ t.memW (pa + 8) = v ∧
        Claims.DramBut s t [(pa, 16)] ∧ t.cur.stk = s.cur.stk ∧ t.cur.pc = s.npc f) ∧
      (st = 3 → ∃ t : State, exec (.futp x) s = .next t ∧ Claims.DramBut s t [] ∧ t.cur.pc = s.npc f) ∧
      (st = 2 → ∃ t : State, exec (.futp x) s = .next t ∧ t.cur.trapcause.bits 63 56 = 0x19 ∧ Claims.DramBut s t [])) ∧
    (Ready (.futw x) s → x.f = 0 → (f.pxr = true → f.rc = 0 ∧ f.sz = 0 ∧ f.t ≠ f.d) → Claims.ObjAt s a 16 .read pa →
      (2 ≤ st → st = 2 ∨ f.pxr = true → ∃ t : State, exec (.futw x) s = .next t ∧ t.cur.w f.d = s.memW (pa + 8) ∧
        (f.pxr = true → t.cur.w f.t = BitVec.ofNat 64 st) ∧ t.cur.pc = s.npc f ∧ t.mem = s.mem) ∧
      (st = 3 → f.pxr = false → ∃ t : State, exec (.futw x) s = .next t ∧ t.cur.trapcause.bits 63 56 = 0x1B ∧ t.cur.trapaddr = a ∧
        t.mem = s.mem))) ∧
    (∀ (x : RR) (s : State) (pa : Nat), Claims.Quiet s → s.cur.st.det = false → x.d = 0 → x.f = 0 →
    let a := s.w x.fld.s
    Claims.ObjAt s a 8 .atomic pa →
    let q := s.memW pa
    let me := s.cur.taskid.bits 47 0
    (Ready (.lock x) s →
      (q.bits 48 48 = 0 → ∃ t : State, exec (.lock x) s = .next t ∧
        t.memW pa = BitVec.ofNat 64 (q.bits 63 63 * 2 ^ 63 + 2 ^ 48 + me) ∧ Claims.DramBut s t [(pa, 8)] ∧
        t.cur.stk = s.cur.stk ∧ t.cur.pc = s.npc x.fld) ∧
      (q.bits 48 48 = 1 → q.bits 47 0 = me → ∃ t : State, exec (.lock x) s = .next t ∧ t.cur.trapcause.bits 63 56 = 0x1A ∧
        t.cur.trapaddr = a ∧ t.mem = s.mem)) ∧
    (Ready (.unlock x) s →
      (q.bits 48 48 = 1 → q.bits 47 0 = me → ∃ t : State, exec (.unlock x) s = .next t ∧ t.memW pa = BitVec.ofNat 64 me ∧
        Claims.DramBut s t [(pa, 8)] ∧ t.cur.stk = s.cur.stk ∧ t.cur.pc = s.npc x.fld) ∧
      (q.bits 48 48 = 0 ∨ q.bits 47 0 ≠ me → ∃ t : State, exec (.unlock x) s = .next t ∧ t.cur.trapcause.bits 63 56 = 0x1A ∧
        t.cur.trapaddr = a ∧ t.mem = s.mem)))

namespace Sys2Proof.Claims

open Sys2Proof.Machine

/-- A stage ring whose descriptor stands at a, with the places of its four words (R80, R300): BASE at pb, the size at ps, HEAD at ph for
accesses of kind kh and TAIL at pt for accesses of kind kt. -/
abbrev RingAt (s : State) (a : Word) (kh kt : Acc) (pb ps ph pt : Nat) : Prop :=
  ObjAt s a 8 .read pb ∧ ObjAt s (a + 8) 8 .read ps ∧ ObjAt s (a + 16) 8 kh ph ∧ ObjAt s (a + 24) 8 kt pt
/-- Two ranges of addresses have no byte in common. -/
abbrev Apart (p n q m : Nat) : Prop := p + n ≤ q ∨ q + m ≤ p

end Sys2Proof.Claims

/-- For a stage ring whose descriptor and entry the core's TLB serves and whose words do not overlap, by a thread of a quiet core
outside deterministic mode: QPUSH on a ring that is not full, whose tail entry is empty, raises TAIL by one and makes the entry
full with w<d>, keeping its owner, or with f = 1 claimed by the task, with the entry's address in w<d>; QPOP on a ring that is not
empty, whose head entry is full, writes its value to w<d> (and 2 to w<t> with PXR), raises HEAD by one and makes the entry empty.
Both go on at the next instruction. That what passes between core and homes completes in one step is the model's choice (log 18).
-/
def Obligations.StageRings : Prop :=
  ∀ (x : RR) (s : State) (pb ps ph pt pe : Nat), Claims.Quiet s → s.cur.st.det = false →
    let f := x.fld
    let a := s.w f.s
    s.cur.push = none →
    let size := 2 ^ (s.memW ps).bits 4 0
    let h := s.memW ph
    let t := s.memW pt
    let tailAt := s.memW pb + BitVec.ofNat 64 (16 * (t.toNat % size))
    (Ready (.qpush x) s → x.f = 1 → Claims.RingAt s a .read .atomic pb ps ph pt → (t - h).toNat < size → Claims.ObjAt s tailAt 16 .atomic pe → (s.memW pe).bits 63 62 = 0 →
      Claims.Apart pe 16 pt 8 →
      ∃ u : State, exec (.qpush x) s = .next u ∧ u.memW pt = t + 1 ∧
        u.memW pe = BitVec.ofNat 64 (2 ^ 62 + s.cur.taskid.bits 47 0) ∧ u.cur.w f.d = tailAt ∧
        Claims.DramBut s u [(pt, 8), (pe, 8)] ∧ u.cur.pc = s.npc f) ∧
    (Ready (.qpush x) s → x.f = 0 → Claims.RingAt s a .read .atomic pb ps ph pt → (t - h).toNat < size → Claims.ObjAt s tailAt 16 .atomic pe → (s.memW pe).bits 63 62 = 0 →
      Claims.Apart pe 16 pt 8 →
      ∃ u : State, exec (.qpush x) s = .next u ∧ u.memW pt = t + 1 ∧
        u.memW pe = BitVec.ofNat 64 (2 * 2 ^ 62 + (s.memW pe).bits 47 0) ∧ u.memW (pe + 8) = s.w f.d ∧
        Claims.DramBut s u [(pt, 8), (pe, 16)] ∧ u.cur.stk = s.cur.stk ∧ u.cur.pc = s.npc f) ∧
    (Ready (.qpop x) s → x.f = 0 → (f.pxr = true → f.rc = 0 ∧ f.sz = 0 ∧ f.t ≠ f.d) → Claims.RingAt s a .atomic .read pb ps ph pt → h ≠ t →
      Claims.ObjAt s (s.memW pb + BitVec.ofNat 64 (16 * (h.toNat % size))) 16 .atomic pe → (s.memW pe).bits 63 62 = 2 →
      Claims.Apart pe 16 ph 8 →
      ∃ u : State, exec (.qpop x) s = .next u ∧ u.memW ph = h + 1 ∧ (u.memW pe).bits 63 62 = 0 ∧
        u.cur.w f.d = s.memW (pe + 8) ∧ (f.pxr = true → u.cur.w f.t = 2) ∧ Claims.DramBut s u [(ph, 8), (pe, 8)] ∧
        u.cur.pc = s.npc f)

namespace Sys2Proof.Claims

open Sys2Proof.Machine

/-! ## Vectors -/

/-- The thread after an instruction that writes vector register d: it is live, vclean falls, the PC is the next instruction, a mark on
the register ends, and every other register, flag and special register, and all else of the package, is as before (R306). -/
def VWrote (s t : State) (f : Fld) (d : Nat) : Prop :=
  OnlyCur s t ∧ (∀ n < 16, n ≠ d → t.cur.vec n = s.cur.vec n) ∧
    t.cur = { s.cur with
      v := t.cur.v
      vlive := s.cur.vlive ||| (1#16 <<< d)
      markV := s.cur.markV.filter (·.reg != d)
      st := { s.cur.st with vclean := false }
      pc := s.npc f }
/-- Element l of vector register d of the executing thread, as a number of et's width (R305). -/
def el (s : State) (et d l : Nat) : Nat := elem et (s.cur.vec d) l
/-- Register d after an instruction on et that gives active element l the value g l (R305, R306): inactive elements keep their values,
or become zero with mm = 1. A 64-bit type zeroes lanes 32 to 63, but an all-zero mask with mm = 0 leaves the register unchanged. -/
def VElems (s t : State) (f : Fld) (et n d : Nat) (g : Nat → Nat) : Prop :=
  (∀ l < n, el t et d l = if active f s.cur l then g l % 2 ^ etBits et else if f.mm = 1 then 0 else el s et d l) ∧
    (etBits et = 64 → (f.mm = 1 ∨ ∃ l < n, active f s.cur l = true) → ∀ j, 32 ≤ j → j < 64 → lane (t.cur.vec d) j = 0) ∧
    ((∀ l < n, active f s.cur l = false) → f.mm = 0 → t.cur.vec d = s.cur.vec d)
/-- The second operand of a vector instruction: V[t], or with rc = 0 the low bits of W[t] in every lane (R307). -/
def opB (s : State) (f : Fld) (l : Nat) : Nat :=
  if f.rc = 0 then (s.w f.t).toNat % 2 ^ etBits f.et else el s f.et f.t l
/-- The floating instructions of R310 in format XR: constructor, whether t is an operand, whether rm must be 0, and the result from
format, rm, sat, ftz and the sources a, b, c, after ftz of the sources. -/
def vfTable : List ((XR → Instr) × Bool × Bool × (Fmt → Nat → Nat → Nat → Nat → Nat → Nat → Nat)) :=
  let r (g : Nat → Machine.Num → Machine.Num → Machine.Num → Machine.Num) :
      Fmt → Nat → Nat → Nat → Nat → Nat → Nat → Nat :=
    fun m rm sat ftz a b c => m.round rm sat ftz 0 (g rm (m.decode a) (m.decode b) (m.decode c))
  [(.vadd, true, false, r fun rm a b _ => Machine.Num.add rm a b),
   (.vsub, true, false, r fun rm a b _ => Machine.Num.add rm a b.neg),
   (.vmul, true, false, r fun _ a b _ => a.mul b),
   (.vfma, true, false, r fun rm a b c => Machine.Num.add rm (a.mul b) c),
   (.vfms, true, false, r fun rm a b c => Machine.Num.add rm (a.mul b) c.neg),
   (.vdiv, true, false, r fun _ a b _ => a.div b),
   (.vsqrt, false, false, r fun _ a _ _ => a.sqrt),
   (.vexp2, false, false, r fun _ a _ _ => a.exp2),
   (.vlog2, false, false, r fun _ a _ _ => a.log2),
   (.vmin, true, true, fun m _ _ _ a b _ => m.min a b),
   (.vmax, true, true, fun m _ _ _ a b _ => m.max a b)]
/-- The floating instructions in format XA: the result from format, sat and the source. -/
def vfTableA : List ((XA → Instr) × (Fmt → Nat → Nat → Nat)) :=
  [(.vabs, fun m _ a => a % 2 ^ (m.bits - 1)),
   (.vneg, fun m _ a => (a + 2 ^ (m.bits - 1)) % 2 ^ m.bits),
   (.vrcp, fun m sat a => m.round 0 sat 0 0 (m.decode a).rcp),
   (.vrsq, fun m sat a => m.round 0 sat 0 0 (m.decode a).rsq)]
/-- An integer result in an integer type: wrapping, or with sat = 1 the nearer bound (R163). -/
def fit (et sat : Nat) (v : Int) : Nat :=
  let n := etBits et
  let lo : Int := if 7 ≤ et ∧ et ≤ 10 then -2 ^ (n - 1) else 0
  let hi : Int := if 7 ≤ et ∧ et ≤ 10 then 2 ^ (n - 1) - 1 else 2 ^ n - 1
  ((if sat = 1 then max lo (min hi v) else v) % 2 ^ n).toNat
/-- The integer value of an element (R162): signed for i8 to i64. -/
def asInt (et c : Nat) : Int := if 7 ≤ et ∧ et ≤ 10 then signed (etBits et) c else c
/-- The integer instructions of R311: constructor, whether t is an operand, whether sat acts, and the result. -/
def viTable : List ((XA → Instr) × Bool × Bool × (Nat → Nat → Nat → Nat → Nat)) :=
  [(.viadd, true, true, fun et sat a b => fit et sat (asInt et a + asInt et b)),
   (.visub, true, true, fun et sat a b => fit et sat (asInt et a - asInt et b)),
   (.vimul, true, true, fun et sat a b => fit et sat (asInt et a * asInt et b)),
   (.vand, true, false, fun _ _ a b => a &&& b),
   (.vor, true, false, fun _ _ a b => a ||| b),
   (.vxor, true, false, fun _ _ a b => a ^^^ b),
   (.vnot, false, false, fun et _ a _ => 2 ^ etBits et - 1 - a),
   (.vshl, true, false, fun et _ a b => if b < etBits et then a * 2 ^ b else 0),
   (.vshr, true, false, fun et _ a b => if b < etBits et then a / 2 ^ b else 0),
   (.vsar, true, false, fun et _ a b => fit et 0 (signed (etBits et) a / 2 ^ min b (etBits et)))]

end Sys2Proof.Claims

/-- With no bound stream, et fp32 or fp64, a legal PXR (rc = 0 only where a scalar t is allowed), unused fields 0, and rm not sr
(0 for VMIN and VMAX): each instruction of R310 completes; every active element of V[d] is the tabulated result of the elements of
V[s], V[t] (or the low bits of W[t]) and, for VFMA and VFMS, V[d], with ftz applied to the sources, rounded once by rm with sat
and ftz; inactive elements keep their values or become zero with mm = 1; nothing else of the thread or the package changes but
liveness, vclean and the PC. -/
def Obligations.VectorFloat : Prop :=
  (∀ p ∈ Claims.vfTable, ∀ (x : XR) (s : State), Ready (p.1 x) s → s.cur.streams = [] →
      let f := x.fld
      let m := if f.et = 6 then fp64 else fp32
      pxrBad f p.2.1 = false → (f.et = 0 ∨ f.et = 6) → f.rm ≠ 5 → (p.2.2.1 = true → f.rm = 0) → (p.2.1 = false → f.t = 0) →
      f.immU = 0 →
      ∃ t : State, exec (p.1 x) s = .next t ∧ Claims.VWrote s t f f.d ∧ Claims.VElems s t f f.et (etCount f.et) f.d fun l =>
        p.2.2.2 m f.rm f.sat f.ftz (m.flush f.ftz (Claims.el s f.et f.s l))
          (m.flush f.ftz (if p.2.1 then Claims.opB s f l else Claims.el s f.et f.t l)) (m.flush f.ftz (Claims.el s f.et f.d l))) ∧
    (∀ p ∈ Claims.vfTableA, ∀ (x : XA) (s : State), Ready (p.1 x) s → s.cur.streams = [] →
      let f := x.fld 1
      let m := if f.et = 6 then fp64 else fp32
      pxrBad f false = false → (f.et = 0 ∨ f.et = 6) → f.t = 0 → f.immU = 0 →
      ∃ t : State, exec (p.1 x) s = .next t ∧ Claims.VWrote s t f f.d ∧
        Claims.VElems s t f f.et (etCount f.et) f.d fun l => p.2 m f.sat (Claims.el s f.et f.s l))

/-- With no bound stream, an integer et, a legal PXR, i = 0 and sat = 0 where it does not act: each instruction of R311 completes;
every active element of V[d] is the tabulated result, in et's width, of the elements of V[s] and V[t] (or the low bits of W[t]);
the others keep their values or become zero; nothing else changes but liveness, vclean and the PC. -/
def Obligations.VectorInteger : Prop :=
  ∀ p ∈ Claims.viTable, ∀ (x : XA) (s : State), Ready (p.1 x) s → s.cur.streams = [] →
    let f := x.fld 1
    pxrBad f p.2.1 = false → 7 ≤ f.et → f.et < 15 → (p.2.2.1 = false → f.sat = 0) → (p.2.1 = false → f.t = 0) → f.immU = 0 →
    ∃ t : State, exec (p.1 x) s = .next t ∧ Claims.VWrote s t f f.d ∧ Claims.VElems s t f f.et (etCount f.et) f.d fun l =>
      p.2.2.2 f.et f.sat (Claims.el s f.et f.s l) (Claims.opB s f l)

namespace Sys2Proof.Claims

open Sys2Proof.Machine

/-- The conditions of VCMP (R312) on two values: eq, ne, lt, le, gt, ge, uo, or. -/
def vcmpHolds (cond : Nat) (x y : Machine.Num) : Bool :=
  if x.isNan || y.isNan then cond = 1 || cond = 6
  else [x.cmp y == .eq, x.cmp y != .eq, x.cmp y == .lt, x.cmp y != .gt, x.cmp y == .gt, x.cmp y != .lt, false, true].getD cond false
/-- The running value of a scan (R183). -/
def running (op : Nat → Nat → Nat) (leaf : Nat → Nat) : Nat → Nat
  | 0 => leaf 0
  | l + 1 => op (running op leaf l) (leaf (l + 1))

end Sys2Proof.Claims

/-- With no bound stream and legal fields: VCMP writes to M[d], for each active element, whether the condition holds of its
operands, and to the other bits what mm says (0 from bit 16 on for 64-bit types), and leaves every vector register; VSEL chooses
by the bits of M[i]; VSPLAT writes the low bits of W[s], or with i = 1 of W[s] + l; VPERM takes the element that V[t]'s lane
names; VCVT converts from type t to et with the lane's draw for sr, after which the spark counter rises; VRAND writes the draw of
each lane, and the counter rises by one. -/
def Obligations.VectorRearranging : Prop :=
  (∀ (x : XA) (s : State), s.cur.streams = [] →
      let f := x.fld 1
      let n := etCount f.et
      (Ready (.vcmp x) s → pxrBad f true = false → f.sat = 0 → f.immU < 8 → f.d < 8 →
        ∃ t : State, exec (.vcmp x) s = .next t ∧ OnlyCur s t ∧ (∀ l < 64, (t.cur.mask f.d).getLsbD l =
          if n ≤ l then false else if active f s.cur l then Claims.vcmpHolds f.immU (etValue f.et (Claims.el s f.et f.s l))
            (etValue f.et (Claims.opB s f l)) else f.mm == 0 && (s.cur.mask f.d).getLsbD l) ∧
          t.cur = { s.cur with m := t.cur.m, mlive := s.cur.mlive ||| (1#8 <<< f.d), st := { s.cur.st with vclean := false },
                               pc := s.npc f }) ∧
      (Ready (.vsel x) s → pxrBad f false = false → f.sat = 0 → f.immU < 8 →
        ∃ t : State, exec (.vsel x) s = .next t ∧ Claims.VWrote s t f f.d ∧ Claims.VElems s t f f.et n f.d fun l =>
          if (s.cur.mask f.immU).getLsbD l then Claims.el s f.et f.s l else Claims.el s f.et f.t l) ∧
      (Ready (.vsplat x) s → pxrBad f false = false → f.sat = 0 → f.t = 0 → f.immU < 2 → (f.immU = 1 → 7 ≤ f.et) →
        ∃ t : State, exec (.vsplat x) s = .next t ∧ Claims.VWrote s t f f.d ∧ Claims.VElems s t f f.et n f.d fun l =>
          (s.w f.s).toNat + f.immU * l) ∧
      (Ready (.vperm x) s → pxrBad f false = false → f.sat = 0 → f.immU = 0 →
        ∃ t : State, exec (.vperm x) s = .next t ∧ Claims.VWrote s t f f.d ∧ Claims.VElems s t f f.et n f.d fun l =>
          Claims.el s f.et f.s ((lane (s.cur.vec f.t) l).toNat % n)) ∧
      (Ready (.vrand x) s → (f.et = 0 ∨ f.et = 9 ∨ f.et = 13) → f.sat = 0 → f.s = 0 → f.t = 0 → x.i = 0 →
        ∃ t : State, exec (.vrand x) s = .next t ∧ t.cur.ctr = s.cur.ctr + 1 ∧ t.cur.pc = s.npc f ∧ t.mem = s.mem ∧
          Claims.VElems s t f f.et 64 f.d fun l =>
            let d := (sparkDraw s.cur.ctr l s.cur.key).toNat
            if f.et = 0 then fp32.round 0 0 0 0 (.fin false (d / 256) (-24)) else d)) ∧
    (∀ (x : XR) (s : State), Ready (.vcvt x) s → s.cur.streams = [] →
      let f := x.fld
      pxrBad f false = false → f.t < 15 → f.et < 15 → (f.rm = 5 → f.et < 7 ∧ f.t < 7 ∧ etBits f.et < etBits f.t) → (f.et = 5 → f.rm = 0) →
      ∃ t : State, exec (.vcvt x) s = .next t ∧ t.cur.pc = s.npc f ∧ t.mem = s.mem ∧
        t.cur.ctr = s.cur.ctr + (if f.rm = 5 then 1 else 0) ∧
        Claims.VElems s t f f.et (min (etCount f.et) (etCount f.t)) f.d fun l =>
          etConvert f.t f.et f.rm f.sat f.ftz (sparkDraw s.cur.ctr l s.cur.key).toNat (Claims.el s f.t f.s l))

/-- With no bound stream, a legal PXR, et fp32, fp64 or integer, mm = 0, an operation that et allows and rm not sr: VRED completes
and writes only W[d]; for an integer type, the wrapping add gives the sum of the active elements modulo the element width, sign-
or zero-extended by et, and and, or and xor the bitwise result over the active elements. VSCAN completes, and element l of V[d],
in every lane, is the running value of the operation over elements 0 to l, where an inactive element stands as the identity and a
NaN as the canonical one. -/
def Obligations.ReductionsAndScans : Prop :=
  ∀ (x : XR) (s : State), s.cur.streams = [] →
    let f := x.fld
    let n := etCount f.et
    pxrBad f false = false → (f.et = 0 ∨ (6 ≤ f.et ∧ f.et < 15)) → f.mm = 0 → f.t < 6 → (f.et < 7 → f.t < 3) → f.rm ≠ 5 →
    let act (z : Nat) (l : Nat) : Nat := if active f s.cur l then Claims.el s f.et f.s l else z
    (Ready (.vred x) s → ∃ v : Word, Writes (.vred x) s v ∧ (7 ≤ f.et → f.sat = 0 →
      let ext (c : Nat) : Word := if f.et ≤ 10 then BitVec.ofInt 64 (signed (etBits f.et) c) else BitVec.ofNat 64 c
      (f.t = 0 → v = ext ((((List.range n).map (act 0)).sum) % 2 ^ etBits f.et)) ∧
      (f.t = 3 → v = ext (((List.range n).map (act (2 ^ etBits f.et - 1))).foldl (· &&& ·) (2 ^ etBits f.et - 1))) ∧
      (f.t = 4 → v = ext (((List.range n).map (act 0)).foldl (· ||| ·) 0)) ∧
      (f.t = 5 → v = ext (((List.range n).map (act 0)).foldl (· ^^^ ·) 0)))) ∧
    (Ready (.vscan x) s → ∃ t : State, exec (.vscan x) s = .next t ∧ Claims.VWrote s t f f.d ∧ ∀ l < n,
      Claims.el t f.et f.d l = Claims.running (redOp f) (fun j => canonNan f.et (redLeaf f s.cur (s.cur.vec f.s) j)) l % 2 ^ etBits f.et)

/-- With legal fields: MAND, MOR and MNOT write the bitwise result to M[d], make it live and clear vclean, and change no other
mask, vector or scalar register; MPOP writes the number of one bits of M[s] to W[d] and MFIRST the index of the lowest, or 64;
VREL makes no vector or mask register live, sets vclean when no stream is bound, no element waits in the replay queue and the slot
holds no tile, and changes nothing else. A mask field of 8 to 15 traps with ILLFLD. -/
def Obligations.MasksAndVrel : Prop :=
  ∀ (x : XA) (s : State), x.i = 0 →
    let f := x.fld 1
    let put (v : Word) (t : State) : Prop := OnlyCur s t ∧ t.cur.mask f.d = v ∧ (∀ j < 8, j ≠ f.d → t.cur.mask j = s.cur.mask j) ∧
      t.cur = { s.cur with m := t.cur.m, mlive := s.cur.mlive ||| (1#8 <<< f.d), st := { s.cur.st with vclean := false },
                           pc := s.npc f }
    (f.d < 8 → f.s < 8 → f.t < 8 →
      (Ready (.mand x) s → ∃ t : State, exec (.mand x) s = .next t ∧ put (s.cur.mask f.s &&& s.cur.mask f.t) t) ∧
      (Ready (.mor x) s → ∃ t : State, exec (.mor x) s = .next t ∧ put (s.cur.mask f.s ||| s.cur.mask f.t) t)) ∧
    (8 ≤ f.d ∨ 8 ≤ f.s ∨ 8 ≤ f.t → ∀ i ∈ [Instr.mand x, .mor x], Ready i s → Traps i s (illfldAt s f.last)) ∧
    (f.d < 8 → f.s < 8 → f.t = 0 → Ready (.mnot x) s → ∃ t : State, exec (.mnot x) s = .next t ∧ put (~~~s.cur.mask f.s) t) ∧
    (f.s < 8 → f.t = 0 →
      (Ready (.mpop x) s → Writes (.mpop x) s (BitVec.ofNat 64 ((List.range 64).countP (s.cur.mask f.s).getLsbD))) ∧
      (Ready (.mfirst x) s → ∃ k ≤ 64, Writes (.mfirst x) s (BitVec.ofNat 64 k) ∧ (∀ j < k, (s.cur.mask f.s).getLsbD j = false) ∧
        (k < 64 → (s.cur.mask f.s).getLsbD k = true))) ∧
    (f.d = 0 → f.s = 0 → f.t = 0 → Ready (.vrel x) s → exec (.vrel x) s = .next (s.modCur fun t =>
      { t with vlive := 0, mlive := 0, pc := s.npc f, st := { t.st with vclean := t.st.vclean || (t.streams.isEmpty && t.replay.isEmpty &&
        !s.curK.tiles.any fun p => p.2.claimed && p.2.slot == s.curSlot) } }))

namespace Sys2Proof.Claims

open Sys2Proof.Machine

/-- The address of element l of a vector access (R316), of the kind 0 unit stride, 1 strided, 2 gathered. -/
def elementVA (kind : Nat) (f : Fld) (s : State) (l : Nat) : Word :=
  if kind = 0 then s.w f.s + BitVec.ofInt 64 f.immS + BitVec.ofNat 64 (if f.et = 5 then l / 2 else l * etBytes f.et)
  else if kind = 1 then s.w f.s + BitVec.ofInt 64 f.immS + BitVec.ofNat 64 l * s.w f.t
  else s.w f.s + (lane (s.cur.vec f.t) l).signExtend 64 * BitVec.ofNat 64 (2 ^ f.immU)
/-- The fields of a vector access are legal (R316, R317): t = 0 for unit stride, a scale of 0 to 3 for gathered, E2M1 only for unit
stride, plain ord. -/
abbrev AccessForm (kind : Nat) (f : Fld) : Prop :=
  f.ord = 0 ∧ f.sc = 0 ∧ pxrBad f false = false ∧ (kind = 0 → f.t = 0) ∧ (kind ≠ 0 → f.et ≠ 5) ∧ (kind = 2 → f.immU < 4) ∧ f.et < 15

end Sys2Proof.Claims

/-- For a plain vector load with legal fields and no bound stream, each of whose active elements lies aligned in the own core's
local store where nothing refuses or delays it, by a thread with no unstamped release: exec completes; element l of V[d] is the
bytes at its address (a nibble for E2M1), inactive elements keep their values or become zero with mm = 1, V[d] is live, vclean is
down, the PC moves on, and no other register and no byte of memory changes. -/
def Obligations.VectorLoads : Prop :=
  ∀ p ∈ [(Instr.vld, 0), (.vlds, 1), (.vgath, 2)], ∀ (x : XA) (s : State) (o : Nat → Nat), Ready (p.1 x) s →
    s.cur.streams = [] → s.unstamped s.curCore s.curSlot = false →
    let f := x.fld 1
    Claims.AccessForm p.2 f → f.sat = 0 →
    (∀ l < etCount f.et, active f s.cur l = true → Claims.elementVA p.2 f s l = windowVA s.curCore (o l) ∧
      Claims.OwnLS s (o l) (etBytes f.et) false) →
    ∃ t : State, exec (p.1 x) s = .next t ∧ t.mem = s.mem ∧ t.reqs = s.reqs ∧
      (Claims.VElems s t f f.et (etCount f.et) f.d fun l => nibble f.et l (Claims.ownNat s (o l) (etBytes f.et))) ∧
      t.cur = { s.cur with
        v := t.cur.v
        vlive := s.cur.vlive ||| (1#16 <<< f.d)
        markV := s.cur.markV.filter (·.reg != f.d)
        st := { s.cur.st with vclean := false }
        pc := s.npc f
        wait := Claims.wtWait f s } ∧
      ∀ n < 16, n ≠ f.d → t.cur.vec n = s.cur.vec n

/-- For a plain vector store with legal fields (et not E2M1) and no bound stream, whose active elements, and with mm = 1 all
elements, lie aligned and apart in the own core's local store where nothing refuses or delays them, no change of the log's size
pending: exec completes; each active element's bytes hold the element of V[d], each inactive element's with mm = 1 zero; every
other byte of memory and every register is as before, and the PC moves on. -/
def Obligations.VectorStores : Prop :=
  ∀ p ∈ [(Instr.vst, 0), (.vsts, 1), (.vscat, 2)], ∀ (x : XR) (s : State) (o : Nat → Nat), Ready (p.1 x) s →
    s.cur.streams = [] → s.cur.wait = .none → s.curK.storesStall = false →
    let f := x.fld
    let n := etBytes f.et
    let stored (l : Nat) : Prop := active f s.cur l = true ∨ f.mm = 1
    Claims.AccessForm p.2 f → f.et ≠ 5 → f.ftz = 0 → f.rm ≠ 5 →
    (∀ l < etCount f.et, stored l → Claims.elementVA p.2 f s l = windowVA s.curCore (o l) ∧ Claims.OwnLS s (o l) n true) →
    (∀ l < etCount f.et, ∀ j < l, stored l → stored j → Claims.Apart (o l) n (o j) n) →
    ∃ t : State, exec (p.1 x) s = .next t ∧
      (∀ l < etCount f.et, active f s.cur l = true → Claims.ownNat t (o l) n = Claims.el s f.et f.d l) ∧
      (∀ l < etCount f.et, active f s.cur l = false → f.mm = 1 → Claims.ownNat t (o l) n = 0) ∧
      (∀ k, (∀ l < etCount f.et, stored l → ∀ i < n, k ≠ s.cell (lsPA s s.curCore (o l) + i)) →
        Memory.read t.mem k = Memory.read s.mem k) ∧
      t.cur = { s.cur with pc := s.npc f, wait := Claims.wtWait f s }

/-- SBIND of an unbound register 12 to 15 to a legal record in the own local store binds it with the record's base, stride, count,
position and lead; SLEAD with 1 to 32 changes its lead; SUNB writes CTL and POS back to the record and unbinds it, the register
being not live. An instruction that reads a bound read stream whose next vector has arrived (VNEG of it to another register) uses
that vector, and the stream moves on by one. SLEAD and SUNB of an unbound register trap with STREAM. -/
def Obligations.StreamsBindAndPop : Prop :=
  (∀ (x : XA) (s : State) (off : Nat), Ready (.sbind x) s →
      let f := x.fld 1
      let w (i : Nat) : Word := s.memW (lsPA s s.curCore (off + 8 * i))
      f.m = 0 → f.mm = 0 → f.t = 0 → x.i = 0 → 12 ≤ f.d → f.et ≠ 5 → s.w f.s = windowVA s.curCore off → Claims.OwnLS s off 32 false →
      get? s.cur.streams f.d = none → (w 2).bits 31 24 = 0 → (w 2).bits 10 9 = 0 → (w 2).bits 7 0 = 0 → (w 3).bits 31 17 = 0 →
      ∃ (t : State) (b : Stream), exec (.sbind x) s = .next t ∧ get? t.cur.streams f.d = some b ∧ b.base = w 0 ∧ b.stride = w 1 ∧
        b.count = (w 2).bits 63 32 ∧ b.write = ((w 2).bits 8 8 == 1) ∧ b.next = (w 3).bits 63 32 ∧ b.et = f.et ∧ b.fetched = [] ∧
        b.lead = (if 1 ≤ (w 2).bits 23 16 ∧ (w 2).bits 23 16 ≤ 32 then (w 2).bits 23 16 else 4) ∧
        t.cur.vlive.getLsbD f.d = false ∧ t.cur.st.vclean = false ∧ t.cur.pc = s.npc f ∧ t.mem = s.mem ∧ t.cur.stk = s.cur.stk) ∧
    (∀ (x : XA) (s : State),
      let f := x.fld 1
      pxrBad f false = false → f.m = 0 → f.mm = 0 → f.et = 0 → f.sat = 0 → f.s = 0 → f.t = 0 →
      (Ready (.slead x) s → 1 ≤ f.immU → f.immU ≤ 32 → ∀ b, get? s.cur.streams f.d = some b → ∃ t : State, exec (.slead x) s = .next t ∧
        OnlyCur s t ∧ get? t.cur.streams f.d = some { b with lead := f.immU } ∧
        t.cur = { s.cur with streams := t.cur.streams, pc := s.npc f }) ∧
      (Ready (.slead x) s → get? s.cur.streams f.d = none → Traps (.slead x) s { cause := 0x10 }) ∧
      (Ready (.sunb x) s → f.immU = 0 → get? s.cur.streams f.d = none → Traps (.sunb x) s { cause := 0x10 }) ∧
      (Ready (.sunb x) s → f.immU = 0 → s.cur.wait = .none → ∀ b off, get? s.cur.streams f.d = some b →
        b.record = windowVA s.curCore off → off % 32 = 0 → off + 32 ≤ 2 ^ 18 → coreExists s.curCore = true → s.hub.package < 64 →
        s.ownBusy (off + 16) 16 = false → s.recordRefused s.curCore s.curSlot b = false → s.curK.view = false → s.stuck = [] → s.storesAway s.curCore s.curSlot = false → b.count < 2 ^ 32 → b.lead < 256 → b.et < 16 → b.sat < 2 → b.next < 2 ^ 32 →
        ∃ t : State, exec (.sunb x) s = .next t ∧ get? t.cur.streams f.d = none ∧ t.cur.vlive.getLsbD f.d = false ∧
          (t.memW (lsPA s s.curCore (off + 16))).bits 63 32 = b.count ∧ (t.memW (lsPA s s.curCore (off + 16))).bits 23 16 = b.lead ∧
          (t.memW (lsPA s s.curCore (off + 24))).bits 63 32 = b.next ∧ t.cur.pc = s.npc f ∧
          Claims.MemoryBut s t (lsPA s s.curCore (off + 16)) 16)) ∧
    (∀ (x : XA) (s : State) (b : Stream) (v : List (BitVec 32)), Ready (.vneg x) s →
      let f := x.fld 1
      pxrBad f false = false → f.et = 0 → f.t = 0 → f.immU = 0 → f.m = 0 → f.d ≠ f.s → s.cur.streams = [(f.s, b)] → b.write = false →
      b.next < b.count → get? b.fetched b.next = some v → b.xs = none →
      ∃ (t : State) (c : Stream), exec (.vneg x) s = .next t ∧ get? t.cur.streams f.s = some c ∧ c.next = b.next + 1 ∧
        (∀ l < 64, Claims.el t 0 f.d l = ((lane v l).toNat + 2 ^ 31) % 2 ^ 32) ∧ t.cur.pc = s.npc f ∧ t.mem = s.mem)

namespace Sys2Proof.Claims

open Sys2Proof.Machine

/-! ## The experience section -/

/-- The slot that xs names is in range and its page readable; the executing core's view of it is v (R196), or in deterministic mode its
value at the start of the phase (R201). Looking it up leaves s' (its translation may enter the TLBs). -/
def SlotView (f : Fld) (s s' : State) (v : Word) : Prop :=
  let h := s.cur.st.hearth
  let e := s'.entryOf s.curCore h f.xs s.cur.xtask
  slotInRange (s.hearth h) f.xs = true ∧
    (∃ (pa : Nat) (a : Attr), s.translateCur (slotVA (s.hearth h) f.xs) .read = (.ok pa a, s') ∧ (a.xa = 1 ∨ a.xa = 2)) ∧
    ∃ b : Word, e.base = some b ∧ v = if s.cur.st.det then b else e.view
/-- The ratio of a slot (R331): taken of all branches, or long waits of accesses. -/
def ratioN (v : Word) : Nat := if v.bits 7 4 = 1 then v.bits 63 40 else if v.bits 7 4 = 2 then v.bits 39 16 else 0
/-- Its second member. -/
def ratioQ (v : Word) : Nat :=
  if v.bits 7 4 = 1 then v.bits 63 40 + v.bits 39 16 else if v.bits 7 4 = 2 then v.bits 63 40 else 0
/-- The unroll factor of R336. -/
def unroll (v : Word) : Nat :=
  let ok (k : Nat) : Prop := 3 ≤ v.bits 15 12 ∧ v.bits 10 8 % k = 0 ∧ 4 * k ≤ v.bits 47 32
  if v.bits 7 4 = 3 ∧ v.bits 63 48 ≠ 0 then (if ok 8 then 8 else if ok 4 then 4 else if ok 2 then 2 else 1) else 1
/-- The lead of R335, from the view and the lead in force. -/
def newLead (v : Word) (cur : Nat) : Nat :=
  let load := v.bits 7 4 = 2
  let p := if load ∧ v.bits 15 8 ≠ 0 then v.bits 15 8 else cur
  let acc := v.bits 63 40
  let lwait := v.bits 39 16
  if ¬load ∨ acc < 16 then max 1 (min p 32) else if acc < 8 * lwait then min (2 * p) 32
  else if 64 * lwait < acc then max (p - 1) 1 else max 1 (min p 32)
/-- The executing thread after an instruction that writes no register and clears idv: all else of it but the PC is as before. -/
def RanClear (s t : State) (f : Fld) : Prop := t.cur = { s.cur with st := { s.cur.st with idv := false }, pc := s.npc f }

end Sys2Proof.Claims

/-- With a legal PXR and unused fields 0, and the slot of xs in range on a readable experience page with the core's view v at
hand: XBR jumps by twice Off when the test d of the ratio holds and goes on otherwise; XSEL chooses W[s] or W[t] by k sixteenths;
XRD writes v; XUNR writes the unroll factor; XLEAD gives the bound stream d the lead of R335. No update of the slot is made. An
index out of range traps with OPRANGE. XCLR outside deterministic mode, with no add in flight, drops the core's entry and sets
every field of the slot but kind, frz and sw to 0, unless frz or the page freezes it. XFLUSH, with no delta and no add of the
hearth left, drops the hearth's entries and goes on; with an add in flight it waits. -/
def Obligations.ExperienceInstructions : Prop :=
  (∀ (x : XB) (s s' : State) (v : Word), Ready (.xbr x) s → pxrBad x.fld false = false → Claims.SlotView x.fld s s' v →
      let f := x.fld
      let n := Claims.ratioN v
      let q := Claims.ratioQ v
      let taken := if f.d = 0 then q < 2 * n else q ≠ 0 ∧ f.d * q ≤ 16 * n
      exec (.xbr x) s = .next (s'.jump (if taken then s.cur.pc + BitVec.ofInt 64 (2 * f.immS) else s.npc f))) ∧
    (∀ (x : XA) (s s' : State) (v : Word),
      let f := x.fld 1
      let wrote (i : Instr) (r : Word) : Prop := ∃ t : State, exec i s = .next t ∧ OnlyCur s' t ∧ s'.cur.Wrote t.cur f.d r ∧
        t.cur.pc = s.npc f
      pxrBad f false = false → Claims.SlotView f s s' v →
      (Ready (.xsel x) s → f.immU ≤ 16 → wrote (.xsel x)
        (if Claims.ratioQ v ≠ 0 ∧ f.immU * Claims.ratioQ v ≤ 16 * Claims.ratioN v then s.w f.s else s.w f.t)) ∧
      (Ready (.xrd x) s → f.s = 0 → f.t = 0 → f.immU = 0 → wrote (.xrd x) v) ∧
      (Ready (.xunr x) s → f.s = 0 → f.t = 0 → f.immU = 0 → wrote (.xunr x) (BitVec.ofNat 64 (Claims.unroll v))) ∧
      (Ready (.xlead x) s → f.s = 0 → f.t = 0 → f.immU = 0 → ∀ b : Stream, get? s.cur.streams f.d = some b →
        ∃ t : State, exec (.xlead x) s = .next t ∧ OnlyCur s' t ∧
          t.cur = { s.cur with streams := t.cur.streams, pc := s.npc f } ∧
          get? t.cur.streams f.d = some { b with lead := Claims.newLead v b.lead } ∧
          ∀ r, r ≠ f.d → get? t.cur.streams r = get? s.cur.streams r)) ∧
    (∀ (x : XA) (s : State), pxrBad (x.fld 1) false = false → (x.fld 1).s = 0 → (x.fld 1).t = 0 → (x.fld 1).immU = 0 →
      slotInRange (s.hearth s.cur.st.hearth) (x.fld 1).xs = false →
      (Ready (.xrd x) s → Traps (.xrd x) s { cause := 0x0D, addr := BitVec.ofNat 64 (x.fld 1).xs }) ∧
      (Ready (.xunr x) s → Traps (.xunr x) s { cause := 0x0D, addr := BitVec.ofNat 64 (x.fld 1).xs })) ∧
    (∀ (x : XA) (s s' : State) (pa : Nat) (a : Attr),
      let f := x.fld 1
      let h := s.cur.st.hearth
      Ready (.xclr x) s → pxrBad f false = false → f.d = 0 → f.s = 0 → f.t = 0 → f.immU = 0 → s.cur.st.det = false → s.xadds = [] →
      slotInRange (s.hearth h) f.xs = true → s.translateCur (slotVA (s.hearth h) f.xs) .read = (.ok pa a, s') →
      (a.xa = 1 ∨ a.xa = 2) → paClass pa = 0 → pa < 2 ^ 56 → pa % 8 = 0 →
      ∃ t : State, exec (.xclr x) s = .next t ∧ Claims.RanClear s t f ∧
        t.memW pa = (if a.xa = 2 ∨ (s.memW pa).bits 3 3 = 1 then s.memW pa else s.memW pa &&& 0x00000000000000FB) ∧
        Claims.DramBut s t [(pa, 8)] ∧ t.curK.xcache = s.curK.xcache.filter fun e => !(e.hearth == h && e.idx == f.xs && e.task == none)) ∧
    (∀ (x : XA) (s : State),
      let f := x.fld 1
      let h := s.cur.st.hearth
      Ready (.xflush x) s → pxrBad f false = false → f.d = 0 → f.s = 0 → f.t = 0 → f.immU = 0 → s.cur.st.det = false →
      (∀ e ∈ s.curK.xcache, e.hearth = h → e.task = none → e.kind = 0) →
      ((∀ d ∈ s.xadds, d.core ≠ s.curCore ∨ d.hearth ≠ h) → ∃ t : State, exec (.xflush x) s = .next t ∧ Claims.RanClear s t f ∧
        t.curK.xcache = s.curK.xcache.filter (fun e => !(e.hearth == h && e.task == none)) ∧ t.mem = s.mem) ∧
      ((∃ d ∈ s.xadds, d.core = s.curCore ∧ d.hearth = h) → ∃ t : State, exec (.xflush x) s = .next t ∧ t.xadds = s.xadds ∧
        t.cur = { s.cur with wait := .retry } ∧ t.mem = s.mem))

namespace Sys2Proof.Claims

open Sys2Proof.Machine

/-! ## Tiles and the anvil -/

/-- n words of a record at a, which lies at offset off of the executing core's own local store, readable and not delayed. -/
abbrev RecordAt (s : State) (a : Word) (off n : Nat) : Prop :=
  a = windowVA s.curCore off ∧ coreExists s.curCore = true ∧ s.hub.package < 64 ∧ s.curK.view = false ∧ off + 8 * n ≤ 2 ^ 18 ∧
    s.curK.lsRefusedN off (8 * n) s.cur.st.hearth s.cur.st.priv false = false ∧ s.ownBusy off (8 * n) = false
/-- Word i of it. -/
def recWord (s : State) (off i : Nat) : Word := BitVec.ofNat 64 (ownNat s (off + 8 * i) 8)
/-- Its words. -/
def recWords (s : State) (off n : Nat) : List Word := (List.range n).map (recWord s off)
/-- The executing slot has claimed tile i and configured it (R339). -/
abbrev OwnTile (s : State) (i : Nat) : Prop :=
  i < 4 ∧ (s.curK.tile i).claimed = true ∧ (s.curK.tile i).slot = s.curSlot ∧ (s.curK.tile i).rows ≠ 0
/-- A command of the executing thread as the queue holds it (R343): it has captured the thread's hearth, level and required clock, and for the
records about it the time, the PC and the owner of an adopted task (R448, R454, R456). -/
def cmdOf (s : State) (tile : Nat) (op : AnvOp) (bind : Option BarId) : AnvCmd :=
  { slot := s.curSlot, hearth := s.cur.st.hearth, task := s.cur.taskid, priv := s.cur.st.priv, rc := s.cur.rc, tile := tile, op := op,
    bind := bind, issued := s.curK.cycle.toNat, pc := s.cur.pc, own := s.cur.owner }
/-- The instruction queues a command and goes on: the tile and memory are untouched until it executes, the tiles count is one higher
and idv falls (R343, R373). -/
def Queues (i : Instr) (s : State) (f : Fld) (k : AnvCmd) : Prop :=
  ∃ t : State, exec i s = .next t ∧ t.curK.anvq = s.curK.anvq ++ [k] ∧ t.curK.tiles = s.curK.tiles ∧ t.curK.gains = s.curK.gains ∧
    t.mem = s.mem ∧
    t.cur = { s.cur with tiles := s.cur.tiles + 1, st := { s.cur.st with idv := false }, pc := s.npc f, wait := wtWait f s }
/-- The types that MMA or MMAX takes (R349). -/
abbrev mmaType (exact : Bool) (e : Nat) : Prop := if exact then e = 7 ∨ (3 ≤ e ∧ e ≤ 5) else 1 ≤ e ∧ e ≤ 5
/-- The barrier that a binding names on the executing core (R57). -/
def boundTo (s : State) (lev idx : Nat) : BarId :=
  { lev := lev, unit := [0, 0, s.curCore / 8, s.curCore / 2048, s.hub.package, 0].getD lev 0, idx := idx }
/-- A descriptor is legal (R348, R349, R351): reserved bits 0, the types right, the swage's shape right, the binding within its level. -/
abbrev DescOk (exact : Bool) (d : List Word) (sw : Swage) : Prop :=
  let c := d.getD 4 0
  let a := c.bits 47 44
  c.bits 38 32 = 0 ∧ c.bits 21 0 = 0 ∧ d.getD 5 0 = 0 ∧ d.getD 6 0 = 0 ∧ d.getD 7 0 = 0 ∧ mmaType exact a ∧ mmaType exact (c.bits 43 40) ∧
    (c.bits 39 39 = 1 → a ≠ 5 ∧ d.getD 2 0 = 0 ∧
      c.bits 63 48 + 1 = (sw.kern.bits 2 0 + 1) * (sw.kern.bits 5 3 + 1) * sw.dims.bits 31 16) ∧
    (c.bits 31 31 = 1 → 2 ≤ c.bits 30 28 ∧ c.bits 30 28 ≤ 5 ∧ c.bits 27 22 < [0, 0, 32, 64, 32, 16].getD (c.bits 30 28) 0)
/-- Its binding. -/
def descBinding (s : State) (d : List Word) : Option BarId :=
  let c := d.getD 4 0
  if c.bits 31 31 = 1 then some (boundTo s (c.bits 30 28) (c.bits 27 22)) else none
/-- The types of TLD and TST for a tile's type (R347). -/
def tileTypes (exact load : Bool) : List Nat :=
  if load then (if exact then [0, 7, 9] else [0, 1, 2, 3, 4, 5, 7, 9]) else (if exact then [0, 9] else [0, 1, 2, 3, 4])

end Sys2Proof.Claims

/-- TCFG of a legal shape on a tile that no queued command names and no other slot has claimed: the tile is claimed by the slot,
with gain 1.0 if it was free, keeps its contents under an identical configuration and is zeroed otherwise; while a queued command
names the tile it waits; on a stopped anvil it traps with TILESTATE. With a queue permit, no unstamped release and operands legal
for a tile that the slot claims (for TREST at U a tile that no other slot claims), TZERO, TLD, TST, MMA, MMAX, TSAVE and TREST
queue a command with the addresses, strides, types, descriptor, gain and swage configuration of their operands, count 1 in tiles,
clear idv and go on; the tile, the gains and memory are untouched. Without a permit they wait. GSET writes the gain of a claimed
tile and goes on. -/
def Obligations.TileCommands : Prop :=
  (∀ (x : XA) (s : State),
      let f := x.fld 2
      let w := s.w f.s
      let r := w.bits 15 8
      let c := w.bits 7 0
      let o := s.curK.tile f.d
      Ready (.tcfg x) s → f.base < 2 → f.t = 0 → f.d < 4 → w.bits 63 16 = 0 → 1 ≤ r → r ≤ 64 → 1 ≤ c → c ≤ 64 →
      (f.base = 1 → r * c ≤ 1024) →
      ((s.cluster (clusterOf s.curCore)).stopped = true → Traps (.tcfg x) s { cause := 0x11 }) ∧
      ((∃ k ∈ s.curK.anvq, k.tile = f.d) → (s.cluster (clusterOf s.curCore)).stopped = false →
        exec (.tcfg x) s = .next (s.modCur fun t => { t with wait := .retry })) ∧
      ((∀ k ∈ s.curK.anvq, k.tile ≠ f.d) → (o.claimed = true → o.slot = s.curSlot) →
        (s.cluster (clusterOf s.curCore)).stopped = false →
        ∃ t : State, exec (.tcfg x) s = .next t ∧
          t.curK.tile f.d = (if o.rows = r ∧ o.cols = c ∧ o.exact = (f.base == 1) then { o with claimed := true, slot := s.curSlot }
            else { claimed := true, slot := s.curSlot, exact := f.base == 1, rows := r, cols := c,
                   fp := if f.base = 1 then [] else List.replicate (r * c) 0, ex := if f.base = 1 then List.replicate (r * c) {} else [] }) ∧
          (∀ i, i ≠ f.d → t.curK.tile i = s.curK.tile i ∧ get 0 t.curK.gains i = get 0 s.curK.gains i) ∧
          get 0 t.curK.gains f.d = (if o.claimed then get 0 s.curK.gains f.d else 0x3F800000) ∧ t.mem = s.mem ∧
          t.cur = { s.cur with st := { s.cur.st with vclean := o.claimed && s.cur.st.vclean }, pc := s.npc f })) ∧
    (∀ (x : XA) (s : State), s.curK.anvq.length < 8 → s.unstamped s.curCore s.curSlot = false →
      let f := x.fld 2
      let a := s.w f.s
      let o := s.curK.tile f.d
      (Ready (.tzero x) s → f.base < 2 → f.s = 0 → f.t = 0 → Claims.OwnTile s f.d →
        Claims.Queues (.tzero x) s f (Claims.cmdOf s f.d (.zero (f.base == 1)) none)) ∧
      (Ready (.tld x) s → f.base = 0 → f.m = 0 → f.mm = 0 → f.ord < 2 → (f.ord = 0 ↔ f.sc = 0) → f.et ∈ Claims.tileTypes o.exact true →
        Claims.OwnTile s f.d → (∀ r < o.rows, (a + BitVec.ofNat 64 r * s.w f.t).toNat % etBytes f.et = 0) →
        Claims.Queues (.tld x) s f (Claims.cmdOf s f.d (.load a (s.w f.t) f.et f.sat (f.ord == 1)) none)) ∧
      (Ready (.tst x) s → f.base = 0 → f.m = 0 → f.mm = 0 → (f.ord = 0 ∨ f.ord = 2) → (f.ord = 0 ↔ f.sc = 0) →
        f.et ∈ Claims.tileTypes o.exact false → Claims.OwnTile s f.d →
        (∀ r < o.rows, (a + BitVec.ofNat 64 r * s.w f.t).toNat % etBytes f.et = 0) →
        Claims.Queues (.tst x) s f (Claims.cmdOf s f.d (.store a (s.w f.t) f.et f.sat (f.ord == 2) f.sc f.cp) none)) ∧
      (∀ off : Nat, Claims.RecordAt s a off 8 → a.toNat % 64 = 0 → f.base = 0 → Claims.OwnTile s f.d →
        let d := Claims.recWords s off 8
        (Ready (.mma x) s → f.t < 4 → o.exact = false → Claims.DescOk false d s.curK.swage →
          Claims.Queues (.mma x) s f (Claims.cmdOf s f.d (.mma d (get 0 s.curK.gains f.t) s.curK.swage false) (Claims.descBinding s d))) ∧
        (Ready (.mmax x) s → f.t = 0 → o.exact = true → Claims.DescOk true d s.curK.swage →
          Claims.Queues (.mmax x) s f (Claims.cmdOf s f.d (.mma d (get 0 s.curK.gains f.t) s.curK.swage true) (Claims.descBinding s d)))) ∧
      (Ready (.tsave x) s → s.cur.st.priv = 0 → f.base < 2 → f.t = 0 → a.toNat % 64 = 0 → Claims.OwnTile s f.d →
        Claims.Queues (.tsave x) s f (Claims.cmdOf s f.d (.save a (f.base == 1) (get 0 s.curK.gains f.d)) none)) ∧
      (Ready (.trest x) s → s.cur.st.priv = 0 → f.base = 0 → f.t = 0 → a.toNat % 64 = 0 → f.d < 4 →
        (o.claimed = true → o.slot = s.curSlot) →
        Claims.Queues (.trest x) s f (Claims.cmdOf s f.d (.restore a s.curSlot) none))) ∧
    (∀ i ∈ [Instr.tzero, .tld, .tst, .mma, .mmax, .tsave, .trest], ∀ (x : XA) (s : State), Ready (i x) s → 8 ≤ s.curK.anvq.length →
      exec (i x) s = .next (s.modCur fun t => { t with wait := .retry })) ∧
    (∀ (x : XA) (s : State),
      let f := x.fld 2
      Ready (.gset x) s → f.base = 0 → f.t = 0 → Claims.OwnTile s f.d →
      ∃ t : State, exec (.gset x) s = .next t ∧ get 0 t.curK.gains f.d = (s.w f.s).setWidth 32 ∧
        (∀ i, i ≠ f.d → get 0 t.curK.gains i = get 0 s.curK.gains i) ∧ t.curK.tiles = s.curK.tiles ∧ t.curK.anvq = s.curK.anvq ∧
        t.cur = { s.cur with pc := s.npc f } ∧ t.mem = s.mem)

/-- SWCFG with unused fields 0, a 32-aligned record with reserved bits 0, no kernel or padding field of 7, no zero dimension, and
its tensor inside the core's own local store: the configuration is the record's three words. MSEQ on a core whose sequencer is
idle, by a thread with no unstamped release, with a 64-aligned legal record, bounds below 2^20 in the three loop registers that it
names, a legal template, and every tile that the sequence will name claimed by the slot and of the right type: where some bound is
0 nothing is started; otherwise the sequencer holds the template, increments, bounds and start indices (0, or with i = 1 those of
SPOS), and tiles rises by 1. Both go on. While a sequence runs MSEQ waits. -/
def Obligations.SwageAndSequencer : Prop :=
  (∀ (x : XA) (s : State) (off p : Nat),
      let f := x.fld 2
      let w := Claims.recWord s off
      let k := w 2
      let d := w 1
      Ready (.swcfg x) s → f.d = 0 → f.t = 0 → f.base = 0 → Claims.RecordAt s (s.w f.s) off 4 → (s.w f.s).toNat % 32 = 0 →
      k.bits 2 0 ≠ 7 → k.bits 5 3 ≠ 7 → k.bits 14 12 ≠ 7 → k.bits 17 15 ≠ 7 → k.bits 63 18 = 0 → w 3 = 0 →
      d.bits 63 48 ≠ 0 → d.bits 47 32 ≠ 0 → d.bits 31 16 ≠ 0 → d.bits 15 0 ≠ 0 → w 0 = windowVA s.curCore p →
      p + d.bits 63 48 * d.bits 47 32 * d.bits 31 16 ≤ 2 ^ 18 →
      ∃ t : State, exec (.swcfg x) s = .next t ∧ t.curK.swage = ⟨w 0, d, k⟩ ∧ t.curK.anvq = s.curK.anvq ∧
        t.cur = { s.cur with pc := s.npc f } ∧ t.mem = s.mem) ∧
    (∀ (x : XA) (s : State) (off : Nat),
      let f := x.fld 2
      let w := Claims.recWord s off
      let c := w 8
      let pos := w 15
      let n (j : Nat) : Nat := (get 0 s.curK.loops (8 * s.cur.st.hearth + c.bits (46 + 3 * j) (44 + 3 * j))).toNat
      let at0 (hi lo : Nat) : Nat := if f.base = 1 then pos.bits hi lo else 0
      let i0 := at0 19 0
      let i1 := at0 39 20
      let i2 := at0 59 40
      Ready (.mseq x) s →
      ((s.curK.seqr ≠ none) → exec (.mseq x) s = .next (s.modCur fun t => { t with wait := .retry })) ∧
      (s.curK.seqr = none → s.unstamped s.curCore s.curSlot = false → f.base < 2 → f.d = 0 → f.t = 0 → Claims.RecordAt s (s.w f.s) off 16 → (s.w f.s).toNat % 64 = 0 →
        c.bits 43 0 = 0 → pos.bits 62 60 = 0 → (f.base = 1 → pos.bits 63 63 = 1) → n 0 < 2 ^ 20 → n 1 < 2 ^ 20 → n 2 < 2 ^ 20 →
        Claims.DescOk (c.bits 63 63 == 1) (Claims.recWords s off 8) s.curK.swage →
        (∀ j2 j1 j0 : Nat, j2 < n 2 → j1 < n 1 → j0 < n 0 → i2 < j2 ∨ (i2 = j2 ∧ (i1 < j1 ∨ (i1 = j1 ∧ i0 ≤ j0))) →
          let m := (c.bits 60 59 + j0 * c.bits 54 53 + j1 * c.bits 56 55 + j2 * c.bits 58 57) % 4
          Claims.OwnTile s m ∧ (s.curK.tile m).exact = (c.bits 63 63 == 1)) →
        (n 0 = 0 ∨ n 1 = 0 ∨ n 2 = 0 → ∃ t : State, exec (.mseq x) s = .next t ∧ t.curK.seqr = none ∧ Claims.RanClear s t f) ∧
        (i0 < n 0 → i1 < n 1 → i2 < n 2 → ∃ (t : State) (q : Sequence), exec (.mseq x) s = .next t ∧ t.curK.seqr = some q ∧
          q.slot = s.curSlot ∧ q.tmpl = Claims.recWords s off 8 ∧ q.sctl = c ∧ q.da = [w 9, w 10, w 11] ∧ q.db = [w 12, w 13, w 14] ∧
          q.n = [n 0, n 1, n 2] ∧ q.i0 = i0 ∧ q.i1 = i1 ∧ q.i2 = i2 ∧ q.priv = s.cur.st.priv ∧ q.rc = s.cur.rc ∧
          t.curK.anvq = s.curK.anvq ∧ t.mem = s.mem ∧
          t.cur = { s.cur with tiles := s.cur.tiles + 1, st := { s.cur.st with idv := false }, pc := s.npc f })))

namespace Sys2Proof.Claims

open Sys2Proof.Machine

/-! ## The tongs -/

/-- The immediate of a copy is legal (R356), and so are ord and cp. -/
abbrev CopyForm (f : Fld) : Prop :=
  f.immU < 2 ^ 13 ∧ f.ord < 2 ∧ f.cp = 0 ∧
    (f.immU / 8 % 2 = 1 → 2 ≤ f.immU / 16 % 8 ∧ f.immU / 16 % 8 ≤ 5 ∧ f.immU / 128 < [0, 0, 32, 64, 32, 16].getD (f.immU / 16 % 8) 0)
/-- The channel is free: it runs no command and holds none. -/
abbrev FreeChan (s : State) (f : Fld) : Prop :=
  (s.chan s.curCore (f.immU % 8)).busy = false ∧ (s.chan s.curCore (f.immU % 8)).held = none
/-- The barrier binding of a copy. -/
def copyBinding (s : State) (f : Fld) : Option BarId :=
  if f.immU / 8 % 2 = 1 then some (boundTo s (f.immU / 16 % 8) (f.immU / 128)) else none
/-- The destination of a copy translates at issue for a write, and the scope of the completion release (R356): local store, which takes
none, or DRAM of the package, at pkg or the wider sc. The translation leaves s'. -/
abbrev CopyDest (f : Fld) (s s' : State) (dst : Word) (global : Bool) (sc : Nat) : Prop :=
  ∃ (pa : Nat) (a : Attr), s.translateCur dst .write = (.ok pa a, s') ∧
    ((paClass pa = 1 ∧ global = false ∧ sc = f.sc) ∨
      (paClass pa = 0 ∧ s.ownPackage pa = true ∧ global = true ∧ (f.sc = 0 ∨ 4 ≤ f.sc) ∧ sc = max f.sc 4))
/-- The instruction starts a command on its channel (R355-R359): the channel holds the issuer and what x gives, the copies count is one
higher, idv falls and the instruction is over; no byte has moved. -/
def Starts (i : Instr) (s s' : State) (f : Fld) (x : Channel) : Prop :=
  ∃ t : State, exec i s = .next t ∧ t.chan s.curCore (f.immU % 8) =
      { x with busy := true, slot := s.curSlot, owner := (s.curCore, s.curSlot), hearth := s.cur.st.hearth, priv := s.cur.st.priv, task := s.cur.taskid,
               det := s.cur.st.det, rc := s.cur.rc, watermark := x.dst, bind := copyBinding s f, ordered := f.ord == 1,
               before := s'.nextId, issued := s.curK.cycle.toNat, pc := s.cur.pc, own := s.cur.owner } ∧
    (∀ c ch : Nat, c ≠ s.curCore ∨ ch ≠ f.immU % 8 → t.chan c ch = s.chan c ch) ∧ t.mem = s.mem ∧
    t.cur = { s.cur with copies := s.cur.copies + 1, st := { s.cur.st with idv := false }, pc := s.npc f, wait := wtWait f s }

end Sys2Proof.Claims

/-- On a free channel, with a legal immediate and ord, by a thread with no unstamped release: CPY of 1 to 2^55 - 1 bytes, CPYS of
a legal 96-byte record with a nonempty total, and CPYN of at most 256 KiB from the core's own local store with sc 0, start the
command with the addresses, lengths, counts, strides, scope, binding, context, tag and port of their operands, count 1 in copies,
clear idv and go on. On a busy channel they wait. WAITC of a channel that is not busy and whose last command did not fault this
thread goes on, and with ord acq acquires the stamp of its release; of a busy channel of the hearth it waits. CHST writes the
status, or with i[3] = 1 the delivered count. -/
def Obligations.TongsCommands : Prop :=
  (∀ (x : XA) (s : State),
      let f := x.fld 2
      Claims.CopyForm f → Claims.FreeChan s f → s.unstamped s.curCore s.curSlot = false →
      (∀ (s' : State) (global : Bool) (sc : Nat), Ready (.cpy x) s → (s.w f.t).toNat < 2 ^ 55 → s.w f.t ≠ 0 →
        Claims.CopyDest f s s' (s.w f.d) global sc →
        Claims.Starts (.cpy x) s s' f { src := s.w f.s, dst := s.w f.d, len := (s.w f.t).toNat, global := global, sc := sc }) ∧
      (∀ (off : Nat) (s' : State) (global : Bool) (sc : Nat), Ready (.cpys x) s → f.d = 0 → f.t = 0 →
        Claims.RecordAt s (s.w f.s) off 12 → (s.w f.s).toNat % 32 = 0 →
        let w := Claims.recWord s off
        let len := (w 2).bits 31 0
        let n1 := (w 2).bits 63 32
        let n2 := (w 3).bits 31 0
        let n3 := (w 3).bits 63 32
        w 10 = 0 → w 11 = 0 → len * n1 * n2 * n3 < 2 ^ 55 → len * n1 * n2 * n3 ≠ 0 → Claims.CopyDest f s s' (w 1) global sc →
        Claims.Starts (.cpys x) s s' f { src := w 0, dst := w 1, len := len, counts := [n1, n2, n3], ss := [w 4, w 5, w 6],
                                         ds := [w 7, w 8, w 9], strided := true, global := global, sc := sc,
                                         ascending := runsAscend len [n1, n2, n3] [w 7, w 8, w 9] }) ∧
      (∀ off : Nat, Ready (.cpyn x) s → f.sc = 0 → (s.w f.t).toNat ≤ 2 ^ 18 → s.w f.s = windowVA s.curCore off → off < 2 ^ 18 →
        off + (s.w f.t).toNat ≤ 2 ^ 18 → coreExists s.curCore = true → s.hub.package < 64 →
        s.curK.lsRefusedN off (s.w f.t).toNat s.cur.st.hearth s.cur.st.priv false = false →
        Claims.Starts (.cpyn x) s s f { src := s.w f.s, dst := 0, len := (s.w f.t).toNat, global := false,
                                        net := some ((s.w f.d).bits 15 0, (s.w f.d).bits 63 32, (s.w f.d).bits 17 16) })) ∧
    (∀ i ∈ [Instr.cpy, .cpys, .cpyn], ∀ (x : XA) (s : State), Ready (i x) s →
      (s.chan s.curCore ((x.fld 2).immU % 8)).busy = true → exec (i x) s = .next (s.modCur fun t => { t with wait := .retry })) ∧
    (∀ (x : XA) (s : State),
      let f := x.fld 2
      let y := s.chan s.curCore f.base
      Ready (.waitc x) s → f.base < 8 → f.d = 0 → f.s = 0 → f.t = 0 → f.ord < 2 → f.sc = 0 → f.wt = 0 → f.cp = 0 →
      s.cur.deferred = [] →
      (y.busy = false → (y.flt = true → y.ownedBy s.curCore s.curSlot = false ∨ y.task ≠ s.cur.taskid) →
        (f.ord = 0 → Jumps (.waitc x) s (s.npc f)) ∧
        (f.ord = 1 → ∃ t : State, exec (.waitc x) s = .next t ∧ t.curK.rcache = [] ∧ t.mem = s.mem ∧
          t.cur = { s.cur with rc := s.cur.rc.max (y.stamp.getD s.cur.rc), pc := s.npc f })) ∧
      (y.busy = false → y.flt = true → y.ownedBy s.curCore s.curSlot = true → y.task = s.cur.taskid →
        Traps (.waitc x) s { cause := 0x13, cls := 1, addr := y.src }) ∧
      (y.busy = true → y.hearth = s.cur.st.hearth →
        exec (.waitc x) s = .next (s.modCur fun t => { t with wait := .chan f.base }))) ∧
    (∀ (x : XA) (s : State),
      let f := x.fld 2
      let y := s.chan s.curCore (f.base % 8)
      Ready (.chst x) s → f.s = 0 → f.t = 0 → (y.busy = true → y.hearth = s.cur.st.hearth) →
      Writes (.chst x) s (if 8 ≤ f.base then y.watermark - y.dst else
        BitVec.ofNat 64 ((if y.busy then 2 ^ 63 else 0) + (if y.flt then 2 ^ 62 else 0) + (if y.cxl then 2 ^ 61 else 0) +
          y.slot % 16 * 2 ^ 32 + (y.watermark - y.dst).toNat % 2 ^ 32)))

namespace Sys2Proof.Claims

open Sys2Proof.Machine

/-! ## Registers and the system -/

/-- The registers of R372 that a thread may read: number, least level, and value. -/
def csrReads : List (Nat × Nat × (State → Word)) :=
  let q (s : State) : Hearth := s.hearth s.cur.st.hearth
  [(0x000, 0, fun s => s.cur.st.pack), (0x001, 0, fun s => s.cur.taskid), (0x002, 0, fun s => s.cur.key),
   (0x003, 0, fun s => s.cur.ctr), (0x004, 0, fun s => s.curK.cycle), (0x005, 0, fun s => s.cur.barlast.setWidth 64),
   (0x006, 0, fun s => s.cur.link), (0x008, 0, fun s => s.cur.idempc), (0x009, 0, fun s => s.cur.idemctr),
   (0x00A, 0, fun s => s.cur.idemlog), (0x010, 0, fun s => BitVec.ofNat 64 (min s.cur.replay.length 32)),
   (0x011, 1, fun s => s.cur.trapcause), (0x012, 1, fun s => s.cur.trapaddr), (0x013, 1, fun s => s.cur.trappc),
   (0x014, 1, fun s => s.cur.trapstat), (0x018, 0, fun s => (s.curK.tile 0).stat), (0x019, 0, fun s => (s.curK.tile 1).stat),
   (0x01A, 0, fun s => (s.curK.tile 2).stat), (0x01B, 0, fun s => (s.curK.tile 3).stat),
   (0x100, 0, fun s => BitVec.ofNat 64 s.cur.st.hearth), (0x101, 0, fun s => (q s).xbase), (0x102, 0, fun s => (q s).trbase),
   (0x103, 0, fun s => (q s).qtbase), (0x104, 0, fun s => (q s).savebase), (0x105, 0, fun s => (q s).ovfbase),
   (0x106, 0, fun s => (q s).dmovf), (0x107, 0, fun s => (q s).aspace), (0x108, 1, fun s => (q s).trapvec),
   (0x109, 0, fun s => BitVec.ofNat 64 ((get 0 s.curK.log.pubtail s.cur.st.hearth).toNat * 2 ^ 16 + s.curCore)),
   (0x10A, 0, fun s => (q s).rqbase), (0x200, 1, fun s => BitVec.ofNat 64 (2 ^ 18 - 2 ^ (14 + s.curK.log.size % 4))),
   (0x201, 1, fun s => BitVec.ofNat 64 (s.curK.log.size % 4)), (0x202, 1, fun s => s.curK.lsown0), (0x203, 1, fun s => s.curK.lsown1),
   (0x204, 1, fun s => (s.cluster (clusterOf s.curCore)).aweight), (0x300, 1, fun s => s.fdutyReg s.curCore),
   (0x301, 1, fun s => s.curK.pw.vlevel), (0x302, 1, fun s => s.curK.pw.flevel), (0x303, 1, fun s => s.curK.pw.stallq)]
/-- Registers that a write sets: number, least level, and the bits that are not reserved. -/
def csrWrites : List (Nat × Nat × Word) :=
  let all : Word := 0xFFFFFFFFFFFFFFFF
  [(0x001, 1, all), (0x002, 0, all), (0x003, 0, all), (0x006, 1, 0xE1FFFFFFFFFFFFFF), (0x008, 1, all), (0x009, 1, all),
   (0x00A, 1, all), (0x011, 1, all), (0x012, 1, all), (0x013, 1, all), (0x014, 1, 0x03FFFFFFFFFFFFFF), (0x101, 1, 0x01FFFFFFFFFFF03F),
   (0x102, 1, 0x01FFFFFFFFFFF01F), (0x103, 1, 0x01FFFFFFFFFFF000), (0x104, 1, 0x01FFFFFFFFFFF000), (0x105, 1, 0x01FFFFFFFFFFF01F),
   (0x106, 1, 0x01FFFFFFFFFFF01F), (0x107, 1, 0xFFFFFFFFFFFFE000), (0x108, 1, 0x01FFFFFFFFFFFE00), (0x10A, 1, 0x01FFFFFFFFFFF01F),
   (0x202, 2, all), (0x203, 2, all), (0x204, 2, 0x00000000FFFFFFFF)]
/-- The three ways to write a register (R371): W[s], OR W[s] in, clear the bits of W[s]. -/
def csrOps : List ((XA → Instr) × (Word → Word → Word)) :=
  [(.csrw, fun _ v => v), (.csrs, fun old v => old ||| v), (.csrc, fun old v => old &&& ~~~v)]

end Sys2Proof.Claims

/-- With unused fields 0 and Imm the number of a register: at or above its read level CSRR writes the register to w<d> and nothing
else changes. At or above its write level, for each register of the second list, CSRW, CSRS and CSRC leave in it W[s], the old
value with the bits of W[s] set, or with them cleared, its reserved bits 0; every other register but STATUS reads as before, no
scalar register changes, idv falls, and the thread goes on. A write of STATUS changes pin, spillp and live and clears idv. A
number that R372 does not list traps with CSRNUM; a use below the level, or a write of a register that has no write column, traps
with PRIV. -/
def Obligations.ControlRegisters : Prop :=
  (∀ p ∈ Claims.csrReads, ∀ (x : XA) (s : State), Ready (.csrr x) s → (x.fld 2).s = 0 → (x.fld 2).t = 0 → (x.fld 2).immU = p.1 →
      (p.2.1 ≤ s.cur.st.priv → Writes (.csrr x) s (p.2.2 s)) ∧
      (s.cur.st.priv < p.2.1 → Traps (.csrr x) s { cause := 0x05 })) ∧
    (∀ p ∈ Claims.csrWrites, ∀ o ∈ Claims.csrOps, ∀ (x : XA) (s : State),
      let f := x.fld 2
      f.d = 0 → f.t = 0 → f.immU = p.1 →
      (Ready (o.1 x) s → p.2.1 ≤ s.cur.st.priv → ∃ t : State, exec (o.1 x) s = .next t ∧
        (∀ r ∈ Claims.csrReads, r.1 = p.1 → r.2.2 t = o.2 (r.2.2 s) (s.w f.s) &&& p.2.2) ∧
        (∀ r ∈ Claims.csrReads, r.1 ≠ p.1 → r.1 ≠ 0 → r.2.2 t = r.2.2 s) ∧ t.cur.stk = s.cur.stk ∧ t.cur.pc = s.npc f ∧
        t.cur.st = { s.cur.st with idv := false } ∧ t.mem = s.mem) ∧
      (s.cur.st.priv < p.2.1 → Traps (o.1 x) s { cause := 0x05 })) ∧
    (∀ (x : XA) (s : State),
      let f := x.fld 2
      let v := s.w f.s
      Ready (.csrw x) s → f.d = 0 → f.t = 0 → f.immU = 0 → 1 ≤ s.cur.st.priv →
      ∃ t : State, exec (.csrw x) s = .next t ∧ OnlyCur s t ∧
        t.cur = { s.cur with
          st := { s.cur.st with pin := v.bits 57 57 = 1, spillp := BitVec.ofNat 25 (v.bits 56 32), live := BitVec.ofNat 16 (v.bits 15 0),
                                idv := false }
          pc := s.npc f }) ∧
    (∀ n ∈ [0x004, 0x005, 0x010, 0x018, 0x019, 0x01A, 0x01B, 0x100, 0x109, 0x200], ∀ o ∈ Claims.csrOps, ∀ (x : XA) (s : State),
      (x.fld 2).immU = n → Traps (o.1 x) s { cause := 0x05 }) ∧
    (∀ (x : XA) (s : State), Ready (.csrr x) s → (x.fld 2).s = 0 → (x.fld 2).t = 0 → (x.fld 2).immU < 4096 →
      (∀ p ∈ Claims.csrReads, (x.fld 2).immU ≠ p.1) → Traps (.csrr x) s { cause := 0x15, addr := BitVec.ofNat 64 (x.fld 2).immU })

/-- At S or F, with no parked elements and outside an ANVILFETCH handler: when TRAPSTAT.priv is not above the current level and
TRAPPC is even, RTE sets the PC to TRAPPC, priv to TRAPSTAT.priv and pin to TRAPSTAT.pin, and every other STATUS field, every
register and everything else keeps its value (but the model's own mark of a spill or fill handler). A TRAPSTAT.priv above the
current level traps with PRIV, and otherwise an odd TRAPPC with ILLPC. -/
def Obligations.RteReturns : Prop :=
  ∀ (x : XA) (s : State), Ready (.rte x) s → 1 ≤ s.cur.st.priv → x.d = 0 → x.s = 0 → x.t = 0 → x.i = 0 → s.cur.replay = [] →
    s.cur.anvTrap = false →
    let w := s.cur.trapstat
    (w.bits 21 20 ≤ s.cur.st.priv → s.cur.trappc.getLsbD 0 = false → ∃ t : State, exec (.rte x) s = .next t ∧ OnlyCur s t ∧
      t.cur = { s.cur with
        pc := s.cur.trappc
        st := { s.cur.st with priv := w.bits 21 20, pin := w.bits 57 57 = 1 }
        winTrap := false }) ∧
    (w.bits 21 20 ≤ s.cur.st.priv → s.cur.trappc.getLsbD 0 = true → Traps (.rte x) s { cause := 0x04, addr := s.cur.trappc }) ∧
    (s.cur.st.priv < w.bits 21 20 → Traps (.rte x) s { cause := 0x05 })

/-- With unused fields 0: TRAP enters the supervisor at TRAPVEC.base*512 + 0x100 with TRAPPC the next instruction, TRAPADDR Imm
and cause SVC. IDEM saves the next PC, the spark counter and the log tail and sets idv; IDEM 1 clears it. HALT at F halts its core
with Imm and reports it. TLBI at S (kind 3 at F), on a quiet core, with no walk over its range in progress and no core clock
stopped, removes exactly the entries of its kind from every core's TLB and goes on. RQRD writes the named word of the replay
queue, and an index past it traps with OPRANGE. RQGO 1 empties the queue and leaves every lane; RQGO on an empty queue goes on; on
one parked load element of the core's own local store it writes the lane with the bytes there and empties the queue. That TLBI
completes in one step once nothing holds it up is the model's choice (log 18). -/
def Obligations.SystemInstructions : Prop :=
  (∀ (x : XA) (s : State),
      let f := x.fld 2
      Ready (.trap x) s → f.d = 0 → f.s = 0 → f.t = 0 → f.immU < 4096 → ∃ t : State, exec (.trap x) s = .next t ∧ OnlyCur s t ∧
        t.cur.trappc = s.npc f ∧ t.cur.trapstat = s.cur.st.pack ∧ t.cur.trapaddr = BitVec.ofNat 64 f.immU ∧
        t.cur.trapcause.bits 63 56 = 0x1C ∧ t.cur.stk = s.cur.stk ∧
        t.cur.pc = BitVec.ofNat 64 ((s.hearth s.cur.st.hearth).trapvec.bits 56 9 * 512 + 0x100) ∧
        t.cur.st = { s.cur.st with priv := if s.cur.st.priv = 2 then 2 else 1, idv := false }) ∧
    (∀ (x : XA) (s : State),
      let f := x.fld 2
      Ready (.idem x) s → f.d = 0 → f.s = 0 → f.t = 0 →
      (f.base = 0 → ∃ t : State, exec (.idem x) s = .next t ∧ OnlyCur s t ∧ t.cur = { s.cur with
        idempc := s.npc f, idemctr := s.cur.ctr, idemlog := s.curK.log.tail.setWidth 64, restarts := 0,
        st := { s.cur.st with idv := true }, pc := s.npc f }) ∧
      (f.base = 1 → ∃ t : State, exec (.idem x) s = .next t ∧ OnlyCur s t ∧ Claims.RanClear s t f)) ∧
    (∀ (x : XA) (s : State),
      let f := x.fld 2
      Ready (.halt x) s → s.cur.st.priv = 2 → f.d = 0 → f.s = 0 → f.t = 0 → ∃ t : State, exec (.halt x) s = .next t ∧
        t.curK.halted = some f.immU ∧ t.hub.halts = s.hub.halts ++ [(f.immU, s.curCore, s.cur.pc)] ∧
        t.cur = { s.cur with pc := s.npc f } ∧ t.mem = s.mem ∧ ∀ c, c ≠ s.curCore → t.core c = s.core c) ∧
    (∀ (x : XA) (s : State),
      let f := x.fld 2
      let h := s.cur.st.hearth
      let lo := (s.w f.s).toNat
      let hi := lo + (s.w f.t).toNat
      let base (e : TlbEntry) : Nat := ((BitVec.ofNat 57 e.base).signExtend 64).toNat
      Ready (.tlbi x) s → Claims.Quiet s → f.d = 0 → 1 ≤ s.cur.st.priv → f.base < 4 → (f.base = 3 → s.cur.st.priv = 2) →
      (f.base ≠ 0 → f.t = 0) → s.walksIn f.base h ((s.hearth h).aspace.bits 63 56) (s.w f.s) (s.w f.t) = false → s.coresStopped = false →
      ∃ t : State, exec (.tlbi x) s = .next t ∧ t.cur.pc = s.npc f ∧ t.cur.stk = s.cur.stk ∧ t.mem = s.mem ∧
        ∀ (c : Nat) (e : TlbEntry), e ∈ (t.core c).tlb ↔ e ∈ (s.core c).tlb ∧
          ¬(if f.base = 0 then e.hearth = h ∧ e.asid = (s.hearth h).aspace.bits 63 56 ∧ lo < hi ∧
                (2 ^ 64 < hi ∨ (base e < hi ∧ lo < base e + e.size))
            else if f.base = 1 then e.hearth = h ∧ e.asid = lo % 256
            else if f.base = 2 then e.hearth = h else True)) ∧
    (∀ (x : XA) (s : State),
      let f := x.fld 2
      Ready (.rqrd x) s → 1 ≤ s.cur.st.priv → f.s = 0 → f.t = 0 →
      (∀ r : Replay, s.cur.replay[f.immU / 2]? = some r → r.cause < 256 → r.kind < 8 → r.vreg < 16 → r.lane < 64 →
        Writes (.rqrd x) s (if f.immU % 2 = 0 then r.va
          else BitVec.ofNat 64 (r.cause * 2 ^ 40 + r.kind * 2 ^ 34 + r.vreg * 2 ^ 30 + r.lane * 2 ^ 24))) ∧
      (2 * s.cur.replay.length ≤ f.immU → Traps (.rqrd x) s { cause := 0x0D, addr := BitVec.ofNat 64 f.immU })) ∧
    (∀ (x : XA) (s : State),
      let f := x.fld 2
      Ready (.rqgo x) s → 1 ≤ s.cur.st.priv → f.d = 0 → f.s = 0 → f.t = 0 →
      (f.base = 1 → ∃ t : State, exec (.rqgo x) s = .next t ∧ t.cur.replay = [] ∧ t.cur.v = s.cur.v ∧ t.cur.stk = s.cur.stk ∧
        t.cur.pc = s.npc f ∧ t.mem = s.mem) ∧
      (f.base = 0 → s.cur.replay = [] → ∃ t : State, exec (.rqgo x) s = .next t ∧ t.cur.replay = [] ∧ t.cur.v = s.cur.v ∧
        t.cur.stk = s.cur.stk ∧ t.cur.pc = s.npc f ∧ t.mem = s.mem) ∧
      (f.base = 0 → ∀ (r : Replay) (off : Nat), s.cur.replay = [r] → r.kind = 0 → r.elem = windowVA s.curCore off → r.et ≠ 5 → r.et < 15 →
        Claims.OwnLS s off (etBytes r.et) false → s.curK.bootTest = false → s.unstamped s.curCore s.curSlot = false → r.vreg < 16 → s.cur.vlive.getLsbD r.vreg = true →
        (s.cur.vec r.vreg).length = 64 → r.lane < etCount r.et →
        ∃ t : State, exec (.rqgo x) s = .next t ∧ t.cur.replay = [] ∧ t.cur.pc = s.npc f ∧ t.mem = s.mem ∧
          Claims.el t r.et r.vreg r.lane = Claims.ownNat s off (etBytes r.et) ∧
          (∀ l < etCount r.et, l ≠ r.lane → Claims.el t r.et r.vreg l = Claims.el s r.et r.vreg l) ∧
          ∀ n, n ≠ r.vreg → t.cur.vec n = s.cur.vec n))

namespace Sys2Proof.Claims

open Sys2Proof.Machine

/-! ## Tasks, messages and channels -/

/-- The message that SEND posts (R78, R138): the 32 bytes of its record, and the sender's required clock after its release; the core's cycle is kept for the order of faults (R454). -/
def sent (s r : State) (c ch off : Nat) : Msg :=
  { core := c, hearth := s.cur.st.hearth, chan := ch, payload := recWords s off 4, rc := r.cur.rc, issued := s.curK.cycle.toNat,
    src := some (s.curCore, s.curSlot) }
/-- The words of a continuation record (R79, R373): the billet with the next PC, the live mask, idv 0 and LINK, then SPARKKEY and SPARKCTR. -/
def contRecord (s : State) (pc link : Word) (live : BitVec 16) : List Word :=
  [pc, ({ s.cur.st with live := live, idv := false } : Status).pack] ++ (List.range 16).map s.cur.w ++ [s.cur.taskid, link, s.cur.key, s.cur.ctr]
/-- The word at a VA of the thread's hearth lies at pa in DRAM of the package, which the core's TLB serves at S (R107), on a die with power. -/
abbrev HwWord (s : State) (a : Word) (pa : Nat) : Prop :=
  canonical a = true ∧ inWindow a = false ∧ paClass pa = 0 ∧ pa < 2 ^ 56 ∧ pa % 8 = 0 ∧ s.ownPackage pa = true ∧
    (s.die (homeOf pa / 160)).powerLost = false ∧ ((s.curK.tlb.find? fun t : TlbEntry => t.serves s.cur.st.hearth
      ((s.hearth s.cur.st.hearth).aspace.bits 63 56) (a.toNat % 2 ^ 57)).any fun e => [Acc.read, .write, .atomic].all fun k =>
        match finishTr e.leaf (a.toNat % 2 ^ 57) 1 k with
        | .ok p _ => p == pa
        | _ => false) = true
/-- Words n on from a VA. -/
abbrev HwWords (s : State) (a : Word) (pa n : Nat) : Prop := ∀ i < n, HwWord s (a + BitVec.ofNat 64 (8 * i)) (pa + 8 * i)
/-- No word of DRAM is poisoned or in error. -/
abbrev Sound (s : State) : Prop := s.poison = [] ∧ s.latent = []
/-- The ranges of a and b bytes at two places do not meet. -/
abbrev Clear (p a q b : Nat) : Prop := p + a ≤ q ∨ q + b ≤ p
/-- The place of a TASKID's record in its hearth's arena (R68), whose log is 8 to 24. -/
def recordOf (s : State) (id : Word) : Word :=
  let b := (s.hearth s.cur.st.hearth).trbase
  (BitVec.ofNat 57 (b.bits 56 12 * 4096 + 256 * (id.bits 47 0 % 2 ^ b.bits 4 0))).signExtend 64
/-- The hearth has an arena (R67). -/
abbrev Arena (s : State) : Prop := 8 ≤ (s.hearth s.cur.st.hearth).trbase.bits 4 0 ∧ (s.hearth s.cur.st.hearth).trbase.bits 4 0 ≤ 24
/-- CTRL with another state, its reserved bits 0 (R70). -/
def ctrlWith (ctrl : Word) (st : Nat) : Word := (ctrl &&& 0xC001FC03) ||| BitVec.ofNat 64 (st * 2 ^ 36)

end Sys2Proof.Claims

/-- For a thread of a quiet core outside deterministic mode, with the words named in sound DRAM that its TLB serves: SPAWN of the
TASKID of no task, of one whose record names another, or to a pull queue writes 2; to a full ring 1; else TAIL is one more, the
tail entry holds the TASKID and the new TAIL, and a free record becomes queued and gives 0, while any other stays and gives 2; no
other register and no other byte of DRAM changes. YIELDC of a vector-clean thread with no load, store, tile or deferred fault,
whose resident frames can be spilled (no channel busy or held, where there are some): memory holds the billet with the next PC,
STATUS after the spill with the mask W[t][15:0] and idv 0, w0 to w15, TASKID and LINK, then key and counter; the slot is empty;
the continuation waits on the channel or future, or is handed on when that has ended. EXIT of a thread that has not adopted, with
no copy or tile outstanding: a thread without a task, or whose record names another, leaves an empty slot; else its running record
also becomes done, its pins are gone, and an empty or claimed future is full with the value, its owner kept. With a copy or tile
outstanding EXIT waits. That what passes between core and homes completes in one step is the model's choice (log 18, log 22, log
50). -/
def Obligations.TasksStartAndEnd : Prop :=
  (∀ (x : XA) (s : State) (pr pd pe : Nat),
      let f := x.fld 2
      let id := s.w f.s
      let c := (s.w f.t).bits 12 0
      let ctrl := s.memW (pr + 8)
      let desc : Word := (BitVec.ofNat 57 ((s.hearth s.cur.st.hearth).qtbase.bits 56 12 * 4096 + 128 * c + 32 * ctrl.bits 1 0)).signExtend 64
      let slog := (s.memW (pd + 8)).bits 4 0
      let pull := (s.memW (pd + 8)).bits 8 8 = 1
      let tail := s.memW (pd + 24)
      let waiting := (tail - s.memW (pd + 16)).toNat
      let gives (v : Word) (t : State) : Prop := exec (.spawn x) s = .next t ∧ t.cur.w f.d = v ∧ t.cur.pc = s.npc f ∧
        ∀ n < 16, n ≠ f.d → t.cur.w n = s.cur.w n
      Ready (.spawn x) s → f.base = 0 → coreExists c = true → s.cur.st.det = false → Claims.Quiet s → Claims.Sound s →
      (id = 0x0000FFFFFFFFFFFF → ∃ t : State, gives 2 t) ∧
      (id ≠ 0x0000FFFFFFFFFFFF → Claims.Arena s → Claims.HwWords s (Claims.recordOf s id) pr 2 →
        (s.memW pr ≠ id → ∃ t : State, gives 2 t) ∧
        (s.memW pr = id → Claims.HwWords s desc pd 4 →
          (pull → ∃ t : State, gives 2 t) ∧
          (¬pull → 2 ^ slog ≤ waiting → ∃ t : State, gives 1 t ∧ Claims.DramBut s t []) ∧
          (¬pull → waiting < 2 ^ slog → Claims.HwWords s (s.memW pd + BitVec.ofNat 64 (16 * (tail.toNat % 2 ^ slog))) pe 2 →
            Claims.Clear pr 16 pd 32 → Claims.Clear pe 16 pd 32 → Claims.Clear pe 16 pr 16 →
            ∃ t : State, gives (if ctrl.bits 39 36 = 0 then 0 else 2) t ∧ t.memW pe = id ∧ t.memW (pe + 8) = tail + 1 ∧
              t.memW (pd + 24) = tail + 1 ∧ t.memW (pr + 8) = (if ctrl.bits 39 36 = 0 then Claims.ctrlWith ctrl 1 else ctrl) ∧
              Claims.DramBut s t [(pe, 16), (pd + 24, 8), (pr + 8, 8)])))) ∧
    (∀ (x : XA) (s : State) (pa : Nat) (l : Option Nat),
      let f := x.fld 2
      let a := s.w f.s
      let ch := (s.w f.d).bits 2 0
      let n := s.cur.st.resid
      let p (i : Nat) : Nat := (s.cur.st.spillp + BitVec.ofNat 25 i).toNat
      let u := s.modCur fun t => { t with st := { t.st with spillp := t.st.spillp + BitVec.ofNat 25 n, resid := 0 } }
      let link : Word := if l.isSome then BitVec.ofNat 64 (3 * 2 ^ 61 + (s.w f.d).bits 56 0)
        else BitVec.ofNat 64 (3 * 2 ^ 61 + ch * 2 ^ 14 + s.curCore * 2 + 1)
      Ready (.yieldc x) s → s.cur.st.det = false → Claims.Quiet s → Claims.Sound s → s.cur.st.vclean = true → s.cur.loads = 0 →
      s.cur.stores = 0 → s.cur.tiles = 0 → s.cur.deferred = [] → a.toNat % 16 = 0 → f.base = (if l.isSome then 1 else 0) →
      (∀ o, l = some o → Claims.ObjAt s (s.w f.d) 16 .read o) →
      Claims.TlbHit s a .write pa → Claims.TlbHit s (a + 168) .write (pa + 168) → Claims.HwWords s a pa 22 →
      (∀ i < n, frameCheck s (p i) true = none ∧ spillBusy s (p i) = false) →
      (0 < n → ∀ e ∈ s.cores, ∀ y ∈ e.2.tongs, y.2.busy = false ∧ y.2.held = none) →
      ∃ (t : State) (w : ContWait), exec (.yieldc x) s = .next t ∧ t.slot s.curCore s.curSlot = {} ∧
        (∀ i < 22, t.memW (pa + 8 * i) = (Claims.contRecord u (s.npc f) link (BitVec.ofNat 16 ((s.w f.t).bits 15 0))).getD i 0) ∧
        w.record = a ∧ w.hearth = s.cur.st.hearth ∧ w.core = s.curCore ∧ w.chan = (if l.isSome then none else some (s.curCore, ch)) ∧
        (∀ o, l = some o → w.future = o ∧ (w ∈ t.contWaits ∨ w ∈ t.conts)) ∧
        (l = none → (s.chan s.curCore ch).busy = true → w ∈ t.contWaits) ∧
        (l = none → (s.chan s.curCore ch).busy = false → w ∈ t.conts)) ∧
    (∀ (x : XA) (s : State) (pr pf : Nat),
      let f := x.fld 2
      let id := s.cur.taskid
      let ctrl := s.memW (pr + 8)
      let fut := s.memW (pr + 16)
      let ends (t : State) : Prop := exec (.exit x) s = .next t ∧ t.slot s.curCore s.curSlot = {}
      let done (t : State) : Prop := t.memW (pr + 8) = (if ctrl.bits 39 36 = 2 then Claims.ctrlWith ctrl 5 else ctrl) ∧
        ∀ e ∈ t.cores, ∀ q ∈ e.2.pins, ¬(q.hearth = s.cur.st.hearth ∧ q.task = id)
      Ready (.exit x) s → f.base = 0 → f.s = 0 → f.t = 0 → (∀ d ∈ s.cur.deferred, d.count < 2) →
      (s.cur.copies ≠ 0 ∨ s.cur.tiles ≠ 0 →
        exec (.exit x) s = .next (s.modCur fun t => { t with wait := .counts (2 ^ 64) (2 ^ 64) 0 0 })) ∧
      (s.cur.copies = 0 → s.cur.tiles = 0 → s.cur.link.bits 63 61 ≠ 2 →
        (id = 0x0000FFFFFFFFFFFF → ∃ t : State, ends t) ∧
        (id ≠ 0x0000FFFFFFFFFFFF → s.cur.st.det = false → Claims.Quiet s → Claims.Sound s → Claims.Arena s →
          (∀ y ∈ s.curK.anvq, y.slot ≠ s.curSlot) → Claims.HwWords s (Claims.recordOf s id) pr 3 →
          (s.memW pr ≠ id → ∃ t : State, ends t) ∧
          (s.memW pr = id → fut = 0 → ∃ t : State, ends t ∧ done t) ∧
          (s.memW pr = id → fut ≠ 0 → fut.toNat % 16 = 0 → Claims.HwWords s fut pf 2 → Claims.Clear pf 16 pr 24 →
            ∃ t : State, ends t ∧ done t ∧
              t.memW pf = (if (s.memW pf).bits 63 62 < 2 then BitVec.ofNat 64 (2 ^ 63 + (s.memW pf).bits 47 0) else s.memW pf) ∧
              t.memW (pf + 8) = (if (s.memW pf).bits 63 62 < 2 then s.w f.d else s.memW (pf + 8))))))

/-- SEND outside deterministic mode, to a core with a free entry, of a 32-aligned record in the core's own local store, after its
release when ord is rel: one message with the target, hearth, channel, payload and the sender's clock is on its way, stores rises
by one and idv falls; with no free entry it waits. TAILW outside deterministic mode to a DRAM word by a thread of a quiet core
outside boot test with room in its log: the entry for W[d] stands in a closed segment released at pkg, or the wider sc. CHAN at S
for its own hearth, or at F, writes the entry; BLK and UNBLK set and clear bit 62 of a valid entry of the hearth; a foreign entry
traps with HEARTH, an invalid one with CHANSTATE. GOVCFG 4 sets the stages, group size and enable, GOVCFG 5 disables, GOVCFG 0 to
3 watches the descriptor whose SCTL it has written with its stage, the reserved bits 0. -/
def Obligations.MessagesAndChannels : Prop :=
  (∀ (x : XA) (s : State) (off : Nat),
      let f := x.fld 2
      let c := (s.w f.d).bits 12 0
      let r := if f.ord = 2 then (s.release s.curCore s.curSlot f.sc []).drain s.curCore 640 else s
      Ready (.send x) s → f.immU < 64 → (f.ord = 0 ∨ f.ord = 2) → (f.ord = 0 ↔ f.sc = 0) → f.cp = 0 → f.t = 0 → s.cur.st.det = false →
      coreExists c = true → (s.w f.s).toNat % 32 = 0 → s.cur.wait = .none →
      ((s.core c).msgs.length + (s.messages.filter fun m => m.core == c && !m.irq).length < 32 → Claims.RecordAt s (s.w f.s) off 4 →
        ∃ t : State, exec (.send x) s = .next t ∧ t.messages = r.messages ++ [Claims.sent s r c f.immU off] ∧
          t.cur = { r.cur with stores := r.cur.stores + 1, st := { r.cur.st with idv := false }, pc := s.npc f,
                               wait := Claims.wtWait f s }) ∧
      (32 ≤ (s.core c).msgs.length + (s.messages.filter fun m => m.core == c && !m.irq).length →
        exec (.send x) s = .next (s.modCur fun t => { t with wait := .retry }))) ∧
    (∀ (x : XA) (s : State) (pa : Nat),
      let f := x.fld 2
      let sc := max f.sc 4
      Ready (.tailw x) s → Claims.Quiet s → s.cur.st.det = false → (f.ord = 0 ∨ f.ord = 2) → (f.sc = 0 ∨ 4 ≤ f.sc) → f.sc < 7 → f.cp = 0 →
      f.base = 0 → f.t = 0 → (s.w f.s).toNat % 8 = 0 → Claims.TlbHit s (s.w f.s) .write pa → paClass pa = 0 → pa < 2 ^ 56 → pa % 8 = 0 →
      s.ownPackage pa = true → s.curK.bootTest = false → s.curK.log.newSize = none → s.curK.log.used < s.curK.log.entries →
      ∃ (t : State) (g : Segment) (e : LogEntry), exec (.tailw x) s = .next t ∧ t.curK.log.openEntries = [] ∧ t.curK.log.closed = [g] ∧
        g.entries = [e] ∧ g.sc = sc ∧ g.publish = true ∧ g.rc = s.cur.rc ∧ e.wadr = pa / 8 ∧ e.data = s.w f.d ∧ e.mask = 0xFF ∧
        t.cur.stores = s.cur.stores + (if 5 ≤ sc then 1 else 0) ∧ t.cur.st = { s.cur.st with idv := false } ∧ t.cur.pc = s.npc f ∧
        t.cur.stk = s.cur.stk) ∧
    (∀ (x : XA) (s : State),
      let f := x.fld 2
      let h := s.cur.st.hearth
      let c := (s.w f.d).bits 12 0
      let e := get 0 (s.core c).chans f.immU
      let foreign := e.bits 63 63 = 1 ∧ e.bits 59 56 ≠ h
      let wrote (i : Instr) (v : Word) : Prop := ∃ t : State, exec i s = .next t ∧ get 0 (t.core c).chans f.immU = v ∧
        (∀ n, n ≠ f.immU → get 0 (t.core c).chans n = get 0 (s.core c).chans n) ∧ (∀ k, k ≠ c → (t.core k).chans = (s.core k).chans) ∧
        t.cur = { s.cur with pc := s.npc f } ∧ t.mem = s.mem
      f.immU < 64 → f.t = 0 → coreExists c = true →
      (Ready (.chan x) s → 1 ≤ s.cur.st.priv →
        (s.cur.st.priv = 2 ∨ ((s.w f.s).bits 59 56 = h ∧ ¬foreign) → wrote (.chan x) (s.w f.s)) ∧
        (s.cur.st.priv = 1 → (s.w f.s).bits 59 56 ≠ h ∨ foreign → Traps (.chan x) s { cause := 0x0E })) ∧
      (∀ p ∈ [(Instr.blk, e ||| 0x4000000000000000), (.unblk, e &&& 0xBFFFFFFFFFFFFFFF)], Ready (p.1 x) s → f.s = 0 →
        s.cur.st.det = false →
        (e.bits 63 63 = 1 → e.bits 59 56 = h → wrote (p.1 x) p.2) ∧ (foreign → Traps (p.1 x) s { cause := 0x0E }) ∧
        (e.bits 63 63 = 0 → Traps (p.1 x) s { cause := 0x12, addr := BitVec.ofNat 64 (c + f.immU * 2 ^ 13) }))) ∧
    (∀ (x : XA) (s : State),
      let f := x.fld 2
      let h := s.cur.st.hearth
      let v := s.w f.s
      let gov (t : State) : Governor := (t.cluster (clusterOf s.curCore)).gov
      Ready (.govcfg x) s → 1 ≤ s.cur.st.priv → f.d = 0 → f.t = 0 →
      ((gov s).enabled = true ∧ (gov s).hearth ≠ h → f.base < 4 → Traps (.govcfg x) s { cause := 0x0E }) ∧
      ((gov s).enabled = false ∨ (gov s).hearth = h →
        (f.base = 4 → v.bits 17 16 ≠ 3 → ∃ t : State, exec (.govcfg x) s = .next t ∧ (gov t).enabled = (v.bits 18 18 == 1) ∧
          (gov t).g = 2 ^ v.bits 17 16 ∧ (∀ j < 8, get 0 (gov t).assign j = v.bits (2 * j + 1) (2 * j)) ∧ (gov t).hearth = h ∧
          (gov t).hiRun = [] ∧ (gov t).loRun = [] ∧ t.cur = { s.cur with pc := s.npc f }) ∧
        (f.base = 5 → f.s = 0 → ∃ t : State, exec (.govcfg x) s = .next t ∧ (gov t).enabled = false ∧ (gov t).rings = [] ∧
          t.cur = { s.cur with pc := s.npc f }) ∧
        (∀ (pa : Nat) (q : Word) (u : State), f.base < 4 → v.toNat % 64 = 0 → Claims.TlbHit s (v + 8) .write pa →
          s.hwReadWords h (v + 8) 1 = .ok [q] →
          s.hwWords h (v + 8) [q &&& 0xFFFC1F ||| BitVec.ofNat 64 (f.base * 2 ^ 8)] = .ok u →
          ∃ t : State, exec (.govcfg x) s = .next t ∧ get? (gov t).rings f.base = some v ∧ t.cur.pc = s.npc f ∧ t.mem = u.mem)))

namespace Sys2Proof.Claims

open Sys2Proof.Machine

/-! ## The events of the device -/

/-- The later of two counters by serial-number arithmetic modulo 2^32 (R135). -/
def later (a b : BitVec 32) : BitVec 32 := if (a - b).toNat < 2 ^ 31 then a else b
/-- A log tail is at or past another, by serial-number arithmetic modulo 2^48 (R127). -/
abbrev TailGe (a b : BitVec 48) : Prop := (a - b).toNat < 2 ^ 47
/-- A whole word at address 8 * w, data v, as a log entry writes it to DRAM of the package (R124). -/
abbrev WholeWord (s : State) (e : LogEntry) (pa : Nat) (v : Word) : Prop :=
  pa = 8 * e.wadr ∧ pa < 2 ^ 56 ∧ paClass pa = 0 ∧ s.ownPackage pa = true ∧ e.mask = 0xFF ∧ e.data = v

end Sys2Proof.Claims

/-- On cores and clusters whose clocks run (R416): when the only closed segment of a core is a release wider than core scope that
waits for no earlier access and publishes no earlier tail, RELEASE_STAMP raises its die's clock to the maximum with the release's
clock and counts one more, publishes the tail below pod scope unless a later one stands, raises the releasing thread's clock to
the stamp and ships every entry in a piece with that stamp; memory is untouched. BEACON carries the die's counter, or one less
than the stamp of the one piece not yet delivered; BEACON_RECEIPT raises the home's record of that die. PIECE_ARRIVAL marks the
piece, but not before an earlier one of its die for that home; PIECE_APPLY of a piece of one whole word outside deterministic
mode, whose home has power and has heard of the other dies, writes it at its address and nothing else of DRAM; PIECE_ACK of the
last piece completes the release, publishing it at pod and wider. CLUSTER_UNIT_WRITEBACK takes the word out of the unit into a
piece. LOGSIZE_WRITE of a core with an empty log outside boot test sets the size of its ring, and TAIL goes on. That an event
which cannot take place leaves the state is the model's choice (log 48). -/
def Obligations.ReleaseEvents : Prop :=
  (∀ (c : Nat) (s : State) (g : Segment),
      let d := c / 2048
      let old := s.die d
      let m : Clock := old.vc.max g.rc
      let v : Clock := m.setComp d (old.vc.comp d + 1)
      (s.core c).pw.paused = false → (s.core c).log.closed = [g] → g.sc ≠ 1 → g.afterAcks = false → g.wb = false →
      Claims.TailGe (BitVec.ofNat 48 g.tail) (get 0 (s.core c).log.pubtail g.hearth) →
      ∃ t : State, exec (.releaseStamp c) s = .next t ∧ (t.die d).vc = v ∧ (∀ e, e ≠ d → t.die e = s.die e) ∧
        (t.core c).log.closed = [] ∧ t.mem = s.mem ∧
        (g.publish = true → g.sc < 5 → get 0 (t.core c).log.pubtail g.hearth = BitVec.ofNat 48 g.tail) ∧
        (∀ n, g.slot = some n → (t.slot c n).rc = (s.slot c n).rc.max v) ∧
        ∀ e ∈ g.entries, ∃ p ∈ t.pieces, p.stamp = v ∧ p.core = c ∧ p.home = s.pieceHome e.wadr ∧ e ∈ p.entries) ∧
    (∀ (e : Nat) (s : State), e < 4 →
      (s.pieces = [] → ∃ t : State, exec (.beacon e) s = .next t ∧ get? t.beacons e = some ((s.die e).vc.comp e) ∧ t.mem = s.mem) ∧
      (∀ p : Piece, s.pieces = [p] → p.die = e → p.home < 640 → p.arrived = false →
        ∃ t : State, exec (.beacon e) s = .next t ∧ get? t.beacons e = some (p.stamp.comp e - 1) ∧ t.mem = s.mem)) ∧
    (∀ (hm e : Nat) (s : State) (b : BitVec 32), hm < 640 → e < 4 → get? s.beacons e = some b →
      ∃ t : State, exec (.beaconReceipt hm e) s = .next t ∧ (t.home hm).kh.comp e = Claims.later b ((s.home hm).kh.comp e) ∧
        (∀ i, i < 4 → i ≠ e → (t.home hm).kh.comp i = (s.home hm).kh.comp i) ∧ (∀ i, i ≠ hm → t.home i = s.home i) ∧ t.mem = s.mem) ∧
    (∀ (s : State) (p : Piece), s.pieces = [p] → p.arrived = false → ∃ t : State, exec (.pieceArrival p.id) s = .next t ∧ t.mem = s.mem ∧
      t.homes = s.homes ∧ ∃ n, t.pieces = [{ p with arrived := true, arr := n }]) ∧
    (∀ (s : State) (x p : Piece), s.pieces = [x, p] → x.id ≠ p.id → p.home < 640 → x.home = p.home → x.die = p.die → x.arrived = false →
      2 ^ 31 ≤ (x.stamp.comp p.die - p.stamp.comp p.die).toNat → exec (.pieceArrival p.id) s = .next s) ∧
    (∀ (s : State) (p : Piece) (e : LogEntry) (pa : Nat) (v : Word), s.pieces = [p] → p.arrived = true → p.applied = false →
      p.home < 640 → (s.die (p.home / 160)).powerLost = false → e.det = false → (∀ i < 4, i ≠ p.die → ((s.home p.home).kh.comp i - p.stamp.comp i).toNat < 2 ^ 31) → p.entries = [e] → Claims.WholeWord s e pa v →
      ∃ t : State, exec (.pieceApply p.id) s = .next t ∧ t.memW pa = v ∧ Claims.DramBut s t [(pa, 8)] ∧
        t.pieces = [{ p with applied := true }]) ∧
    (∀ (s : State) (p : Piece) (r : Release), s.pieces = [p] → p.applied = true → (s.core p.core).pw.paused = false → s.releases = [r] → r.id = p.rel →
      Claims.TailGe (BitVec.ofNat 48 r.tail) (get 0 (s.core r.core).log.pubtail r.hearth) →
      ∃ t : State, exec (.pieceAck p.id) s = .next t ∧ t.pieces = [] ∧ t.releases = [] ∧ t.mem = s.mem ∧
        (r.publish = true → 5 ≤ r.sc → get 0 (t.core r.core).log.pubtail r.hearth = BitVec.ofNat 48 r.tail) ∧
        ∀ n, r.slot = some n → (t.slot r.core n).stores = (s.slot r.core n).stores - (if r.counted then 1 else 0)) ∧
    (∀ (cl w : Nat) (s : State) (v : Word) (h : Nat), s.clusterStill cl = false → get? (s.cluster cl).cu w = some (v, h) →
      ∃ t : State, exec (.clusterUnitWriteback cl w) s = .next t ∧ get? (t.cluster cl).cu w = none ∧ t.mem = s.mem ∧
        ∃ p ∈ t.pieces, p.hearth = h ∧ p.home = s.pieceHome w ∧ ∃ e ∈ p.entries, e.wadr = w ∧ e.data = v ∧ e.mask = 0xFF) ∧
    (∀ (c z : Nat) (s : State), (s.core c).log.newSize = some z → (s.core c).log.openEntries = [] → (s.core c).log.closed = [] →
      s.pieces = [] → s.releases = [] → (s.core c).pw.paused = false → (s.core c).bootTest = false → s.stuck = [] →
      ∃ t : State, exec (.logsizeWrite c) s = .next t ∧ (t.core c).log.size = z ∧ (t.core c).log.newSize = none ∧
        (t.core c).log.tail = (s.core c).log.tail ∧
        ∀ off, 2 ^ 18 - 2 ^ (14 + (s.core c).log.size % 4) ≤ off → off < 2 ^ 18 - 2 ^ (14 + z % 4) → t.byte (lsPA s c off) = 0)

namespace Sys2Proof.Claims

open Sys2Proof.Machine

/-- A request of a thread in slot 0 to 15 stands alone: no other request and no reply is in flight, and it is not held for a stamp. -/
abbrev Alone (s : State) (r : Req) : Prop := s.reqs = [r] ∧ s.replies = [] ∧ r.hold = false ∧ r.slot < 16
/-- Its reply stands alone, and the clock of its core runs (R416). -/
abbrev Answered (s : State) (p : Reply) : Prop :=
  s.reqs = [] ∧ s.replies = [p] ∧ p.req.slot < 16 ∧ (s.core p.req.core).pw.paused = false
/-- A home serves a request with clock rc for DRAM of the package at pa: no word of the package is poisoned or in error, its die has power, and
its applied clock is at or past rc (R133, R135). -/
abbrev HomeServes (s : State) (rc : Clock) (pa : Nat) : Prop :=
  paClass pa = 0 ∧ s.ownPackage pa = true ∧ Sound s ∧ s.homeReady (homeOf pa) rc = true
/-- A bank of another core takes a write of the request (R98, R146, R149): its core exists, is outside boot test, its die has power, its
hearth owns the bank, no copy covers the bytes, no cell is defective and no frame is on its way before it. -/
abbrev BankTakes (s : State) (r : Req) : Prop :=
  let c := paCore r.pa
  paClass r.pa = 1 ∧ s.ownPackage r.pa = true ∧ r.hold = false ∧ c ≠ r.core ∧ (s.die (paDie r.pa)).powerLost = false ∧
    (s.core c).bootTest = false ∧ (s.core c).lsRefusedN (paOff r.pa) r.size r.hearth r.priv true = false ∧
    s.lsStalled c (paOff r.pa) r.size = false ∧ s.stuck = [] ∧ s.frames = []
/-- The unit answers the request with a value. -/
def AnsweredWith (t : State) (r : Req) (v : Nat) : Prop :=
  t.reqs = [] ∧ ∃ clk, t.replies = [{ req := r, value := v, clk := clk, cause := 0 }]

end Sys2Proof.Claims

/-- A request that stands alone in flight: HOME_ACCESS answers a load of unpoisoned DRAM, at a home at or past its clock, with the
bytes there, and a WATCH at once when the word differs or 256 watches stand, and otherwise keeps the watch. REMOTE_STORE_ARRIVAL
writes a store's bytes at another core's bank and nothing else, or performs an AMO there and answers with the old value;
PUT_LANDING writes its bytes and raises the mailbox counter, which saturates. ATOMIC_EXECUTE performs an AMO of die scope or wider
at the home and answers with the old value; DET_UPDATE_ARRIVAL keeps it as an update of the phase, an FP one in buffer order. On a
core whose clock runs LOAD_REPLY writes the register, extended, and takes one off loads; STORE_ACK takes one off stores, or on
failure leaves a deferred fault, with the address of the byte that the reply names and the cycle of the instruction, and the
count. -/
def Obligations.RequestEvents : Prop :=
  (∀ (s : State) (r : Req), Claims.Alone s r → Claims.HomeServes s r.rc r.pa →
      (∀ a, r.op = .load a → r.det = false → r.fwd = [] → ∃ t : State, exec (.homeAccess r.id) s = .next t ∧
        Claims.AnsweredWith t r (s.memNat r.pa r.size) ∧ t.mem = s.mem) ∧
      (∀ v npc, r.op = .watch v npc → ∃ t : State, exec (.homeAccess r.id) s = .next t ∧ t.mem = s.mem ∧
        let hm := homeOf r.pa
        (s.memW r.pa ≠ v ∨ 256 ≤ (s.home hm).watches.length → Claims.AnsweredWith t r 0) ∧
        (s.memW r.pa = v → (s.home hm).watches.length < 256 → t.reqs = [] ∧ t.replies = [] ∧
          (t.home hm).watches = (s.home hm).watches ++ [{ pa := r.pa, core := r.core, slot := r.slot, task := r.task }]))) ∧
    (∀ (s : State) (r : Req) (c off : Nat), Claims.Alone s r → Claims.BankTakes s r → r.pa = lsPA s c off → coreExists c = true →
      s.hub.package < 64 → off + r.size ≤ 2 ^ 18 → r.stamp = none →
      (∀ bs, r.op = .store bs → bs.length = r.size → ∃ t : State, exec (.remoteStoreArrival r.id) s = .next t ∧
        t.bytes r.pa r.size = bs ∧ Claims.MemoryBut s t r.pa r.size ∧ Claims.AnsweredWith t r 0) ∧
      (∀ op v, r.op = .amo op v → op ≤ 10 → (r.size = 4 ∨ r.size = 8) → ∃ t : State, exec (.remoteStoreArrival r.id) s = .next t ∧
        t.memNat r.pa r.size = Claims.amoNew op r.size (s.memNat r.pa r.size) (v.toNat % 2 ^ (8 * r.size)) ∧
        Claims.MemoryBut s t r.pa r.size ∧ Claims.AnsweredWith t r (s.memNat r.pa r.size)) ∧
      (∀ bs tag, r.op = .put bs tag → bs.length = r.size → (∀ n < 16, ∀ i m npc, (s.slot c n).wait ≠ .mail i m npc) →
        ∃ t : State, exec (.putLanding r.id) s = .next t ∧ t.bytes r.pa r.size = bs ∧ Claims.MemoryBut s t r.pa r.size ∧
          Claims.AnsweredWith t r 0 ∧
          let old := (get {} (s.core c).mail (16 * r.hearth + tag)).value
          (get {} (t.core c).mail (16 * r.hearth + tag)).value = if old = 0xFFFFFFFF then old else old + 1)) ∧
    (∀ (s : State) (r : Req) (op : Nat) (v : Word), Claims.Alone s r → Claims.HomeServes s r.rc r.pa → s.pieces = [] → r.op = .amo op v →
      op ≤ 10 → (r.size = 4 ∨ r.size = 8) → r.pa % r.size = 0 → r.pa < 2 ^ 56 →
      (3 ≤ r.sc → r.det = false → ∃ t : State, exec (.atomicExecute r.id) s = .next t ∧
        t.memNat r.pa r.size = Claims.amoNew op r.size (s.memNat r.pa r.size) (v.toNat % 2 ^ (8 * r.size)) ∧
        Claims.DramBut s t [(r.pa, r.size)] ∧ Claims.AnsweredWith t r (s.memNat r.pa r.size)) ∧
      (2 ≤ r.sc → r.det = true → r.dst = .none → (s.hearth r.hearth).det.on = true → (s.hearth r.hearth).det.pieces = [] →
        let u : DetUpd := { pa := r.pa, size := r.size, op := op, value := v, task := r.task, seq := r.seq, hearth := r.hearth }
        let hm := homeOf r.pa
        (s.home hm).holding.length < 16 → ∃ t : State, exec (.detUpdateArrival r.id) s = .next t ∧ Claims.AnsweredWith t r 0 ∧
          t.mem = s.mem ∧
          (op < 8 → (t.hearth r.hearth).det.accs = (s.hearth r.hearth).det.accs ++ [u]) ∧
          (8 ≤ op → (t.home hm).holding = (s.home hm).holding.takeWhile (·.before u) ++ u :: (s.home hm).holding.dropWhile (·.before u)))) ∧
    (∀ (s : State) (p : Reply) (e sz : Nat) (a : Bool), Claims.Answered s p → p.cause = 0 → p.req.op = .load a → p.req.dst = .w e sz →
      p.req.xs = none →
      ∃ t : State, exec (.loadReply p.req.id) s = .next t ∧ t.replies = [] ∧ t.mem = s.mem ∧
        let old := s.slot p.req.core p.req.slot
        let new := t.slot p.req.core p.req.slot
        let x := BitVec.ofNat (8 * szBytes sz) p.value
        get 0 new.stk e = (if 4 ≤ sz then x.signExtend 64 else x.setWidth 64) ∧
        (∀ i, i ≠ e → get 0 new.stk i = get 0 old.stk i) ∧ new.loads = old.loads - 1 ∧ new.pendW = old.pendW.erase e ∧ new.pc = old.pc) ∧
    (∀ (s : State) (p : Reply), Claims.Answered s p → p.req.dst = .none → (∀ v npc, p.req.op ≠ .watch v npc) → p.req.xs = none →
      ∃ t : State, exec (.storeAck p.req.id) s = .next t ∧ t.replies = [] ∧ t.mem = s.mem ∧
        let old := s.slot p.req.core p.req.slot
        let new := t.slot p.req.core p.req.slot
        new.pc = old.pc ∧ new.stk = old.stk ∧
        (p.cause = 0 → new.stores = old.stores - 1 ∧ new.deferred = old.deferred) ∧
        (p.cause ≠ 0 → new.stores = old.stores ∧
          new.deferred = old.deferred ++
            [{ count := 1, cause := p.cause, addr := p.req.va + BitVec.ofNat 64 p.value, issued := p.req.issued }]))

/-- WALK_COMPLETE of the die's one walk: a leaf ends it, the die's TLB serves the address with that leaf, and it answers exactly
the misses of its page; a fault ends it, leaves the TLB and is met by the misses that joined it; one whose tables' homes are
behind its clock goes on. On a core whose clock runs, SLOT_FILL gives the core's entries of the slot that have no base the word
there, for a deterministic task that of the start of its phase, outside a frozen section, and leaves other entries. EXPERIENCE_ADD
of a branch add that fits adds both counts and shifts the history, and the slot's low byte and the rest of DRAM stay. STREAM_FETCH
of a read stream brings the next vector from the own local store. BARRIER_ARRIVAL counts an arrival, and the last flips the phase
and wakes; one for another hearth's object changes nothing. SLEEP_EXPIRY at or past its cycle lets the thread go on, and before it
changes nothing. That an event which cannot take place leaves the state, and the word that a deterministic task reads, follow log
48 and log 132. -/
def Obligations.CoreEvents : Prop :=
  (∀ (e : Nat) (s : State) (w : Walk), (s.die e).walks = [w] → s.latent = [] →
      (∀ l, s.walk (some w.rc) w.hearth w.aspace w.va = .leaf l → ∃ t : State, exec (.walkComplete e w.id) s = .next t ∧ (t.die e).walks = [] ∧
        t.mem = s.mem ∧ ∃ x ∈ (t.die e).tlb, x.leaf = l ∧
          x.serves w.hearth (w.aspace.bits 63 56) (w.va.toNat % 2 ^ 57) = true ∧
          (t.die e).misses = (s.die e).misses.map fun m =>
            if m.cause = none ∧ m.leaf = none ∧ x.serves m.hearth (m.aspace.bits 63 56) (m.va.toNat % 2 ^ 57) = true then
              { m with leaf := some l } else m) ∧
      (∀ c, s.walk (some w.rc) w.hearth w.aspace w.va = .fault c → ∃ t : State, exec (.walkComplete e w.id) s = .next t ∧ (t.die e).walks = [] ∧
        (t.die e).tlb = (s.die e).tlb ∧ t.mem = s.mem ∧ ∀ m ∈ (s.die e).misses, m.cause = none → m.leaf = none → m.pre = false → m.hearth = w.hearth →
          m.aspace = w.aspace →
          m.va.bits 56 21 = w.va.bits 56 21 → (∀ i < 4, (w.rc.comp i - m.rc.comp i).toNat < 2 ^ 31) →
          { m with cause := some c } ∈ (t.die e).misses) ∧
      (s.walk (some w.rc) w.hearth w.aspace w.va = .wait → exec (.walkComplete e w.id) s = .next s)) ∧
    (∀ (c h i : Nat) (s : State) (e : XEntry), e ∈ (s.core c).xcache → Claims.Sound s → s.xadds = [] → (s.core c).pw.paused = false →
      ∃ t : State, exec (.slotFill c h i) s = .next t ∧ t.mem = s.mem ∧ (e.hearth ≠ h ∨ e.idx ≠ i → e ∈ (t.core c).xcache) ∧
        ∀ pa xa, e.hearth = h → e.idx = i → e.base = none → xa ≠ 2 → s.entryPlace c e = some (pa, xa) →
          { e with
            base := some (if e.task = none then s.memW pa else get (s.memW pa) (s.hearth h).det.snap (pa / 8))
            chk := none } ∈ (t.core c).xcache) ∧
    (∀ (s : State) (d : XAdd), s.xadds = [d] → d.task = none → d.clear = false → d.frozen = false → d.kind = 1 → Claims.Sound s →
      (s.die (homeOf d.pa / 160)).powerLost = false → paClass d.pa = 0 → d.pa < 2 ^ 56 → s.ownPackage d.pa = true →
      let w := s.memW d.pa
      w.bits 3 3 = 0 → w.bits 7 4 = 1 → w.bits 63 40 + d.c1 < 2 ^ 24 → w.bits 39 16 + d.c2 < 2 ^ 24 →
      ∃ t : State, exec (.experienceAdd d.id) s = .next t ∧ t.xadds = [] ∧ (t.memW d.pa).bits 63 40 = w.bits 63 40 + d.c1 ∧
        (t.memW d.pa).bits 39 16 = w.bits 39 16 + d.c2 ∧ (t.memW d.pa).bits 15 8 = (w.bits 15 8 * 2 ^ min d.k 8 + d.hist) % 256 ∧
        (t.memW d.pa).bits 7 0 = w.bits 7 0 ∧ Claims.DramBut s t [(d.pa, 8)]) ∧
    (∀ (c n r : Nat) (s : State) (b : Stream) (o : Nat → Nat),
      let u : State := { s with curCore := c, curSlot := n }
      let n := etBytes b.et
      get? u.cur.streams r = some b → b.write = false → b.fetched = [] → b.bad = [] → b.xs = none → 1 ≤ b.lead → b.next < b.count → b.et < 15 →
      u.unstamped u.curCore u.curSlot = false → (s.core c).pw.paused = false →
      (∀ l < etCount b.et, b.base + BitVec.ofNat 64 b.next * b.stride + BitVec.ofNat 64 (if b.et = 5 then l / 2 else l * n) =
        windowVA c (o l) ∧ Claims.OwnLS u (o l) n false) →
      ∃ (t : State) (x : List (BitVec 32)), exec (.streamFetch u.curCore u.curSlot r) s = .next t ∧ t.mem = s.mem ∧
        get? t.cur.streams r = some { b with fetched := [(b.next, x)] } ∧
        ∀ l < etCount b.et, elem b.et x l = nibble b.et l (Claims.ownNat u (o l) n)) ∧
    (∀ (b : BarId) (h : Nat) (rec : BitVec 20) (s : State),
      let x := s.bar b
      (x.hearth ≠ h → exec (.barrierArrival b h false rec) s = .next s) ∧
      (x.hearth = h → x.poison = false → x.expected ≠ 0 → rec.getLsbD 11 = false →
        ∃ t : State, exec (.barrierArrival b h false rec) s = .next t ∧ t.mem = s.mem ∧
          (x.arrived + 1 ≠ x.expected → t.bar b = { x with arrived := x.arrived + 1, now := (t.bar b).now }) ∧
          (x.arrived + 1 = x.expected → (t.bar b).phase = !x.phase ∧ (t.bar b).arrived = 0 ∧ (t.bar b).expected = x.nexp ∧
            (t.bar b).nexp = x.nexp ∧ (t.bar b).poison = false))) ∧
    (∀ (c n till : Nat) (npc : Word) (s : State), (s.slot c n).wait = .sleep till npc →
      (till ≤ (s.core c).cycle.toNat → (s.core c).pw.paused = false → ∃ t : State, exec (.sleepExpiry c n) s = .next t ∧ t.mem = s.mem ∧
        t.slot c n = { s.slot c n with wait := .none, pc := npc }) ∧
      ((s.core c).cycle.toNat < till → exec (.sleepExpiry c n) s = .next s))

namespace Sys2Proof.Claims

open Sys2Proof.Machine

/-- The core's run queues hold nothing that can be read: no RQBASE has a size of R54. -/
def NoRunQueue (s : State) : Prop := ∀ h, (s.hearth h).rqbase.bits 4 0 < 12 ∨ 24 < (s.hearth h).rqbase.bits 4 0
/-- Slot n is the lowest free slot of core c (R74). -/
abbrev LowestFree (s : State) (c n : Nat) : Prop := n < 16 ∧ (s.slot c n).busy = false ∧ ∀ i < n, (s.slot c i).busy = true
/-- The thread of a frame in its slot (R46, R47): the registers that its STATUS marks live hold the billet's values, the others zero. Its
reserved bits of LINK read 0 (R9, R44), and a privilege of 3, which no STATUS holds, is the model's U (log 123). -/
def HoldsFrame (t : Slot) (x : Frame) : Prop :=
  t.busy = true ∧ t.pc = x.billet.pc ∧ t.taskid = x.billet.taskid ∧ t.link = x.billet.link &&& 0xE1FFFFFFFFFFFFFF ∧ t.key = x.key ∧
    t.ctr = x.ctr ∧ t.barlast = x.barlast ∧ t.st.hearth = x.hearth ∧
    t.st.priv = (if x.billet.status.bits 21 20 = 3 then 0 else x.billet.status.bits 21 20) ∧ t.st.resid = 0 ∧ t.wait = .none ∧
    ∀ i < 16, t.w i = if x.billet.status.getLsbD i then x.billet.w.getD i 0 else 0
/-- Element i of a list is gone. -/
def Without {α : Type} (l m : List α) (i : Nat) : Prop := m = l.take i ++ l.drop (i + 1)

end Sys2Proof.Claims

/-- On cores whose clocks run (R416) and which hear (not in boot test, without power or failed): where a core serves, with no
frame, continuation or task to run and no piece in flight, DISPATCH starts the one queued message of an open channel in the lowest
free slot: w0 to w3 hold the payload and the PC is the channel's handler. FRAME_ARRIVAL of an eviction frame with no request
before it places its thread in the lowest free slot; FRAME_REFUSED puts a refused frame into the empty departure buffer, or back
into its own, and DEPARTURE_RESEND sends it again and keeps it there. EVICT_WAITER of a waiter whose resident frames can be
spilled and whose frame the run queue takes frees the slot and its watches. FOOTPRINT_LANDED copies and pins the range that the
dispatch read. MESSAGE_ARRIVAL queues a message of an open channel, or gives its sender a deferred fault with the cycle of its
SEND. CONTINUATION_RESUME hands the record to its core. GOVERNOR_CHECK moves g cores at the fourth check over hi. PREEMPT of a
thread that can be taken frees its slot. QUARANTINE marks the core, which dispatches nothing more. Log 48, log 74 and log 110
state the model's choices here. -/
def Obligations.SchedulerEvents : Prop :=
  (∀ (c n p : Nat) (s : State) (m : Msg), s.coreServes c = true → Claims.LowestFree s c n → Claims.NoRunQueue s →
      s.pieces = [] → (s.core c).conts = [] → (∀ h, (s.hearth h).qtbase = 0) → (s.core c).msgs = [m] → m.hearth < 16 → m.irq = false →
      (s.hearth m.hearth).suspended = false →
      let e := get 0 (s.core c).chans m.chan
      e.bits 63 63 = 1 → e.bits 62 62 = 0 → e.bits 59 56 = m.hearth → e.bits 61 60 = p →
      ∃ t : State, exec (.dispatch c) s = .next t ∧ (t.core c).msgs = [] ∧ t.mem = s.mem ∧
        let x := t.slot c n
        x.busy = true ∧ x.pc = (BitVec.ofNat 57 (e.bits 55 0 * 2)).signExtend 64 ∧ x.st.hearth = m.hearth ∧ x.st.priv = 0 ∧
          x.st.live = 0x000F ∧ (∀ i < 4, x.w i = m.payload.getD i 0) ∧ x.taskid = 0x0000FFFFFFFFFFFF ∧
          x.rc = (s.core c).resume.max m.rc) ∧
    (∀ (i n : Nat) (s : State) (x : Flight), s.frames[i]? = some x → x.frame.kind = 2 → x.dead = false → s.coreServes x.frame.target = true → s.reqs = [] →
      Claims.LowestFree s x.frame.target n → Claims.NoRunQueue s → (s.hearth x.frame.hearth).suspended = false →
      ∃ t : State, exec (.frameArrival i) s = .next t ∧ Claims.HoldsFrame (t.slot x.frame.target n) x.frame ∧
        Claims.Without s.frames t.frames i) ∧
    (∀ (i : Nat) (s : State) (x : Flight), s.refused[i]? = some x → x.dead = false → (s.core x.src).pw.paused = false →
      (x.resent = false → get? (s.core x.src).departing x.frame.hearth = none →
        ∃ t : State, exec (.frameRefused i) s = .next t ∧ get? (t.core x.src).departing x.frame.hearth = some (x.frame, x.kept, false) ∧
          Claims.Without s.refused t.refused i ∧ t.mem = s.mem) ∧
      (∀ f q, x.resent = true → get? (s.core x.src).departing x.frame.hearth = some (f, q, true) →
        ∃ t : State, exec (.frameRefused i) s = .next t ∧ get? (t.core x.src).departing x.frame.hearth = some (f, q, false) ∧
          Claims.Without s.refused t.refused i ∧ t.mem = s.mem)) ∧
    (∀ (c h : Nat) (s : State) (x : Frame) (q : Kept), get? (s.core c).departing h = some (x, q, false) → (s.core c).pw.paused = false →
      ∃ t : State, exec (.departureResend c h) s = .next t ∧
        t.frames = s.frames ++ [{ frame := x, src := c, kept := q, resent := true }] ∧
        get? (t.core c).departing h = some (x, q, true) ∧ t.mem = s.mem) ∧
    (∀ (c n : Nat) (s v b u : State),
      let a := v.leave c n
      evictable (s.slot c n) = true → (s.core c).pw.paused = false → s.spillSlot c n = (none, v) →
      a.casThread c (a.slot c n).st.hearth (a.slot c n).taskid 2 4 = .ok b →
      b.runAppend c (b.frameOfSlot c n 2 c 0) (a.slot c n).kept = .ok u →
      ∃ t : State, exec (.evictWaiter c n) s = .next t ∧ t.slot c n = {} ∧
        ∀ e ∈ t.homes, ∀ w ∈ e.2.watches, w.core ≠ c ∨ w.slot ≠ n) ∧
    (∀ (c n : Nat) (s u : State) (r : Range),
      let t := s.slot c n
      let q : State := { s with curCore := c }
      t.wait = .footprint → (s.core c).pw.paused = false → t.fetch = [r] → r.pinned (s.core c) = false →
      q.fetchRange c t.st.hearth r = .ok u →
      ∃ t' : State, exec (.footprintLanded c n) s = .next t' ∧ t'.mem = u.mem ∧ (t'.slot c n).wait = .none ∧
        { hearth := t.st.hearth, task := t.taskid, lo := r.off, len := r.len : Pin } ∈ (t'.core c).pins) ∧
    (∀ (i c n : Nat) (s : State) (m : Msg), s.messages[i]? = some m → m.src = some (c, n) →
      s.deaf m.core = false → (s.core c).pw.paused = false →
      let e := get 0 (s.core m.core).chans m.chan
      (e.bits 63 63 = 1 → e.bits 59 56 = m.hearth → (s.core m.core).msgs.length < 32 →
        ∃ t : State, exec (.messageArrival i) s = .next t ∧ (t.core m.core).msgs = (s.core m.core).msgs ++ [m] ∧
          Claims.Without s.messages t.messages i ∧ (t.slot c n).stores = (s.slot c n).stores - 1 ∧ t.mem = s.mem) ∧
      (e.bits 63 63 = 0 ∨ e.bits 59 56 ≠ m.hearth →
        ∃ t : State, exec (.messageArrival i) s = .next t ∧ (t.core m.core).msgs = (s.core m.core).msgs ∧
          Claims.Without s.messages t.messages i ∧ (t.slot c n).stores = (s.slot c n).stores ∧ t.mem = s.mem ∧
          (t.slot c n).deferred = (s.slot c n).deferred ++
            [{ count := 1, cause := 0x12, addr := BitVec.ofNat 64 (m.core + m.chan * 2 ^ 13), issued := m.issued }])) ∧
    (∀ (i : Nat) (s : State) (w : ContWait), s.conts[i]? = some w → (s.core w.core).quarantined = false → s.deaf w.core = false →
      ∃ t : State, exec (.continuationResume i) s = .next t ∧ Claims.Without s.conts t.conts i ∧ t.mem = s.mem ∧
        ∃ a, (t.core w.core).conts = (s.core w.core).conts ++ [(a * 16 + w.hearth, w.record, w.stamp)]) ∧
    (∀ (cl i j x y hi hi' lo lo' : Nat) (a b : Word) (s : State),
      let g := (s.cluster cl).gov
      let o : State := { s with curCore := 8 * cl }
      let serving := (List.range 8).filter fun k => get 0 g.assign k == j
      g.enabled = true → g.rings = [(i, a), (j, b)] → i ≠ j → o.occupancy g.hearth a = some (x, hi, lo) →
      o.occupancy g.hearth b = some (y, hi', lo') → hi ≤ x → y < x → x ≤ 64 → get 0 g.hiRun i = 3 → g.g + 1 ≤ serving.length →
      ∃ t : State, exec (.governorCheck cl) s = .next t ∧ t.mem = s.mem ∧ (t.cluster cl).gov.hiRun = [] ∧
        ∀ k < 8, get 0 (t.cluster cl).gov.assign k = if k ∈ serving.take g.g then i else get 0 g.assign k) ∧
    (∀ (c n : Nat) (s : State), (s.core c).pw.paused = false → (s.core c).seqr = none → s.takeable c n = true →
      (({ s with curCore := c, curSlot := n } : State).takeThread c n).1 = true →
      ∃ t : State, exec (.preempt c n) s = .next t ∧ t.slot c n = {}) ∧
    (∀ (c k : Nat) (s : State), coreExists c = true → ∃ t : State, exec (.quarantine c k) s = .next t ∧
      (t.core c).quarantined = true ∧ exec (.dispatch c) t = .next t)

namespace Sys2Proof.Claims

open Sys2Proof.Machine

/-- n bytes at offset off of core c's own local store, aligned to 64, which nothing refuses to a channel's issuer or delays but the
channel itself (R98, R149). -/
abbrev ChanLS (s : State) (c ch : Nat) (x : Channel) (off n : Nat) (write : Bool) : Prop :=
  off % 64 = 0 ∧ off + n ≤ 2 ^ 18 ∧ (s.core c).lsRefusedN off n x.hearth x.priv write = false ∧
    s.lsStalledBut (some (c, ch)) c off n = false
/-- A plain copy within the core's own local store that has moved nothing, of 1 to 64 bytes, whose thread is in its slot (R357); no cell is defective
and no line of DRAM is in error. -/
abbrev ShortCopy (s : State) (c : Nat) (x : Channel) (src dst : Nat) : Prop :=
  coreExists c = true ∧ s.hub.package < 64 ∧ x.busy = true ∧ x.src = windowVA c src ∧ x.dst = windowVA c dst ∧ 1 ≤ x.len ∧ x.len ≤ 64 ∧
    x.counts = [1, 1, 1] ∧ x.strided = false ∧ x.run = 0 ∧ x.off = 0 ∧ x.buf = [] ∧ x.net = none ∧ x.ordered = false ∧ x.away = none ∧
    (s.die (c / 2048)).powerLost = false ∧ (s.core c).pw.paused = false ∧ s.stuck = [] ∧ s.latent = []
/-- Command k runs on the anvil of the cluster of core c, alone in the core's queue, for a slot that no abort waits for, and both clocks run (R343,
R416). -/
abbrev Running (s : State) (c : Nat) (k : AnvCmd) : Prop :=
  (s.cluster (c / 8)).running = some c ∧ (s.core c).anvq = [k] ∧ k.started = true ∧ k.held = false ∧ k.bind = none ∧
    (s.slot c k.slot).abort = none ∧ s.clusterStill (c / 8) = false ∧ (s.core c).pw.paused = false

end Sys2Proof.Claims

/-- Where the clocks of the core and its cluster run (R416), and the die has power: TONGS_TRANSFER of a short copy in the own
local store, in its channel's turn, writes the source's bytes at the destination and nothing else, and moves the watermark;
COPY_COMPLETE of a finished copy without binding to local store frees the channel and takes one off copies; COPY_FAULT of one
whose source bank is refused holds the channel with the address and leaves a deferred fault. ANVIL_COMMAND_START starts the first
queued command of the one core that has any. ANVIL_COMMAND_COMPLETE of a TZERO leaves a live tile of zeros, an empty queue and one
less in tiles. ANVIL_FETCH_FAULT holds the slot's commands and leaves the trap to the slot, no tile changed. SEQUENCER_QUEUE
queues the command of its indices and goes to the next, or ends. ANVIL_WATCHDOG removes the slot's commands. Log 30 and log 57
state the model's choices here. -/
def Obligations.EngineEvents : Prop :=
  (∀ (c ch src dst : Nat) (s : State),
      let x := s.chan c ch
      Claims.ShortCopy s c x src dst → Claims.ChanLS s c ch x src x.len false → Claims.ChanLS s c ch x dst x.len true → s.nextChannel c = some ch →
      ∃ t : State, exec (.tongsTransfer c ch) s = .next t ∧ t.bytes (lsPA s c dst) x.len = s.bytes (lsPA s c src) x.len ∧
        Claims.MemoryBut s t (lsPA s c dst) x.len ∧
        t.chan c ch = { x with run := 1, off := 0, watermark := x.dst + BitVec.ofNat 64 x.len }) ∧
    (∀ (c ch src dst : Nat) (s : State),
      let x := s.chan c ch
      Claims.ShortCopy s c x src dst → src + x.len ≤ 2 ^ 18 → src % 64 = 0 → dst % 64 = 0 →
      (s.core c).lsRefusedN src x.len x.hearth x.priv false = true → (s.slot x.owner.1 x.owner.2).abort = none →
      ∃ t : State, exec (.copyFault c ch) s = .next t ∧ t.chan c ch = { x with busy := false, flt := true, held := some x.src } ∧
        (t.slot x.owner.1 x.owner.2).copies = (s.slot x.owner.1 x.owner.2).copies ∧
        (t.slot x.owner.1 x.owner.2).deferred = (s.slot x.owner.1 x.owner.2).deferred ++
          [{ count := 2, cause := 0x13, addr := x.src, chan := ch, held := true, issued := x.issued }]) ∧
    (∀ (c ch : Nat) (s : State),
      let x := s.chan c ch
      x.busy = true → x.net = none → x.runs ≤ x.run → x.global = false → x.away = none → x.bind = none →
      (s.die (c / 2048)).powerLost = false → (s.core c).pw.paused = false → (s.slot x.owner.1 x.owner.2).abort = none →
      ∃ t : State, exec (.copyComplete c ch) s = .next t ∧ t.chan c ch = { x with busy := false } ∧ t.mem = s.mem ∧
        (t.slot x.owner.1 x.owner.2).copies = (s.slot x.owner.1 x.owner.2).copies - 1) ∧
    (∀ (cl j : Nat) (s : State) (k : AnvCmd) (r : List AnvCmd),
      let q := s.cluster cl
      q.running = none → q.stopped = false → s.clusterStill cl = false → q.turnCore < 8 → j < 8 → (s.core (cl * 8 + j)).anvq = k :: r → k.held = false →
      (∀ i < 8, i ≠ j → (s.core (cl * 8 + i)).anvq = []) →
      ∃ t : State, exec (.anvilCommandStart cl) s = .next t ∧ (t.cluster cl).running = some (cl * 8 + j) ∧
        (t.core (cl * 8 + j)).anvq = { k with started := true } :: r ∧ t.mem = s.mem) ∧
    (∀ (c : Nat) (s : State) (k : AnvCmd), Claims.Running s c k →
      let tile := (s.core c).tile k.tile
      let n := tile.rows * tile.cols
      (k.op = .zero false → ∃ t : State, exec (.anvilCommandComplete (c / 8) .clean) s = .next t ∧ (t.core c).anvq = [] ∧
        (t.cluster (c / 8)).running = none ∧ t.mem = s.mem ∧ (t.slot c k.slot).tiles = (s.slot c k.slot).tiles - 1 ∧
        (t.core c).tile k.tile = { tile with
          live := true
          sat := false
          inv := false
          fp := if tile.exact then [] else List.replicate n 0
          ex := if tile.exact then List.replicate n {} else [] }) ∧
      (∀ cause va u, s.runCmd c k = (.fault cause va, u) → cause ≠ 0x0D → (s.core c).seqr = none → s.latent = [] →
        ∃ t : State, exec (.anvilFetchFault (c / 8)) s = .next t ∧ (t.core c).anvq = [{ k with held := true, started := false }] ∧
          (t.cluster (c / 8)).running = none ∧ (t.core c).tiles = (s.core c).tiles ∧ t.mem = s.mem ∧
          (t.slot c k.slot).tiles = (s.slot c k.slot).tiles - 1 ∧
          (t.slot c k.slot).anvPend = some (0x80, va, if cause = 0x0F then 8 else cause - 0x40)) ∧
      ((∀ i < 8, ∀ e ∈ (s.core (c / 8 * 8 + i)).slots, e.2.anvTrap = false) →
        (s.die (c / 8 / 256)).trip3 = false → (s.die (c / 8 / 256)).powerLost = false →
        ∃ t : State, exec (.anvilWatchdog (c / 8)) s = .next t ∧ (t.core c).anvq = [] ∧ (t.cluster (c / 8)).running = none)) ∧
    (∀ (c n0 n1 n2 : Nat) (s : State) (q : Sequence), (s.core c).seqr = some q → (s.core c).pw.paused = false → (s.core c).anvq.length < 8 → q.n = [n0, n1, n2] →
      q.i0 < n0 → q.i1 < n1 → q.i2 < n2 →
      let at_ (b : Word) (l : List Word) : Word := b + (BitVec.ofNat 64 q.i0 * l.getD 0 0 + BitVec.ofNat 64 q.i1 * l.getD 1 0 +
        BitVec.ofNat 64 q.i2 * l.getD 2 0)
      ∃ (t : State) (k : AnvCmd) (d : List Word) (g : BitVec 32) (sw : Swage), exec (.sequencerQueue c) s = .next t ∧ t.mem = s.mem ∧
        (t.core c).anvq = (s.core c).anvq ++ [k] ∧ k.slot = q.slot ∧ k.rc = q.rc ∧ k.priv = q.priv ∧
        k.tile = (q.sctl.bits 60 59 + q.i0 * q.sctl.bits 54 53 + q.i1 * q.sctl.bits 56 55 + q.i2 * q.sctl.bits 58 57) % 4 ∧
        k.op = .mma d g sw (q.sctl.bits 63 63 == 1) ∧ d.getD 0 0 = at_ (q.tmpl.getD 0 0) q.da ∧ d.getD 1 0 = at_ (q.tmpl.getD 1 0) q.db ∧
        (q.i0 + 1 < n0 → (t.core c).seqr = some { q with i0 := q.i0 + 1 } ∧
          (t.slot c q.slot).tiles = (s.slot c q.slot).tiles + 1 ∧ k.bind = none) ∧
        (q.i0 + 1 = n0 → q.i1 + 1 = n1 → q.i2 + 1 = n2 → (t.core c).seqr = none ∧
          (t.slot c q.slot).tiles = (s.slot c q.slot).tiles))

/-- EXIT_COUNT of an ended task of which nothing is in flight counts it. PHASE_COMMIT of a declared phase whose tasks are all
counted and that has not failed lets the homes merge, and when nothing is deferred any more commits it: HPHASE takes its number
and no phase is declared. HOME_COMMIT_MERGE of a committing hearth, at a die with power, writes a deferred whole-word store, or
applies an integer update by its operation, to unpoisoned DRAM, changes nothing else of DRAM, and drops what it applied. Log 48
and log 94 state the model's choices here. -/
def Obligations.PhaseEvents : Prop :=
  (∀ (h n p : Nat) (task : Word) (s : State), (s.hearth h).det.exiting[n]? = some (p, task) → s.pieces = [] → s.reqs = [] →
      s.replies = [] → s.xadds = [] → (∀ k ∈ s.cores, k.2.log.closed = []) →
      ∃ t : State, exec (.exitCount h n) s = .next t ∧ task ∈ (t.hearth h).det.counted ∧ t.mem = s.mem ∧
        Claims.Without (s.hearth h).det.exiting (t.hearth h).det.exiting n) ∧
    (∀ (h p n : Nat) (s : State),
      let d := (s.hearth h).det
      d.current = some (p, n) → d.failed = false → d.aborting = false →
      (d.committing = false → n ≤ (d.counted.filter fun t => t.bits 63 48 == p).length →
        ∃ t : State, exec (.phaseCommit h) s = .next t ∧ (t.hearth h).det = { d with committing := true } ∧ t.mem = s.mem) ∧
      (d.committing = false → (d.counted.filter fun t => t.bits 63 48 == p).length < n → exec (.phaseCommit h) s = .next s) ∧
      (d.committing = true → d.pieces = [] → d.accs = [] → (∀ e ∈ s.homes, ∀ u ∈ e.2.holding ++ e.2.overflow, u.hearth ≠ h) →
        ∃ t : State, exec (.phaseCommit h) s = .next t ∧ (t.hearth h).phase = BitVec.ofNat 16 p ∧ (t.hearth h).det.current = none ∧
          (t.hearth h).det.committing = false ∧ (d.fills = [] → t.mem = s.mem))) ∧
    (∀ (hm h : Nat) (s : State),
      let d := (s.hearth h).det
      d.committing = true → Claims.Sound s → (s.die (hm / 160)).powerLost = false → (s.home hm).holding = [] → (s.home hm).overflow = [] →
      (∀ (x : Piece) (e : LogEntry) (pa : Nat) (v : Word), d.pieces = [x] → x.home = hm → x.entries = [e] → d.accs = [] →
        Claims.WholeWord s e pa v →
        ∃ t : State, exec (.homeCommitMerge hm h) s = .next t ∧ t.memW pa = v ∧ Claims.DramBut s t [(pa, 8)] ∧
          (t.hearth h).det.pieces = [] ∧ hm ∈ (t.hearth h).det.merged) ∧
      (∀ u : DetUpd, d.pieces = [] → d.accs = [u] → homeOf u.pa = hm → u.x = none → u.op < 8 → (u.size = 4 ∨ u.size = 8) →
        u.pa % u.size = 0 → u.pa < 2 ^ 56 → paClass u.pa = 0 → s.ownPackage u.pa = true →
        ∃ t : State, exec (.homeCommitMerge hm h) s = .next t ∧
          t.memNat u.pa u.size = Claims.amoNew u.op u.size (s.memNat u.pa u.size) (u.value.toNat % 2 ^ (8 * u.size)) ∧
          Claims.DramBut s t [(u.pa, u.size)] ∧ (t.hearth h).det.accs = [] ∧ hm ∈ (t.hearth h).det.merged))

namespace Sys2Proof.Claims

open Sys2Proof.Machine

/-- The device has written one error record more for the housekeeping processor (R451): of this cause. -/
def Recorded (s t : State) (cause : Nat) : Prop := ∃ r : List Word, t.hub.ras = s.hub.ras ++ [r] ∧ (r.getD 0 0).bits 63 56 = cause
/-- The lowest voltage code of a frequency code (R412). -/
def leastVolt (f : Nat) : Nat := 120 + ((f - 16) * 70 + 33) / 34

end Sys2Proof.Claims

/-- BELLOWS_INTERVAL latches STALLQ of every core, saturated, starts its counts anew and keeps a held FDUTY. FDUTY_WRITE stores
hold and a duty of at most 16. LEVEL_REQUEST of a core with FDUTY.hold does nothing; else FLEVEL takes the request; on a core that
is busy it is held; on one that is not, a request for a legal higher voltage that its frequency permits begins with the voltage,
and an illegal voltage is denied at the current one. VOLTAGE_RAMP_DONE reaches the target, and the clock pauses where the
frequency still differs; CLOCK_RESTART takes the new frequency; a cluster's domain does the same towards its cores' maxima.
GATE_PREPARE of a gateable core whose clock runs and whose queues can be read empties its caches and notes their tails;
GATE_COMMIT gates it unless a wake event came or a queue's TAIL moved; GATE_WAKE powers it up. PLIMIT_WRITE takes codes 40 to 88
only. THERMAL_TRIP 1 to 4 and THERMAL_RELEASE set and clear the die's trips, trip 2 caps duty at 8, and a core on a die at trip 3
or 4, or after VRFAIL, dispatches nothing; after VRFAIL of a cluster its anvil starts nothing. Log 32, log 48, log 144 and log 147
state the model's choices here. -/
def Obligations.PowerEvents : Prop :=
  (∀ (c : Nat) (s : State), coreExists c = true → ∃ t : State, exec .bellowsInterval s = .next t ∧ t.mem = s.mem ∧
      let p := (s.core c).pw
      let q := (t.core c).pw
      q.want = 0 ∧ q.stall = 0 ∧ q.issued = 0 ∧ q.cycles = 0 ∧ (p.fduty.bits 15 15 = 1 → q.fduty = p.fduty) ∧
        (p.gated = true → q.stallq = 0) ∧
        (p.gated = false → q.stallq.bits 63 48 = min p.want 0xFFFF ∧ q.stallq.bits 47 32 = min p.stall 0xFFFF ∧
          q.stallq.bits 31 16 = min p.issued 0xFFFF ∧ q.stallq.bits 15 0 = min p.cycles 0xFFFF)) ∧
    (∀ (c : Nat) (v : Word) (s : State), coreExists c = true → ∃ t : State, exec (.fdutyWrite c v) s = .next t ∧ t.mem = s.mem ∧
      (t.core c).pw = { (s.core c).pw with fduty := (t.core c).pw.fduty } ∧ (t.core c).pw.fduty.bits 15 15 = v.bits 15 15 ∧
      (t.core c).pw.fduty.bits 4 0 = min (v.bits 4 0) 16) ∧
    (∀ (c : Nat) (v : Word) (s : State),
      let p := (s.core c).pw
      let fr := min (max (v.bits 7 0) 16) 50
      let vr := v.bits 23 16
      coreExists c = true → p.vrfail = false → p.fduty.bits 15 15 = 0 → ∃ t : State, exec (.levelRequest c v) s = .next t ∧ t.mem = s.mem ∧
        let q := (t.core c).pw
        q.vcur = p.vcur ∧ q.fcur = p.fcur ∧
        q.vreq = vr ∧ q.freq = fr ∧ (p.busy = true → q.held = some (v.bits 7 0, vr) ∧ q.change = p.change) ∧
        (p.busy = false →
          (vr < 120 ∨ 190 < vr → q.den = true ∧ q.vtgt = p.vcur) ∧
          (p.vcur < vr → 120 ≤ vr → vr ≤ 190 → Claims.leastVolt fr ≤ vr →
            q.busy = true ∧ q.den = false ∧ q.vtgt = vr ∧ q.change = some (vr, fr, true)))) ∧
    (∀ (c v f : Nat) (s : State),
      let p := (s.core c).pw
      p.held = none →
      (p.change = some (v, f, true) → p.paused = false → p.vcur ≠ v → ∃ t : State, exec (.voltageRampDone (.core c)) s = .next t ∧
        (t.core c).pw.vcur = v ∧ (t.core c).pw.fcur = p.fcur ∧ t.mem = s.mem ∧
        (p.fcur ≠ f → (t.core c).pw.paused = true) ∧ (p.fcur = f → (t.core c).pw.busy = false)) ∧
      (∀ b, p.change = some (v, f, b) → p.paused = true → ∃ t : State, exec (.clockRestart (.core c)) s = .next t ∧
        (t.core c).pw.fcur = f ∧ (t.core c).pw.paused = false ∧ (t.core c).pw.vcur = p.vcur ∧ t.mem = s.mem)) ∧
    (∀ (c : Nat) (v : Word) (s : State), (s.core c).pw.fduty.bits 15 15 = 1 → exec (.levelRequest c v) s = .next s) ∧
    (∀ (cl v f : Nat) (s : State),
      let q := s.cluster cl
      let top (g : CorePower → Nat) : Nat := ((List.range 8).map fun j => g (s.core (cl * 8 + j)).pw).foldl max 0
      q.vrfail = false → top (·.vcur) = v → top (·.fcur) = f →
      (q.change = some (v, f, true) → q.paused = false → q.vcur < v → ∃ t : State, exec (.voltageRampDone (.cluster cl)) s = .next t ∧
        (t.cluster cl).vcur = v ∧ (t.cluster cl).fcur = q.fcur ∧ t.mem = s.mem ∧ t.cores = s.cores ∧
        (q.fcur ≠ f → (t.cluster cl).paused = true) ∧ (q.fcur = f → (t.cluster cl).change = none)) ∧
      (q.change = some (v, f, true) → q.paused = true → q.vcur = v → ∃ t : State, exec (.clockRestart (.cluster cl)) s = .next t ∧
        (t.cluster cl).fcur = f ∧ (t.cluster cl).paused = false ∧ (t.cluster cl).change = none ∧ t.mem = s.mem ∧ t.cores = s.cores)) ∧
    (∀ (c : Nat) (s : State),
      let k := s.core c
      let o : State := { s with curCore := c }
      (∀ ts, coreExists c = true → (s.core c).pw.paused = false → o.queueTails c = some ts → o.gateable c = true → k.pw.gated = false → k.pw.preparing = false → k.quarantined = false →
        k.bootTest = false → ∃ t : State, exec (.gatePrepare c) s = .next t ∧ (t.core c).pw.preparing = true ∧ t.mem = s.mem ∧
          (t.core c).pw.tails = ts ∧ (t.core c).pw.wake = false ∧ (t.core c).rcache = [] ∧ (t.core c).icache = [] ∧ (t.core c).xcache = []) ∧
      (∀ ts, k.pw.preparing = true → k.pw.paused = false → o.queueTails c = some ts → s.xadds = [] → ∃ t : State, exec (.gateCommit c) s = .next t ∧ (t.core c).pw.preparing = false ∧
        t.mem = s.mem ∧ (k.pw.wake = true ∨ ts ≠ k.pw.tails → (t.core c).pw.gated = false) ∧
        (k.pw.wake = false → ts = k.pw.tails → o.gateable c = true → (t.core c).pw.gated = true)) ∧
      (k.pw.gated = true → ∃ t : State, exec (.gateWake c) s = .next t ∧ (t.core c).pw.gated = false ∧ t.mem = s.mem)) ∧
    (∀ (v : Word) (s : State),
      (40 ≤ v.bits 7 0 → v.bits 7 0 ≤ 88 →
        exec (.plimitWrite v) s = .next { s with hub := { s.hub with plimit := BitVec.ofNat 64 (v.bits 7 0) } }) ∧
      (v.bits 7 0 < 40 ∨ 88 < v.bits 7 0 → exec (.plimitWrite v) s = .next s)) ∧
    (∀ (e : Nat) (s : State), e < 4 →
      ((s.die e).powerLost = false → ∀ n ∈ [1, 2, 3, 4], ∃ t : State, exec (.thermalTrip e n) s = .next t ∧
        (n = 1 → (t.die e).trip1 = true) ∧ (n = 2 → ∀ c, c / 2048 = e → t.dutyCap c ≤ 8) ∧
        (3 ≤ n → ∀ c, c / 2048 = e → exec (.dispatch c) t = .next t)) ∧
      ∀ n ∈ [1, 2, 3], ∃ t : State, exec (.thermalRelease e n) s = .next t ∧ t.mem = s.mem ∧
        t.die e = { s.die e with
          trip1 := n ≠ 1 ∧ (s.die e).trip1
          trip2 := n ≠ 2 ∧ (s.die e).trip2
          trip3 := n ≠ 3 ∧ (s.die e).trip3 }) ∧
    (∀ (c : Nat) (s : State), coreExists c = true → (s.core c).pw.vrfail = false →
      ∃ t : State, exec (.vrfail (.core c)) s = .next t ∧ (t.core c).pw.vrfail = true ∧ exec (.dispatch c) t = .next t) ∧
    (∀ (cl : Nat) (s : State), coreExists (8 * cl) = true → (s.cluster cl).vrfail = false →
      ∃ t : State, exec (.vrfail (.cluster cl)) s = .next t ∧ (t.cluster cl).vrfail = true ∧ exec (.anvilCommandStart cl) t = .next t)

/-- DRAM_PATROL of a sound line notes the symbols of a line that go bad, and nothing else; of a line with e errors and f erasures
it corrects them where 2e + f is at most 8, with a record where none is held back, and else, where the decoder does not
miscorrect, poisons the line's eight words and no other, memory as before (with the fault ring of hearth 0 out of reach, so that
no record lands there). REPAIR_COMPLETE of a row in which a line was uncorrectable counts a spare row while fewer than 8 are used,
and records it; of a row that is not due, or with 8 used, it does nothing. HOST_LOSS and IDE_FAILURE take the link down and
disable every queue, heads and tails kept; HOST_LINK_RETURN only sets the link up. POD_LINK_FAILURE loses exactly the sent
requests to other packages. FABRIC_ERROR loses the frame, or the piece that has not arrived, and records it. DEVICE_RESET leaves
no thread and nothing in flight, every core in boot test, poison kept, and memory that is not the package's as before. That errors
are inputs, what a decoder does beyond its bound, when a repair is due and what a reset keeps follow log 145, log 155 and log 100.
-/
def Obligations.FaultEvents : Prop :=
  (∀ (line : Nat) (s : State),
      let pa := 64 * line
      let e := (s.lineErrs line).length
      let f := ((s.home (homeOf pa)).erased line).length
      paClass pa = 0 → paBad pa = false → pa < 2 ^ 56 → s.ownPackage pa = true →
      (∀ (bad : Nat) (upset : List Nat), get? s.latent line = none → paClass (64 * bad) = 0 → paBad (64 * bad) = false → 64 * bad < 2 ^ 56 →
        s.ownPackage (64 * bad) = true → upset.Nodup → (∀ x ∈ upset, x < 72) → upset ≠ [] →
        exec (.dramPatrol line bad upset) s = .next { s with latent := put s.latent bad upset }) ∧
      (∀ syms : List Nat, get? s.latent line = some syms → syms ≠ [] → 2 * e + f ≤ 8 → (s.home (homeOf pa)).ceSent = false →
        ∃ t : State, exec (.dramPatrol line line []) s = .next t ∧ Claims.Recorded s t 0xE0 ∧ get? t.latent line = none ∧
          (t.home (homeOf pa)).corrections = 0) ∧
      (∀ syms : List Nat, get? s.latent line = some syms → syms ≠ [] → 8 < 2 * e + f →
        (∃ c, s.hwPA 0 (s.faultRing 0) .read = .error c) →
        ∃ t : State, exec (.dramPatrol line line []) s = .next t ∧ get? t.latent line = none ∧
          ((Config.freeValue s.freeCtr).getLsbD 0 = false → t.mem = s.mem ∧
            ∀ w, w ∈ t.poison ↔ w ∈ s.poison ∨ (8 * line ≤ w ∧ w < 8 * line + 8)))) ∧
    (∀ (hm layer bank row : Nat) (s : State), hm < 640 → layer < 8 → bank < 16 → row < 2 ^ 16 →
      let n := get 0 (s.home hm).rows (16 * layer + bank)
      let found (l : Nat) : Prop := lineLayer l = layer ∧ lineBank l = bank ∧ lineRow l = row
      ((∃ l ∈ (s.home hm).ues, found l) → n < 8 → ∃ t : State, exec (.repairComplete hm .row layer bank row) s = .next t ∧
        get 0 (t.home hm).rows (16 * layer + bank) = n + 1 ∧ (s.latent = [] → Claims.Recorded s t 0xE2)) ∧
      (8 ≤ n ∨ ((∀ l ∈ (s.home hm).ues, ¬found l) ∧ ∀ p ∈ (s.home hm).fixed, ¬found p.1) →
        exec (.repairComplete hm .row layer bank row) s = .next s)) ∧
    (∀ i ∈ [Instr.hostLoss, .ideFailure], ∀ s : State, s.hub.linkUp = true → ∃ t : State, exec i s = .next t ∧ t.hub.linkUp = false ∧
      ∀ h q, (get 0 (t.hearth h).qbase q).bits 0 0 = 0 ∧ get 0 (t.hearth h).qhead q = get 0 (s.hearth h).qhead q ∧
        get 0 (t.hearth h).qtail q = get 0 (s.hearth h).qtail q) ∧
    (∀ s : State, exec .hostLinkReturn s = .next { s with hub := { s.hub with linkUp := true } }) ∧
    (∀ (link : Nat) (s : State), link < 8 → link ∉ s.hub.podLinksDown → ∃ t : State, exec (.podLinkFailure link) s = .next t ∧
      link ∈ t.hub.podLinksDown ∧ ∀ r, r ∈ t.reqs ↔ r ∈ s.reqs ∧ (r.hold = true ∨ s.ownPackage r.pa = true)) ∧
    (∀ (n : Nat) (s : State),
      (∀ x, s.frames[n]? = some x → ∃ t : State, exec (.fabricError (.frame n)) s = .next t ∧ Claims.Without s.frames t.frames n ∧
        Claims.Recorded s t 0xE3) ∧
      (∀ p, s.pieces[n]? = some p → p.arrived = false → ∃ t : State, exec (.fabricError (.piece n)) s = .next t ∧
        Claims.Without s.pieces t.pieces n ∧ Claims.Recorded s t 0xE3)) ∧
    (∀ s : State, ∃ t : State, exec .deviceReset s = .next t ∧ t.reqs = [] ∧ t.replies = [] ∧ t.pieces = [] ∧ t.releases = [] ∧
      t.frames = [] ∧ t.messages = [] ∧ t.hearths = [] ∧ t.poison = s.poison ∧ t.hub.package = s.hub.package ∧
      (∀ c, (t.core c).bootTest = true ∧ ∀ n, (t.slot c n).busy = false) ∧
      ∀ k < 2 ^ 56, (2 ≤ paClass k ∨ s.ownPackage k = false) → Memory.read t.mem k = Memory.read s.mem k)

namespace Sys2Proof.Claims

open Sys2Proof.Machine

/-- Command c is the only one of hearth h, it has this code, no reserved byte of it is set, and it runs or has still to begin (R432, R434). -/
abbrev Has (s : State) (h : Nat) (c : Command) (op : Nat) (running : Bool) : Prop :=
  (s.hearth h).commands = [c] ∧ (c.words.getD 0 0).bits 63 56 = op ∧ c.bad = false ∧ c.running = running
/-- The same of one that runs. -/
abbrev Next (s : State) (h : Nat) (c : Command) (op : Nat) : Prop := Has s h c op true
/-- The journal entry of sequence number n: its state and result (R438). -/
abbrev Journaled (t : State) (h n st res : Nat) : Prop :=
  let e := get 0 (t.hearth h).journal (n % 1024)
  e.extractLsb' 0 64 = BitVec.ofNat 64 n ∧ e.extractLsb' 240 8 = BitVec.ofNat 8 st ∧ e.extractLsb' 224 16 = BitVec.ofNat 16 res
/-- The command has ended with a state of the journal and a result: 3 done, 4 refused, 5 failed (R433, R438). -/
abbrev Ended (t : State) (h : Nat) (c : Command) (st res : Nat) : Prop := (t.hearth h).commands = [] ∧ Journaled t h c.seq st res

end Sys2Proof.Claims

/-- A doorbell within 256 entries and not behind sets the tail, another sets err. COMMAND_ACCEPT takes the next command, moves the
head, numbers and journals it, or refuses a bad one with result 1. ACCEPT is written once, masked by FEATURES. The first event of
a command journals it as running. For the only command of a hearth, once it runs: LAUNCH without a result area refuses with 3, and
otherwise ends done with the tasks' records in memory; PHASE declares (a phase that has failed before as failed, R482), enters,
and aborts as R542 and R484 state; MAP writes the leaf where the tables stand; UNMAP zeroes it and, no walk of it being under way
and no core stopped, no TLB serves the page; LOADBIN of a good file that names no VA page 0 ends done; SIGNAL posts a message;
SUSPEND and RESUME set and clear the suspension, and end done where no thread, copy or run queue is left to save or restore; RESET
leaves the hearth's registers at reset with JSEQ 1 and no thread of it. That the first event of a command marks it, and what
SUSPEND and RESET do beside the rules, follow log 91, log 97, log 99 and log 134. -/
def Obligations.HostCommands : Prop :=
  (∀ (h q : Nat) (tail : BitVec 32) (s : State), h < 16 → q < 4 → s.hub.linkUp = true →
      let x := s.hearth h
      let head := get 0 x.qhead q
      let good := (tail - head).toNat ≤ 256 ∧ (get 0 x.qtail q - head).toNat ≤ (tail - head).toNat
      ∃ t : State, exec (.qtailDoorbell h q tail) s = .next t ∧ t.mem = s.mem ∧
        (good → get 0 (t.hearth h).qtail q = tail ∧ (t.hearth h).qbase = x.qbase) ∧
        (¬good → (t.hearth h).qtail = x.qtail ∧ (get 0 (t.hearth h).qbase q).bits 2 2 = 1)) ∧
    (∀ (h q : Nat) (s : State), h < 16 → q < 4 →
      let x := s.hearth h
      let b := get 0 x.qbase q
      let head := get 0 x.qhead q
      let words := (List.range 8).map fun i => s.memW ((b.bits 63 14 * 2 ^ 14 + 64 * (head.toNat % 256)) % 2 ^ 56 + 8 * i)
      let c : Command := { seq := (x.jseq + 1).toNat, queue := q, words := words }
      b.bits 0 0 = 1 → b.bits 1 1 = 1 → get 0 x.qtail q ≠ head → x.commands = [] →
      ∃ t : State, exec (.commandAccept h q) s = .next t ∧ t.mem = s.mem ∧ t.hub.locked = true ∧ (t.hearth h).jseq = x.jseq + 1 ∧
        get 0 (t.hearth h).qhead q = head + 1 ∧
        (c.bad = false → (t.hearth h).commands = [c] ∧ Claims.Journaled t h c.seq 1 0) ∧
        (c.bad = true → Claims.Ended t h c 4 1)) ∧
    (∀ (v : BitVec 128) (s : State),
      (s.hub.locked = true → exec (.acceptWrite v) s = .next s) ∧
      (s.hub.locked = false → exec (.acceptWrite v) s =
        .next { s with hub := { s.hub with accept := v &&& s.hub.features, locked := true } })) ∧
    (∀ p ∈ ([(.launch, 1, fun _ => true), (.phaseDeclare, 2, (· % 4 == 0)), (.phaseEnterDeterministic, 2, (· % 4 == 1)),
          (.phaseAbort, 2, (2 ≤ · % 4)), (.map, 3, fun _ => true), (.unmap, 4, fun _ => true), (.loadbin, 5, fun _ => true),
          (.signal, 6, fun _ => true), (.suspend, 7, fun _ => true), (.resume, 8, fun _ => true), (.reset, 9, fun _ => true)] :
          List ((Nat → Instr) × Nat × (Nat → Bool))), ∀ (h : Nat) (s : State) (c : Command), Claims.Has s h c p.2.1 false → p.2.2 c.flags = true →
      ∃ t : State, exec (p.1 h) s = .next t ∧ (t.hearth h).commands = [{ c with running := true }] ∧ Claims.Journaled t h c.seq 2 0 ∧
        t.mem = s.mem) ∧
    (∀ (h : Nat) (s u : State) (c : Command) (tmpl : List Word), Claims.Next s h c 1 →
      let q := s.hearth h
      let n := (c.words.getD 3 0).bits 23 0
      let o : State := { s with curCore := noCoreId }
      (c.flags.testBit 6 = true → q.hres.bits 56 12 = 0 → ∃ t : State, exec (.launch h) s = .next t ∧ Claims.Ended t h c 4 3 ∧
        t.mem = s.mem) ∧
      ((c.flags.testBit 6 = true → q.hres.bits 56 12 ≠ 0) → 8 ≤ q.trbase.bits 4 0 → q.trbase.bits 4 0 ≤ 24 →
        (∀ i < n, coreExists (c.launchCore i) = true ∧ o.recordFree h (recordVA q (taskNo (c.launchId i))) = .ok true) →
        o.hwReadWords h (c.words.getD 1 0) 32 = .ok tmpl → o.launchAll h c tmpl (List.range n) = some (none, u) →
        ∃ t : State, exec (.launch h) s = .next t ∧ Claims.Ended t h c 3 0 ∧ t.mem = u.mem)) ∧
    (∀ (h : Nat) (s : State) (c : Command), Claims.Next s h c 2 →
      let q := s.hearth h
      let p := (c.words.getD 1 0).bits 63 48
      let n := (c.words.getD 1 0).bits 23 0
      let done (i : Instr) (d : Det) : Prop := ∃ t : State, exec i s = .next t ∧ Claims.Ended t h c 3 0 ∧ (t.hearth h).det = d ∧ t.mem = s.mem
      let refused (i : Instr) (res : Nat) : Prop := ∃ t : State, exec i s = .next t ∧ Claims.Ended t h c 4 res ∧ (t.hearth h).det = q.det ∧
        t.mem = s.mem
      let was := q.det.doomed.contains p
      let declared : Det := { q.det with
        on := true
        current := some (p, n)
        failed := was
        reported := if was then [640] else []
        doomed := q.det.doomed.filter (· != p) }
      let legal := q.det.current = none ∧ n ≠ 0 ∧ n ≤ 2 ^ q.trbase.bits 4 0
      (c.flags % 4 = 0 → (q.det.on = false → refused (.phaseDeclare h) 3) ∧
        (q.det.on = true → (legal → done (.phaseDeclare h) declared) ∧
          (¬legal → refused (.phaseDeclare h) 2))) ∧
      (c.flags % 4 = 1 → s.hub.accept.getLsbD 0 = true →
        (legal → done (.phaseEnterDeterministic h) declared) ∧
          (¬legal → refused (.phaseEnterDeterministic h) 2)) ∧
      (2 ≤ c.flags % 4 → q.det.committing = false → (q.det.on = false → refused (.phaseAbort h) 3) ∧
        (q.det.on = true → q.det.current.map (·.1) ≠ some p → refused (.phaseAbort h) 2) ∧
        (∀ m, q.det.on = true → q.det.current = some (p, m) → q.det.aborting = false → q.det.unended p = [] → q.det.exiting = [] →
          ∃ t : State, exec (.phaseAbort h) s = .next t ∧ Claims.Ended t h c 3 0 ∧ (t.hearth h).det.current = none ∧
            (t.hearth h).det.pieces = [] ∧ (t.hearth h).det.accs = [] ∧ t.mem = s.mem) ∧
        (∀ m, q.det.on = true → q.det.current = some (p, m) → q.det.aborting = false → q.det.unended p ≠ [] →
          ∃ t : State, exec (.phaseAbort h) s = .next t ∧ (t.hearth h).det.failed = true ∧ (t.hearth h).det.aborting = true ∧
            (∀ x ∈ q.det.unended p, x ∈ (t.hearth h).det.awaited) ∧
            (t.hearth h).commands = [c] ∧ (t.hearth h).journal = q.journal ∧ t.mem = s.mem))) ∧
    (∀ (h tb : Nat) (s : State) (c : Command) (va : Word),
      va = c.words.getD 1 0 → s.rootBad h = false → s.descend h (s.hearth h).root (walkIndices va 3) = .table tb s →
      let a := tb + 16 * va.bits 20 12
      a < 2 ^ 56 → paClass a = 0 → s.ownPackage a = true →
      (Claims.Next s h c 3 → c.mapBad = false → c.words.getD 3 0 = 4096 → (c.words.getD 5 0).bits 1 0 = 0 →
        ∃ t : State, exec (.map h) s = .next t ∧ Claims.Ended t h c 3 0 ∧ Claims.DramBut s t [(a, 16)] ∧
          t.memNat a 16 = (c.words.getD 4 0).toNat * 2 ^ 64 + 2 ^ 63 + 2 ^ 62 + (c.words.getD 2 0).bits 55 12 * 2 ^ 12 +
            (c.words.getD 5 0).bits 11 0) ∧
      (∀ e, Claims.Next s h c 4 → c.words.getD 2 0 = 4096 → s.tableEntry none tb (va.bits 20 12) = .leaf e → ebits e 63 63 = 1 →
        s.walksIn 0 h ((s.hearth h).aspace.bits 63 56) va 4096 = false → s.coresStopped = false →
        ∃ t : State, exec (.unmap h) s = .next t ∧ Claims.Ended t h c 3 0 ∧ Claims.DramBut s t [(a, 16)] ∧ t.memNat a 16 = 0 ∧
          ∀ (k : Nat) (x : TlbEntry), x ∈ (t.core k).tlb → x.hearth = h → x.asid = (s.hearth h).aspace.bits 63 56 →
            va.toNat < (va57 x.base).toNat ∨ (va57 x.base).toNat + x.size ≤ va.toNat)) ∧
    (∀ (h : Nat) (s u : State) (c : Command) (g' : Gof), Claims.Next s h c 5 → c.flags.testBit 1 = true →
      let w (i : Nat) : Word := c.words.getD i 0
      let o : State := { s with curCore := noCoreId }
      let g : Gof := ⟨(w 1).toNat % 2 ^ 56, (w 2).toNat, o, []⟩
      let cores := (List.range ((w 5).bits 15 0)).map fun i => (w 5).bits 63 51 + i
      let known := g'.kernels (w 3).toNat ++ (s.hearth h).kernels
      let l : Load := ⟨g'.bind known, h, (w 3).toNat, (w 4).toNat, cores⟩
      paHost g.pa = false → g.headerBad = false → BitVec.ofNat 128 (g.num 0x20 16) &&& ~~~s.hub.accept = 0 → g.layoutBad = false →
      g.signed (s.hearth h) s.hub.accept = true → (w 3).toNat % 4096 = 0 → (∀ k ∈ cores, coreExists k = true) →
      g.relocated (w 3).toNat (w 4).toNat = some g' → ofType g'.sects 5 = [] → l.unmappable o = false → s.rootBad h = false →
      l.write (o.modHearth h fun q => { q with kernels := known }) = .ok u →
      ∃ t : State, exec (.loadbin h) s = .next t ∧ Claims.Ended t h c 3 0 ∧ t.mem = u.mem) ∧
    (∀ (h : Nat) (s : State) (c : Command), Claims.Next s h c 6 →
      let k := (c.words.getD 1 0).bits 12 0
      coreExists k = true → s.msgTaken k < 32 → ∃ t : State, exec (.signal h) s = .next t ∧ Claims.Ended t h c 3 0 ∧ t.mem = s.mem ∧
        t.messages = s.messages ++ [{ core := k, hearth := h, chan := (c.words.getD 0 0).bits 47 32 % 64
                                      payload := (List.range 4).map fun i => c.words.getD (2 + i) 0, rc := {}, src := none }]) ∧
    (∀ (h : Nat) (s : State) (c : Command),
      (Claims.Next s h c 7 → ∃ t : State, exec (.suspend h) s = .next t ∧ (t.hearth h).suspended = true ∧
        (s.threadsOf h = [] → s.copying h = false → ((s.hearth h).rqbase.bits 4 0 < 12 ∨ 24 < (s.hearth h).rqbase.bits 4 0) → Claims.Ended t h c 3 0 ∧ t.mem = s.mem)) ∧
      (Claims.Next s h c 8 → ∃ t : State, exec (.resume h) s = .next t ∧ (t.hearth h).suspended = false ∧
        ((s.hearth h).saved = [] → Claims.Ended t h c 3 0 ∧ t.mem = s.mem)) ∧
      (Claims.Next s h c 9 → ∃ t : State, exec (.reset h) s = .next t ∧
        t.hearth h = { jseq := 1, journal := (t.hearth h).journal } ∧ Claims.Journaled t h 1 3 0 ∧
        ∀ k n, (t.slot k n).busy = true → (t.slot k n).st.hearth ≠ h))

namespace Sys2Proof.Claims

open Sys2Proof.Machine

/-- The state after an answer of a kind over the DOE mailbox: the answers sent have grown by one, and nothing else has changed. -/
def AnsweredDoe (s t : State) (kind : Nat) : Prop :=
  ∃ d : List Byte, t = { s with hub := { s.hub with spdm := s.hub.spdm ++ [(kind, d)] } }

end Sys2Proof.Claims

/-- A reduction's CTL is taken while GEN is even and its count fits MASK; the contribution of the only package of a round, this
one, delivers the sum and raises GEN by 2, and a contribution of a package outside MASK sets GEN bit 0, which a write clears. A
host store of bytes of one line to a die with power writes them, and nothing else of DRAM. UET_RECEIVE writes the payload at the
ring. BOOT verifies image 0 against the fused key and, by it, the others, and takes the digests; each SPDM request is answered and
changes nothing else but the IDE key at KEY_EXCHANGE. FIRMWARE_THREAD_START of a verified image places an F frame in a free slot
of a core in boot test, and of another does nothing. BCTL view and done switch the window view and end boot test, after which BCTL
is fixed; LSREP keeps its defined bits; BOOT_TIMEOUT quarantines a core that has not ended boot test or whose BSTAT says fail.
REGISTER_WRITE sets HRES, HPOOL and HPEND, ignores JSEQ, and opens a send context with its ring (log 112). Log 41, log 102, log
103 and log 163 state the model's choices here. -/
def Obligations.HubEvents : Prop :=
  (∀ (h j : Nat) (v : Word) (s : State), h < 16 → j < 4 →
      let x := get {} (s.hearth h).reductions j
      let y (t : State) : Reduction := get {} (t.hearth h).reductions j
      (x.gen.getLsbD 0 = false → v.bits 63 58 + 1 = (List.range 64).countP x.mask.getLsbD →
        ∃ t : State, exec (.reductionCtlWrite h j v) s = .next t ∧ t.mem = s.mem ∧ y t = { x with ctl := v &&& 0xFC000000000000FF }) ∧
      (∀ p < 64, p = s.hub.package → x.parts = [] → x.mask = 1#64 <<< p → x.ctl.bits 7 4 = 0 → x.ctl.bits 3 0 = 0 →
        ∃ t : State, exec (.reductionContribute h j p v) s = .next t ∧ t.mem = s.mem ∧ (y t).result = v ∧ (y t).gen = x.gen + 2 ∧
          (y t).parts = []) ∧
      (∀ p < 64, x.mask.getLsbD p = false → ∃ t : State, exec (.reductionContribute h j p v) s = .next t ∧
        (y t).gen = x.gen ||| 1 ∧ (y t).result = x.result) ∧
      (v.getLsbD 0 = true → ∃ t : State, exec (.reductionGenClear h j v) s = .next t ∧ y t = { x with gen := x.gen &&& ~~~1 } ∧
        t.mem = s.mem)) ∧
    (∀ (d : Nat) (bs : List Byte) (s : State),
      let pa := s.hub.package * 2 ^ 50 + d / 0x3000000000 * 2 ^ 48 + d % 0x3000000000
      d < 0xC000000000 → d % 64 + bs.length ≤ 64 → s.hub.linkUp = true → s.hub.package < 64 → (s.die (paDie pa)).powerLost = false →
      s.latent = [] →
      (∃ t : State, exec (.hostMemoryAccess d (some bs)) s = .next t ∧ t.bytes pa bs.length = bs ∧ Claims.DramBut s t [(pa, bs.length)]) ∧
      exec (.hostMemoryAccess d none) s = .next s) ∧
    (∀ (ctx off : Nat) (base : Word) (payload : List Byte) (s : State),
      let pa := (base.toNat + off) % 2 ^ 56
      s.hub.rings = [(ctx, base, off)] → paClass pa = 0 → s.ownPackage pa = true → pa % 2 ^ 46 + payload.length ≤ 2 ^ 46 →
      ∃ t : State, exec (.uetReceive ctx payload) s = .next t ∧ t.bytes pa payload.length = payload ∧
        Claims.DramBut s t [(pa, payload.length)] ∧ t.hub.rings = [(ctx, base, off + payload.length)]) ∧
    (∀ (images : List (List Byte)) (reinit : Bool) (s : State), images.length ≤ 8 →
      let good (n : Nat) : Prop := ∃ x, images[n]? = some x ∧ Config.signatureOk x Config.fusedKey = true
      ∃ t : State, exec (.boot images reinit) s = .next t ∧ (∀ n, n ∈ t.hub.verified ↔ good 0 ∧ good n) ∧
        (∀ n x, images[n]? = some x → n = 0 ∨ good 0 → get 0 t.hub.measurements n = Config.sha256 x) ∧
        (reinit = false ∨ ¬good 0 → t.mem = s.mem ∧ t.poison = s.poison) ∧ (reinit = true → good 0 → t.poison = [] ∧ t.latent = [])) ∧
    (∀ s : State, ∀ p ∈ [(Instr.spdmGetVersion, 0), (.spdmGetCapabilities, 1), (.spdmNegotiateAlgorithms, 2), (.spdmGetDigests, 3),
        (.spdmGetCertificate, 4), (.spdmGetMeasurements, 6)], ∃ t : State, exec p.1 s = .next t ∧ Claims.AnsweredDoe s t p.2) ∧
    (∀ (x : BitVec 256) (s : State), (∃ t : State, exec (.spdmChallenge x) s = .next t ∧ Claims.AnsweredDoe s t 5) ∧
      ∃ t u : State, exec (.spdmKeyExchange x) s = .next t ∧ Claims.AnsweredDoe s u 7 ∧
        t = { u with hub := { u.hub with ideKey := some (Config.ideKey x) } }) ∧
    (∀ (m n : Nat) (x : Frame) (s : State),
      let c := x.target
      coreExists c = true → n < 16 → x.billet.status.bits 21 20 = 2 →
      (0 ∉ s.hub.verified ∨ m ∉ s.hub.verified → exec (.firmwareThreadStart m (some n) x) s = .next s) ∧
      (0 ∈ s.hub.verified → m ∈ s.hub.verified →
      (s.core c).bootTest = true → (s.core c).quarantined = false → (s.slot c n).busy = false →
        ∃ t : State, exec (.firmwareThreadStart m (some n) x) s = .next t ∧
          Claims.HoldsFrame (t.slot c n) { x with hearth := 0, kind := 2 })) ∧
    (∀ (c : Nat) (v : Word) (s : State), coreExists c = true →
      let b := get {} s.hub.boots c
      (b.bctl.bits 1 1 = 0 → v.bits 1 1 = 0 → ∃ t : State, exec (.bctlView c v) s = .next t ∧
        (t.core c).view = (v.bits 0 0 == 1) ∧ (t.core c).bootTest = (s.core c).bootTest ∧ t.mem = s.mem) ∧
      (b.bctl.bits 1 1 = 0 → v.bits 1 1 = 1 → ∃ t : State, exec (.bctlDone c v) s = .next t ∧ (t.core c).bootTest = false ∧
        (t.core c).view = false ∧ (t.core c).log.openEntries = [] ∧ (get {} t.hub.boots c).bctl.bits 1 1 = 1 ∧ t.mem = s.mem) ∧
      (b.bctl.bits 1 1 = 1 → exec (.bctlView c v) s = .next s ∧ exec (.bctlDone c v) s = .next s ∧
        (b.bstat.bits 63 60 ≠ 3 → exec (.bootTimeout c) s = .next s)) ∧
      (b.bctl.bits 1 1 = 0 ∨ b.bstat.bits 63 60 = 3 → ∃ t : State, exec (.bootTimeout c) s = .next t ∧ (t.core c).quarantined = true) ∧
      (∀ n < 4, ∃ t : State, exec (.lsrepWrite c n v) s = .next t ∧ t.mem = s.mem ∧
        get 0 (get {} t.hub.boots c).lsrep n = v &&& 0x800000000003FF00)) ∧
    (∀ (h : Nat) (v : Word) (s : State), h < 16 → s.hub.linkUp = true →
      let at_ (r : Nat) : Nat := 0x100000 + 0x10000 * h + r
      (∃ t : State, exec (.registerWrite (.reg (at_ 0x60)) v) s = .next t ∧ t.mem = s.mem ∧
        t.hearth h = { s.hearth h with hres := v &&& 0x01FFFFFFFFFFF000 }) ∧
      (∃ t : State, exec (.registerWrite (.reg (at_ 0x78)) v) s = .next t ∧ t.mem = s.mem ∧
        t.hearth h = { s.hearth h with hpool := v &&& 0x00FFFFFFFFFFF000 }) ∧
      (∃ t : State, exec (.registerWrite (.reg (at_ 0x80)) v) s = .next t ∧ t.mem = s.mem ∧
        t.hearth h = { s.hearth h with hpend := v &&& 0x00FFFFFFFFFFF000 }) ∧
      exec (.registerWrite (.reg (at_ 0x70)) v) s = .next s) ∧
    (∀ (n h port : Nat) (ring : Bool) (v : Word) (s : State), n < 256 → h < 16 → port < 4 →
      ∃ t : State, exec (.registerWrite (.context n h port ring) v) s = .next t ∧ t.mem = s.mem ∧
        t.hub.ctxs.find? (·.1 == n) = some (n, h, port) ∧ t.hub.rings.find? (·.1 == n) = if ring then some (n, v, 0) else none)

namespace Sys2Proof.Claims

open Sys2Proof.Machine

/-- Parcel j of a local store at an even offset, as fetched there (R5, R203). -/
def parcelAt (s : State) (c off j : Nat) : Parcel := BitVec.ofNat 16 (s.memNat (lsPA s c (off + 2 * j)) 2)

end Sys2Proof.Claims

/-- For one or more instructions of every family: the parcels whose bits are written out from the formats, the prefix payloads and
the opcode tables decode to that instruction, with every field in its place, and use all the parcels; unassigned opcodes trap with
ILLOP. -/
def Obligations.WordsDecode : Prop :=
  (∀ p ∈ [([0x0005#16], Instr.nop ⟨[], 5⟩), ([0x026B], .add ⟨[], 3, 5, 1⟩), ([0x0451], .addi ⟨[], 2, 17⟩),
      ([0xF003, 0x5224], .movi ⟨[.pxi 3], 1, 4⟩), ([0xF2E0, 0x4E24], .sel ⟨[.pxr 7 0 0], 1, 2, 0⟩),
      ([0xF238, 0x5008], .movToLoop ⟨[.pxr 1 3 0], 0, 4, 0⟩), ([0x6046], .fadd ⟨[], 2, 3, 0⟩), ([0x81FF], .br ⟨[], 0x1FF⟩),
      ([0x9810], .call ⟨[], 16⟩), ([0xF452, 0xB092], .ld ⟨[.pxm 1 1 0 2], 4, 9, 0⟩),
      ([0xF218, 0xC464], .cas ⟨[.pxr 0 3 0], 3, 2, 0⟩), ([0xE042], .futw ⟨[], 2, 1, 0⟩)], decode p.1 = .ok p.2 p.1.length) ∧
    (∀ p ∈ [([0xF680#16, 0x1231], Instr.vadd ⟨[], 1, 2, 3, 0, 1⟩),
      ([0xF8A2, 0xF6B0, 0x560F], .vld ⟨[.pxv 2 1 1 0], 5, 6, 0, 15⟩), ([0xFA07, 0xF6D0, 0x2FFC], .xbr ⟨[.pxx 7], 2, 0xFFC⟩),
      ([0xF704, 0x1230], .mma ⟨[], 1, 2, 3, 0⟩), ([0xF710, 0x1234], .cpy ⟨[], 1, 2, 3, 4⟩), ([0xF720, 0x1230], .spawn ⟨[], 1, 2, 3, 0⟩),
      ([0xF742, 0], .rte ⟨[], 0, 0, 0, 0⟩), ([0xF002, 0xF743, 0x3005], .csrr ⟨[.pxi 2], 3, 0, 0, 5⟩)],
      decode p.1 = .ok p.2 p.1.length) ∧
    decode [0xFFFF#16] = .trap 0x01 0 ∧ decode [0x5C00#16] = .trap 0x01 0 ∧ decode [0xF68F#16, 0] = .trap 0x01 0

/-- For every well-formed instruction i, whatever parcels follow: decoding its encoding gives i and uses exactly its parcels.
Conversely, when parcels decode to i, i is well-formed and its encoding is the parcels that the decoding used. So no bit of an
encoding is dropped, and no two encodings share an instruction. -/
def Obligations.EncodeAndDecodeAgree : Prop :=
  (∀ (i : Instr) (rest : List Parcel), i.WellFormed = true → decode (encode i ++ rest) = .ok i (encode i).length) ∧
    (∀ (ps : List Parcel) (i : Instr) (n : Nat), decode ps = .ok i n → i.WellFormed = true ∧ encode i = ps.take n ∧ n ≤ ps.length)

/-- With an event at the head of the agenda a step is exec of it on the state without it. With an empty agenda, on a running core
that may fetch: when the slots before n in the order of the pipe cannot issue and slot n can, nothing is due at its boundary, its
fetch gives the instruction i, and the pipe, the scoreboard and the streams permit it, a step is exec of i in slot n, which then
holds no translation, followed by the end of the opportunity; where the checker has found that the first execution does not match,
and neither a wait nor the limit of soft errors comes of it, a record of it is written as well (R463). An instruction that began
in an earlier attempt is not meant. A fetch at an even offset of the own core's local store, where its clock runs (R416), no block
is cached, no copy is under way and nothing refuses it, gives the instruction that the parcels there decode to, and changes only
the instruction cache. The agenda and the order of slots are the model's (log 8). -/
def Obligations.StepRunsTheInstruction : Prop :=
  (∀ (s : State) (i : Instr) (rest : List Instr), s.agenda = i :: rest → step s = exec i { s with agenda := rest }) ∧
    (∀ (s s' t : State) (n m : Nat) (l r : List Nat) (i : Instr),
      let c := s.focus
      let u := useOf i (fldOf i)
      s.agenda = [] → s.coreRuns c = true → s.fetchEnabled c = true → (s.core c).order = l ++ n :: r →
      (∀ j ∈ l, s.slotLive c j = false) → s.slotLive c n = true → s.boundary c n = none →
      (({ s with curCore := c, curSlot := n } : State).modSlot c n endWait).fetchSlot c n = (.instr i m, s') →
      (s'.core c).takesPage (i.page != 0) = true → scoreboardOk (s'.slot c n) u = true → streamsOk (s'.slot c n) u = true →
      exec i (({ s' with curCore := c, curSlot := n } : State).modCur fun t => { t with atVector := false }) = .next t →
      stillWaits (s'.slot c n) (t.slot c n) = false →
      (s.core c).upset = false → (s'.slot c n).begun = false → (t.slot c n).begun = false →
      let u := (t.dropMisses c n).issued c n (s'.core c).pipe
      ((s'.core c).mismatch = false → step s = .next (u.tick c)) ∧
      ((s'.core c).mismatch = true → (t.slot c n).atVector = false → (t.slot c n).wait = .none →
        (t.core c).softErrs + 1 < (t.core c).softBase + 64 → ∃ v : State, step s = .next v ∧ Claims.Recorded t v 0x82 ∧
        (v.core c).mismatch = false ∧ (v.slot c n).pc = (t.slot c n).pc)) ∧
    (∀ (s : State) (c slot h priv off n : Nat) (rc : Clock) (i : Instr),
      coreExists c = true → s.hub.package < 64 → (s.core c).view = false → (s.core c).icache = [] → (s.core c).pw.paused = false → s.latent = [] → off % 2 = 0 →
      (∀ k ∈ s.cores, ∀ e ∈ k.2.tongs, e.2.busy = false ∧ e.2.held = none) →
      off + 2 * n ≤ 2 ^ 18 → (∀ j, off / 8 * 8 ≤ j → j < (off + 2 * n + 7) / 8 * 8 → (s.core c).lsRefused j h priv false = false) →
      decode ((List.range n).map (Claims.parcelAt s c off)) = .ok i n →
      ∃ s' : State, s.fetch c slot h priv rc (windowVA c off) = (.instr i n, s') ∧ s'.mem = s.mem ∧
        s'.core c = { s.core c with icache := (s'.core c).icache } ∧ ∀ k, k ≠ c → s'.core k = s.core k)

/-- For every state whose memory lists its cells at strictly rising addresses and lists no cell that holds what an unlisted one
reads as: if a step answers a next state, the memory of that state has the same form. So equal memories are equal data, whatever
has run. The form is the model's (log 2). -/
def Obligations.MemoryKeepsItsForm : Prop :=
  ∀ s t : State, s.MemOk → step s = .next t → t.MemOk

/-- At reset no cell of memory is listed, so that its canonical form holds, no slot of any core is busy and no event is due; every
core is in boot test with LOGSIZE 2 and its banks owned by hearth 0, every cluster's AWEIGHT is 0x1111_1111, PLIMIT is 88 and
ACCEPT is not locked. What an unlisted byte reads as is the model's choice (log 2), and the agenda is the model's (log 8). -/
def Obligations.ResetState : Prop :=
  State.reset.MemOk ∧ State.reset.mem = [] ∧ State.reset.agenda = [] ∧ (∀ c n, (State.reset.slot c n).busy = false) ∧
    (∀ c, let k := State.reset.core c
      k.bootTest = true ∧ k.log.size = 2 ∧ k.lsown0 = 0 ∧ k.lsown1 = 0) ∧ (∀ c, (State.reset.cluster c).aweight = 0x11111111) ∧
    State.reset.hub.plimit = 88 ∧ State.reset.hub.locked = false
end

