-- ==== Sys2Proof/Laws/Map.lean ====
section
/-! SUPPORT. Lists of pairs as finite maps: what get? reads after del, place and put, and the rising order. -/

namespace Sys2Proof.Machine

variable {α : Type}

@[simp] theorem get?_nil (k : Nat) : get? ([] : List (Nat × α)) k = none := rfl
@[simp] theorem get_nil (d : α) (k : Nat) : get d ([] : List (Nat × α)) k = d := rfl

@[simp] theorem get?_del_same (m : List (Nat × α)) (k : Nat) : get? (del m k) k = none := by
  induction m with
  | nil => rfl
  | cons e r ih =>
    obtain ⟨i, a⟩ := e
    by_cases h : i = k <;> simp [del, get?, h, ih]

theorem get?_del_ne (m : List (Nat × α)) {k j : Nat} (h : j ≠ k) : get? (del m k) j = get? m j := by
  induction m with
  | nil => rfl
  | cons e r ih =>
    obtain ⟨i, a⟩ := e
    by_cases hk : i = k
    · subst hk; simp [del, get?, ih, Ne.symm h]
    · by_cases hj : i = j
      · subst hj; simp [del, get?, hk]
      · simp [del, get?, hk, hj, ih]

@[simp] theorem get?_place_same (m : List (Nat × α)) (k : Nat) (a : α) (h : get? m k = none) : get? (place m k a) k = some a := by
  induction m with
  | nil => simp [place, get?]
  | cons e r ih =>
    obtain ⟨i, b⟩ := e
    by_cases hi : i = k
    · simp [get?, hi] at h
    · have h' : get? r k = none := by simpa [get?, hi] using h
      by_cases hlt : k < i <;> simp [place, get?, hlt, hi, ih h']

theorem get?_place_ne (m : List (Nat × α)) {k j : Nat} (a : α) (h : j ≠ k) : get? (place m k a) j = get? m j := by
  induction m with
  | nil => simp [place, get?, Ne.symm h]
  | cons e r ih =>
    obtain ⟨i, b⟩ := e
    by_cases hlt : k < i
    · simp [place, get?, hlt, Ne.symm h]
    · by_cases hj : i = j
      · subst hj; simp [place, get?, hlt]
      · simp [place, get?, hlt, hj, ih]

@[simp] theorem get?_put_same (m : List (Nat × α)) (k : Nat) (a : α) : get? (put m k a) k = some a := by
  simp [put]

theorem get?_put_ne (m : List (Nat × α)) {k j : Nat} (a : α) (h : j ≠ k) : get? (put m k a) j = get? m j := by
  rw [put, get?_place_ne _ _ h, get?_del_ne _ h]

/-- A read after a write at the same index gives the value written. -/
@[simp] theorem get_put_same (d : α) (m : List (Nat × α)) (k : Nat) (a : α) : get d (put m k a) k = a := by
  simp [get]

/-- A write leaves every other index alone. -/
theorem get_put_ne (d : α) (m : List (Nat × α)) {k j : Nat} (a : α) (h : j ≠ k) : get d (put m k a) j = get d m j := by
  simp [get, get?_put_ne _ _ h]

theorem get_put (d : α) (m : List (Nat × α)) (k j : Nat) (a : α) : get d (put m k a) j = if j = k then a else get d m j := by
  by_cases h : j = k
  · subst h; simp
  · simp [get_put_ne _ _ _ h, h]

theorem get_del_same (d : α) (m : List (Nat × α)) (k : Nat) : get d (del m k) k = d := by simp [get]

theorem get_del_ne (d : α) (m : List (Nat × α)) {k j : Nat} (h : j ≠ k) : get d (del m k) j = get d m j := by
  simp [get, get?_del_ne _ h]

/-- The entries of a list without an index are entries of the list, at other indices. -/
theorem mem_del {m : List (Nat × α)} {k : Nat} {e : Nat × α} (h : e ∈ del m k) : e ∈ m ∧ e.1 ≠ k := by
  induction m with
  | nil => simp [del] at h
  | cons x r ih =>
    obtain ⟨i, a⟩ := x
    by_cases hi : i = k
    · rw [del, if_pos hi] at h
      exact ⟨List.mem_cons_of_mem _ (ih h).1, (ih h).2⟩
    · rw [del, if_neg hi] at h
      rcases List.mem_cons.mp h with rfl | h
      · exact ⟨List.mem_cons_self, hi⟩
      · exact ⟨List.mem_cons_of_mem _ (ih h).1, (ih h).2⟩

theorem mem_place {m : List (Nat × α)} {k : Nat} {a : α} {e : Nat × α} (h : e ∈ place m k a) : e = (k, a) ∨ e ∈ m := by
  induction m with
  | nil => simpa [place] using h
  | cons x r ih =>
    obtain ⟨i, b⟩ := x
    by_cases hlt : k < i
    · simpa [place, hlt] using h
    · rw [place, if_neg hlt] at h
      rcases List.mem_cons.mp h with rfl | h
      · exact .inr List.mem_cons_self
      · exact (ih h).imp id (List.mem_cons_of_mem _)

/-- Indices rise strictly. -/
def Rising (m : List (Nat × α)) : Prop := m.Pairwise fun a b => a.1 < b.1

theorem rising_del {m : List (Nat × α)} (k : Nat) (h : Rising m) : Rising (del m k) := by
  induction m with
  | nil => exact h
  | cons e r ih =>
    obtain ⟨i, a⟩ := e
    obtain ⟨h1, h2⟩ := List.pairwise_cons.mp h
    by_cases hi : i = k
    · rw [del, if_pos hi]; exact ih h2
    · rw [del, if_neg hi]
      exact List.pairwise_cons.mpr ⟨fun e he => h1 e (mem_del he).1, ih h2⟩

theorem rising_place {m : List (Nat × α)} {k : Nat} (a : α) (h : Rising m) (hk : ∀ e ∈ m, e.1 ≠ k) : Rising (place m k a) := by
  induction m with
  | nil => simp [place, Rising]
  | cons e r ih =>
    obtain ⟨i, b⟩ := e
    obtain ⟨h1, h2⟩ := List.pairwise_cons.mp h
    by_cases hlt : k < i
    · rw [place, if_pos hlt]
      refine List.pairwise_cons.mpr ⟨fun e he => ?_, h⟩
      rcases List.mem_cons.mp he with rfl | he
      · exact hlt
      · exact hlt.trans (h1 e he)
    · rw [place, if_neg hlt]
      have hne : i ≠ k := hk (i, b) List.mem_cons_self
      refine List.pairwise_cons.mpr ⟨fun e he => ?_, ih h2 fun e he => hk e (List.mem_cons_of_mem _ he)⟩
      rcases mem_place he with rfl | he
      · show i < k; omega
      · exact h1 e he

/-- A write keeps the rising order. -/
theorem rising_put {m : List (Nat × α)} (k : Nat) (a : α) (h : Rising m) : Rising (put m k a) :=
  rising_place a (rising_del k h) fun _ he => (mem_del he).2

end Sys2Proof.Machine
end

