-- ==== Sys2Proof/Laws/State.lean ====
section
/-! SUPPORT. What each update of the state leaves alone: one lemma for each field of State and each named update, and for the updates of
a slot. -/

namespace Sys2Proof.Machine

@[simp] theorem State.setCore_mem (s : State) (c : Nat) (k : Core) : (s.setCore c k).mem = s.mem := rfl
@[simp] theorem State.setCore_poison (s : State) (c : Nat) (k : Core) : (s.setCore c k).poison = s.poison := rfl
@[simp] theorem State.setCore_clusters (s : State) (c : Nat) (k : Core) : (s.setCore c k).clusters = s.clusters := rfl
@[simp] theorem State.setCore_dies (s : State) (c : Nat) (k : Core) : (s.setCore c k).dies = s.dies := rfl
@[simp] theorem State.setCore_homes (s : State) (c : Nat) (k : Core) : (s.setCore c k).homes = s.homes := rfl
@[simp] theorem State.setCore_hearths (s : State) (c : Nat) (k : Core) : (s.setCore c k).hearths = s.hearths := rfl
@[simp] theorem State.setCore_barriers (s : State) (c : Nat) (k : Core) : (s.setCore c k).barriers = s.barriers := rfl
@[simp] theorem State.setCore_hub (s : State) (c : Nat) (k : Core) : (s.setCore c k).hub = s.hub := rfl
@[simp] theorem State.setCore_pieces (s : State) (c : Nat) (k : Core) : (s.setCore c k).pieces = s.pieces := rfl
@[simp] theorem State.setCore_releases (s : State) (c : Nat) (k : Core) : (s.setCore c k).releases = s.releases := rfl
@[simp] theorem State.setCore_beacons (s : State) (c : Nat) (k : Core) : (s.setCore c k).beacons = s.beacons := rfl
@[simp] theorem State.setCore_reqs (s : State) (c : Nat) (k : Core) : (s.setCore c k).reqs = s.reqs := rfl
@[simp] theorem State.setCore_replies (s : State) (c : Nat) (k : Core) : (s.setCore c k).replies = s.replies := rfl
@[simp] theorem State.setCore_messages (s : State) (c : Nat) (k : Core) : (s.setCore c k).messages = s.messages := rfl
@[simp] theorem State.setCore_frames (s : State) (c : Nat) (k : Core) : (s.setCore c k).frames = s.frames := rfl
@[simp] theorem State.setCore_refused (s : State) (c : Nat) (k : Core) : (s.setCore c k).refused = s.refused := rfl
@[simp] theorem State.setCore_contWaits (s : State) (c : Nat) (k : Core) : (s.setCore c k).contWaits = s.contWaits := rfl
@[simp] theorem State.setCore_conts (s : State) (c : Nat) (k : Core) : (s.setCore c k).conts = s.conts := rfl
@[simp] theorem State.setCore_xadds (s : State) (c : Nat) (k : Core) : (s.setCore c k).xadds = s.xadds := rfl
@[simp] theorem State.setCore_agenda (s : State) (c : Nat) (k : Core) : (s.setCore c k).agenda = s.agenda := rfl
@[simp] theorem State.setCore_focus (s : State) (c : Nat) (k : Core) : (s.setCore c k).focus = s.focus := rfl
@[simp] theorem State.setCore_curCore (s : State) (c : Nat) (k : Core) : (s.setCore c k).curCore = s.curCore := rfl
@[simp] theorem State.setCore_curSlot (s : State) (c : Nat) (k : Core) : (s.setCore c k).curSlot = s.curSlot := rfl
@[simp] theorem State.setCore_nextId (s : State) (c : Nat) (k : Core) : (s.setCore c k).nextId = s.nextId := rfl
@[simp] theorem State.setCore_freeCtr (s : State) (c : Nat) (k : Core) : (s.setCore c k).freeCtr = s.freeCtr := rfl
@[simp] theorem State.setCore_stuck (s : State) (c : Nat) (k : Core) : (s.setCore c k).stuck = s.stuck := rfl
@[simp] theorem State.setCore_latent (s : State) (c : Nat) (k : Core) : (s.setCore c k).latent = s.latent := rfl
@[simp] theorem State.setCore_crossings (s : State) (c : Nat) (k : Core) : (s.setCore c k).crossings = s.crossings := rfl

@[simp] theorem State.modCore_mem (s : State) (c : Nat) (f : Core → Core) : (s.modCore c f).mem = s.mem := rfl
@[simp] theorem State.modCore_poison (s : State) (c : Nat) (f : Core → Core) : (s.modCore c f).poison = s.poison := rfl
@[simp] theorem State.modCore_clusters (s : State) (c : Nat) (f : Core → Core) : (s.modCore c f).clusters = s.clusters := rfl
@[simp] theorem State.modCore_dies (s : State) (c : Nat) (f : Core → Core) : (s.modCore c f).dies = s.dies := rfl
@[simp] theorem State.modCore_homes (s : State) (c : Nat) (f : Core → Core) : (s.modCore c f).homes = s.homes := rfl
@[simp] theorem State.modCore_hearths (s : State) (c : Nat) (f : Core → Core) : (s.modCore c f).hearths = s.hearths := rfl
@[simp] theorem State.modCore_barriers (s : State) (c : Nat) (f : Core → Core) : (s.modCore c f).barriers = s.barriers := rfl
@[simp] theorem State.modCore_hub (s : State) (c : Nat) (f : Core → Core) : (s.modCore c f).hub = s.hub := rfl
@[simp] theorem State.modCore_pieces (s : State) (c : Nat) (f : Core → Core) : (s.modCore c f).pieces = s.pieces := rfl
@[simp] theorem State.modCore_releases (s : State) (c : Nat) (f : Core → Core) : (s.modCore c f).releases = s.releases := rfl
@[simp] theorem State.modCore_beacons (s : State) (c : Nat) (f : Core → Core) : (s.modCore c f).beacons = s.beacons := rfl
@[simp] theorem State.modCore_reqs (s : State) (c : Nat) (f : Core → Core) : (s.modCore c f).reqs = s.reqs := rfl
@[simp] theorem State.modCore_replies (s : State) (c : Nat) (f : Core → Core) : (s.modCore c f).replies = s.replies := rfl
@[simp] theorem State.modCore_messages (s : State) (c : Nat) (f : Core → Core) : (s.modCore c f).messages = s.messages := rfl
@[simp] theorem State.modCore_frames (s : State) (c : Nat) (f : Core → Core) : (s.modCore c f).frames = s.frames := rfl
@[simp] theorem State.modCore_refused (s : State) (c : Nat) (f : Core → Core) : (s.modCore c f).refused = s.refused := rfl
@[simp] theorem State.modCore_contWaits (s : State) (c : Nat) (f : Core → Core) : (s.modCore c f).contWaits = s.contWaits := rfl
@[simp] theorem State.modCore_conts (s : State) (c : Nat) (f : Core → Core) : (s.modCore c f).conts = s.conts := rfl
@[simp] theorem State.modCore_xadds (s : State) (c : Nat) (f : Core → Core) : (s.modCore c f).xadds = s.xadds := rfl
@[simp] theorem State.modCore_agenda (s : State) (c : Nat) (f : Core → Core) : (s.modCore c f).agenda = s.agenda := rfl
@[simp] theorem State.modCore_focus (s : State) (c : Nat) (f : Core → Core) : (s.modCore c f).focus = s.focus := rfl
@[simp] theorem State.modCore_curCore (s : State) (c : Nat) (f : Core → Core) : (s.modCore c f).curCore = s.curCore := rfl
@[simp] theorem State.modCore_curSlot (s : State) (c : Nat) (f : Core → Core) : (s.modCore c f).curSlot = s.curSlot := rfl
@[simp] theorem State.modCore_nextId (s : State) (c : Nat) (f : Core → Core) : (s.modCore c f).nextId = s.nextId := rfl
@[simp] theorem State.modCore_freeCtr (s : State) (c : Nat) (f : Core → Core) : (s.modCore c f).freeCtr = s.freeCtr := rfl
@[simp] theorem State.modCore_stuck (s : State) (c : Nat) (f : Core → Core) : (s.modCore c f).stuck = s.stuck := rfl
@[simp] theorem State.modCore_latent (s : State) (c : Nat) (f : Core → Core) : (s.modCore c f).latent = s.latent := rfl
@[simp] theorem State.modCore_crossings (s : State) (c : Nat) (f : Core → Core) : (s.modCore c f).crossings = s.crossings := rfl

@[simp] theorem State.setSlot_mem (s : State) (c n : Nat) (t : Slot) : (s.setSlot c n t).mem = s.mem := rfl
@[simp] theorem State.setSlot_poison (s : State) (c n : Nat) (t : Slot) : (s.setSlot c n t).poison = s.poison := rfl
@[simp] theorem State.setSlot_clusters (s : State) (c n : Nat) (t : Slot) : (s.setSlot c n t).clusters = s.clusters := rfl
@[simp] theorem State.setSlot_dies (s : State) (c n : Nat) (t : Slot) : (s.setSlot c n t).dies = s.dies := rfl
@[simp] theorem State.setSlot_homes (s : State) (c n : Nat) (t : Slot) : (s.setSlot c n t).homes = s.homes := rfl
@[simp] theorem State.setSlot_hearths (s : State) (c n : Nat) (t : Slot) : (s.setSlot c n t).hearths = s.hearths := rfl
@[simp] theorem State.setSlot_barriers (s : State) (c n : Nat) (t : Slot) : (s.setSlot c n t).barriers = s.barriers := rfl
@[simp] theorem State.setSlot_hub (s : State) (c n : Nat) (t : Slot) : (s.setSlot c n t).hub = s.hub := rfl
@[simp] theorem State.setSlot_pieces (s : State) (c n : Nat) (t : Slot) : (s.setSlot c n t).pieces = s.pieces := rfl
@[simp] theorem State.setSlot_releases (s : State) (c n : Nat) (t : Slot) : (s.setSlot c n t).releases = s.releases := rfl
@[simp] theorem State.setSlot_beacons (s : State) (c n : Nat) (t : Slot) : (s.setSlot c n t).beacons = s.beacons := rfl
@[simp] theorem State.setSlot_reqs (s : State) (c n : Nat) (t : Slot) : (s.setSlot c n t).reqs = s.reqs := rfl
@[simp] theorem State.setSlot_replies (s : State) (c n : Nat) (t : Slot) : (s.setSlot c n t).replies = s.replies := rfl
@[simp] theorem State.setSlot_messages (s : State) (c n : Nat) (t : Slot) : (s.setSlot c n t).messages = s.messages := rfl
@[simp] theorem State.setSlot_frames (s : State) (c n : Nat) (t : Slot) : (s.setSlot c n t).frames = s.frames := rfl
@[simp] theorem State.setSlot_refused (s : State) (c n : Nat) (t : Slot) : (s.setSlot c n t).refused = s.refused := rfl
@[simp] theorem State.setSlot_contWaits (s : State) (c n : Nat) (t : Slot) : (s.setSlot c n t).contWaits = s.contWaits := rfl
@[simp] theorem State.setSlot_conts (s : State) (c n : Nat) (t : Slot) : (s.setSlot c n t).conts = s.conts := rfl
@[simp] theorem State.setSlot_xadds (s : State) (c n : Nat) (t : Slot) : (s.setSlot c n t).xadds = s.xadds := rfl
@[simp] theorem State.setSlot_agenda (s : State) (c n : Nat) (t : Slot) : (s.setSlot c n t).agenda = s.agenda := rfl
@[simp] theorem State.setSlot_focus (s : State) (c n : Nat) (t : Slot) : (s.setSlot c n t).focus = s.focus := rfl
@[simp] theorem State.setSlot_curCore (s : State) (c n : Nat) (t : Slot) : (s.setSlot c n t).curCore = s.curCore := rfl
@[simp] theorem State.setSlot_curSlot (s : State) (c n : Nat) (t : Slot) : (s.setSlot c n t).curSlot = s.curSlot := rfl
@[simp] theorem State.setSlot_nextId (s : State) (c n : Nat) (t : Slot) : (s.setSlot c n t).nextId = s.nextId := rfl
@[simp] theorem State.setSlot_freeCtr (s : State) (c n : Nat) (t : Slot) : (s.setSlot c n t).freeCtr = s.freeCtr := rfl
@[simp] theorem State.setSlot_stuck (s : State) (c n : Nat) (t : Slot) : (s.setSlot c n t).stuck = s.stuck := rfl
@[simp] theorem State.setSlot_latent (s : State) (c n : Nat) (t : Slot) : (s.setSlot c n t).latent = s.latent := rfl
@[simp] theorem State.setSlot_crossings (s : State) (c n : Nat) (t : Slot) : (s.setSlot c n t).crossings = s.crossings := rfl

@[simp] theorem State.modSlot_mem (s : State) (c n : Nat) (f : Slot → Slot) : (s.modSlot c n f).mem = s.mem := rfl
@[simp] theorem State.modSlot_poison (s : State) (c n : Nat) (f : Slot → Slot) : (s.modSlot c n f).poison = s.poison := rfl
@[simp] theorem State.modSlot_clusters (s : State) (c n : Nat) (f : Slot → Slot) : (s.modSlot c n f).clusters = s.clusters := rfl
@[simp] theorem State.modSlot_dies (s : State) (c n : Nat) (f : Slot → Slot) : (s.modSlot c n f).dies = s.dies := rfl
@[simp] theorem State.modSlot_homes (s : State) (c n : Nat) (f : Slot → Slot) : (s.modSlot c n f).homes = s.homes := rfl
@[simp] theorem State.modSlot_hearths (s : State) (c n : Nat) (f : Slot → Slot) : (s.modSlot c n f).hearths = s.hearths := rfl
@[simp] theorem State.modSlot_barriers (s : State) (c n : Nat) (f : Slot → Slot) : (s.modSlot c n f).barriers = s.barriers := rfl
@[simp] theorem State.modSlot_hub (s : State) (c n : Nat) (f : Slot → Slot) : (s.modSlot c n f).hub = s.hub := rfl
@[simp] theorem State.modSlot_pieces (s : State) (c n : Nat) (f : Slot → Slot) : (s.modSlot c n f).pieces = s.pieces := rfl
@[simp] theorem State.modSlot_releases (s : State) (c n : Nat) (f : Slot → Slot) : (s.modSlot c n f).releases = s.releases := rfl
@[simp] theorem State.modSlot_beacons (s : State) (c n : Nat) (f : Slot → Slot) : (s.modSlot c n f).beacons = s.beacons := rfl
@[simp] theorem State.modSlot_reqs (s : State) (c n : Nat) (f : Slot → Slot) : (s.modSlot c n f).reqs = s.reqs := rfl
@[simp] theorem State.modSlot_replies (s : State) (c n : Nat) (f : Slot → Slot) : (s.modSlot c n f).replies = s.replies := rfl
@[simp] theorem State.modSlot_messages (s : State) (c n : Nat) (f : Slot → Slot) : (s.modSlot c n f).messages = s.messages := rfl
@[simp] theorem State.modSlot_frames (s : State) (c n : Nat) (f : Slot → Slot) : (s.modSlot c n f).frames = s.frames := rfl
@[simp] theorem State.modSlot_refused (s : State) (c n : Nat) (f : Slot → Slot) : (s.modSlot c n f).refused = s.refused := rfl
@[simp] theorem State.modSlot_contWaits (s : State) (c n : Nat) (f : Slot → Slot) : (s.modSlot c n f).contWaits = s.contWaits := rfl
@[simp] theorem State.modSlot_conts (s : State) (c n : Nat) (f : Slot → Slot) : (s.modSlot c n f).conts = s.conts := rfl
@[simp] theorem State.modSlot_xadds (s : State) (c n : Nat) (f : Slot → Slot) : (s.modSlot c n f).xadds = s.xadds := rfl
@[simp] theorem State.modSlot_agenda (s : State) (c n : Nat) (f : Slot → Slot) : (s.modSlot c n f).agenda = s.agenda := rfl
@[simp] theorem State.modSlot_focus (s : State) (c n : Nat) (f : Slot → Slot) : (s.modSlot c n f).focus = s.focus := rfl
@[simp] theorem State.modSlot_curCore (s : State) (c n : Nat) (f : Slot → Slot) : (s.modSlot c n f).curCore = s.curCore := rfl
@[simp] theorem State.modSlot_curSlot (s : State) (c n : Nat) (f : Slot → Slot) : (s.modSlot c n f).curSlot = s.curSlot := rfl
@[simp] theorem State.modSlot_nextId (s : State) (c n : Nat) (f : Slot → Slot) : (s.modSlot c n f).nextId = s.nextId := rfl
@[simp] theorem State.modSlot_freeCtr (s : State) (c n : Nat) (f : Slot → Slot) : (s.modSlot c n f).freeCtr = s.freeCtr := rfl
@[simp] theorem State.modSlot_stuck (s : State) (c n : Nat) (f : Slot → Slot) : (s.modSlot c n f).stuck = s.stuck := rfl
@[simp] theorem State.modSlot_latent (s : State) (c n : Nat) (f : Slot → Slot) : (s.modSlot c n f).latent = s.latent := rfl
@[simp] theorem State.modSlot_crossings (s : State) (c n : Nat) (f : Slot → Slot) : (s.modSlot c n f).crossings = s.crossings := rfl

@[simp] theorem State.modCur_mem (s : State) (f : Slot → Slot) : (s.modCur f).mem = s.mem := rfl
@[simp] theorem State.modCur_poison (s : State) (f : Slot → Slot) : (s.modCur f).poison = s.poison := rfl
@[simp] theorem State.modCur_clusters (s : State) (f : Slot → Slot) : (s.modCur f).clusters = s.clusters := rfl
@[simp] theorem State.modCur_dies (s : State) (f : Slot → Slot) : (s.modCur f).dies = s.dies := rfl
@[simp] theorem State.modCur_homes (s : State) (f : Slot → Slot) : (s.modCur f).homes = s.homes := rfl
@[simp] theorem State.modCur_hearths (s : State) (f : Slot → Slot) : (s.modCur f).hearths = s.hearths := rfl
@[simp] theorem State.modCur_barriers (s : State) (f : Slot → Slot) : (s.modCur f).barriers = s.barriers := rfl
@[simp] theorem State.modCur_hub (s : State) (f : Slot → Slot) : (s.modCur f).hub = s.hub := rfl
@[simp] theorem State.modCur_pieces (s : State) (f : Slot → Slot) : (s.modCur f).pieces = s.pieces := rfl
@[simp] theorem State.modCur_releases (s : State) (f : Slot → Slot) : (s.modCur f).releases = s.releases := rfl
@[simp] theorem State.modCur_beacons (s : State) (f : Slot → Slot) : (s.modCur f).beacons = s.beacons := rfl
@[simp] theorem State.modCur_reqs (s : State) (f : Slot → Slot) : (s.modCur f).reqs = s.reqs := rfl
@[simp] theorem State.modCur_replies (s : State) (f : Slot → Slot) : (s.modCur f).replies = s.replies := rfl
@[simp] theorem State.modCur_messages (s : State) (f : Slot → Slot) : (s.modCur f).messages = s.messages := rfl
@[simp] theorem State.modCur_frames (s : State) (f : Slot → Slot) : (s.modCur f).frames = s.frames := rfl
@[simp] theorem State.modCur_refused (s : State) (f : Slot → Slot) : (s.modCur f).refused = s.refused := rfl
@[simp] theorem State.modCur_contWaits (s : State) (f : Slot → Slot) : (s.modCur f).contWaits = s.contWaits := rfl
@[simp] theorem State.modCur_conts (s : State) (f : Slot → Slot) : (s.modCur f).conts = s.conts := rfl
@[simp] theorem State.modCur_xadds (s : State) (f : Slot → Slot) : (s.modCur f).xadds = s.xadds := rfl
@[simp] theorem State.modCur_agenda (s : State) (f : Slot → Slot) : (s.modCur f).agenda = s.agenda := rfl
@[simp] theorem State.modCur_focus (s : State) (f : Slot → Slot) : (s.modCur f).focus = s.focus := rfl
@[simp] theorem State.modCur_curCore (s : State) (f : Slot → Slot) : (s.modCur f).curCore = s.curCore := rfl
@[simp] theorem State.modCur_curSlot (s : State) (f : Slot → Slot) : (s.modCur f).curSlot = s.curSlot := rfl
@[simp] theorem State.modCur_nextId (s : State) (f : Slot → Slot) : (s.modCur f).nextId = s.nextId := rfl
@[simp] theorem State.modCur_freeCtr (s : State) (f : Slot → Slot) : (s.modCur f).freeCtr = s.freeCtr := rfl
@[simp] theorem State.modCur_stuck (s : State) (f : Slot → Slot) : (s.modCur f).stuck = s.stuck := rfl
@[simp] theorem State.modCur_latent (s : State) (f : Slot → Slot) : (s.modCur f).latent = s.latent := rfl
@[simp] theorem State.modCur_crossings (s : State) (f : Slot → Slot) : (s.modCur f).crossings = s.crossings := rfl

@[simp] theorem State.modCurK_mem (s : State) (f : Core → Core) : (s.modCurK f).mem = s.mem := rfl
@[simp] theorem State.modCurK_poison (s : State) (f : Core → Core) : (s.modCurK f).poison = s.poison := rfl
@[simp] theorem State.modCurK_clusters (s : State) (f : Core → Core) : (s.modCurK f).clusters = s.clusters := rfl
@[simp] theorem State.modCurK_dies (s : State) (f : Core → Core) : (s.modCurK f).dies = s.dies := rfl
@[simp] theorem State.modCurK_homes (s : State) (f : Core → Core) : (s.modCurK f).homes = s.homes := rfl
@[simp] theorem State.modCurK_hearths (s : State) (f : Core → Core) : (s.modCurK f).hearths = s.hearths := rfl
@[simp] theorem State.modCurK_barriers (s : State) (f : Core → Core) : (s.modCurK f).barriers = s.barriers := rfl
@[simp] theorem State.modCurK_hub (s : State) (f : Core → Core) : (s.modCurK f).hub = s.hub := rfl
@[simp] theorem State.modCurK_pieces (s : State) (f : Core → Core) : (s.modCurK f).pieces = s.pieces := rfl
@[simp] theorem State.modCurK_releases (s : State) (f : Core → Core) : (s.modCurK f).releases = s.releases := rfl
@[simp] theorem State.modCurK_beacons (s : State) (f : Core → Core) : (s.modCurK f).beacons = s.beacons := rfl
@[simp] theorem State.modCurK_reqs (s : State) (f : Core → Core) : (s.modCurK f).reqs = s.reqs := rfl
@[simp] theorem State.modCurK_replies (s : State) (f : Core → Core) : (s.modCurK f).replies = s.replies := rfl
@[simp] theorem State.modCurK_messages (s : State) (f : Core → Core) : (s.modCurK f).messages = s.messages := rfl
@[simp] theorem State.modCurK_frames (s : State) (f : Core → Core) : (s.modCurK f).frames = s.frames := rfl
@[simp] theorem State.modCurK_refused (s : State) (f : Core → Core) : (s.modCurK f).refused = s.refused := rfl
@[simp] theorem State.modCurK_contWaits (s : State) (f : Core → Core) : (s.modCurK f).contWaits = s.contWaits := rfl
@[simp] theorem State.modCurK_conts (s : State) (f : Core → Core) : (s.modCurK f).conts = s.conts := rfl
@[simp] theorem State.modCurK_xadds (s : State) (f : Core → Core) : (s.modCurK f).xadds = s.xadds := rfl
@[simp] theorem State.modCurK_agenda (s : State) (f : Core → Core) : (s.modCurK f).agenda = s.agenda := rfl
@[simp] theorem State.modCurK_focus (s : State) (f : Core → Core) : (s.modCurK f).focus = s.focus := rfl
@[simp] theorem State.modCurK_curCore (s : State) (f : Core → Core) : (s.modCurK f).curCore = s.curCore := rfl
@[simp] theorem State.modCurK_curSlot (s : State) (f : Core → Core) : (s.modCurK f).curSlot = s.curSlot := rfl
@[simp] theorem State.modCurK_nextId (s : State) (f : Core → Core) : (s.modCurK f).nextId = s.nextId := rfl
@[simp] theorem State.modCurK_freeCtr (s : State) (f : Core → Core) : (s.modCurK f).freeCtr = s.freeCtr := rfl
@[simp] theorem State.modCurK_stuck (s : State) (f : Core → Core) : (s.modCurK f).stuck = s.stuck := rfl
@[simp] theorem State.modCurK_latent (s : State) (f : Core → Core) : (s.modCurK f).latent = s.latent := rfl
@[simp] theorem State.modCurK_crossings (s : State) (f : Core → Core) : (s.modCurK f).crossings = s.crossings := rfl

@[simp] theorem State.modHearth_mem (s : State) (h : Nat) (f : Hearth → Hearth) : (s.modHearth h f).mem = s.mem := rfl
@[simp] theorem State.modHearth_poison (s : State) (h : Nat) (f : Hearth → Hearth) : (s.modHearth h f).poison = s.poison := rfl
@[simp] theorem State.modHearth_cores (s : State) (h : Nat) (f : Hearth → Hearth) : (s.modHearth h f).cores = s.cores := rfl
@[simp] theorem State.modHearth_clusters (s : State) (h : Nat) (f : Hearth → Hearth) : (s.modHearth h f).clusters = s.clusters := rfl
@[simp] theorem State.modHearth_dies (s : State) (h : Nat) (f : Hearth → Hearth) : (s.modHearth h f).dies = s.dies := rfl
@[simp] theorem State.modHearth_homes (s : State) (h : Nat) (f : Hearth → Hearth) : (s.modHearth h f).homes = s.homes := rfl
@[simp] theorem State.modHearth_barriers (s : State) (h : Nat) (f : Hearth → Hearth) : (s.modHearth h f).barriers = s.barriers := rfl
@[simp] theorem State.modHearth_hub (s : State) (h : Nat) (f : Hearth → Hearth) : (s.modHearth h f).hub = s.hub := rfl
@[simp] theorem State.modHearth_pieces (s : State) (h : Nat) (f : Hearth → Hearth) : (s.modHearth h f).pieces = s.pieces := rfl
@[simp] theorem State.modHearth_releases (s : State) (h : Nat) (f : Hearth → Hearth) : (s.modHearth h f).releases = s.releases := rfl
@[simp] theorem State.modHearth_beacons (s : State) (h : Nat) (f : Hearth → Hearth) : (s.modHearth h f).beacons = s.beacons := rfl
@[simp] theorem State.modHearth_reqs (s : State) (h : Nat) (f : Hearth → Hearth) : (s.modHearth h f).reqs = s.reqs := rfl
@[simp] theorem State.modHearth_replies (s : State) (h : Nat) (f : Hearth → Hearth) : (s.modHearth h f).replies = s.replies := rfl
@[simp] theorem State.modHearth_messages (s : State) (h : Nat) (f : Hearth → Hearth) : (s.modHearth h f).messages = s.messages := rfl
@[simp] theorem State.modHearth_frames (s : State) (h : Nat) (f : Hearth → Hearth) : (s.modHearth h f).frames = s.frames := rfl
@[simp] theorem State.modHearth_refused (s : State) (h : Nat) (f : Hearth → Hearth) : (s.modHearth h f).refused = s.refused := rfl
@[simp] theorem State.modHearth_contWaits (s : State) (h : Nat) (f : Hearth → Hearth) : (s.modHearth h f).contWaits = s.contWaits := rfl
@[simp] theorem State.modHearth_conts (s : State) (h : Nat) (f : Hearth → Hearth) : (s.modHearth h f).conts = s.conts := rfl
@[simp] theorem State.modHearth_xadds (s : State) (h : Nat) (f : Hearth → Hearth) : (s.modHearth h f).xadds = s.xadds := rfl
@[simp] theorem State.modHearth_agenda (s : State) (h : Nat) (f : Hearth → Hearth) : (s.modHearth h f).agenda = s.agenda := rfl
@[simp] theorem State.modHearth_focus (s : State) (h : Nat) (f : Hearth → Hearth) : (s.modHearth h f).focus = s.focus := rfl
@[simp] theorem State.modHearth_curCore (s : State) (h : Nat) (f : Hearth → Hearth) : (s.modHearth h f).curCore = s.curCore := rfl
@[simp] theorem State.modHearth_curSlot (s : State) (h : Nat) (f : Hearth → Hearth) : (s.modHearth h f).curSlot = s.curSlot := rfl
@[simp] theorem State.modHearth_nextId (s : State) (h : Nat) (f : Hearth → Hearth) : (s.modHearth h f).nextId = s.nextId := rfl
@[simp] theorem State.modHearth_freeCtr (s : State) (h : Nat) (f : Hearth → Hearth) : (s.modHearth h f).freeCtr = s.freeCtr := rfl
@[simp] theorem State.modHearth_stuck (s : State) (h : Nat) (f : Hearth → Hearth) : (s.modHearth h f).stuck = s.stuck := rfl
@[simp] theorem State.modHearth_latent (s : State) (h : Nat) (f : Hearth → Hearth) : (s.modHearth h f).latent = s.latent := rfl
@[simp] theorem State.modHearth_crossings (s : State) (h : Nat) (f : Hearth → Hearth) : (s.modHearth h f).crossings = s.crossings := rfl

@[simp] theorem State.modCluster_mem (s : State) (c : Nat) (f : Cluster → Cluster) : (s.modCluster c f).mem = s.mem := rfl
@[simp] theorem State.modCluster_poison (s : State) (c : Nat) (f : Cluster → Cluster) : (s.modCluster c f).poison = s.poison := rfl
@[simp] theorem State.modCluster_cores (s : State) (c : Nat) (f : Cluster → Cluster) : (s.modCluster c f).cores = s.cores := rfl
@[simp] theorem State.modCluster_dies (s : State) (c : Nat) (f : Cluster → Cluster) : (s.modCluster c f).dies = s.dies := rfl
@[simp] theorem State.modCluster_homes (s : State) (c : Nat) (f : Cluster → Cluster) : (s.modCluster c f).homes = s.homes := rfl
@[simp] theorem State.modCluster_hearths (s : State) (c : Nat) (f : Cluster → Cluster) : (s.modCluster c f).hearths = s.hearths := rfl
@[simp] theorem State.modCluster_barriers (s : State) (c : Nat) (f : Cluster → Cluster) : (s.modCluster c f).barriers = s.barriers := rfl
@[simp] theorem State.modCluster_hub (s : State) (c : Nat) (f : Cluster → Cluster) : (s.modCluster c f).hub = s.hub := rfl
@[simp] theorem State.modCluster_pieces (s : State) (c : Nat) (f : Cluster → Cluster) : (s.modCluster c f).pieces = s.pieces := rfl
@[simp] theorem State.modCluster_releases (s : State) (c : Nat) (f : Cluster → Cluster) : (s.modCluster c f).releases = s.releases := rfl
@[simp] theorem State.modCluster_beacons (s : State) (c : Nat) (f : Cluster → Cluster) : (s.modCluster c f).beacons = s.beacons := rfl
@[simp] theorem State.modCluster_reqs (s : State) (c : Nat) (f : Cluster → Cluster) : (s.modCluster c f).reqs = s.reqs := rfl
@[simp] theorem State.modCluster_replies (s : State) (c : Nat) (f : Cluster → Cluster) : (s.modCluster c f).replies = s.replies := rfl
@[simp] theorem State.modCluster_messages (s : State) (c : Nat) (f : Cluster → Cluster) : (s.modCluster c f).messages = s.messages := rfl
@[simp] theorem State.modCluster_frames (s : State) (c : Nat) (f : Cluster → Cluster) : (s.modCluster c f).frames = s.frames := rfl
@[simp] theorem State.modCluster_refused (s : State) (c : Nat) (f : Cluster → Cluster) : (s.modCluster c f).refused = s.refused := rfl
@[simp] theorem State.modCluster_contWaits (s : State) (c : Nat) (f : Cluster → Cluster) : (s.modCluster c f).contWaits = s.contWaits := rfl
@[simp] theorem State.modCluster_conts (s : State) (c : Nat) (f : Cluster → Cluster) : (s.modCluster c f).conts = s.conts := rfl
@[simp] theorem State.modCluster_xadds (s : State) (c : Nat) (f : Cluster → Cluster) : (s.modCluster c f).xadds = s.xadds := rfl
@[simp] theorem State.modCluster_agenda (s : State) (c : Nat) (f : Cluster → Cluster) : (s.modCluster c f).agenda = s.agenda := rfl
@[simp] theorem State.modCluster_focus (s : State) (c : Nat) (f : Cluster → Cluster) : (s.modCluster c f).focus = s.focus := rfl
@[simp] theorem State.modCluster_curCore (s : State) (c : Nat) (f : Cluster → Cluster) : (s.modCluster c f).curCore = s.curCore := rfl
@[simp] theorem State.modCluster_curSlot (s : State) (c : Nat) (f : Cluster → Cluster) : (s.modCluster c f).curSlot = s.curSlot := rfl
@[simp] theorem State.modCluster_nextId (s : State) (c : Nat) (f : Cluster → Cluster) : (s.modCluster c f).nextId = s.nextId := rfl
@[simp] theorem State.modCluster_freeCtr (s : State) (c : Nat) (f : Cluster → Cluster) : (s.modCluster c f).freeCtr = s.freeCtr := rfl
@[simp] theorem State.modCluster_stuck (s : State) (c : Nat) (f : Cluster → Cluster) : (s.modCluster c f).stuck = s.stuck := rfl
@[simp] theorem State.modCluster_latent (s : State) (c : Nat) (f : Cluster → Cluster) : (s.modCluster c f).latent = s.latent := rfl
@[simp] theorem State.modCluster_crossings (s : State) (c : Nat) (f : Cluster → Cluster) : (s.modCluster c f).crossings = s.crossings := rfl

@[simp] theorem State.modDie_mem (s : State) (d : Nat) (f : Die → Die) : (s.modDie d f).mem = s.mem := rfl
@[simp] theorem State.modDie_poison (s : State) (d : Nat) (f : Die → Die) : (s.modDie d f).poison = s.poison := rfl
@[simp] theorem State.modDie_cores (s : State) (d : Nat) (f : Die → Die) : (s.modDie d f).cores = s.cores := rfl
@[simp] theorem State.modDie_clusters (s : State) (d : Nat) (f : Die → Die) : (s.modDie d f).clusters = s.clusters := rfl
@[simp] theorem State.modDie_homes (s : State) (d : Nat) (f : Die → Die) : (s.modDie d f).homes = s.homes := rfl
@[simp] theorem State.modDie_hearths (s : State) (d : Nat) (f : Die → Die) : (s.modDie d f).hearths = s.hearths := rfl
@[simp] theorem State.modDie_barriers (s : State) (d : Nat) (f : Die → Die) : (s.modDie d f).barriers = s.barriers := rfl
@[simp] theorem State.modDie_hub (s : State) (d : Nat) (f : Die → Die) : (s.modDie d f).hub = s.hub := rfl
@[simp] theorem State.modDie_pieces (s : State) (d : Nat) (f : Die → Die) : (s.modDie d f).pieces = s.pieces := rfl
@[simp] theorem State.modDie_releases (s : State) (d : Nat) (f : Die → Die) : (s.modDie d f).releases = s.releases := rfl
@[simp] theorem State.modDie_beacons (s : State) (d : Nat) (f : Die → Die) : (s.modDie d f).beacons = s.beacons := rfl
@[simp] theorem State.modDie_reqs (s : State) (d : Nat) (f : Die → Die) : (s.modDie d f).reqs = s.reqs := rfl
@[simp] theorem State.modDie_replies (s : State) (d : Nat) (f : Die → Die) : (s.modDie d f).replies = s.replies := rfl
@[simp] theorem State.modDie_messages (s : State) (d : Nat) (f : Die → Die) : (s.modDie d f).messages = s.messages := rfl
@[simp] theorem State.modDie_frames (s : State) (d : Nat) (f : Die → Die) : (s.modDie d f).frames = s.frames := rfl
@[simp] theorem State.modDie_refused (s : State) (d : Nat) (f : Die → Die) : (s.modDie d f).refused = s.refused := rfl
@[simp] theorem State.modDie_contWaits (s : State) (d : Nat) (f : Die → Die) : (s.modDie d f).contWaits = s.contWaits := rfl
@[simp] theorem State.modDie_conts (s : State) (d : Nat) (f : Die → Die) : (s.modDie d f).conts = s.conts := rfl
@[simp] theorem State.modDie_xadds (s : State) (d : Nat) (f : Die → Die) : (s.modDie d f).xadds = s.xadds := rfl
@[simp] theorem State.modDie_agenda (s : State) (d : Nat) (f : Die → Die) : (s.modDie d f).agenda = s.agenda := rfl
@[simp] theorem State.modDie_focus (s : State) (d : Nat) (f : Die → Die) : (s.modDie d f).focus = s.focus := rfl
@[simp] theorem State.modDie_curCore (s : State) (d : Nat) (f : Die → Die) : (s.modDie d f).curCore = s.curCore := rfl
@[simp] theorem State.modDie_curSlot (s : State) (d : Nat) (f : Die → Die) : (s.modDie d f).curSlot = s.curSlot := rfl
@[simp] theorem State.modDie_nextId (s : State) (d : Nat) (f : Die → Die) : (s.modDie d f).nextId = s.nextId := rfl
@[simp] theorem State.modDie_freeCtr (s : State) (d : Nat) (f : Die → Die) : (s.modDie d f).freeCtr = s.freeCtr := rfl
@[simp] theorem State.modDie_stuck (s : State) (d : Nat) (f : Die → Die) : (s.modDie d f).stuck = s.stuck := rfl
@[simp] theorem State.modDie_latent (s : State) (d : Nat) (f : Die → Die) : (s.modDie d f).latent = s.latent := rfl
@[simp] theorem State.modDie_crossings (s : State) (d : Nat) (f : Die → Die) : (s.modDie d f).crossings = s.crossings := rfl

@[simp] theorem State.modHome_mem (s : State) (h : Nat) (f : Home → Home) : (s.modHome h f).mem = s.mem := rfl
@[simp] theorem State.modHome_poison (s : State) (h : Nat) (f : Home → Home) : (s.modHome h f).poison = s.poison := rfl
@[simp] theorem State.modHome_cores (s : State) (h : Nat) (f : Home → Home) : (s.modHome h f).cores = s.cores := rfl
@[simp] theorem State.modHome_clusters (s : State) (h : Nat) (f : Home → Home) : (s.modHome h f).clusters = s.clusters := rfl
@[simp] theorem State.modHome_dies (s : State) (h : Nat) (f : Home → Home) : (s.modHome h f).dies = s.dies := rfl
@[simp] theorem State.modHome_hearths (s : State) (h : Nat) (f : Home → Home) : (s.modHome h f).hearths = s.hearths := rfl
@[simp] theorem State.modHome_barriers (s : State) (h : Nat) (f : Home → Home) : (s.modHome h f).barriers = s.barriers := rfl
@[simp] theorem State.modHome_hub (s : State) (h : Nat) (f : Home → Home) : (s.modHome h f).hub = s.hub := rfl
@[simp] theorem State.modHome_pieces (s : State) (h : Nat) (f : Home → Home) : (s.modHome h f).pieces = s.pieces := rfl
@[simp] theorem State.modHome_releases (s : State) (h : Nat) (f : Home → Home) : (s.modHome h f).releases = s.releases := rfl
@[simp] theorem State.modHome_beacons (s : State) (h : Nat) (f : Home → Home) : (s.modHome h f).beacons = s.beacons := rfl
@[simp] theorem State.modHome_reqs (s : State) (h : Nat) (f : Home → Home) : (s.modHome h f).reqs = s.reqs := rfl
@[simp] theorem State.modHome_replies (s : State) (h : Nat) (f : Home → Home) : (s.modHome h f).replies = s.replies := rfl
@[simp] theorem State.modHome_messages (s : State) (h : Nat) (f : Home → Home) : (s.modHome h f).messages = s.messages := rfl
@[simp] theorem State.modHome_frames (s : State) (h : Nat) (f : Home → Home) : (s.modHome h f).frames = s.frames := rfl
@[simp] theorem State.modHome_refused (s : State) (h : Nat) (f : Home → Home) : (s.modHome h f).refused = s.refused := rfl
@[simp] theorem State.modHome_contWaits (s : State) (h : Nat) (f : Home → Home) : (s.modHome h f).contWaits = s.contWaits := rfl
@[simp] theorem State.modHome_conts (s : State) (h : Nat) (f : Home → Home) : (s.modHome h f).conts = s.conts := rfl
@[simp] theorem State.modHome_xadds (s : State) (h : Nat) (f : Home → Home) : (s.modHome h f).xadds = s.xadds := rfl
@[simp] theorem State.modHome_agenda (s : State) (h : Nat) (f : Home → Home) : (s.modHome h f).agenda = s.agenda := rfl
@[simp] theorem State.modHome_focus (s : State) (h : Nat) (f : Home → Home) : (s.modHome h f).focus = s.focus := rfl
@[simp] theorem State.modHome_curCore (s : State) (h : Nat) (f : Home → Home) : (s.modHome h f).curCore = s.curCore := rfl
@[simp] theorem State.modHome_curSlot (s : State) (h : Nat) (f : Home → Home) : (s.modHome h f).curSlot = s.curSlot := rfl
@[simp] theorem State.modHome_nextId (s : State) (h : Nat) (f : Home → Home) : (s.modHome h f).nextId = s.nextId := rfl
@[simp] theorem State.modHome_freeCtr (s : State) (h : Nat) (f : Home → Home) : (s.modHome h f).freeCtr = s.freeCtr := rfl
@[simp] theorem State.modHome_stuck (s : State) (h : Nat) (f : Home → Home) : (s.modHome h f).stuck = s.stuck := rfl
@[simp] theorem State.modHome_latent (s : State) (h : Nat) (f : Home → Home) : (s.modHome h f).latent = s.latent := rfl
@[simp] theorem State.modHome_crossings (s : State) (h : Nat) (f : Home → Home) : (s.modHome h f).crossings = s.crossings := rfl

@[simp] theorem State.setW_mem (s : State) (n : Nat) (v : Word) : (s.setW n v).mem = s.mem := rfl
@[simp] theorem State.setW_poison (s : State) (n : Nat) (v : Word) : (s.setW n v).poison = s.poison := rfl
@[simp] theorem State.setW_clusters (s : State) (n : Nat) (v : Word) : (s.setW n v).clusters = s.clusters := rfl
@[simp] theorem State.setW_dies (s : State) (n : Nat) (v : Word) : (s.setW n v).dies = s.dies := rfl
@[simp] theorem State.setW_homes (s : State) (n : Nat) (v : Word) : (s.setW n v).homes = s.homes := rfl
@[simp] theorem State.setW_hearths (s : State) (n : Nat) (v : Word) : (s.setW n v).hearths = s.hearths := rfl
@[simp] theorem State.setW_barriers (s : State) (n : Nat) (v : Word) : (s.setW n v).barriers = s.barriers := rfl
@[simp] theorem State.setW_hub (s : State) (n : Nat) (v : Word) : (s.setW n v).hub = s.hub := rfl
@[simp] theorem State.setW_pieces (s : State) (n : Nat) (v : Word) : (s.setW n v).pieces = s.pieces := rfl
@[simp] theorem State.setW_releases (s : State) (n : Nat) (v : Word) : (s.setW n v).releases = s.releases := rfl
@[simp] theorem State.setW_beacons (s : State) (n : Nat) (v : Word) : (s.setW n v).beacons = s.beacons := rfl
@[simp] theorem State.setW_reqs (s : State) (n : Nat) (v : Word) : (s.setW n v).reqs = s.reqs := rfl
@[simp] theorem State.setW_replies (s : State) (n : Nat) (v : Word) : (s.setW n v).replies = s.replies := rfl
@[simp] theorem State.setW_messages (s : State) (n : Nat) (v : Word) : (s.setW n v).messages = s.messages := rfl
@[simp] theorem State.setW_frames (s : State) (n : Nat) (v : Word) : (s.setW n v).frames = s.frames := rfl
@[simp] theorem State.setW_refused (s : State) (n : Nat) (v : Word) : (s.setW n v).refused = s.refused := rfl
@[simp] theorem State.setW_contWaits (s : State) (n : Nat) (v : Word) : (s.setW n v).contWaits = s.contWaits := rfl
@[simp] theorem State.setW_conts (s : State) (n : Nat) (v : Word) : (s.setW n v).conts = s.conts := rfl
@[simp] theorem State.setW_xadds (s : State) (n : Nat) (v : Word) : (s.setW n v).xadds = s.xadds := rfl
@[simp] theorem State.setW_agenda (s : State) (n : Nat) (v : Word) : (s.setW n v).agenda = s.agenda := rfl
@[simp] theorem State.setW_focus (s : State) (n : Nat) (v : Word) : (s.setW n v).focus = s.focus := rfl
@[simp] theorem State.setW_curCore (s : State) (n : Nat) (v : Word) : (s.setW n v).curCore = s.curCore := rfl
@[simp] theorem State.setW_curSlot (s : State) (n : Nat) (v : Word) : (s.setW n v).curSlot = s.curSlot := rfl
@[simp] theorem State.setW_nextId (s : State) (n : Nat) (v : Word) : (s.setW n v).nextId = s.nextId := rfl
@[simp] theorem State.setW_freeCtr (s : State) (n : Nat) (v : Word) : (s.setW n v).freeCtr = s.freeCtr := rfl
@[simp] theorem State.setW_stuck (s : State) (n : Nat) (v : Word) : (s.setW n v).stuck = s.stuck := rfl
@[simp] theorem State.setW_latent (s : State) (n : Nat) (v : Word) : (s.setW n v).latent = s.latent := rfl
@[simp] theorem State.setW_crossings (s : State) (n : Nat) (v : Word) : (s.setW n v).crossings = s.crossings := rfl

@[simp] theorem State.advance_mem (s : State) (x : Fld) : (s.advance x).mem = s.mem := rfl
@[simp] theorem State.advance_poison (s : State) (x : Fld) : (s.advance x).poison = s.poison := rfl
@[simp] theorem State.advance_clusters (s : State) (x : Fld) : (s.advance x).clusters = s.clusters := rfl
@[simp] theorem State.advance_dies (s : State) (x : Fld) : (s.advance x).dies = s.dies := rfl
@[simp] theorem State.advance_homes (s : State) (x : Fld) : (s.advance x).homes = s.homes := rfl
@[simp] theorem State.advance_hearths (s : State) (x : Fld) : (s.advance x).hearths = s.hearths := rfl
@[simp] theorem State.advance_barriers (s : State) (x : Fld) : (s.advance x).barriers = s.barriers := rfl
@[simp] theorem State.advance_hub (s : State) (x : Fld) : (s.advance x).hub = s.hub := rfl
@[simp] theorem State.advance_pieces (s : State) (x : Fld) : (s.advance x).pieces = s.pieces := rfl
@[simp] theorem State.advance_releases (s : State) (x : Fld) : (s.advance x).releases = s.releases := rfl
@[simp] theorem State.advance_beacons (s : State) (x : Fld) : (s.advance x).beacons = s.beacons := rfl
@[simp] theorem State.advance_reqs (s : State) (x : Fld) : (s.advance x).reqs = s.reqs := rfl
@[simp] theorem State.advance_replies (s : State) (x : Fld) : (s.advance x).replies = s.replies := rfl
@[simp] theorem State.advance_messages (s : State) (x : Fld) : (s.advance x).messages = s.messages := rfl
@[simp] theorem State.advance_frames (s : State) (x : Fld) : (s.advance x).frames = s.frames := rfl
@[simp] theorem State.advance_refused (s : State) (x : Fld) : (s.advance x).refused = s.refused := rfl
@[simp] theorem State.advance_contWaits (s : State) (x : Fld) : (s.advance x).contWaits = s.contWaits := rfl
@[simp] theorem State.advance_conts (s : State) (x : Fld) : (s.advance x).conts = s.conts := rfl
@[simp] theorem State.advance_xadds (s : State) (x : Fld) : (s.advance x).xadds = s.xadds := rfl
@[simp] theorem State.advance_agenda (s : State) (x : Fld) : (s.advance x).agenda = s.agenda := rfl
@[simp] theorem State.advance_focus (s : State) (x : Fld) : (s.advance x).focus = s.focus := rfl
@[simp] theorem State.advance_curCore (s : State) (x : Fld) : (s.advance x).curCore = s.curCore := rfl
@[simp] theorem State.advance_curSlot (s : State) (x : Fld) : (s.advance x).curSlot = s.curSlot := rfl
@[simp] theorem State.advance_nextId (s : State) (x : Fld) : (s.advance x).nextId = s.nextId := rfl
@[simp] theorem State.advance_freeCtr (s : State) (x : Fld) : (s.advance x).freeCtr = s.freeCtr := rfl
@[simp] theorem State.advance_stuck (s : State) (x : Fld) : (s.advance x).stuck = s.stuck := rfl
@[simp] theorem State.advance_latent (s : State) (x : Fld) : (s.advance x).latent = s.latent := rfl
@[simp] theorem State.advance_crossings (s : State) (x : Fld) : (s.advance x).crossings = s.crossings := rfl

@[simp] theorem State.jump_mem (s : State) (a : Word) : (s.jump a).mem = s.mem := rfl
@[simp] theorem State.jump_poison (s : State) (a : Word) : (s.jump a).poison = s.poison := rfl
@[simp] theorem State.jump_clusters (s : State) (a : Word) : (s.jump a).clusters = s.clusters := rfl
@[simp] theorem State.jump_dies (s : State) (a : Word) : (s.jump a).dies = s.dies := rfl
@[simp] theorem State.jump_homes (s : State) (a : Word) : (s.jump a).homes = s.homes := rfl
@[simp] theorem State.jump_hearths (s : State) (a : Word) : (s.jump a).hearths = s.hearths := rfl
@[simp] theorem State.jump_barriers (s : State) (a : Word) : (s.jump a).barriers = s.barriers := rfl
@[simp] theorem State.jump_hub (s : State) (a : Word) : (s.jump a).hub = s.hub := rfl
@[simp] theorem State.jump_pieces (s : State) (a : Word) : (s.jump a).pieces = s.pieces := rfl
@[simp] theorem State.jump_releases (s : State) (a : Word) : (s.jump a).releases = s.releases := rfl
@[simp] theorem State.jump_beacons (s : State) (a : Word) : (s.jump a).beacons = s.beacons := rfl
@[simp] theorem State.jump_reqs (s : State) (a : Word) : (s.jump a).reqs = s.reqs := rfl
@[simp] theorem State.jump_replies (s : State) (a : Word) : (s.jump a).replies = s.replies := rfl
@[simp] theorem State.jump_messages (s : State) (a : Word) : (s.jump a).messages = s.messages := rfl
@[simp] theorem State.jump_frames (s : State) (a : Word) : (s.jump a).frames = s.frames := rfl
@[simp] theorem State.jump_refused (s : State) (a : Word) : (s.jump a).refused = s.refused := rfl
@[simp] theorem State.jump_contWaits (s : State) (a : Word) : (s.jump a).contWaits = s.contWaits := rfl
@[simp] theorem State.jump_conts (s : State) (a : Word) : (s.jump a).conts = s.conts := rfl
@[simp] theorem State.jump_xadds (s : State) (a : Word) : (s.jump a).xadds = s.xadds := rfl
@[simp] theorem State.jump_agenda (s : State) (a : Word) : (s.jump a).agenda = s.agenda := rfl
@[simp] theorem State.jump_focus (s : State) (a : Word) : (s.jump a).focus = s.focus := rfl
@[simp] theorem State.jump_curCore (s : State) (a : Word) : (s.jump a).curCore = s.curCore := rfl
@[simp] theorem State.jump_curSlot (s : State) (a : Word) : (s.jump a).curSlot = s.curSlot := rfl
@[simp] theorem State.jump_nextId (s : State) (a : Word) : (s.jump a).nextId = s.nextId := rfl
@[simp] theorem State.jump_freeCtr (s : State) (a : Word) : (s.jump a).freeCtr = s.freeCtr := rfl
@[simp] theorem State.jump_stuck (s : State) (a : Word) : (s.jump a).stuck = s.stuck := rfl
@[simp] theorem State.jump_latent (s : State) (a : Word) : (s.jump a).latent = s.latent := rfl
@[simp] theorem State.jump_crossings (s : State) (a : Word) : (s.jump a).crossings = s.crossings := rfl

@[simp] theorem State.waitFor_mem (s : State) (w : Wait) : (s.waitFor w).mem = s.mem := rfl
@[simp] theorem State.waitFor_poison (s : State) (w : Wait) : (s.waitFor w).poison = s.poison := rfl
@[simp] theorem State.waitFor_clusters (s : State) (w : Wait) : (s.waitFor w).clusters = s.clusters := rfl
@[simp] theorem State.waitFor_dies (s : State) (w : Wait) : (s.waitFor w).dies = s.dies := rfl
@[simp] theorem State.waitFor_homes (s : State) (w : Wait) : (s.waitFor w).homes = s.homes := rfl
@[simp] theorem State.waitFor_hearths (s : State) (w : Wait) : (s.waitFor w).hearths = s.hearths := rfl
@[simp] theorem State.waitFor_barriers (s : State) (w : Wait) : (s.waitFor w).barriers = s.barriers := rfl
@[simp] theorem State.waitFor_hub (s : State) (w : Wait) : (s.waitFor w).hub = s.hub := rfl
@[simp] theorem State.waitFor_pieces (s : State) (w : Wait) : (s.waitFor w).pieces = s.pieces := rfl
@[simp] theorem State.waitFor_releases (s : State) (w : Wait) : (s.waitFor w).releases = s.releases := rfl
@[simp] theorem State.waitFor_beacons (s : State) (w : Wait) : (s.waitFor w).beacons = s.beacons := rfl
@[simp] theorem State.waitFor_reqs (s : State) (w : Wait) : (s.waitFor w).reqs = s.reqs := rfl
@[simp] theorem State.waitFor_replies (s : State) (w : Wait) : (s.waitFor w).replies = s.replies := rfl
@[simp] theorem State.waitFor_messages (s : State) (w : Wait) : (s.waitFor w).messages = s.messages := rfl
@[simp] theorem State.waitFor_frames (s : State) (w : Wait) : (s.waitFor w).frames = s.frames := rfl
@[simp] theorem State.waitFor_refused (s : State) (w : Wait) : (s.waitFor w).refused = s.refused := rfl
@[simp] theorem State.waitFor_contWaits (s : State) (w : Wait) : (s.waitFor w).contWaits = s.contWaits := rfl
@[simp] theorem State.waitFor_conts (s : State) (w : Wait) : (s.waitFor w).conts = s.conts := rfl
@[simp] theorem State.waitFor_xadds (s : State) (w : Wait) : (s.waitFor w).xadds = s.xadds := rfl
@[simp] theorem State.waitFor_agenda (s : State) (w : Wait) : (s.waitFor w).agenda = s.agenda := rfl
@[simp] theorem State.waitFor_focus (s : State) (w : Wait) : (s.waitFor w).focus = s.focus := rfl
@[simp] theorem State.waitFor_curCore (s : State) (w : Wait) : (s.waitFor w).curCore = s.curCore := rfl
@[simp] theorem State.waitFor_curSlot (s : State) (w : Wait) : (s.waitFor w).curSlot = s.curSlot := rfl
@[simp] theorem State.waitFor_nextId (s : State) (w : Wait) : (s.waitFor w).nextId = s.nextId := rfl
@[simp] theorem State.waitFor_freeCtr (s : State) (w : Wait) : (s.waitFor w).freeCtr = s.freeCtr := rfl
@[simp] theorem State.waitFor_stuck (s : State) (w : Wait) : (s.waitFor w).stuck = s.stuck := rfl
@[simp] theorem State.waitFor_latent (s : State) (w : Wait) : (s.waitFor w).latent = s.latent := rfl
@[simp] theorem State.waitFor_crossings (s : State) (w : Wait) : (s.waitFor w).crossings = s.crossings := rfl

@[simp] theorem State.clearIdv_mem (s : State) : (s.clearIdv).mem = s.mem := rfl
@[simp] theorem State.clearIdv_poison (s : State) : (s.clearIdv).poison = s.poison := rfl
@[simp] theorem State.clearIdv_clusters (s : State) : (s.clearIdv).clusters = s.clusters := rfl
@[simp] theorem State.clearIdv_dies (s : State) : (s.clearIdv).dies = s.dies := rfl
@[simp] theorem State.clearIdv_homes (s : State) : (s.clearIdv).homes = s.homes := rfl
@[simp] theorem State.clearIdv_hearths (s : State) : (s.clearIdv).hearths = s.hearths := rfl
@[simp] theorem State.clearIdv_barriers (s : State) : (s.clearIdv).barriers = s.barriers := rfl
@[simp] theorem State.clearIdv_hub (s : State) : (s.clearIdv).hub = s.hub := rfl
@[simp] theorem State.clearIdv_pieces (s : State) : (s.clearIdv).pieces = s.pieces := rfl
@[simp] theorem State.clearIdv_releases (s : State) : (s.clearIdv).releases = s.releases := rfl
@[simp] theorem State.clearIdv_beacons (s : State) : (s.clearIdv).beacons = s.beacons := rfl
@[simp] theorem State.clearIdv_reqs (s : State) : (s.clearIdv).reqs = s.reqs := rfl
@[simp] theorem State.clearIdv_replies (s : State) : (s.clearIdv).replies = s.replies := rfl
@[simp] theorem State.clearIdv_messages (s : State) : (s.clearIdv).messages = s.messages := rfl
@[simp] theorem State.clearIdv_frames (s : State) : (s.clearIdv).frames = s.frames := rfl
@[simp] theorem State.clearIdv_refused (s : State) : (s.clearIdv).refused = s.refused := rfl
@[simp] theorem State.clearIdv_contWaits (s : State) : (s.clearIdv).contWaits = s.contWaits := rfl
@[simp] theorem State.clearIdv_conts (s : State) : (s.clearIdv).conts = s.conts := rfl
@[simp] theorem State.clearIdv_xadds (s : State) : (s.clearIdv).xadds = s.xadds := rfl
@[simp] theorem State.clearIdv_agenda (s : State) : (s.clearIdv).agenda = s.agenda := rfl
@[simp] theorem State.clearIdv_focus (s : State) : (s.clearIdv).focus = s.focus := rfl
@[simp] theorem State.clearIdv_curCore (s : State) : (s.clearIdv).curCore = s.curCore := rfl
@[simp] theorem State.clearIdv_curSlot (s : State) : (s.clearIdv).curSlot = s.curSlot := rfl
@[simp] theorem State.clearIdv_nextId (s : State) : (s.clearIdv).nextId = s.nextId := rfl
@[simp] theorem State.clearIdv_freeCtr (s : State) : (s.clearIdv).freeCtr = s.freeCtr := rfl
@[simp] theorem State.clearIdv_stuck (s : State) : (s.clearIdv).stuck = s.stuck := rfl
@[simp] theorem State.clearIdv_latent (s : State) : (s.clearIdv).latent = s.latent := rfl
@[simp] theorem State.clearIdv_crossings (s : State) : (s.clearIdv).crossings = s.crossings := rfl

@[simp] theorem State.trapAt_mem (s : State) (pc : Word) (r : TrapRec) : (s.trapAt pc r).mem = s.mem := rfl
@[simp] theorem State.trapAt_poison (s : State) (pc : Word) (r : TrapRec) : (s.trapAt pc r).poison = s.poison := rfl
@[simp] theorem State.trapAt_clusters (s : State) (pc : Word) (r : TrapRec) : (s.trapAt pc r).clusters = s.clusters := rfl
@[simp] theorem State.trapAt_dies (s : State) (pc : Word) (r : TrapRec) : (s.trapAt pc r).dies = s.dies := rfl
@[simp] theorem State.trapAt_homes (s : State) (pc : Word) (r : TrapRec) : (s.trapAt pc r).homes = s.homes := rfl
@[simp] theorem State.trapAt_hearths (s : State) (pc : Word) (r : TrapRec) : (s.trapAt pc r).hearths = s.hearths := rfl
@[simp] theorem State.trapAt_barriers (s : State) (pc : Word) (r : TrapRec) : (s.trapAt pc r).barriers = s.barriers := rfl
@[simp] theorem State.trapAt_hub (s : State) (pc : Word) (r : TrapRec) : (s.trapAt pc r).hub = s.hub := rfl
@[simp] theorem State.trapAt_pieces (s : State) (pc : Word) (r : TrapRec) : (s.trapAt pc r).pieces = s.pieces := rfl
@[simp] theorem State.trapAt_releases (s : State) (pc : Word) (r : TrapRec) : (s.trapAt pc r).releases = s.releases := rfl
@[simp] theorem State.trapAt_beacons (s : State) (pc : Word) (r : TrapRec) : (s.trapAt pc r).beacons = s.beacons := rfl
@[simp] theorem State.trapAt_reqs (s : State) (pc : Word) (r : TrapRec) : (s.trapAt pc r).reqs = s.reqs := rfl
@[simp] theorem State.trapAt_replies (s : State) (pc : Word) (r : TrapRec) : (s.trapAt pc r).replies = s.replies := rfl
@[simp] theorem State.trapAt_messages (s : State) (pc : Word) (r : TrapRec) : (s.trapAt pc r).messages = s.messages := rfl
@[simp] theorem State.trapAt_frames (s : State) (pc : Word) (r : TrapRec) : (s.trapAt pc r).frames = s.frames := rfl
@[simp] theorem State.trapAt_refused (s : State) (pc : Word) (r : TrapRec) : (s.trapAt pc r).refused = s.refused := rfl
@[simp] theorem State.trapAt_contWaits (s : State) (pc : Word) (r : TrapRec) : (s.trapAt pc r).contWaits = s.contWaits := rfl
@[simp] theorem State.trapAt_conts (s : State) (pc : Word) (r : TrapRec) : (s.trapAt pc r).conts = s.conts := rfl
@[simp] theorem State.trapAt_xadds (s : State) (pc : Word) (r : TrapRec) : (s.trapAt pc r).xadds = s.xadds := rfl
@[simp] theorem State.trapAt_agenda (s : State) (pc : Word) (r : TrapRec) : (s.trapAt pc r).agenda = s.agenda := rfl
@[simp] theorem State.trapAt_focus (s : State) (pc : Word) (r : TrapRec) : (s.trapAt pc r).focus = s.focus := rfl
@[simp] theorem State.trapAt_curCore (s : State) (pc : Word) (r : TrapRec) : (s.trapAt pc r).curCore = s.curCore := rfl
@[simp] theorem State.trapAt_curSlot (s : State) (pc : Word) (r : TrapRec) : (s.trapAt pc r).curSlot = s.curSlot := rfl
@[simp] theorem State.trapAt_nextId (s : State) (pc : Word) (r : TrapRec) : (s.trapAt pc r).nextId = s.nextId := rfl
@[simp] theorem State.trapAt_freeCtr (s : State) (pc : Word) (r : TrapRec) : (s.trapAt pc r).freeCtr = s.freeCtr := rfl
@[simp] theorem State.trapAt_stuck (s : State) (pc : Word) (r : TrapRec) : (s.trapAt pc r).stuck = s.stuck := rfl
@[simp] theorem State.trapAt_latent (s : State) (pc : Word) (r : TrapRec) : (s.trapAt pc r).latent = s.latent := rfl
@[simp] theorem State.trapAt_crossings (s : State) (pc : Word) (r : TrapRec) : (s.trapAt pc r).crossings = s.crossings := rfl

@[simp] theorem State.trap_mem (s : State) (r : TrapRec) : (s.trap r).mem = s.mem := rfl
@[simp] theorem State.trap_poison (s : State) (r : TrapRec) : (s.trap r).poison = s.poison := rfl
@[simp] theorem State.trap_clusters (s : State) (r : TrapRec) : (s.trap r).clusters = s.clusters := rfl
@[simp] theorem State.trap_dies (s : State) (r : TrapRec) : (s.trap r).dies = s.dies := rfl
@[simp] theorem State.trap_homes (s : State) (r : TrapRec) : (s.trap r).homes = s.homes := rfl
@[simp] theorem State.trap_hearths (s : State) (r : TrapRec) : (s.trap r).hearths = s.hearths := rfl
@[simp] theorem State.trap_barriers (s : State) (r : TrapRec) : (s.trap r).barriers = s.barriers := rfl
@[simp] theorem State.trap_hub (s : State) (r : TrapRec) : (s.trap r).hub = s.hub := rfl
@[simp] theorem State.trap_pieces (s : State) (r : TrapRec) : (s.trap r).pieces = s.pieces := rfl
@[simp] theorem State.trap_releases (s : State) (r : TrapRec) : (s.trap r).releases = s.releases := rfl
@[simp] theorem State.trap_beacons (s : State) (r : TrapRec) : (s.trap r).beacons = s.beacons := rfl
@[simp] theorem State.trap_reqs (s : State) (r : TrapRec) : (s.trap r).reqs = s.reqs := rfl
@[simp] theorem State.trap_replies (s : State) (r : TrapRec) : (s.trap r).replies = s.replies := rfl
@[simp] theorem State.trap_messages (s : State) (r : TrapRec) : (s.trap r).messages = s.messages := rfl
@[simp] theorem State.trap_frames (s : State) (r : TrapRec) : (s.trap r).frames = s.frames := rfl
@[simp] theorem State.trap_refused (s : State) (r : TrapRec) : (s.trap r).refused = s.refused := rfl
@[simp] theorem State.trap_contWaits (s : State) (r : TrapRec) : (s.trap r).contWaits = s.contWaits := rfl
@[simp] theorem State.trap_conts (s : State) (r : TrapRec) : (s.trap r).conts = s.conts := rfl
@[simp] theorem State.trap_xadds (s : State) (r : TrapRec) : (s.trap r).xadds = s.xadds := rfl
@[simp] theorem State.trap_agenda (s : State) (r : TrapRec) : (s.trap r).agenda = s.agenda := rfl
@[simp] theorem State.trap_focus (s : State) (r : TrapRec) : (s.trap r).focus = s.focus := rfl
@[simp] theorem State.trap_curCore (s : State) (r : TrapRec) : (s.trap r).curCore = s.curCore := rfl
@[simp] theorem State.trap_curSlot (s : State) (r : TrapRec) : (s.trap r).curSlot = s.curSlot := rfl
@[simp] theorem State.trap_nextId (s : State) (r : TrapRec) : (s.trap r).nextId = s.nextId := rfl
@[simp] theorem State.trap_freeCtr (s : State) (r : TrapRec) : (s.trap r).freeCtr = s.freeCtr := rfl
@[simp] theorem State.trap_stuck (s : State) (r : TrapRec) : (s.trap r).stuck = s.stuck := rfl
@[simp] theorem State.trap_latent (s : State) (r : TrapRec) : (s.trap r).latent = s.latent := rfl
@[simp] theorem State.trap_crossings (s : State) (r : TrapRec) : (s.trap r).crossings = s.crossings := rfl

@[simp] theorem State.setByte_poison (s : State) (pa : Nat) (b : Byte) : (s.setByte pa b).poison = s.poison := rfl
@[simp] theorem State.setByte_cores (s : State) (pa : Nat) (b : Byte) : (s.setByte pa b).cores = s.cores := rfl
@[simp] theorem State.setByte_clusters (s : State) (pa : Nat) (b : Byte) : (s.setByte pa b).clusters = s.clusters := rfl
@[simp] theorem State.setByte_dies (s : State) (pa : Nat) (b : Byte) : (s.setByte pa b).dies = s.dies := rfl
@[simp] theorem State.setByte_homes (s : State) (pa : Nat) (b : Byte) : (s.setByte pa b).homes = s.homes := rfl
@[simp] theorem State.setByte_hearths (s : State) (pa : Nat) (b : Byte) : (s.setByte pa b).hearths = s.hearths := rfl
@[simp] theorem State.setByte_barriers (s : State) (pa : Nat) (b : Byte) : (s.setByte pa b).barriers = s.barriers := rfl
@[simp] theorem State.setByte_hub (s : State) (pa : Nat) (b : Byte) : (s.setByte pa b).hub = s.hub := rfl
@[simp] theorem State.setByte_pieces (s : State) (pa : Nat) (b : Byte) : (s.setByte pa b).pieces = s.pieces := rfl
@[simp] theorem State.setByte_releases (s : State) (pa : Nat) (b : Byte) : (s.setByte pa b).releases = s.releases := rfl
@[simp] theorem State.setByte_beacons (s : State) (pa : Nat) (b : Byte) : (s.setByte pa b).beacons = s.beacons := rfl
@[simp] theorem State.setByte_reqs (s : State) (pa : Nat) (b : Byte) : (s.setByte pa b).reqs = s.reqs := rfl
@[simp] theorem State.setByte_replies (s : State) (pa : Nat) (b : Byte) : (s.setByte pa b).replies = s.replies := rfl
@[simp] theorem State.setByte_messages (s : State) (pa : Nat) (b : Byte) : (s.setByte pa b).messages = s.messages := rfl
@[simp] theorem State.setByte_frames (s : State) (pa : Nat) (b : Byte) : (s.setByte pa b).frames = s.frames := rfl
@[simp] theorem State.setByte_refused (s : State) (pa : Nat) (b : Byte) : (s.setByte pa b).refused = s.refused := rfl
@[simp] theorem State.setByte_contWaits (s : State) (pa : Nat) (b : Byte) : (s.setByte pa b).contWaits = s.contWaits := rfl
@[simp] theorem State.setByte_conts (s : State) (pa : Nat) (b : Byte) : (s.setByte pa b).conts = s.conts := rfl
@[simp] theorem State.setByte_xadds (s : State) (pa : Nat) (b : Byte) : (s.setByte pa b).xadds = s.xadds := rfl
@[simp] theorem State.setByte_agenda (s : State) (pa : Nat) (b : Byte) : (s.setByte pa b).agenda = s.agenda := rfl
@[simp] theorem State.setByte_focus (s : State) (pa : Nat) (b : Byte) : (s.setByte pa b).focus = s.focus := rfl
@[simp] theorem State.setByte_curCore (s : State) (pa : Nat) (b : Byte) : (s.setByte pa b).curCore = s.curCore := rfl
@[simp] theorem State.setByte_curSlot (s : State) (pa : Nat) (b : Byte) : (s.setByte pa b).curSlot = s.curSlot := rfl
@[simp] theorem State.setByte_nextId (s : State) (pa : Nat) (b : Byte) : (s.setByte pa b).nextId = s.nextId := rfl
@[simp] theorem State.setByte_freeCtr (s : State) (pa : Nat) (b : Byte) : (s.setByte pa b).freeCtr = s.freeCtr := rfl
@[simp] theorem State.setByte_stuck (s : State) (pa : Nat) (b : Byte) : (s.setByte pa b).stuck = s.stuck := rfl
@[simp] theorem State.setByte_latent (s : State) (pa : Nat) (b : Byte) : (s.setByte pa b).latent = s.latent := rfl
@[simp] theorem State.setByte_crossings (s : State) (pa : Nat) (b : Byte) : (s.setByte pa b).crossings = s.crossings := rfl

@[simp] theorem State.setBytes_poison (s : State) (pa : Nat) (bs : List Byte) : (s.setBytes pa bs).poison = s.poison := by
  induction bs generalizing s pa with
  | nil => rfl
  | cons b r ih => rw [State.setBytes, ih]; rfl
@[simp] theorem State.setBytes_cores (s : State) (pa : Nat) (bs : List Byte) : (s.setBytes pa bs).cores = s.cores := by
  induction bs generalizing s pa with
  | nil => rfl
  | cons b r ih => rw [State.setBytes, ih]; rfl
@[simp] theorem State.setBytes_clusters (s : State) (pa : Nat) (bs : List Byte) : (s.setBytes pa bs).clusters = s.clusters := by
  induction bs generalizing s pa with
  | nil => rfl
  | cons b r ih => rw [State.setBytes, ih]; rfl
@[simp] theorem State.setBytes_dies (s : State) (pa : Nat) (bs : List Byte) : (s.setBytes pa bs).dies = s.dies := by
  induction bs generalizing s pa with
  | nil => rfl
  | cons b r ih => rw [State.setBytes, ih]; rfl
@[simp] theorem State.setBytes_homes (s : State) (pa : Nat) (bs : List Byte) : (s.setBytes pa bs).homes = s.homes := by
  induction bs generalizing s pa with
  | nil => rfl
  | cons b r ih => rw [State.setBytes, ih]; rfl
@[simp] theorem State.setBytes_hearths (s : State) (pa : Nat) (bs : List Byte) : (s.setBytes pa bs).hearths = s.hearths := by
  induction bs generalizing s pa with
  | nil => rfl
  | cons b r ih => rw [State.setBytes, ih]; rfl
@[simp] theorem State.setBytes_barriers (s : State) (pa : Nat) (bs : List Byte) : (s.setBytes pa bs).barriers = s.barriers := by
  induction bs generalizing s pa with
  | nil => rfl
  | cons b r ih => rw [State.setBytes, ih]; rfl
@[simp] theorem State.setBytes_hub (s : State) (pa : Nat) (bs : List Byte) : (s.setBytes pa bs).hub = s.hub := by
  induction bs generalizing s pa with
  | nil => rfl
  | cons b r ih => rw [State.setBytes, ih]; rfl
@[simp] theorem State.setBytes_pieces (s : State) (pa : Nat) (bs : List Byte) : (s.setBytes pa bs).pieces = s.pieces := by
  induction bs generalizing s pa with
  | nil => rfl
  | cons b r ih => rw [State.setBytes, ih]; rfl
@[simp] theorem State.setBytes_releases (s : State) (pa : Nat) (bs : List Byte) : (s.setBytes pa bs).releases = s.releases := by
  induction bs generalizing s pa with
  | nil => rfl
  | cons b r ih => rw [State.setBytes, ih]; rfl
@[simp] theorem State.setBytes_beacons (s : State) (pa : Nat) (bs : List Byte) : (s.setBytes pa bs).beacons = s.beacons := by
  induction bs generalizing s pa with
  | nil => rfl
  | cons b r ih => rw [State.setBytes, ih]; rfl
@[simp] theorem State.setBytes_reqs (s : State) (pa : Nat) (bs : List Byte) : (s.setBytes pa bs).reqs = s.reqs := by
  induction bs generalizing s pa with
  | nil => rfl
  | cons b r ih => rw [State.setBytes, ih]; rfl
@[simp] theorem State.setBytes_replies (s : State) (pa : Nat) (bs : List Byte) : (s.setBytes pa bs).replies = s.replies := by
  induction bs generalizing s pa with
  | nil => rfl
  | cons b r ih => rw [State.setBytes, ih]; rfl
@[simp] theorem State.setBytes_messages (s : State) (pa : Nat) (bs : List Byte) : (s.setBytes pa bs).messages = s.messages := by
  induction bs generalizing s pa with
  | nil => rfl
  | cons b r ih => rw [State.setBytes, ih]; rfl
@[simp] theorem State.setBytes_frames (s : State) (pa : Nat) (bs : List Byte) : (s.setBytes pa bs).frames = s.frames := by
  induction bs generalizing s pa with
  | nil => rfl
  | cons b r ih => rw [State.setBytes, ih]; rfl
@[simp] theorem State.setBytes_refused (s : State) (pa : Nat) (bs : List Byte) : (s.setBytes pa bs).refused = s.refused := by
  induction bs generalizing s pa with
  | nil => rfl
  | cons b r ih => rw [State.setBytes, ih]; rfl
@[simp] theorem State.setBytes_contWaits (s : State) (pa : Nat) (bs : List Byte) : (s.setBytes pa bs).contWaits = s.contWaits := by
  induction bs generalizing s pa with
  | nil => rfl
  | cons b r ih => rw [State.setBytes, ih]; rfl
@[simp] theorem State.setBytes_conts (s : State) (pa : Nat) (bs : List Byte) : (s.setBytes pa bs).conts = s.conts := by
  induction bs generalizing s pa with
  | nil => rfl
  | cons b r ih => rw [State.setBytes, ih]; rfl
@[simp] theorem State.setBytes_xadds (s : State) (pa : Nat) (bs : List Byte) : (s.setBytes pa bs).xadds = s.xadds := by
  induction bs generalizing s pa with
  | nil => rfl
  | cons b r ih => rw [State.setBytes, ih]; rfl
@[simp] theorem State.setBytes_agenda (s : State) (pa : Nat) (bs : List Byte) : (s.setBytes pa bs).agenda = s.agenda := by
  induction bs generalizing s pa with
  | nil => rfl
  | cons b r ih => rw [State.setBytes, ih]; rfl
@[simp] theorem State.setBytes_focus (s : State) (pa : Nat) (bs : List Byte) : (s.setBytes pa bs).focus = s.focus := by
  induction bs generalizing s pa with
  | nil => rfl
  | cons b r ih => rw [State.setBytes, ih]; rfl
@[simp] theorem State.setBytes_curCore (s : State) (pa : Nat) (bs : List Byte) : (s.setBytes pa bs).curCore = s.curCore := by
  induction bs generalizing s pa with
  | nil => rfl
  | cons b r ih => rw [State.setBytes, ih]; rfl
@[simp] theorem State.setBytes_curSlot (s : State) (pa : Nat) (bs : List Byte) : (s.setBytes pa bs).curSlot = s.curSlot := by
  induction bs generalizing s pa with
  | nil => rfl
  | cons b r ih => rw [State.setBytes, ih]; rfl
@[simp] theorem State.setBytes_nextId (s : State) (pa : Nat) (bs : List Byte) : (s.setBytes pa bs).nextId = s.nextId := by
  induction bs generalizing s pa with
  | nil => rfl
  | cons b r ih => rw [State.setBytes, ih]; rfl
@[simp] theorem State.setBytes_freeCtr (s : State) (pa : Nat) (bs : List Byte) : (s.setBytes pa bs).freeCtr = s.freeCtr := by
  induction bs generalizing s pa with
  | nil => rfl
  | cons b r ih => rw [State.setBytes, ih]; rfl
@[simp] theorem State.setBytes_stuck (s : State) (pa : Nat) (bs : List Byte) : (s.setBytes pa bs).stuck = s.stuck := by
  induction bs generalizing s pa with
  | nil => rfl
  | cons b r ih => rw [State.setBytes, ih]; rfl
@[simp] theorem State.setBytes_latent (s : State) (pa : Nat) (bs : List Byte) : (s.setBytes pa bs).latent = s.latent := by
  induction bs generalizing s pa with
  | nil => rfl
  | cons b r ih => rw [State.setBytes, ih]; rfl
@[simp] theorem State.setBytes_crossings (s : State) (pa : Nat) (bs : List Byte) : (s.setBytes pa bs).crossings = s.crossings := by
  induction bs generalizing s pa with
  | nil => rfl
  | cons b r ih => rw [State.setBytes, ih]; rfl

@[simp] theorem State.clearPoison_mem (s : State) (w : Nat) : (s.clearPoison w).mem = s.mem := rfl
@[simp] theorem State.clearPoison_cores (s : State) (w : Nat) : (s.clearPoison w).cores = s.cores := rfl
@[simp] theorem State.clearPoison_clusters (s : State) (w : Nat) : (s.clearPoison w).clusters = s.clusters := rfl
@[simp] theorem State.clearPoison_dies (s : State) (w : Nat) : (s.clearPoison w).dies = s.dies := rfl
@[simp] theorem State.clearPoison_homes (s : State) (w : Nat) : (s.clearPoison w).homes = s.homes := rfl
@[simp] theorem State.clearPoison_hearths (s : State) (w : Nat) : (s.clearPoison w).hearths = s.hearths := rfl
@[simp] theorem State.clearPoison_barriers (s : State) (w : Nat) : (s.clearPoison w).barriers = s.barriers := rfl
@[simp] theorem State.clearPoison_hub (s : State) (w : Nat) : (s.clearPoison w).hub = s.hub := rfl
@[simp] theorem State.clearPoison_pieces (s : State) (w : Nat) : (s.clearPoison w).pieces = s.pieces := rfl
@[simp] theorem State.clearPoison_releases (s : State) (w : Nat) : (s.clearPoison w).releases = s.releases := rfl
@[simp] theorem State.clearPoison_beacons (s : State) (w : Nat) : (s.clearPoison w).beacons = s.beacons := rfl
@[simp] theorem State.clearPoison_reqs (s : State) (w : Nat) : (s.clearPoison w).reqs = s.reqs := rfl
@[simp] theorem State.clearPoison_replies (s : State) (w : Nat) : (s.clearPoison w).replies = s.replies := rfl
@[simp] theorem State.clearPoison_messages (s : State) (w : Nat) : (s.clearPoison w).messages = s.messages := rfl
@[simp] theorem State.clearPoison_frames (s : State) (w : Nat) : (s.clearPoison w).frames = s.frames := rfl
@[simp] theorem State.clearPoison_refused (s : State) (w : Nat) : (s.clearPoison w).refused = s.refused := rfl
@[simp] theorem State.clearPoison_contWaits (s : State) (w : Nat) : (s.clearPoison w).contWaits = s.contWaits := rfl
@[simp] theorem State.clearPoison_conts (s : State) (w : Nat) : (s.clearPoison w).conts = s.conts := rfl
@[simp] theorem State.clearPoison_xadds (s : State) (w : Nat) : (s.clearPoison w).xadds = s.xadds := rfl
@[simp] theorem State.clearPoison_agenda (s : State) (w : Nat) : (s.clearPoison w).agenda = s.agenda := rfl
@[simp] theorem State.clearPoison_focus (s : State) (w : Nat) : (s.clearPoison w).focus = s.focus := rfl
@[simp] theorem State.clearPoison_curCore (s : State) (w : Nat) : (s.clearPoison w).curCore = s.curCore := rfl
@[simp] theorem State.clearPoison_curSlot (s : State) (w : Nat) : (s.clearPoison w).curSlot = s.curSlot := rfl
@[simp] theorem State.clearPoison_nextId (s : State) (w : Nat) : (s.clearPoison w).nextId = s.nextId := rfl
@[simp] theorem State.clearPoison_freeCtr (s : State) (w : Nat) : (s.clearPoison w).freeCtr = s.freeCtr := rfl
@[simp] theorem State.clearPoison_stuck (s : State) (w : Nat) : (s.clearPoison w).stuck = s.stuck := rfl
@[simp] theorem State.clearPoison_latent (s : State) (w : Nat) : (s.clearPoison w).latent = s.latent := rfl
@[simp] theorem State.clearPoison_crossings (s : State) (w : Nat) : (s.clearPoison w).crossings = s.crossings := rfl

@[simp] theorem State.fresh_mem (s : State) : s.fresh.2.mem = s.mem := rfl
@[simp] theorem State.fresh_poison (s : State) : s.fresh.2.poison = s.poison := rfl
@[simp] theorem State.fresh_cores (s : State) : s.fresh.2.cores = s.cores := rfl
@[simp] theorem State.fresh_clusters (s : State) : s.fresh.2.clusters = s.clusters := rfl
@[simp] theorem State.fresh_dies (s : State) : s.fresh.2.dies = s.dies := rfl
@[simp] theorem State.fresh_homes (s : State) : s.fresh.2.homes = s.homes := rfl
@[simp] theorem State.fresh_hearths (s : State) : s.fresh.2.hearths = s.hearths := rfl
@[simp] theorem State.fresh_barriers (s : State) : s.fresh.2.barriers = s.barriers := rfl
@[simp] theorem State.fresh_hub (s : State) : s.fresh.2.hub = s.hub := rfl
@[simp] theorem State.fresh_pieces (s : State) : s.fresh.2.pieces = s.pieces := rfl
@[simp] theorem State.fresh_releases (s : State) : s.fresh.2.releases = s.releases := rfl
@[simp] theorem State.fresh_beacons (s : State) : s.fresh.2.beacons = s.beacons := rfl
@[simp] theorem State.fresh_reqs (s : State) : s.fresh.2.reqs = s.reqs := rfl
@[simp] theorem State.fresh_replies (s : State) : s.fresh.2.replies = s.replies := rfl
@[simp] theorem State.fresh_messages (s : State) : s.fresh.2.messages = s.messages := rfl
@[simp] theorem State.fresh_frames (s : State) : s.fresh.2.frames = s.frames := rfl
@[simp] theorem State.fresh_refused (s : State) : s.fresh.2.refused = s.refused := rfl
@[simp] theorem State.fresh_contWaits (s : State) : s.fresh.2.contWaits = s.contWaits := rfl
@[simp] theorem State.fresh_conts (s : State) : s.fresh.2.conts = s.conts := rfl
@[simp] theorem State.fresh_xadds (s : State) : s.fresh.2.xadds = s.xadds := rfl
@[simp] theorem State.fresh_agenda (s : State) : s.fresh.2.agenda = s.agenda := rfl
@[simp] theorem State.fresh_focus (s : State) : s.fresh.2.focus = s.focus := rfl
@[simp] theorem State.fresh_curCore (s : State) : s.fresh.2.curCore = s.curCore := rfl
@[simp] theorem State.fresh_curSlot (s : State) : s.fresh.2.curSlot = s.curSlot := rfl
@[simp] theorem State.fresh_freeCtr (s : State) : s.fresh.2.freeCtr = s.freeCtr := rfl
@[simp] theorem State.fresh_stuck (s : State) : s.fresh.2.stuck = s.stuck := rfl
@[simp] theorem State.fresh_latent (s : State) : s.fresh.2.latent = s.latent := rfl
@[simp] theorem State.fresh_crossings (s : State) : s.fresh.2.crossings = s.crossings := rfl
@[simp] theorem State.free_mem (s : State) : s.free.2.mem = s.mem := rfl
@[simp] theorem State.free_poison (s : State) : s.free.2.poison = s.poison := rfl
@[simp] theorem State.free_cores (s : State) : s.free.2.cores = s.cores := rfl
@[simp] theorem State.free_clusters (s : State) : s.free.2.clusters = s.clusters := rfl
@[simp] theorem State.free_dies (s : State) : s.free.2.dies = s.dies := rfl
@[simp] theorem State.free_homes (s : State) : s.free.2.homes = s.homes := rfl
@[simp] theorem State.free_hearths (s : State) : s.free.2.hearths = s.hearths := rfl
@[simp] theorem State.free_barriers (s : State) : s.free.2.barriers = s.barriers := rfl
@[simp] theorem State.free_hub (s : State) : s.free.2.hub = s.hub := rfl
@[simp] theorem State.free_pieces (s : State) : s.free.2.pieces = s.pieces := rfl
@[simp] theorem State.free_releases (s : State) : s.free.2.releases = s.releases := rfl
@[simp] theorem State.free_beacons (s : State) : s.free.2.beacons = s.beacons := rfl
@[simp] theorem State.free_reqs (s : State) : s.free.2.reqs = s.reqs := rfl
@[simp] theorem State.free_replies (s : State) : s.free.2.replies = s.replies := rfl
@[simp] theorem State.free_messages (s : State) : s.free.2.messages = s.messages := rfl
@[simp] theorem State.free_frames (s : State) : s.free.2.frames = s.frames := rfl
@[simp] theorem State.free_refused (s : State) : s.free.2.refused = s.refused := rfl
@[simp] theorem State.free_contWaits (s : State) : s.free.2.contWaits = s.contWaits := rfl
@[simp] theorem State.free_conts (s : State) : s.free.2.conts = s.conts := rfl
@[simp] theorem State.free_xadds (s : State) : s.free.2.xadds = s.xadds := rfl
@[simp] theorem State.free_agenda (s : State) : s.free.2.agenda = s.agenda := rfl
@[simp] theorem State.free_focus (s : State) : s.free.2.focus = s.focus := rfl
@[simp] theorem State.free_curCore (s : State) : s.free.2.curCore = s.curCore := rfl
@[simp] theorem State.free_curSlot (s : State) : s.free.2.curSlot = s.curSlot := rfl
@[simp] theorem State.free_nextId (s : State) : s.free.2.nextId = s.nextId := rfl
@[simp] theorem State.free_stuck (s : State) : s.free.2.stuck = s.stuck := rfl
@[simp] theorem State.free_latent (s : State) : s.free.2.latent = s.latent := rfl
@[simp] theorem State.free_crossings (s : State) : s.free.2.crossings = s.crossings := rfl

@[simp] theorem Slot.setEntry_busy (t : Slot) (e : Nat) (v : Word) : (t.setEntry e v).busy = t.busy := rfl
@[simp] theorem Slot.setEntry_pc (t : Slot) (e : Nat) (v : Word) : (t.setEntry e v).pc = t.pc := rfl
@[simp] theorem Slot.setEntry_st (t : Slot) (e : Nat) (v : Word) : (t.setEntry e v).st = t.st := rfl
@[simp] theorem Slot.setEntry_wlow (t : Slot) (e : Nat) (v : Word) : (t.setEntry e v).wlow = t.wlow := rfl
@[simp] theorem Slot.setEntry_v (t : Slot) (e : Nat) (v : Word) : (t.setEntry e v).v = t.v := rfl
@[simp] theorem Slot.setEntry_m (t : Slot) (e : Nat) (v : Word) : (t.setEntry e v).m = t.m := rfl
@[simp] theorem Slot.setEntry_vlive (t : Slot) (e : Nat) (v : Word) : (t.setEntry e v).vlive = t.vlive := rfl
@[simp] theorem Slot.setEntry_mlive (t : Slot) (e : Nat) (v : Word) : (t.setEntry e v).mlive = t.mlive := rfl
@[simp] theorem Slot.setEntry_key (t : Slot) (e : Nat) (v : Word) : (t.setEntry e v).key = t.key := rfl
@[simp] theorem Slot.setEntry_ctr (t : Slot) (e : Nat) (v : Word) : (t.setEntry e v).ctr = t.ctr := rfl
@[simp] theorem Slot.setEntry_taskid (t : Slot) (e : Nat) (v : Word) : (t.setEntry e v).taskid = t.taskid := rfl
@[simp] theorem Slot.setEntry_link (t : Slot) (e : Nat) (v : Word) : (t.setEntry e v).link = t.link := rfl
@[simp] theorem Slot.setEntry_barlast (t : Slot) (e : Nat) (v : Word) : (t.setEntry e v).barlast = t.barlast := rfl
@[simp] theorem Slot.setEntry_replay (t : Slot) (e : Nat) (v : Word) : (t.setEntry e v).replay = t.replay := rfl
@[simp] theorem Slot.setEntry_rc (t : Slot) (e : Nat) (v : Word) : (t.setEntry e v).rc = t.rc := rfl
@[simp] theorem Slot.setEntry_loads (t : Slot) (e : Nat) (v : Word) : (t.setEntry e v).loads = t.loads := rfl
@[simp] theorem Slot.setEntry_stores (t : Slot) (e : Nat) (v : Word) : (t.setEntry e v).stores = t.stores := rfl
@[simp] theorem Slot.setEntry_copies (t : Slot) (e : Nat) (v : Word) : (t.setEntry e v).copies = t.copies := rfl
@[simp] theorem Slot.setEntry_tiles (t : Slot) (e : Nat) (v : Word) : (t.setEntry e v).tiles = t.tiles := rfl
@[simp] theorem Slot.setEntry_trapcause (t : Slot) (e : Nat) (v : Word) : (t.setEntry e v).trapcause = t.trapcause := rfl
@[simp] theorem Slot.setEntry_trapaddr (t : Slot) (e : Nat) (v : Word) : (t.setEntry e v).trapaddr = t.trapaddr := rfl
@[simp] theorem Slot.setEntry_trappc (t : Slot) (e : Nat) (v : Word) : (t.setEntry e v).trappc = t.trappc := rfl
@[simp] theorem Slot.setEntry_trapstat (t : Slot) (e : Nat) (v : Word) : (t.setEntry e v).trapstat = t.trapstat := rfl
@[simp] theorem Slot.setEntry_idempc (t : Slot) (e : Nat) (v : Word) : (t.setEntry e v).idempc = t.idempc := rfl
@[simp] theorem Slot.setEntry_idemctr (t : Slot) (e : Nat) (v : Word) : (t.setEntry e v).idemctr = t.idemctr := rfl
@[simp] theorem Slot.setEntry_idemlog (t : Slot) (e : Nat) (v : Word) : (t.setEntry e v).idemlog = t.idemlog := rfl
@[simp] theorem Slot.setEntry_restarts (t : Slot) (e : Nat) (v : Word) : (t.setEntry e v).restarts = t.restarts := rfl
@[simp] theorem Slot.setEntry_streams (t : Slot) (e : Nat) (v : Word) : (t.setEntry e v).streams = t.streams := rfl
@[simp] theorem Slot.setEntry_pendW (t : Slot) (e : Nat) (v : Word) : (t.setEntry e v).pendW = t.pendW := rfl
@[simp] theorem Slot.setEntry_pendV (t : Slot) (e : Nat) (v : Word) : (t.setEntry e v).pendV = t.pendV := rfl
@[simp] theorem Slot.setEntry_markV (t : Slot) (e : Nat) (v : Word) : (t.setEntry e v).markV = t.markV := rfl
@[simp] theorem Slot.setEntry_deferred (t : Slot) (e : Nat) (v : Word) : (t.setEntry e v).deferred = t.deferred := rfl
@[simp] theorem Slot.setEntry_wait (t : Slot) (e : Nat) (v : Word) : (t.setEntry e v).wait = t.wait := rfl
@[simp] theorem Slot.setEntry_readyAt (t : Slot) (e : Nat) (v : Word) : (t.setEntry e v).readyAt = t.readyAt := rfl
@[simp] theorem Slot.setEntry_winTrap (t : Slot) (e : Nat) (v : Word) : (t.setEntry e v).winTrap = t.winTrap := rfl
@[simp] theorem Slot.setEntry_anvTrap (t : Slot) (e : Nat) (v : Word) : (t.setEntry e v).anvTrap = t.anvTrap := rfl
@[simp] theorem Slot.setEntry_anvPend (t : Slot) (e : Nat) (v : Word) : (t.setEntry e v).anvPend = t.anvPend := rfl
@[simp] theorem Slot.setEntry_atVector (t : Slot) (e : Nat) (v : Word) : (t.setEntry e v).atVector = t.atVector := rfl
@[simp] theorem Slot.setEntry_replayPend (t : Slot) (e : Nat) (v : Word) : (t.setEntry e v).replayPend = t.replayPend := rfl
@[simp] theorem Slot.setEntry_begun (t : Slot) (e : Nat) (v : Word) : (t.setEntry e v).begun = t.begun := rfl
@[simp] theorem Slot.setEntry_adopting (t : Slot) (e : Nat) (v : Word) : (t.setEntry e v).adopting = t.adopting := rfl
@[simp] theorem Slot.setEntry_fetch (t : Slot) (e : Nat) (v : Word) : (t.setEntry e v).fetch = t.fetch := rfl
@[simp] theorem Slot.setEntry_abort (t : Slot) (e : Nat) (v : Word) : (t.setEntry e v).abort = t.abort := rfl
@[simp] theorem Slot.setEntry_pushes (t : Slot) (e : Nat) (v : Word) : (t.setEntry e v).pushes = t.pushes := rfl
@[simp] theorem Slot.setW_busy (t : Slot) (n : Nat) (v : Word) : (t.setW n v).busy = t.busy := rfl
@[simp] theorem Slot.setW_pc (t : Slot) (n : Nat) (v : Word) : (t.setW n v).pc = t.pc := rfl
@[simp] theorem Slot.setW_wlow (t : Slot) (n : Nat) (v : Word) : (t.setW n v).wlow = t.wlow := rfl
@[simp] theorem Slot.setW_v (t : Slot) (n : Nat) (v : Word) : (t.setW n v).v = t.v := rfl
@[simp] theorem Slot.setW_m (t : Slot) (n : Nat) (v : Word) : (t.setW n v).m = t.m := rfl
@[simp] theorem Slot.setW_vlive (t : Slot) (n : Nat) (v : Word) : (t.setW n v).vlive = t.vlive := rfl
@[simp] theorem Slot.setW_mlive (t : Slot) (n : Nat) (v : Word) : (t.setW n v).mlive = t.mlive := rfl
@[simp] theorem Slot.setW_key (t : Slot) (n : Nat) (v : Word) : (t.setW n v).key = t.key := rfl
@[simp] theorem Slot.setW_ctr (t : Slot) (n : Nat) (v : Word) : (t.setW n v).ctr = t.ctr := rfl
@[simp] theorem Slot.setW_taskid (t : Slot) (n : Nat) (v : Word) : (t.setW n v).taskid = t.taskid := rfl
@[simp] theorem Slot.setW_link (t : Slot) (n : Nat) (v : Word) : (t.setW n v).link = t.link := rfl
@[simp] theorem Slot.setW_barlast (t : Slot) (n : Nat) (v : Word) : (t.setW n v).barlast = t.barlast := rfl
@[simp] theorem Slot.setW_replay (t : Slot) (n : Nat) (v : Word) : (t.setW n v).replay = t.replay := rfl
@[simp] theorem Slot.setW_rc (t : Slot) (n : Nat) (v : Word) : (t.setW n v).rc = t.rc := rfl
@[simp] theorem Slot.setW_loads (t : Slot) (n : Nat) (v : Word) : (t.setW n v).loads = t.loads := rfl
@[simp] theorem Slot.setW_stores (t : Slot) (n : Nat) (v : Word) : (t.setW n v).stores = t.stores := rfl
@[simp] theorem Slot.setW_copies (t : Slot) (n : Nat) (v : Word) : (t.setW n v).copies = t.copies := rfl
@[simp] theorem Slot.setW_tiles (t : Slot) (n : Nat) (v : Word) : (t.setW n v).tiles = t.tiles := rfl
@[simp] theorem Slot.setW_trapcause (t : Slot) (n : Nat) (v : Word) : (t.setW n v).trapcause = t.trapcause := rfl
@[simp] theorem Slot.setW_trapaddr (t : Slot) (n : Nat) (v : Word) : (t.setW n v).trapaddr = t.trapaddr := rfl
@[simp] theorem Slot.setW_trappc (t : Slot) (n : Nat) (v : Word) : (t.setW n v).trappc = t.trappc := rfl
@[simp] theorem Slot.setW_trapstat (t : Slot) (n : Nat) (v : Word) : (t.setW n v).trapstat = t.trapstat := rfl
@[simp] theorem Slot.setW_idempc (t : Slot) (n : Nat) (v : Word) : (t.setW n v).idempc = t.idempc := rfl
@[simp] theorem Slot.setW_idemctr (t : Slot) (n : Nat) (v : Word) : (t.setW n v).idemctr = t.idemctr := rfl
@[simp] theorem Slot.setW_idemlog (t : Slot) (n : Nat) (v : Word) : (t.setW n v).idemlog = t.idemlog := rfl
@[simp] theorem Slot.setW_restarts (t : Slot) (n : Nat) (v : Word) : (t.setW n v).restarts = t.restarts := rfl
@[simp] theorem Slot.setW_streams (t : Slot) (n : Nat) (v : Word) : (t.setW n v).streams = t.streams := rfl
@[simp] theorem Slot.setW_pendW (t : Slot) (n : Nat) (v : Word) : (t.setW n v).pendW = t.pendW := rfl
@[simp] theorem Slot.setW_pendV (t : Slot) (n : Nat) (v : Word) : (t.setW n v).pendV = t.pendV := rfl
@[simp] theorem Slot.setW_markV (t : Slot) (n : Nat) (v : Word) : (t.setW n v).markV = t.markV := rfl
@[simp] theorem Slot.setW_deferred (t : Slot) (n : Nat) (v : Word) : (t.setW n v).deferred = t.deferred := rfl
@[simp] theorem Slot.setW_wait (t : Slot) (n : Nat) (v : Word) : (t.setW n v).wait = t.wait := rfl
@[simp] theorem Slot.setW_readyAt (t : Slot) (n : Nat) (v : Word) : (t.setW n v).readyAt = t.readyAt := rfl
@[simp] theorem Slot.setW_winTrap (t : Slot) (n : Nat) (v : Word) : (t.setW n v).winTrap = t.winTrap := rfl
@[simp] theorem Slot.setW_anvTrap (t : Slot) (n : Nat) (v : Word) : (t.setW n v).anvTrap = t.anvTrap := rfl
@[simp] theorem Slot.setW_anvPend (t : Slot) (n : Nat) (v : Word) : (t.setW n v).anvPend = t.anvPend := rfl
@[simp] theorem Slot.setW_atVector (t : Slot) (n : Nat) (v : Word) : (t.setW n v).atVector = t.atVector := rfl
@[simp] theorem Slot.setW_replayPend (t : Slot) (n : Nat) (v : Word) : (t.setW n v).replayPend = t.replayPend := rfl
@[simp] theorem Slot.setW_begun (t : Slot) (n : Nat) (v : Word) : (t.setW n v).begun = t.begun := rfl
@[simp] theorem Slot.setW_adopting (t : Slot) (n : Nat) (v : Word) : (t.setW n v).adopting = t.adopting := rfl
@[simp] theorem Slot.setW_fetch (t : Slot) (n : Nat) (v : Word) : (t.setW n v).fetch = t.fetch := rfl
@[simp] theorem Slot.setW_abort (t : Slot) (n : Nat) (v : Word) : (t.setW n v).abort = t.abort := rfl
@[simp] theorem Slot.setW_pushes (t : Slot) (n : Nat) (v : Word) : (t.setW n v).pushes = t.pushes := rfl
@[simp] theorem Slot.setVec_busy (t : Slot) (n : Nat) (x : List (BitVec 32)) : (t.setVec n x).busy = t.busy := rfl
@[simp] theorem Slot.setVec_pc (t : Slot) (n : Nat) (x : List (BitVec 32)) : (t.setVec n x).pc = t.pc := rfl
@[simp] theorem Slot.setVec_stk (t : Slot) (n : Nat) (x : List (BitVec 32)) : (t.setVec n x).stk = t.stk := rfl
@[simp] theorem Slot.setVec_wlow (t : Slot) (n : Nat) (x : List (BitVec 32)) : (t.setVec n x).wlow = t.wlow := rfl
@[simp] theorem Slot.setVec_m (t : Slot) (n : Nat) (x : List (BitVec 32)) : (t.setVec n x).m = t.m := rfl
@[simp] theorem Slot.setVec_mlive (t : Slot) (n : Nat) (x : List (BitVec 32)) : (t.setVec n x).mlive = t.mlive := rfl
@[simp] theorem Slot.setVec_key (t : Slot) (n : Nat) (x : List (BitVec 32)) : (t.setVec n x).key = t.key := rfl
@[simp] theorem Slot.setVec_ctr (t : Slot) (n : Nat) (x : List (BitVec 32)) : (t.setVec n x).ctr = t.ctr := rfl
@[simp] theorem Slot.setVec_taskid (t : Slot) (n : Nat) (x : List (BitVec 32)) : (t.setVec n x).taskid = t.taskid := rfl
@[simp] theorem Slot.setVec_link (t : Slot) (n : Nat) (x : List (BitVec 32)) : (t.setVec n x).link = t.link := rfl
@[simp] theorem Slot.setVec_barlast (t : Slot) (n : Nat) (x : List (BitVec 32)) : (t.setVec n x).barlast = t.barlast := rfl
@[simp] theorem Slot.setVec_replay (t : Slot) (n : Nat) (x : List (BitVec 32)) : (t.setVec n x).replay = t.replay := rfl
@[simp] theorem Slot.setVec_rc (t : Slot) (n : Nat) (x : List (BitVec 32)) : (t.setVec n x).rc = t.rc := rfl
@[simp] theorem Slot.setVec_loads (t : Slot) (n : Nat) (x : List (BitVec 32)) : (t.setVec n x).loads = t.loads := rfl
@[simp] theorem Slot.setVec_stores (t : Slot) (n : Nat) (x : List (BitVec 32)) : (t.setVec n x).stores = t.stores := rfl
@[simp] theorem Slot.setVec_copies (t : Slot) (n : Nat) (x : List (BitVec 32)) : (t.setVec n x).copies = t.copies := rfl
@[simp] theorem Slot.setVec_tiles (t : Slot) (n : Nat) (x : List (BitVec 32)) : (t.setVec n x).tiles = t.tiles := rfl
@[simp] theorem Slot.setVec_trapcause (t : Slot) (n : Nat) (x : List (BitVec 32)) : (t.setVec n x).trapcause = t.trapcause := rfl
@[simp] theorem Slot.setVec_trapaddr (t : Slot) (n : Nat) (x : List (BitVec 32)) : (t.setVec n x).trapaddr = t.trapaddr := rfl
@[simp] theorem Slot.setVec_trappc (t : Slot) (n : Nat) (x : List (BitVec 32)) : (t.setVec n x).trappc = t.trappc := rfl
@[simp] theorem Slot.setVec_trapstat (t : Slot) (n : Nat) (x : List (BitVec 32)) : (t.setVec n x).trapstat = t.trapstat := rfl
@[simp] theorem Slot.setVec_idempc (t : Slot) (n : Nat) (x : List (BitVec 32)) : (t.setVec n x).idempc = t.idempc := rfl
@[simp] theorem Slot.setVec_idemctr (t : Slot) (n : Nat) (x : List (BitVec 32)) : (t.setVec n x).idemctr = t.idemctr := rfl
@[simp] theorem Slot.setVec_idemlog (t : Slot) (n : Nat) (x : List (BitVec 32)) : (t.setVec n x).idemlog = t.idemlog := rfl
@[simp] theorem Slot.setVec_restarts (t : Slot) (n : Nat) (x : List (BitVec 32)) : (t.setVec n x).restarts = t.restarts := rfl
@[simp] theorem Slot.setVec_streams (t : Slot) (n : Nat) (x : List (BitVec 32)) : (t.setVec n x).streams = t.streams := rfl
@[simp] theorem Slot.setVec_pendW (t : Slot) (n : Nat) (x : List (BitVec 32)) : (t.setVec n x).pendW = t.pendW := rfl
@[simp] theorem Slot.setVec_pendV (t : Slot) (n : Nat) (x : List (BitVec 32)) : (t.setVec n x).pendV = t.pendV := rfl
@[simp] theorem Slot.setVec_markW (t : Slot) (n : Nat) (x : List (BitVec 32)) : (t.setVec n x).markW = t.markW := rfl
@[simp] theorem Slot.setVec_deferred (t : Slot) (n : Nat) (x : List (BitVec 32)) : (t.setVec n x).deferred = t.deferred := rfl
@[simp] theorem Slot.setVec_wait (t : Slot) (n : Nat) (x : List (BitVec 32)) : (t.setVec n x).wait = t.wait := rfl
@[simp] theorem Slot.setVec_readyAt (t : Slot) (n : Nat) (x : List (BitVec 32)) : (t.setVec n x).readyAt = t.readyAt := rfl
@[simp] theorem Slot.setVec_winTrap (t : Slot) (n : Nat) (x : List (BitVec 32)) : (t.setVec n x).winTrap = t.winTrap := rfl
@[simp] theorem Slot.setVec_anvTrap (t : Slot) (n : Nat) (x : List (BitVec 32)) : (t.setVec n x).anvTrap = t.anvTrap := rfl
@[simp] theorem Slot.setVec_anvPend (t : Slot) (n : Nat) (x : List (BitVec 32)) : (t.setVec n x).anvPend = t.anvPend := rfl
@[simp] theorem Slot.setVec_atVector (t : Slot) (n : Nat) (x : List (BitVec 32)) : (t.setVec n x).atVector = t.atVector := rfl
@[simp] theorem Slot.setVec_replayPend (t : Slot) (n : Nat) (x : List (BitVec 32)) : (t.setVec n x).replayPend = t.replayPend := rfl
@[simp] theorem Slot.setVec_begun (t : Slot) (n : Nat) (x : List (BitVec 32)) : (t.setVec n x).begun = t.begun := rfl
@[simp] theorem Slot.setVec_adopting (t : Slot) (n : Nat) (x : List (BitVec 32)) : (t.setVec n x).adopting = t.adopting := rfl
@[simp] theorem Slot.setVec_fetch (t : Slot) (n : Nat) (x : List (BitVec 32)) : (t.setVec n x).fetch = t.fetch := rfl
@[simp] theorem Slot.setVec_abort (t : Slot) (n : Nat) (x : List (BitVec 32)) : (t.setVec n x).abort = t.abort := rfl
@[simp] theorem Slot.setVec_pushes (t : Slot) (n : Nat) (x : List (BitVec 32)) : (t.setVec n x).pushes = t.pushes := rfl
@[simp] theorem Slot.setMask_busy (t : Slot) (n : Nat) (x : Word) : (t.setMask n x).busy = t.busy := rfl
@[simp] theorem Slot.setMask_pc (t : Slot) (n : Nat) (x : Word) : (t.setMask n x).pc = t.pc := rfl
@[simp] theorem Slot.setMask_stk (t : Slot) (n : Nat) (x : Word) : (t.setMask n x).stk = t.stk := rfl
@[simp] theorem Slot.setMask_wlow (t : Slot) (n : Nat) (x : Word) : (t.setMask n x).wlow = t.wlow := rfl
@[simp] theorem Slot.setMask_v (t : Slot) (n : Nat) (x : Word) : (t.setMask n x).v = t.v := rfl
@[simp] theorem Slot.setMask_vlive (t : Slot) (n : Nat) (x : Word) : (t.setMask n x).vlive = t.vlive := rfl
@[simp] theorem Slot.setMask_key (t : Slot) (n : Nat) (x : Word) : (t.setMask n x).key = t.key := rfl
@[simp] theorem Slot.setMask_ctr (t : Slot) (n : Nat) (x : Word) : (t.setMask n x).ctr = t.ctr := rfl
@[simp] theorem Slot.setMask_taskid (t : Slot) (n : Nat) (x : Word) : (t.setMask n x).taskid = t.taskid := rfl
@[simp] theorem Slot.setMask_link (t : Slot) (n : Nat) (x : Word) : (t.setMask n x).link = t.link := rfl
@[simp] theorem Slot.setMask_barlast (t : Slot) (n : Nat) (x : Word) : (t.setMask n x).barlast = t.barlast := rfl
@[simp] theorem Slot.setMask_replay (t : Slot) (n : Nat) (x : Word) : (t.setMask n x).replay = t.replay := rfl
@[simp] theorem Slot.setMask_rc (t : Slot) (n : Nat) (x : Word) : (t.setMask n x).rc = t.rc := rfl
@[simp] theorem Slot.setMask_loads (t : Slot) (n : Nat) (x : Word) : (t.setMask n x).loads = t.loads := rfl
@[simp] theorem Slot.setMask_stores (t : Slot) (n : Nat) (x : Word) : (t.setMask n x).stores = t.stores := rfl
@[simp] theorem Slot.setMask_copies (t : Slot) (n : Nat) (x : Word) : (t.setMask n x).copies = t.copies := rfl
@[simp] theorem Slot.setMask_tiles (t : Slot) (n : Nat) (x : Word) : (t.setMask n x).tiles = t.tiles := rfl
@[simp] theorem Slot.setMask_trapcause (t : Slot) (n : Nat) (x : Word) : (t.setMask n x).trapcause = t.trapcause := rfl
@[simp] theorem Slot.setMask_trapaddr (t : Slot) (n : Nat) (x : Word) : (t.setMask n x).trapaddr = t.trapaddr := rfl
@[simp] theorem Slot.setMask_trappc (t : Slot) (n : Nat) (x : Word) : (t.setMask n x).trappc = t.trappc := rfl
@[simp] theorem Slot.setMask_trapstat (t : Slot) (n : Nat) (x : Word) : (t.setMask n x).trapstat = t.trapstat := rfl
@[simp] theorem Slot.setMask_idempc (t : Slot) (n : Nat) (x : Word) : (t.setMask n x).idempc = t.idempc := rfl
@[simp] theorem Slot.setMask_idemctr (t : Slot) (n : Nat) (x : Word) : (t.setMask n x).idemctr = t.idemctr := rfl
@[simp] theorem Slot.setMask_idemlog (t : Slot) (n : Nat) (x : Word) : (t.setMask n x).idemlog = t.idemlog := rfl
@[simp] theorem Slot.setMask_restarts (t : Slot) (n : Nat) (x : Word) : (t.setMask n x).restarts = t.restarts := rfl
@[simp] theorem Slot.setMask_streams (t : Slot) (n : Nat) (x : Word) : (t.setMask n x).streams = t.streams := rfl
@[simp] theorem Slot.setMask_pendW (t : Slot) (n : Nat) (x : Word) : (t.setMask n x).pendW = t.pendW := rfl
@[simp] theorem Slot.setMask_pendV (t : Slot) (n : Nat) (x : Word) : (t.setMask n x).pendV = t.pendV := rfl
@[simp] theorem Slot.setMask_markW (t : Slot) (n : Nat) (x : Word) : (t.setMask n x).markW = t.markW := rfl
@[simp] theorem Slot.setMask_markV (t : Slot) (n : Nat) (x : Word) : (t.setMask n x).markV = t.markV := rfl
@[simp] theorem Slot.setMask_deferred (t : Slot) (n : Nat) (x : Word) : (t.setMask n x).deferred = t.deferred := rfl
@[simp] theorem Slot.setMask_wait (t : Slot) (n : Nat) (x : Word) : (t.setMask n x).wait = t.wait := rfl
@[simp] theorem Slot.setMask_readyAt (t : Slot) (n : Nat) (x : Word) : (t.setMask n x).readyAt = t.readyAt := rfl
@[simp] theorem Slot.setMask_winTrap (t : Slot) (n : Nat) (x : Word) : (t.setMask n x).winTrap = t.winTrap := rfl
@[simp] theorem Slot.setMask_anvTrap (t : Slot) (n : Nat) (x : Word) : (t.setMask n x).anvTrap = t.anvTrap := rfl
@[simp] theorem Slot.setMask_anvPend (t : Slot) (n : Nat) (x : Word) : (t.setMask n x).anvPend = t.anvPend := rfl
@[simp] theorem Slot.setMask_atVector (t : Slot) (n : Nat) (x : Word) : (t.setMask n x).atVector = t.atVector := rfl
@[simp] theorem Slot.setMask_replayPend (t : Slot) (n : Nat) (x : Word) : (t.setMask n x).replayPend = t.replayPend := rfl
@[simp] theorem Slot.setMask_begun (t : Slot) (n : Nat) (x : Word) : (t.setMask n x).begun = t.begun := rfl
@[simp] theorem Slot.setMask_adopting (t : Slot) (n : Nat) (x : Word) : (t.setMask n x).adopting = t.adopting := rfl
@[simp] theorem Slot.setMask_fetch (t : Slot) (n : Nat) (x : Word) : (t.setMask n x).fetch = t.fetch := rfl
@[simp] theorem Slot.setMask_abort (t : Slot) (n : Nat) (x : Word) : (t.setMask n x).abort = t.abort := rfl
@[simp] theorem Slot.setMask_pushes (t : Slot) (n : Nat) (x : Word) : (t.setMask n x).pushes = t.pushes := rfl
@[simp] theorem trapEntry_busy (vec : Word) (r : TrapRec) (pc : Word) (t : Slot) : (trapEntry vec r pc t).busy = t.busy := rfl
@[simp] theorem trapEntry_stk (vec : Word) (r : TrapRec) (pc : Word) (t : Slot) : (trapEntry vec r pc t).stk = t.stk := rfl
@[simp] theorem trapEntry_wlow (vec : Word) (r : TrapRec) (pc : Word) (t : Slot) : (trapEntry vec r pc t).wlow = t.wlow := rfl
@[simp] theorem trapEntry_v (vec : Word) (r : TrapRec) (pc : Word) (t : Slot) : (trapEntry vec r pc t).v = t.v := rfl
@[simp] theorem trapEntry_m (vec : Word) (r : TrapRec) (pc : Word) (t : Slot) : (trapEntry vec r pc t).m = t.m := rfl
@[simp] theorem trapEntry_vlive (vec : Word) (r : TrapRec) (pc : Word) (t : Slot) : (trapEntry vec r pc t).vlive = t.vlive := rfl
@[simp] theorem trapEntry_mlive (vec : Word) (r : TrapRec) (pc : Word) (t : Slot) : (trapEntry vec r pc t).mlive = t.mlive := rfl
@[simp] theorem trapEntry_key (vec : Word) (r : TrapRec) (pc : Word) (t : Slot) : (trapEntry vec r pc t).key = t.key := rfl
@[simp] theorem trapEntry_ctr (vec : Word) (r : TrapRec) (pc : Word) (t : Slot) : (trapEntry vec r pc t).ctr = t.ctr := rfl
@[simp] theorem trapEntry_taskid (vec : Word) (r : TrapRec) (pc : Word) (t : Slot) : (trapEntry vec r pc t).taskid = t.taskid := rfl
@[simp] theorem trapEntry_link (vec : Word) (r : TrapRec) (pc : Word) (t : Slot) : (trapEntry vec r pc t).link = t.link := rfl
@[simp] theorem trapEntry_barlast (vec : Word) (r : TrapRec) (pc : Word) (t : Slot) : (trapEntry vec r pc t).barlast = t.barlast := rfl
@[simp] theorem trapEntry_replay (vec : Word) (r : TrapRec) (pc : Word) (t : Slot) : (trapEntry vec r pc t).replay = t.replay := rfl
@[simp] theorem trapEntry_rc (vec : Word) (r : TrapRec) (pc : Word) (t : Slot) : (trapEntry vec r pc t).rc = t.rc := rfl
@[simp] theorem trapEntry_loads (vec : Word) (r : TrapRec) (pc : Word) (t : Slot) : (trapEntry vec r pc t).loads = t.loads := rfl
@[simp] theorem trapEntry_stores (vec : Word) (r : TrapRec) (pc : Word) (t : Slot) : (trapEntry vec r pc t).stores = t.stores := rfl
@[simp] theorem trapEntry_copies (vec : Word) (r : TrapRec) (pc : Word) (t : Slot) : (trapEntry vec r pc t).copies = t.copies := rfl
@[simp] theorem trapEntry_tiles (vec : Word) (r : TrapRec) (pc : Word) (t : Slot) : (trapEntry vec r pc t).tiles = t.tiles := rfl
@[simp] theorem trapEntry_idempc (vec : Word) (r : TrapRec) (pc : Word) (t : Slot) : (trapEntry vec r pc t).idempc = t.idempc := rfl
@[simp] theorem trapEntry_idemctr (vec : Word) (r : TrapRec) (pc : Word) (t : Slot) : (trapEntry vec r pc t).idemctr = t.idemctr := rfl
@[simp] theorem trapEntry_idemlog (vec : Word) (r : TrapRec) (pc : Word) (t : Slot) : (trapEntry vec r pc t).idemlog = t.idemlog := rfl
@[simp] theorem trapEntry_restarts (vec : Word) (r : TrapRec) (pc : Word) (t : Slot) : (trapEntry vec r pc t).restarts = t.restarts := rfl
@[simp] theorem trapEntry_streams (vec : Word) (r : TrapRec) (pc : Word) (t : Slot) : (trapEntry vec r pc t).streams = t.streams := rfl
@[simp] theorem trapEntry_pendW (vec : Word) (r : TrapRec) (pc : Word) (t : Slot) : (trapEntry vec r pc t).pendW = t.pendW := rfl
@[simp] theorem trapEntry_pendV (vec : Word) (r : TrapRec) (pc : Word) (t : Slot) : (trapEntry vec r pc t).pendV = t.pendV := rfl
@[simp] theorem trapEntry_markW (vec : Word) (r : TrapRec) (pc : Word) (t : Slot) : (trapEntry vec r pc t).markW = t.markW := rfl
@[simp] theorem trapEntry_markV (vec : Word) (r : TrapRec) (pc : Word) (t : Slot) : (trapEntry vec r pc t).markV = t.markV := rfl
@[simp] theorem trapEntry_deferred (vec : Word) (r : TrapRec) (pc : Word) (t : Slot) : (trapEntry vec r pc t).deferred = t.deferred := rfl
@[simp] theorem trapEntry_readyAt (vec : Word) (r : TrapRec) (pc : Word) (t : Slot) : (trapEntry vec r pc t).readyAt = t.readyAt := rfl
@[simp] theorem trapEntry_anvTrap (vec : Word) (r : TrapRec) (pc : Word) (t : Slot) : (trapEntry vec r pc t).anvTrap = t.anvTrap := rfl
@[simp] theorem trapEntry_anvPend (vec : Word) (r : TrapRec) (pc : Word) (t : Slot) : (trapEntry vec r pc t).anvPend = t.anvPend := rfl
@[simp] theorem trapEntry_replayPend (vec : Word) (r : TrapRec) (pc : Word) (t : Slot) : (trapEntry vec r pc t).replayPend = t.replayPend := rfl
@[simp] theorem trapEntry_adopting (vec : Word) (r : TrapRec) (pc : Word) (t : Slot) : (trapEntry vec r pc t).adopting = t.adopting := rfl
@[simp] theorem trapEntry_fetch (vec : Word) (r : TrapRec) (pc : Word) (t : Slot) : (trapEntry vec r pc t).fetch = t.fetch := rfl
@[simp] theorem trapEntry_abort (vec : Word) (r : TrapRec) (pc : Word) (t : Slot) : (trapEntry vec r pc t).abort = t.abort := rfl
@[simp] theorem trapEntry_pushes (vec : Word) (r : TrapRec) (pc : Word) (t : Slot) : (trapEntry vec r pc t).pushes = t.pushes := rfl

/-! ## Cores, slots and the executing thread -/

@[simp] theorem State.core_setCore_same (s : State) (c : Nat) (k : Core) : (s.setCore c k).core c = k := by
  simp [State.core, State.setCore]
theorem State.core_setCore_ne (s : State) {c d : Nat} (k : Core) (h : d ≠ c) : (s.setCore c k).core d = s.core d := by
  simp [State.core, State.setCore, get_put_ne _ _ _ h]
@[simp] theorem State.core_modCore_same (s : State) (c : Nat) (f : Core → Core) : (s.modCore c f).core c = f (s.core c) := by
  simp [State.modCore]
theorem State.core_modCore_ne (s : State) {c d : Nat} (f : Core → Core) (h : d ≠ c) : (s.modCore c f).core d = s.core d := by
  simp [State.modCore, State.core_setCore_ne _ _ h]
@[simp] theorem Core.slot_setSlot_same (k : Core) (n : Nat) (t : Slot) : (k.setSlot n t).slot n = t := by
  simp [Core.slot, Core.setSlot]
theorem Core.slot_setSlot_ne (k : Core) {n m : Nat} (t : Slot) (h : m ≠ n) : (k.setSlot n t).slot m = k.slot m := by
  simp [Core.slot, Core.setSlot, get_put_ne _ _ _ h]
@[simp] theorem State.slot_setSlot_same (s : State) (c n : Nat) (t : Slot) : (s.setSlot c n t).slot c n = t := by
  simp [State.slot, State.setSlot]
theorem State.slot_setSlot_ne (s : State) {c n c' n' : Nat} (t : Slot) (h : c' ≠ c ∨ n' ≠ n) :
    (s.setSlot c n t).slot c' n' = s.slot c' n' := by
  by_cases hc : c' = c
  · subst hc
    have hn : n' ≠ n := by simpa using h
    simp [State.slot, State.setSlot, Core.slot_setSlot_ne _ _ hn]
  · simp [State.slot, State.setSlot, State.core_modCore_ne _ _ hc]
@[simp] theorem State.slot_modSlot_same (s : State) (c n : Nat) (f : Slot → Slot) : (s.modSlot c n f).slot c n = f (s.slot c n) := by
  simp [State.modSlot]
@[simp] theorem State.cur_modCur (s : State) (f : Slot → Slot) : (s.modCur f).cur = f s.cur := by
  simp [State.modCur, State.cur]
@[simp] theorem State.curK_modCurK (s : State) (f : Core → Core) : (s.modCurK f).curK = f s.curK := by
  simp [State.modCurK, State.curK]
@[simp] theorem State.hearth_modHearth_same (s : State) (h : Nat) (f : Hearth → Hearth) : (s.modHearth h f).hearth h = f (s.hearth h) := by
  simp [State.hearth, State.modHearth]
theorem State.hearth_modHearth_ne (s : State) {h j : Nat} (f : Hearth → Hearth) (hj : j ≠ h) :
    (s.modHearth h f).hearth j = s.hearth j := by
  simp [State.hearth, State.modHearth, get_put_ne _ _ _ hj]
@[simp] theorem State.cluster_modCluster_same (s : State) (c : Nat) (f : Cluster → Cluster) :
    (s.modCluster c f).cluster c = f (s.cluster c) := by
  simp [State.cluster, State.modCluster]
@[simp] theorem State.die_modDie_same (s : State) (d : Nat) (f : Die → Die) : (s.modDie d f).die d = f (s.die d) := by
  simp [State.die, State.modDie]
@[simp] theorem State.home_modHome_same (s : State) (h : Nat) (f : Home → Home) : (s.modHome h f).home h = f (s.home h) := by
  simp [State.home, State.modHome]

/-! ## Registers -/

@[simp] theorem Slot.setW_w_same (t : Slot) (n : Nat) (v : Word) : (t.setW n v).w n = v := by
  simp [Slot.setW, Slot.w, Slot.entry, Slot.setEntry]
/-- A write of a register leaves the other registers of the window alone (R38). -/
theorem Slot.setW_w_ne (t : Slot) {n m : Nat} (v : Word) (hn : n < 16) (hm : m < 16) (h : m ≠ n) : (t.setW n v).w m = t.w m := by
  have he : (t.wlow * 8 + m) % 96 ≠ (t.wlow * 8 + n) % 96 := by omega
  simp [Slot.setW, Slot.w, Slot.entry, Slot.setEntry, get_put_ne _ _ _ he]
@[simp] theorem State.w_setW_same (s : State) (n : Nat) (v : Word) : (s.setW n v).w n = v := by
  simp [State.w, State.setW]
theorem State.w_setW_ne (s : State) {n m : Nat} (v : Word) (hn : n < 16) (hm : m < 16) (h : m ≠ n) : (s.setW n v).w m = s.w m := by
  simp [State.w, State.setW, Slot.setW_w_ne _ _ hn hm h]
@[simp] theorem State.cur_setW (s : State) (n : Nat) (v : Word) : (s.setW n v).cur = s.cur.setW n v := by simp [State.setW]
@[simp] theorem State.cur_advance (s : State) (x : Fld) : (s.advance x).cur = { s.cur with pc := s.npc x } := by simp [State.advance]
@[simp] theorem State.cur_jump (s : State) (a : Word) : (s.jump a).cur = { s.cur with pc := a } := by simp [State.jump]
@[simp] theorem State.cur_waitFor (s : State) (w : Wait) : (s.waitFor w).cur = { s.cur with wait := w } := by simp [State.waitFor]
@[simp] theorem State.cur_trap (s : State) (r : TrapRec) :
    (s.trap r).cur = trapEntry (s.hearth s.cur.st.hearth).trapvec r s.cur.pc s.cur := by simp [State.trap, State.trapAt]

end Sys2Proof.Machine
end

