-- ==== Sys2Proof/Laws/Gate.lean ====
section
/-! SUPPORT. The gate that every instruction passes, and what writing a result leaves of the state. -/

namespace Sys2Proof.Machine

theorem del_place_same {α : Type} (m : List (Nat × α)) (k : Nat) (a : α) : del (place m k a) k = del m k := by
  induction m with
  | nil => simp [place, del]
  | cons e r ih =>
    obtain ⟨i, b⟩ := e
    simp only [place]
    split
    · simp [del]
    · simp only [del, ih]

theorem del_del_same {α : Type} (m : List (Nat × α)) (k : Nat) : del (del m k) k = del m k := by
  induction m with
  | nil => rfl
  | cons e r ih =>
    obtain ⟨i, b⟩ := e
    simp only [del]
    split
    · exact ih
    · rename_i h; simp [del, h, ih]

/-- The later of two writes to one index stands. -/
@[simp] theorem put_put {α : Type} (m : List (Nat × α)) (k : Nat) (a b : α) : put (put m k a) k b = put m k b := by
  simp [put, del_place_same, del_del_same]

@[simp] theorem State.setCore_setCore (s : State) (c : Nat) (k l : Core) : (s.setCore c k).setCore c l = s.setCore c l := by
  simp [State.setCore]

@[simp] theorem State.setSlot_setSlot (s : State) (c n : Nat) (t u : Slot) :
    (s.setSlot c n t).setSlot c n u = s.setSlot c n u := by
  simp [State.setSlot, State.modCore, Core.setSlot]

/-- Changing the executing thread changes only it. -/
theorem onlyCur_modCur (s : State) (f : Slot → Slot) : OnlyCur s (s.modCur f) := by
  rw [OnlyCur, State.cur_modCur]
  rfl

theorem OnlyCur.trans {s t u : State} (h : OnlyCur s t) (hc : t.curCore = s.curCore) (hs : t.curSlot = s.curSlot)
    (h' : OnlyCur t u) : OnlyCur s u := by
  unfold OnlyCur at *
  rw [hc, hs] at h'
  rw [h', h]
  simp [State.cur]

/-- Past the checks, the gate runs the effect. -/
theorem gate_next {i : Instr} {s : State} (chk : State → Option TrapRec) (k : State → State) (h : Ready i s)
    (hc : chk s = none) : gate i chk k s = .next (k s) := by
  simp [gate, Nat.not_lt.mpr h.1, h.2, hc]

/-- The gate takes the trap that the instruction's limits name. -/
theorem gate_trap {i : Instr} {s : State} (chk : State → Option TrapRec) (k : State → State) (h : Ready i s) {r : TrapRec}
    (hc : chk s = some r) : gate i chk k s = .next (s.trap r) := by
  simp [gate, Nat.not_lt.mpr h.1, h.2, hc]

/-- Privilege comes first (R453). -/
theorem gate_priv {i : Instr} {s : State} (chk : State → Option TrapRec) (k : State → State) (h : s.cur.st.priv < minPriv i) :
    gate i chk k s = .next (s.trap { cause := 0x05 }) := by
  simp [gate, h]

/-- The gate always answers a next state. -/
theorem gate_some (i : Instr) (chk : State → Option TrapRec) (k : State → State) (s : State) : ∃ t, gate i chk k s = .next t := by
  unfold gate
  repeat' split
  all_goals exact ⟨_, rfl⟩

theorem Slot.wrote_setW (t : Slot) (n : Nat) (hn : n < 16) (v pc : Word) : t.Wrote { t.setW n v with pc := pc } n v := by
  refine ⟨?_, ?_, rfl⟩
  · exact Slot.setW_w_same t n v
  · intro m hm hne
    exact Slot.setW_w_ne t v hn hm hne

/-- Writing a result writes one register and moves the PC. -/
theorem result_writes {s : State} {f : Fld} {n : Nat} {v : Word} (hn : n < 16) :
    OnlyCur s (s.result f n v) ∧ s.cur.Wrote (s.result f n v).cur n v ∧ (s.result f n v).cur.pc = s.npc f := by
  refine ⟨?_, ?_, ?_⟩
  · exact OnlyCur.trans (t := s.setW n v) (onlyCur_modCur s (·.setW n v)) rfl rfl
      (onlyCur_modCur (s.setW n v) fun t => { t with pc := (s.setW n v).npc f })
  · simp [State.result]
    exact Slot.wrote_setW s.cur n hn v _
  · simp [State.result, State.npc]

/-- A meaning whose effect is one result writes it. -/
theorem writes_of_result {i : Instr} {s : State} {v : Word} (hn : (fldOf i).d < 16)
    (h : exec i s = .next (s.result (fldOf i) (fldOf i).d v)) : Writes i s v :=
  ⟨_, h, result_writes hn⟩

@[simp] theorem RR.fld_d (x : RR) : x.fld.d = x.d.toNat := by
  simp only [RR.fld, fldPxr]; split <;> rfl
@[simp] theorem RR.fld_s (x : RR) : x.fld.s = x.s.toNat := by
  simp only [RR.fld, fldPxr]; split <;> rfl
@[simp] theorem RR.fld_f (x : RR) : x.fld.f = x.f.toNat := by
  simp only [RR.fld, fldPxr]; split <;> rfl
@[simp] theorem RI.fld_d (x : RI) : x.fld.d = x.d.toNat := by
  simp only [RI.fld, fldPxr]; split <;> rfl

end Sys2Proof.Machine
end

