-- ==== Sys2Proof/Laws/Memory.lean ====
section
/-! SUPPORT. Memory: a read after a write, and that every write keeps the canonical form. -/

namespace Sys2Proof.Machine

/-- A read after a write of the same cell gives the byte written. -/
@[simp] theorem Memory.read_write_same (m : List Host.Cell) (k : Nat) (b : Byte) : Memory.read (Memory.write m k b) k = b := by
  unfold Memory.read Memory.write
  split
  · next h => simp [get_del_same, h]
  · simp

/-- A write leaves every other cell alone. -/
theorem Memory.read_write_ne (m : List Host.Cell) {k j : Nat} (b : Byte) (h : j ≠ k) :
    Memory.read (Memory.write m k b) j = Memory.read m j := by
  unfold Memory.read Memory.write
  split
  · simp [get_del_ne _ _ h]
  · simp [get_put_ne _ _ _ h]

/-- A write keeps the canonical form. -/
theorem Memory.write_wf {m : List Host.Cell} (k : Nat) (b : Byte) (h : Memory.wf m) : Memory.wf (Memory.write m k b) := by
  obtain ⟨h1, h2⟩ := h
  unfold Memory.write
  split
  · exact ⟨rising_del k h1, fun e he => h2 e (mem_del he).1⟩
  · next hb =>
    refine ⟨rising_put k b h1, fun e he => ?_⟩
    rcases mem_place he with rfl | he
    · exact hb
    · exact h2 e (mem_del he).1

theorem Memory.nil_wf : Memory.wf [] := ⟨List.Pairwise.nil, fun _ h => absurd h List.not_mem_nil⟩

@[simp] theorem State.cell_setByte (s : State) (pa a : Nat) (b : Byte) : (s.setByte pa b).cell a = s.cell a := rfl

/-- A read after a write of the same byte gives what was written, but for a defective cell of a local store. -/
theorem State.byte_setByte_same (s : State) (pa : Nat) (b : Byte) :
    (s.setByte pa b).byte pa = if s.stuck.isEmpty || paClass pa != 1 then b else stuckByte s.stuck (s.cell pa) b := by
  simp only [State.byte, State.cell_setByte]
  simp [State.setByte]

@[simp] theorem State.byte_setByte_sound {s : State} (pa : Nat) (b : Byte) (h : s.stuck = [] ∨ paClass pa ≠ 1) :
    (s.setByte pa b).byte pa = b := by
  rw [State.byte_setByte_same]
  rcases h with h | h <;> simp [h]

theorem State.byte_setByte_ne (s : State) {pa a : Nat} (b : Byte) (h : s.cell a ≠ s.cell pa) : (s.setByte pa b).byte a = s.byte a := by
  have hm : (s.setByte pa b).mem = Memory.write s.mem (s.cell pa) b := rfl
  simp only [State.byte, State.cell_setByte, State.setByte_stuck, hm, Memory.read_write_ne _ _ h]

theorem State.setByte_wf {s : State} (pa : Nat) (b : Byte) (h : Memory.wf s.mem) : Memory.wf (s.setByte pa b).mem :=
  Memory.write_wf _ _ h

theorem State.setBytes_wf {s : State} (pa : Nat) (bs : List Byte) (h : Memory.wf s.mem) : Memory.wf (s.setBytes pa bs).mem := by
  induction bs generalizing s pa with
  | nil => exact h
  | cons b r ih => exact ih _ (State.setByte_wf pa b h)

/-- A write of a core's local store keeps the canonical form. -/
theorem State.writeLS_wf {s : State} (c off : Nat) (bs : List Byte) (h : Memory.wf s.mem) : Memory.wf (s.writeLS c off bs).mem :=
  State.setBytes_wf _ _ h

/-- Two states with the same memory, the same boot blocks, package number and defective cells read the same bytes. -/
theorem State.byte_congr {s t : State} (hm : t.mem = s.mem) (hh : t.hub = s.hub) (hs : t.stuck = s.stuck) (a : Nat) :
    t.byte a = s.byte a := by
  have hc : t.cell a = s.cell a := by simp [State.cell, State.ownPackage, hh]
  rw [State.byte, State.byte, hm, hc, hs]

end Sys2Proof.Machine
end

