-- ==== Sys2Proof/Tests/Slice0.lean ====
section
/-! SUPPORT. Checks of the model by the spec's own numbers: ill-formed instructions, words decoded by hand, single instructions, and for
each statement a state and operands that meet its hypotheses (the theorems wit_…). Expected values are worked out by hand from the rules
that each section names. -/

namespace Sys2Proof.Tests

open Sys2Proof Sys2Proof.Machine

/-! ## Well-formedness: one ill-formed instruction for each check (R204, R213, R219, R223, R239) -/

theorem test_wf_ok : (Instr.add ⟨[.pxr 1 0 3], 2, 3, 0⟩).WellFormed = true := by decide
theorem test_wf_event : (Instr.beacon 0).WellFormed = false := by decide
theorem test_wf_chain_too_long : (Instr.vld ⟨[.pxi 0, .pxi 0, .pxi 0, .pxv 0 0 0 0], 0, 0, 0, 0⟩).WellFormed = false := by decide
theorem test_wf_two_pxr : (Instr.add ⟨[.pxr 1 0 3, .pxr 1 0 3], 2, 3, 0⟩).WellFormed = false := by decide
theorem test_wf_four_pxi : (Instr.addi ⟨[.pxi 0, .pxi 0, .pxi 0, .pxi 0], 2, 3⟩).WellFormed = false := by decide
theorem test_wf_xs_payload : (Instr.ldx ⟨[.pxi 128, .pxx 0], 2, 3, 0⟩).WellFormed = false := by decide
theorem test_wf_kind_not_accepted : (Instr.nop ⟨[.pxi 0], 0⟩).WellFormed = false := by decide
theorem test_wf_pxr_missing : (Instr.sel ⟨[], 1, 2, 0⟩).WellFormed = false := by decide
theorem test_wf_reserved_et : (Instr.vadd ⟨[.pxv 0 0 15 0], 1, 2, 3, 0, 0⟩).WellFormed = false := by decide
theorem test_wf_reserved_sz : (Instr.ld ⟨[.pxr 0 0 7], 1, 2, 0⟩).WellFormed = false := by decide
theorem test_wf_reserved_rm : (Instr.vadd ⟨[], 1, 2, 3, 6, 0⟩).WellFormed = false := by decide
theorem test_wf_mov_form : (Instr.movToLoop ⟨[.pxr 1 2 0], 0, 4, 0⟩).WellFormed = false := by decide

/-! ## Words written out from R205 to R207 and R220 to R222 -/

/-- ADD w3, w5 with f = 1: 0000001 0011 0101 1. -/
theorem test_decode_add : decode [0x026B] = .ok (.add ⟨[], 3, 5, 1⟩) 1 := by decide
/-- PXI 3 (1111000 000000011), MOVI w1, 4 (0101001 0001 00100): the immediate is 3*32 + 4. -/
theorem test_decode_movi : decode [0xF003, 0x5224] = .ok (.movi ⟨[.pxi 3], 1, 4⟩) 2 ∧ (RI.mk [.pxi 3] 1 4).fld.immS = 100 := by decide
/-- PXR t=7, rc=0, sz=0 (1111001 0111 00 000), SEL w1, w2 (0100111 0001 0010 0). -/
theorem test_decode_sel : decode [0xF2E0, 0x4E24] = .ok (.sel ⟨[.pxr 7 0 0], 1, 2, 0⟩) 2 := by decide
/-- MOV with rc = 3 and f = 0 writes a loop register (R239). -/
theorem test_decode_mov_loop : decode [0xF238, 0x5008] = .ok (.movToLoop ⟨[.pxr 1 3 0], 0, 4, 0⟩) 2 := by decide
/-- FADD w2, w3: 0110000 0010 0011 0. -/
theorem test_decode_fadd : decode [0x6046] = .ok (.fadd ⟨[], 2, 3, 0⟩) 1 := by decide
/-- BR -1: 1000000 111111111. -/
theorem test_decode_br : decode [0x81FF] = .ok (.br ⟨[], 0x1FF⟩) 1 ∧ (Z9.mk [] 0x1FF).fld.immS = -1 := by decide
/-- PXM sc=1, ord=1, wt=0, cp=2 (1111010 001 01 00 10), LD w4, w9 (1011000 0100 1001 0). -/
theorem test_decode_ld : decode [0xF452, 0xB092] = .ok (.ld ⟨[.pxm 1 1 0 2], 4, 9, 0⟩) 2 := by decide
/-- PXR t=0, rc=3, sz=0, CAS w3, w2 (1100010 0011 0010 0). -/
theorem test_decode_cas : decode [0xF218, 0xC464] = .ok (.cas ⟨[.pxr 0 3 0], 3, 2, 0⟩) 2 := by decide
/-- PXM, BARW w1, 2 (1101110 0001 00010). -/
theorem test_decode_barw : decode [0xF400, 0xDC22] = .ok (.barw ⟨[.pxm 0 0 0 0], 1, 2⟩) 2 := by decide
/-- FUTW w2, w1: 1110000 0010 0001 0. -/
theorem test_decode_futw : decode [0xE042] = .ok (.futw ⟨[], 2, 1, 0⟩) 1 := by decide
/-- PXP page 1, VADD (1111011 01 0000000), d=1, s=2, t=3, rm=0, ftz=1. -/
theorem test_decode_vadd : decode [0xF680, 0x1231] = .ok (.vadd ⟨[], 1, 2, 3, 0, 1⟩) 2 := by decide
/-- PXV m=2, mm=1, et=1, sat=0 (1111100 010 1 0001 0), PXP page 1, VLD (1111011 01 0110000), d=5, s=6, t=0, i=15. -/
theorem test_decode_vld : decode [0xF8A2, 0xF6B0, 0x560F] = .ok (.vld ⟨[.pxv 2 1 1 0], 5, 6, 0, 15⟩) 3 := by decide
/-- PXX 7, PXP page 1, XBR (1111011 01 1010000), d=2, o=0xFFC: the offset is -4. -/
theorem test_decode_xbr : decode [0xFA07, 0xF6D0, 0x2FFC] = .ok (.xbr ⟨[.pxx 7], 2, 0xFFC⟩) 3 ∧
    (XB.mk [.pxx 7] 2 0xFFC).fld.immS = -4 := by decide
/-- PXP page 2, MMA (1111011 10 0000100). -/
theorem test_decode_mma : decode [0xF704, 0x1230] = .ok (.mma ⟨[], 1, 2, 3, 0⟩) 2 := by decide
/-- PXP page 2, CPY (1111011 10 0010000). -/
theorem test_decode_cpy : decode [0xF710, 0x1234] = .ok (.cpy ⟨[], 1, 2, 3, 4⟩) 2 := by decide
/-- PXP page 2, SPAWN (1111011 10 0100000). -/
theorem test_decode_spawn : decode [0xF720, 0x1230] = .ok (.spawn ⟨[], 1, 2, 3, 0⟩) 2 := by decide
/-- PXI 2, PXP page 2, CSRR (1111011 10 1000011), d=3, i=5: register 2*16 + 5. -/
theorem test_decode_csrr : decode [0xF002, 0xF743, 0x3005] = .ok (.csrr ⟨[.pxi 2], 3, 0, 0, 5⟩) 3 ∧
    ((XA.mk [.pxi 2] 3 0 0 5).fld 2).immU = 37 := by decide
/-- The unassigned codes 0x7F, 0x2E and 0x0F of page 1. -/
theorem test_decode_unassigned : decode [0xFFFF] = .trap 0x01 0 ∧ decode [0x5C00] = .trap 0x01 0 ∧ decode [0xF68F, 0] = .trap 0x01 0 := by
  decide
/-- A fifth prefix is ILLPFX at its own place; PXP of page 3 is ILLFLD. -/
theorem test_decode_refused : decode [0xF001, 0xF200, 0xF400, 0xF800, 0xFA00] = .trap 0x02 4 ∧ decode [0xF780 ||| 0x180, 0] = .trap 0x03 0 := by
  decide
/-- The table numbers of one-parcel and two-parcel rows. -/
theorem test_table_words : decodeTableWord 16 0x0200 = some (.add ⟨[], 0, 0, 0⟩) ∧
    decodeTableWord 32 0xF6800000 = some (.vadd ⟨[], 0, 0, 0, 0, 0⟩) ∧ decodeTableWord 32 0xF2004E00 = some (.sel ⟨[.pxr 0 0 0], 0, 0, 0⟩) := by
  decide

/-! ## States for the tests -/

/-- A thread of hearth 0 in slot 0 of core 0 at a privilege level, at offset 0x100 of its local store, with these registers. -/
def slotAt (priv : Nat) (ws : List (Nat × Word)) : Slot :=
  ws.foldl (fun t p => t.setW p.1 p.2) { busy := true, pc := windowVA 0 0x100, st := { priv := priv, hearth := 0 } }
/-- The package with one core on which that thread executes. -/
def withSlot (t : Slot) : State := { State.reset with cores := [(0, { slots := [(0, t)], bootTest := false })] }
/-- The same with the thread of `slotAt`. -/
def at_ (priv : Nat) (ws : List (Nat × Word)) : State := withSlot (slotAt priv ws)
/-- The state after an instruction. -/
def after (i : Instr) (s : State) : State :=
  match exec i s with
  | .next t => t
  | _ => s

/-! ## Scalar instructions -/

/-- 0x7FFF_FFFF + 1 on 32 bits is -2^31, sign-extended (R233). -/
theorem test_add_32 : (after (.add ⟨[], 1, 2, 1⟩) (at_ 0 [(1, 0x7FFFFFFF), (2, 1)])).w 1 = 0xFFFFFFFF80000000 := by decide
/-- -7 / 2 is -3 toward zero; the remainder is -1 (R235). -/
theorem test_div : (after (.div ⟨[], 1, 2, 0⟩) (at_ 0 [(1, -7), (2, 2)])).w 1 = -3 ∧
    (after (.rem ⟨[], 1, 2, 0⟩) (at_ 0 [(1, -7), (2, 2)])).w 1 = -1 := by decide
/-- The high half of -1 * 2 is -1, of 2^64-1 times 2 it is 1. -/
theorem test_mulh : (after (.mulh ⟨[], 1, 2, 0⟩) (at_ 0 [(1, -1), (2, 2)])).w 1 = -1 ∧
    (after (.mulhn ⟨[], 1, 2, 0⟩) (at_ 0 [(1, -1), (2, 2)])).w 1 = 1 := by decide
/-- With PXR the sources are w<s> and w<t>. -/
theorem test_sub_pxr : (after (.sub ⟨[.pxr 3 0 0], 1, 2, 0⟩) (at_ 0 [(1, 100), (2, 7), (3, 9)])).w 1 = -2 := by decide
/-- 1.0 + 2^-53 rounds to even, 1.0 (R172). -/
theorem test_fadd : (after (.fadd ⟨[], 1, 2, 0⟩) (at_ 0 [(1, 0x3FF0000000000000), (2, 0x3CA0000000000000)])).w 1 = 0x3FF0000000000000 := by
  decide
/-- FP32 1.5 * 2.5 = 3.75. -/
theorem test_fmul_32 : (after (.fmul ⟨[], 1, 2, 1⟩) (at_ 0 [(1, 0x3FC00000), (2, 0x40200000)])).w 1 = 0x40700000 := by decide
/-- BITX with pos 4, len 4 of 0xABCD is 0xC. -/
theorem test_bitx : (after (.bitx ⟨[.pxi 0, .pxi (4 * 64 + 3)], 1, 2, 0⟩) (at_ 0 [(2, 0xABCD)])).w 1 = 0xC := by decide
/-- A taken BNEZ with offset -2 goes back four bytes; an untaken one goes on. -/
theorem test_bnez : (after (.bnez ⟨[], 1, 0x1E⟩) (at_ 0 [(1, 5)])).cur.pc = windowVA 0 0xFC ∧
    (after (.bnez ⟨[], 1, 0x1E⟩) (at_ 0 [(1, 0)])).cur.pc = windowVA 0 0x102 := by decide
/-- CALL: w8 becomes w0, w7 the return address. -/
theorem test_call : (after (.call ⟨[], 8⟩) (at_ 0 [(8, 42)])).w 0 = 42 ∧ (after (.call ⟨[], 8⟩) (at_ 0 [(8, 42)])).w 7 = windowVA 0 0x102 ∧
    (after (.call ⟨[], 8⟩) (at_ 0 [])).cur.pc = windowVA 0 0x110 := by decide

/-! ## Witnesses: states and operands that meet the hypotheses of the statements, clause by clause -/

/-- A user thread with small values. -/
def user : State := at_ 0 [(1, 5), (2, 6), (3, 7)]
/-- A supervisor thread. -/
def super : State := at_ 1 [(1, 5), (2, 6), (3, 7)]
/-- A firmware thread. -/
def firm : State := at_ 2 [(1, 5), (2, 6), (3, 7)]

theorem wit_MovesAndExtensions :
    (let x : RR := ⟨[.pxr 0 0 2], 1, 2, 0⟩
     Ready (.sext x) user ∧ Ready (.zext x) user ∧ x.f = 0 ∧ (x.fld.pxr = true → x.fld.t = 0 ∧ x.fld.rc = 0)) ∧
    (let x : RR := ⟨[.pxr 3 0 0], 1, 2, 1⟩
     Ready (.sel x) user ∧ PlainPxr x.fld ∧ Ready (.mov x) user ∧ x.fld.pxr = true) ∧
    (let x : RR := ⟨[], 1, 2, 1⟩
     Ready (.mov x) user ∧ x.fld.pxr = false) ∧
    (let x : RR := ⟨[.pxr 7 3 0], 0, 2, 0⟩
     x.fld.pxr = true ∧ x.fld.sz = 0 ∧ x.fld.t < 8 ∧ x.fld.d = 0 ∧ Ready (.movToLoop x) user ∧ Ready (.movToMask x) user) ∧
    (let x : RR := ⟨[.pxr 7 3 0], 1, 0, 1⟩
     x.fld.pxr = true ∧ x.fld.sz = 0 ∧ x.fld.t < 8 ∧ x.fld.s = 0 ∧ Ready (.movFromLoop x) user ∧ Ready (.movFromMask x) user) ∧
    (let x : RR := ⟨[.pxr 8 3 0], 0, 2, 0⟩
     x.fld.pxr = true ∧ x.fld.sz = 0 ∧ 8 ≤ x.fld.t ∧ ∀ i ∈ [Instr.movToLoop x, .movFromLoop x, .movToMask x, .movFromMask x], Ready i user) := by
  decide
theorem wit_ImmediateInstructions :
    (let x : RI := ⟨[.pxi 1, .pxr 2 0 0], 1, 31⟩
     PlainPxr x.fld ∧ x.fld.immU = 63 ∧ ∀ i ∈ [Instr.addi x, .andi x, .ori x, .xori x, .shli x, .shri x, .sari x], Ready i user) ∧
    (let x : RI := ⟨[.pxi 2], 1, 0⟩
     PlainPxr x.fld ∧ x.fld.immU = 64 ∧ ∀ i ∈ [Instr.shli x, .shri x, .sari x, .movi x, .addpc x], Ready i user) := by decide
theorem wit_BitOperations :
    (let x : RR := ⟨[], 1, 2, 1⟩
     ∀ i ∈ [Instr.clz x, .ctz x, .popc x, .bswap x, .abs x], Ready i user) ∧
    (let x : RR := ⟨[.pxr 3 0 3], 1, 2, 1⟩
     Ready (.lea x) user ∧ (x.fld.pxr = true → x.fld.rc = 0) ∧ (x.f = 1 → x.fld.pxr = true)) ∧
    (let x : RR := ⟨[], 1, 2, 1⟩
     Ready (.lea x) user ∧ x.fld.pxr = false ∧ x.f = 1) ∧
    (let x : RR := ⟨[.pxi 7, .pxi 511], 1, 2, 0⟩
     x.fld.immU = 2 ^ 12 - 1 ∧ 64 < x.fld.immU / 64 % 64 + (x.fld.immU % 64 + 1) ∧ Ready (.bitx x) user ∧ Ready (.biti x) user) ∧
    (let x : RR := ⟨[.pxi 7, .pxi 448], 1, 2, 0⟩
     x.fld.immU < 2 ^ 12 ∧ x.fld.immU / 64 % 64 + (x.fld.immU % 64 + 1) = 64 ∧ x.f = 0 ∧ Ready (.bitx x) user ∧ Ready (.biti x) user) ∧
    (let x : RR := ⟨[.pxi 8, .pxi 0], 1, 2, 0⟩
     x.fld.immU = 2 ^ 12 ∧ Ready (.bitx x) user ∧ Ready (.biti x) user) := by decide
theorem wit_IntegerInstructions :
    (∀ p ∈ Claims.rrTable, let x : RR := ⟨[.pxr 3 0 0], 1, 2, 1⟩
      Ready (p.1 x) user ∧ PlainPxr x.fld) ∧
    (∀ p ∈ Claims.rrTable, let x : RR := ⟨[.pxr 3 0 1], 1, 2, 0⟩
      Ready (p.1 x) user ∧ x.fld.pxr = true ∧ (x.fld.rc ≠ 0 ∨ x.fld.sz ≠ 0)) ∧
    (∀ c ∈ [Instr.addi, .andi, .ori, .xori, .shli, .shri, .sari], let x : RI := ⟨[.pxr 3 1 0], 1, 2⟩
      Ready (c x) user ∧ x.fld.pxr = true ∧ (x.fld.rc ≠ 0 ∨ x.fld.sz ≠ 0)) := by decide
theorem wit_FloatArithmetic :
    (let x : RR := ⟨[.pxr 0 0 4], 1, 2, 1⟩
     (x.fld.pxr = true → x.fld.rc = 0) ∧ x.fld.rm = 4 ∧ x.fld.t = 0 ∧
       ∀ i ∈ [Instr.fadd x, .fsub x, .fmul x, .fdiv x, .fma x, .fsqrt x], Ready i user) ∧
    (let x : RR := ⟨[.pxr 3 0 5], 1, 2, 0⟩
     x.fld.rc = 0 ∧ x.fld.rm = 5 ∧ ∀ i ∈ [Instr.fadd x, .fsub x, .fmul x, .fdiv x, .fma x, .fsqrt x], Ready i user) := by decide
theorem wit_FloatComparesAndConversions :
    (let x : RR := ⟨[.pxr 3 0 0], 1, 2, 1⟩
     x.fld.rc = 0 ∧ x.fld.rm = 0 ∧ ∀ i ∈ [Instr.fmin x, .fmax x, .fcmp x, .fclass x], Ready i user) ∧
    (let x : RR := ⟨[.pxr 3 0 1], 1, 2, 1⟩
     x.fld.rc = 0 ∧ x.fld.rm ≠ 0 ∧ ∀ i ∈ [Instr.fmin x, .fmax x, .fcmp x], Ready i user) ∧
    (let x : RR := ⟨[.pxr 11 0 4], 1, 2, 1⟩
     Ready (.fcvt x) user ∧ x.fld.rc = 0 ∧ x.fld.t = 11 ∧ x.fld.rm ≠ 5) ∧
    (let x : RR := ⟨[.pxr 9 0 5], 1, 2, 0⟩
     Ready (.fcvt x) user ∧ x.fld.rc = 0 ∧ x.fld.t = 9 ∧ x.fld.rm = 5) ∧
    (let x : RR := ⟨[.pxr 12 0 0], 1, 2, 0⟩
     Ready (.fcvt x) user ∧ x.fld.rc = 0 ∧ 12 ≤ x.fld.t) ∧
    (let x : RR := ⟨[.pxr 0 0 5], 1, 2, 1⟩
     Ready (.fcvt x) user ∧ x.fld.rc = 0 ∧ x.fld.rm = 5 ∧ ¬((x.fld.t = 0 ∧ x.fld.f ≠ 1) ∨ x.fld.t = 7 ∨ x.fld.t = 9)) := by decide
theorem wit_ConditionalBranches :
    (∀ p ∈ Claims.branchRI, Ready (p.1 ⟨[], 1, 16⟩) user) ∧ ∀ p ∈ Claims.branchRR, Ready (p.1 ⟨[.pxi 0x100], 1, 2, 1⟩) user := by decide
/-- A hearth with 2^9 slots whose bases lie at 0x1_0000, a TLB entry for them, and entry 0 held with a base of kind 1. -/
def sited : State :=
  let leaf : BitVec 128 := BitVec.ofNat 128 (1 * 2 ^ 118 + 2 ^ 63 + 2 ^ 62 + 0x10000 + 0xC0)
  let k : Core := { slots := [(0, slotAt 1 [])], bootTest := false, tlb := [⟨0, 0, 0x10000, 0x1000, leaf⟩],
                    xcache := [{ hearth := 0, idx := 0, task := none, base := some 0x10, kind := 0 }] }
  { State.reset with hearths := [(0, { xbase := 0x10009 })], cores := [(0, k)] }
theorem wit_SiteUpdates :
    slotInRange (sited.hearth 0) 511 = true ∧ (sited.translateCur (slotVA (sited.hearth 0) 0) .read).1 = .ok 0x10000 { xa := 1, base := 0x10000 } ∧
    sited.entryOf sited.curCore 0 0 sited.cur.xtask = { hearth := 0, idx := 0, task := sited.cur.xtask, base := some 0x10, kind := 0 } ∧
    (sited.curK.xcache.filter (fun e => !e.is 0 0 sited.cur.xtask)).length < 256 := by decide
theorem wit_JumpsAndLoops :
    (∀ i ∈ [Instr.br ⟨[], 0x100⟩, .loope ⟨[], 0x1FF⟩, .nop ⟨[], 0x1FF⟩, .entry ⟨[], 4⟩], Ready i user) ∧
    (let x : RR := ⟨[], 0, 2, 0⟩
     Ready (.jmp x) user ∧ x.d = 0 ∧ x.f = 0 ∧ (user.w x.fld.s).toNat % 2 = 0) ∧
    (let x : RR := ⟨[], 0, 1, 0⟩
     Ready (.jmp x) user ∧ x.d = 0 ∧ x.f = 0 ∧ (user.w x.fld.s).toNat % 2 = 1) ∧
    (let x : RR := ⟨[], 0, 1, 1⟩
     Ready (.jmp x) user ∧ (x.d ≠ 0 ∨ x.f ≠ 0)) ∧
    (let s := at_ 0 [(1, 0x200000003), (2, 0x300000003)]
     Ready (.loops ⟨[], 1, 4⟩) s ∧ (s.w 1).toNat / 2 ^ 32 < (s.w 1).toNat % 2 ^ 32 ∧
     (s.w 2).toNat % 2 ^ 32 ≤ (s.w 2).toNat / 2 ^ 32 ∧ (RI.mk [] 2 4).fld.pxx = false ∧ (RI.mk [.pxx 3] 2 4).fld.pxx = true ∧
     Ready (.loops ⟨[.pxx 3], 2, 4⟩) s) := by decide
theorem wit_NopDoesNothing : Ready (.nop ⟨[], 0x1FF⟩) user := by decide
/-- A user thread with ten resident frames. -/
def deep (ws : List (Nat × Word)) : State :=
  withSlot { slotAt 0 ws with st := { priv := 0, hearth := 0, resid := 10 } }
/-- The code of a call's target: ENTRY 0 at offset 0x200 of the local store, or ADD. -/
def coded (s : State) (p : Parcel) : State := s.setBytes (lsPA s 0 0x200) (leBytes 2 p.toNat)
theorem wit_CallsMoveTheWindow :
    (Ready (.call ⟨[], 0x100⟩) user ∧ user.cur.wlow < 12 ∧ user.cur.st.resid ≠ 10) ∧
    (Ready (.call ⟨[], 0⟩) (deep []) ∧ (deep []).cur.wlow < 12 ∧ (deep []).cur.st.resid = 10) ∧
    (let s := coded (at_ 0 [(1, windowVA 0 0x200), (2, 1)]) 0x9E00
     Ready (.icall ⟨[], 1, 1, 0⟩) s ∧ s.latent = [] ∧ Ready (.icall ⟨[], 0, 2, 0⟩) s ∧ (s.w 2).toNat % 2 = 1 ∧ s.cur.wlow < 12 ∧
     Ready (.icall ⟨[], 0, 1, 0⟩) s ∧ (s.w 1).toNat % 2 = 0 ∧ s.cur.st.resid ≠ 10 ∧
     (s.fetch s.curCore s.curSlot s.cur.st.hearth s.cur.st.priv s.cur.rc (s.w 1)).1 = .instr (.entry ⟨[], 0⟩) 1) ∧
    (let s := coded (deep [(1, windowVA 0 0x200)]) 0x9E00
     Ready (.icall ⟨[], 0, 1, 0⟩) s ∧ s.cur.st.resid = 10 ∧
     (s.fetch s.curCore s.curSlot s.cur.st.hearth s.cur.st.priv s.cur.rc (s.w 1)).1 = .instr (.entry ⟨[], 0⟩) 1) ∧
    (let s := coded (at_ 0 [(1, windowVA 0 0x200)]) 0x026B
     (s.fetch s.curCore s.curSlot s.cur.st.hearth s.cur.st.priv s.cur.rc (s.w 1)).1 = .instr (.add ⟨[], 3, 5, 1⟩) 1) ∧
    (let s := coded (at_ 0 [(1, windowVA 0 0x200)]) 0xFFFF
     (s.fetch s.curCore s.curSlot s.cur.st.hearth s.cur.st.priv s.cur.rc (s.w 1)).1 = .trap 0x01 0 false) := by decide
theorem wit_ReturnRestoresCaller :
    (let s := withSlot { (slotAt 0 [(7, 0x1000)]) with st := { priv := 0, hearth := 0, resid := 1 } }
     Ready (.ret ⟨[], 0⟩) s ∧ (s.w 7).toNat % 2 = 0 ∧ s.cur.st.resid ≠ 0 ∧ Ready (.ret ⟨[], 1⟩) s) ∧
    (let s := at_ 0 [(7, 0x1001)]
     Ready (.ret ⟨[], 0⟩) s ∧ (s.w 7).toNat % 2 = 1) ∧
    (let s := at_ 0 [(7, 0x1000)]
     Ready (.ret ⟨[], 0⟩) s ∧ (s.w 7).toNat % 2 = 0 ∧ s.cur.st.resid = 0) ∧
    (Ready (.call ⟨[], 8⟩) user ∧ user.cur.wlow < 12 ∧ user.cur.st.resid ≠ 10 ∧ exec (.call ⟨[], 8⟩) user = .next (after (.call ⟨[], 8⟩) user) ∧
     (user.npc (Z9.mk [] 8).fld).toNat % 2 = 0 ∧ user.cur.markW = [] ∧ user.cur.markV = []) := by
  refine ⟨by decide, by decide, by decide, by decide, by decide, by decide, ?_, by decide, by decide, by decide⟩
  rfl

/-- A supervisor thread with two resident frames whose spillp names offset 0x200, and its place. -/
def spilling (resid : Nat) : State :=
  withSlot { (slotAt 1 []) with st := { priv := 1, hearth := 0, resid := resid, spillp := 8 } }
theorem wit_SpillAndFill :
    (Ready (.spillw ⟨[], 0⟩) (spilling 0) ∧ (spilling 0).cur.st.resid = 0) ∧
    (Ready (.fillw ⟨[], 0⟩) (spilling 10) ∧ (spilling 10).cur.st.resid = 10 ∧ ∀ a n, (spilling 10).cur.wait ≠ .watch a n) ∧
    (let s := spilling 10
     Ready (.spillw ⟨[], 0⟩) s ∧ s.cur.st.resid ≠ 0 ∧ Claims.SpillFrame s.cur.st.spillp 0 0x200 ∧ coreExists 0 = true ∧
     (s.core 0).lsRefusedN 0x200 64 s.cur.st.hearth s.cur.st.priv true = false ∧ framePending s.cur ((s.cur.wlow + 24 - 10) % 12) = false ∧
     spillBusy s s.cur.st.spillp.toNat = false ∧ (s.core 0).view = false ∧ s.stuck = []) ∧
    (let s := (spilling 1).modCore 0 fun k => { k with view := true }
     Ready (.spillw ⟨[], 0⟩) s ∧ s.cur.st.resid ≠ 0 ∧ (s.core 0).lsRefusedN 0x200 64 s.cur.st.hearth s.cur.st.priv true = false ∧
     framePending s.cur ((s.cur.wlow + 24 - 1) % 12) = false ∧ spillBusy s s.cur.st.spillp.toNat = false ∧ (s.core 0).view = true) ∧
    (let s := ({ spilling 9 with cores := (1, { bootTest := false, pw := { gated := true } }) :: (spilling 9).cores } : State).modCur fun t =>
       { t with st := { t.st with spillp := 0x1009 } }
     Ready (.fillw ⟨[], 0⟩) s ∧ Claims.SpillFrame (s.cur.st.spillp - 1) 1 0x200 ∧ coreExists 1 = true ∧ (s.core 1).pw.gated = true ∧
     (s.core 1).lsRefusedN 0x200 64 s.cur.st.hearth s.cur.st.priv false = false ∧ framePending s.cur ((s.cur.wlow + 24 - 9 + 11) % 12) = false ∧
     frameBusy s (s.cur.st.spillp - 1).toNat = false) ∧
    (let s := spilling 9
     Ready (.fillw ⟨[], 0⟩) s ∧ s.cur.st.resid ≠ 10 ∧ Claims.SpillFrame (s.cur.st.spillp - 1) 0 0x1C0 ∧
     (s.core 0).lsRefusedN 0x1C0 64 s.cur.st.hearth s.cur.st.priv false = false ∧ framePending s.cur ((s.cur.wlow + 24 - 9 + 11) % 12) = false ∧
     frameBusy s (s.cur.st.spillp - 1).toNat = false) := by
  refine ⟨by decide, ⟨by decide, by decide, fun _ _ h => nomatch h⟩, by decide, by decide, by decide, by decide⟩
theorem wit_TrapEntrySavesAndEnters :
    (let r : TrapRec := { cause := 255, cls := 7 }
     r.cause < 256 ∧ r.cls < 8) ∧ user.cur.st.adepth = 0 ∧ 1 ≤ (withSlot { (slotAt 0 []) with st := { adepth := 1 } }).cur.st.adepth := by decide
theorem wit_PrivilegeChecks : user.cur.st.priv = 0 ∧ super.cur.st.priv ≤ 1 := by decide

/-- A user thread with an address in its own local store in w1, a value in w2 and an index in w3. -/
def local_ : State := at_ 0 [(1, windowVA 0 0x400), (2, 0x1122334455667788), (3, 2), (4, 0xF), (5, 1)]
/-- A firmware thread with the last word of the local store in w1. -/
def last_ : State := at_ 2 [(1, windowVA 0 0x3FFF8), (2, 3)]
theorem wit_LocalLoads :
    (let x : RR := ⟨[.pxr 3 0 5], 2, 1, 1⟩
     Ready (.ld x) local_ ∧ Claims.LoadForm x.fld ∧ x.fld.ord ≠ 3 ∧ Claims.addrOf x.fld local_ = windowVA 0 0x404 ∧
     Claims.OwnLS local_ 0x404 (szBytes x.fld.sz) false ∧ local_.unstamped local_.curCore local_.curSlot = false) ∧
    (let x : RR := ⟨[.pxm 1 1 1 0], 2, 1, 0⟩
     Ready (.ldx x) last_ ∧ Claims.LoadForm x.fld ∧ x.fld.ord ≠ 3 ∧ x.d ≠ x.s ∧ last_.w x.fld.s = windowVA last_.curCore 0x3FFF8 ∧
     Claims.OwnLS last_ 0x3FFF8 (szBytes x.fld.sz) false ∧ last_.unstamped last_.curCore last_.curSlot = false) ∧
    (let x : RI := ⟨[], 2, 8⟩
     Ready (.lda x) local_ ∧ Claims.LoadForm x.fld ∧ x.fld.ord ≠ 3 ∧ x.fld.t = 0 ∧
     local_.cur.pc + BitVec.ofInt 64 x.fld.immS = windowVA local_.curCore 0x108 ∧ Claims.OwnLS local_ 0x108 (szBytes x.fld.sz) false) := by
  refine ⟨?_, ?_, ?_⟩ <;> decide
theorem wit_LocalStores :
    (let x : RR := ⟨[.pxi 0x1F8], 2, 1, 0⟩
     Ready (.st x) local_ ∧ Claims.StoreForm x.fld ∧ x.fld.ord = 0 ∧ local_.cur.wait = .none ∧
     Claims.addrOf x.fld local_ = windowVA 0 0x3F8 ∧ Claims.OwnLS local_ 0x3F8 (szBytes x.fld.sz) true ∧
     local_.curK.storesStall = false) ∧
    (let x : RR := ⟨[.pxr 3 0 0], 2, 1, 1⟩
     Ready (.stx x) local_ ∧ Claims.StoreForm x.fld ∧ x.fld.ord = 0 ∧ local_.w x.fld.s = windowVA local_.curCore 0x400 ∧
     Claims.OwnLS local_ 0x400 (szBytes x.fld.sz) true) := by decide
/-- A thread in slot 0 of core 0, whose TLB maps the page 0x10000 to the same place in DRAM, readable and writable, for U and for S. -/
def onDram (t : Slot) : State :=
  let leaf (a perms : Nat) : BitVec 128 := BitVec.ofNat 128 (2 ^ 63 + 2 ^ 62 + a + perms)
  let k : Core := { slots := [(0, t)], bootTest := false,
                    tlb := [⟨0, 0, 0x10000, 0x1000, leaf 0x10000 0xD0⟩, ⟨0, 0, 0x20000, 0x1000, leaf 0x20000 0xC0⟩] }
  { State.reset with cores := [(0, k)] }
/-- The same with registers. -/
def dram (priv : Nat) (ws : List (Nat × Word)) : State := onDram (slotAt priv ws)
/-- The address 0x10008 in w1. -/
def global : State := dram 0 [(1, 0x10008), (2, 0x1122334455667788)]
theorem wit_GlobalLoadsLeaveAsRequests :
    let x : RR := ⟨[], 2, 1, 0⟩
    Ready (.ld x) global ∧ Claims.LoadForm x.fld ∧ x.fld.ord ≠ 3 ∧ global.cur.wlow < 12 ∧ (Claims.addrOf x.fld global).toNat % szBytes x.fld.sz = 0 ∧
    Claims.ToDram global global (Claims.addrOf x.fld global) .read 0x10008 { base := 0x10000 } ∧
    global.unstamped global.curCore global.curSlot = false ∧ global.reqFull global.curCore = false ∧
    global.curK.bootTest = false ∧ global.served (x.fld.ord = 1) (policy x.fld { base := 0x10000 }) 0x10008 (szBytes x.fld.sz) = none := by decide
theorem wit_StoreIsLoggedAndForwarded :
    let x : RR := ⟨[], 2, 1, 0⟩
    let y : RR := ⟨[], 3, 1, 0⟩
    let t := after (.st x) global
    Ready (.st x) global ∧ Claims.StoreForm x.fld ∧ x.fld.ord = 0 ∧ global.cur.wait = .none ∧ global.curK.bootTest = false ∧
    (Claims.addrOf x.fld global).toNat % szBytes x.fld.sz = 0 ∧
    Claims.ToDram global global (Claims.addrOf x.fld global) .write 0x10008 { base := 0x10000 } ∧
    global.curK.log.openHearth = global.cur.st.hearth ∧ global.curK.log.newSize = none ∧ global.curK.log.used < global.curK.log.entries ∧
    (∀ e ∈ global.curK.log.openEntries, e.wadr ≠ 0x10008 / 8) ∧ coreExists global.curCore = true ∧ global.hub.package < 64 ∧
    Ready (.ld y) t ∧ Claims.LoadForm y.fld ∧ y.fld.ord = 0 ∧ y.fld.pxx = false ∧ Claims.addrOf y.fld t = Claims.addrOf x.fld global ∧
    Claims.ToDram t t (Claims.addrOf y.fld t) .read 0x10008 { base := 0x10000 } ∧ t.unstamped t.curCore t.curSlot = false := by decide
theorem wit_MisalignedAndRefused :
    (let x : RR := ⟨[], 2, 1, 0⟩
     let s := dram 0 [(1, 0x10FF9)]
     Ready (.ld x) s ∧ Claims.LoadForm x.fld ∧ Ready (.st x) s ∧ Claims.StoreForm x.fld ∧ (Claims.addrOf x.fld s).toNat % szBytes x.fld.sz ≠ 0 ∧
     s.translateCur (Claims.addrOf x.fld s) .read = (.ok 0x10FF9 { base := 0x10000 }, s) ∧
     s.translateCur (Claims.addrOf x.fld s) .write = (.ok 0x10FF9 { base := 0x10000 }, s)) ∧
    (let x : RR := ⟨[], 2, 1, 0⟩
     let s := at_ 0 [(1, windowVA 0 0x30000)]
     Ready (.ld x) s ∧ Ready (.st x) s ∧ Claims.addrOf x.fld s = windowVA 0 0x30000 ∧
     s.curK.lsRefusedN 0x30000 8 s.cur.st.hearth s.cur.st.priv false = true ∧
     s.curK.lsRefusedN 0x30000 8 s.cur.st.hearth s.cur.st.priv true = true) ∧
    (let x : RR := ⟨[.pxm 1 2 0 0], 2, 1, 0⟩
     let y : RR := ⟨[.pxr 0 0 5], 1, 1, 0⟩
     let z : RI := ⟨[.pxr 3 0 2], 2, 8⟩
     ¬Claims.LoadForm x.fld ∧ Ready (.ld x) user ∧ Ready (.ldx x) user ∧ y.d = y.s ∧ Ready (.ldx y) user ∧ ¬Claims.StoreForm y.fld ∧
     Ready (.st y) user ∧ Ready (.stx y) user ∧ z.fld.pxr = true ∧ z.fld.t ≠ 0 ∧ Ready (.lda z) user) ∧
    (let s : State := user.modCur fun t => { t with st := { t.st with det := true } }
     let x : RR := ⟨[.pxr 7 0 2], 2, 1, 0⟩
     let y : RR := ⟨[.pxr 6 0 0], 14, 1, 0⟩
     let z : RR := ⟨[], 0, 1, 0⟩
     s.cur.st.det = true ∧ x.fld.rc = 0 ∧ x.fld.sz = 2 ∧ x.fld.t ≤ 7 ∧ Ready (.cas x) s ∧ Ready (.amov x) s ∧ y.fld.rc = 0 ∧ y.fld.sz = 0 ∧
     y.fld.t % 2 = 0 ∧ y.fld.d % 2 = 0 ∧ Ready (.cas16 y) s ∧ z.d = 0 ∧ z.f = 0 ∧
     ∀ i ∈ [Instr.futs z, .futp z, .lock z, .unlock z, .qpush z, .qpop y], Ready i s) := by
  refine ⟨?_, ?_, ?_, ?_⟩ <;> decide
theorem wit_LocalAtomics :
    (let x : RR := ⟨[.pxr 10 0 3], 2, 1, 0⟩
     local_.cur.wait = .none ∧ Ready (.amo x) local_ ∧ x.fld.rc = 0 ∧ (x.fld.sz = 2 ∨ x.fld.sz = 3) ∧ x.f = 0 ∧ x.fld.sc ≤ 1 ∧ x.fld.t ≤ 10 ∧
     x.fld.ord = 0 ∧ local_.w x.fld.s + BitVec.ofNat 64 x.fld.immU = windowVA local_.curCore 0x400 ∧ Claims.OwnLS local_ 0x400 8 true) ∧
    (let x : RR := ⟨[.pxr 7 0 2, .pxm 1 1 0 0], 2, 1, 0⟩
     Ready (.amov x) local_ ∧ x.fld.rc = 0 ∧ (x.fld.sz = 2 ∨ x.fld.sz = 3) ∧ x.f = 0 ∧ x.fld.sc ≤ 1 ∧ x.fld.t ≤ 7 ∧ x.fld.ord ≤ 1 ∧
     local_.cur.st.det = false ∧ Ready (.cas x) local_ ∧ local_.w x.fld.s = windowVA local_.curCore 0x400 ∧ Claims.OwnLS local_ 0x400 4 true) ∧
    (let x : RR := ⟨[.pxr 4 0 0], 2, 1, 0⟩
     Ready (.cas16 x) local_ ∧ x.fld.rc = 0 ∧ x.fld.sz = 0 ∧ x.f = 0 ∧ x.fld.sc ≤ 1 ∧ x.fld.ord ≤ 1 ∧ x.fld.t % 2 = 0 ∧ x.fld.d % 2 = 0 ∧
     x.fld.t < 16 ∧ local_.w x.fld.s = windowVA local_.curCore 0x400 ∧ Claims.OwnLS local_ 0x400 16 true) := by decide
theorem wit_GlobalAtomicsShipTheSegment :
    let x : RR := ⟨[.pxr 8 0 3, .pxm 4 0 0 0], 2, 1, 0⟩
    Ready (.amo x) global ∧ x.fld.rc = 0 ∧ (x.fld.sz = 2 ∨ x.fld.sz = 3) ∧ x.f = 0 ∧ x.fld.t ≤ 10 ∧ x.fld.ord = 0 ∧
    (x.fld.sc = 0 ∨ (2 ≤ x.fld.sc ∧ x.fld.sc ≤ 4)) ∧ (global.w x.fld.s + BitVec.ofNat 64 x.fld.immU).toNat % szBytes x.fld.sz = 0 ∧
    Claims.ToDram global global (global.w x.fld.s + BitVec.ofNat 64 x.fld.immU) .atomic 0x10008 { base := 0x10000 } ∧
    global.cur.st.det = false ∧ global.cur.wait = .none ∧ global.reqFull global.curCore = false ∧
    global.curK.log.openHearth = global.cur.st.hearth ∧ coreExists global.curCore = true ∧ global.hub.package < 64 := by decide

/-- A request of slot 0 that returns a value. -/
def waiting : Req :=
  { id := 0, group := 0, core := 0, slot := 0, hearth := 0, priv := 0, task := 0, det := false, rc := {}, pc := 0, va := 0, pa := 0, size := 8,
    sc := 0, op := .load false, dst := .w 0 3 }
theorem wit_ReleaseAcquireFence :
    (let x : Z9 := ⟨[.pxm 5 0 0 0], 0⟩
     Ready (.rel x) user ∧ x.z = 0 ∧ 1 ≤ x.fld.sc ∧ x.fld.ord = 0 ∧ x.fld.cp = 0 ∧ user.curK.log.openHearth = user.cur.st.hearth ∧ user.cur.wait = .none) ∧
    (let x : RR := ⟨[], 0, 1, 0⟩
     let a := at_ 0 [(1, 159 * 8 + 7)]
     let b := at_ 0 [(1, 0x10000)]
     let c := at_ 0 [(1, 160 * 8)]
     Ready (.acq x) a ∧ x.d = 0 ∧ x.f = 0 ∧ (a.w 1).bits 15 13 = 0 ∧ (a.w 1).bits 10 3 < 160 ∧ (a.w 1).bits 63 16 ≤ (get 0 (a.core 1279).log.pubtail 0).toNat ∧
     Ready (.acq x) b ∧ (b.w 1).bits 15 13 = 0 ∧ (b.w 1).bits 10 3 < 160 ∧ (get 0 (b.core 0).log.pubtail 0).toNat < (b.w 1).bits 63 16 ∧
     Ready (.acq x) c ∧ 160 ≤ (c.w 1).bits 10 3) ∧
    (let s := { user with reqs := [waiting] }
     Ready (.fence ⟨[], 0⟩) user ∧ user.reqs = [] ∧ user.replies = [] ∧ Ready (.fence ⟨[], 0⟩) s ∧
     ∃ r ∈ s.reqs, r.core = s.curCore ∧ r.slot = s.curSlot ∧ r.dst ≠ .none) ∧
    Ready (.isync ⟨[], 0, 0, 1⟩) user := by decide
theorem wit_PutsAndWaits :
    (let x : RR := ⟨[.pxr 5 0 3], 1, 2, 0⟩
     Ready (.put x) local_ ∧ x.f = 0 ∧ x.fld.ord = 0 ∧ x.fld.sc = 0 ∧ x.fld.rc = 0 ∧ x.fld.sz < 4 ∧ (local_.w x.fld.d).toNat % szBytes x.fld.sz = 0 ∧
     local_.translateCur (local_.w x.fld.d) .write = (.ok (lsPA local_ 0 0x400) { window := true }, local_) ∧
     paClass (lsPA local_ 0 0x400) = 1 ∧ local_.ownPackage (lsPA local_ 0 0x400) = true ∧ local_.reqFull local_.curCore = false ∧ local_.cur.wait = .none) ∧
    (let m : State := user.modCurK fun k => { k with mail := [(15, { value := 31 })] }
     Ready (.waitm ⟨[], 15, 31⟩) m ∧ (RI.mk [] 15 31).fld.immU ≤ (get {} m.curK.mail 15).value.toNat ∧
     Ready (.waitm ⟨[], 14, 1⟩) m ∧ (get {} m.curK.mail 14).value.toNat < (RI.mk [] 14 1).fld.immU) ∧
    (let s : State := user.modCur fun t => { t with loads := 8 }
     Ready (.wait ⟨[.pxi 7], 511⟩) s ∧ s.cur.deferred = [] ∧ (Z9.mk [.pxi 7] 511).fld.immU = 4095 ∧ s.cur.loads ≤ 7 + 1 ∧
     ¬(s.cur.loads ≤ 4095 / 512) ∧ Ready (.wait ⟨[], 0⟩) user ∧ user.cur.loads ≤ 0 ∧ user.cur.stores ≤ 0 ∧ user.cur.copies ≤ 0 ∧ user.cur.tiles ≤ 0) ∧
    (let s := at_ 0 [(1, windowVA 0 0x2FFF8)]
     Ready (.watch ⟨[], 1, 1, 0⟩) s ∧ s.w 1 = windowVA s.curCore 0x2FFF8 ∧ Claims.OwnLS s 0x2FFF8 8 false ∧
     BitVec.ofNat 64 (Claims.ownNat s 0x2FFF8 8) ≠ s.w 1 ∧ Ready (.watch ⟨[], 0, 1, 0⟩) s ∧ BitVec.ofNat 64 (Claims.ownNat s 0x2FFF8 8) = s.w 0) ∧
    (Ready (.sleep ⟨[], 0, 0⟩) user ∧ (RI.mk [] 0 0).fld.immU = 0 ∧ Ready (.sleep ⟨[], 0, 1⟩) user ∧ (RI.mk [] 0 1).fld.immU ≠ 0) ∧
    (Ready (.mig ⟨[], 0, 1, 0⟩) local_ ∧ local_.w 1 = windowVA 0 0x400 ∧ coreExists 0 = true) ∧
    (let s := at_ 0 [(1, 0x00FFFFFF7FFFFFFF)]
     Ready (.mig ⟨[], 0, 1, 0⟩) s ∧ (s.w 1).toNat < 0x00FFFFFF80000000) := by decide
theorem wit_MigrationMovesTheThread :
    let s := at_ 0 [(1, windowVA 7423 0x3FFFF)]
    Ready (.mig ⟨[], 0, 1, 0⟩) s ∧ s.w 1 = windowVA 7423 0x3FFFF ∧ coreExists 7423 = true ∧ (7423 : Nat) ≠ s.curCore ∧
    s.cur.st.pin = false ∧ s.cur.st.priv = 0 ∧ s.cur.st.vclean = true ∧ s.cur.copies = 0 ∧ s.cur.tiles = 0 ∧ s.cur.loads = 0 ∧ s.cur.stores = 0 ∧
    s.cur.deferred = [] ∧ s.cur.st.resid = 0 ∧ get? s.curK.departing s.cur.st.hearth = none ∧ ∀ m a, s.cur.wait ≠ .sleep m a := by
  refine ⟨by decide, by decide, by decide, by decide, by decide, by decide, by decide, by decide, by decide, by decide, by decide, by decide,
    by decide, by decide, fun _ _ h => nomatch h⟩
/-- A barrier object of a cluster for hearth 0. -/
def barId : BarId := { lev := 2, unit := 0, idx := 31 }
/-- A thread in front of that object. -/
def barred (q : Barrier) : State := (at_ 2 [(1, 0xFFFFFF), (2, 0x1000000)]).setBar barId q
theorem wit_BarrierInstructions :
    (let x : RI := ⟨[.pxm 2 0 0 0], 1, 31⟩
     let fresh := barred { expected := 2, nexp := 2 }
     Claims.BarrierForm x.fld fresh ∧ Claims.Quiet fresh ∧ fresh.cur.barlast = 0 ∧
     (∀ p ∈ [(Instr.barr, false, true), (.bara, false, false), (.bard, true, false)], Ready (p.1 x) fresh) ∧
     Claims.barrierOf x.fld fresh = barId ∧ (fresh.bar barId).poison = false ∧ (fresh.bar barId).arrived + 1 ≠ (fresh.bar barId).expected ∧
     ((barred { expected := 1, nexp := 1 }).bar barId).arrived + 1 = ((barred { expected := 1, nexp := 1 }).bar barId).expected ∧
     ((barred { poison := true }).bar barId).poison = true ∧ Claims.BarrierForm x.fld (barred { poison := true }) ∧
     ((barred {}).bar barId).expected = 0 ∧ Claims.BarrierForm x.fld (barred {}) ∧ (barred { expected := 1, nexp := 0 }).bar barId ≠ {}) ∧
    (let x : RI := ⟨[.pxm 2 0 0 0], 1, 31⟩
     Ready (.barw x) (barred {}) ∧ (barred {}).cur.wait = .none ∧ ((barred {}).bar barId).phase ≠ ((barred {}).w 1).getLsbD 0 ∧
     ((barred { phase := true }).bar barId).phase = ((barred {}).w 1).getLsbD 0) ∧
    (let s := barred {}
     Ready (.bari ⟨[.pxm 2 0 0 0], 1, 31⟩) s ∧ s.cur.st.priv = 2 ∧ s.cur.wait = .none ∧ (s.w 1).toNat < 2 ^ 24 ∧ 2 ^ 24 ≤ (s.w 2).toNat ∧
     Ready (.bari ⟨[.pxm 5 0 0 0], 2, 15⟩) s ∧ (RI.mk [.pxm 5 0 0 0] 2 15).fld.immU < 16) := by decide
/-- A user thread before an object at 0x10010 whose first word is w. -/
def object (w : Word) : State := (dram 0 [(1, 0x10010), (2, 9)]).setMemW 0x10010 w
theorem wit_FuturesAndLocks :
    (∀ st ∈ [0, 1, 2, 3], let s := object (BitVec.ofNat 64 (st * 2 ^ 62 + 5))
      Claims.Quiet s ∧ s.cur.st.det = false ∧ (s.memW 0x10010).bits 63 62 = st ∧ Claims.ObjAt s (s.w 1) 16 .atomic 0x10010 ∧
      Claims.ObjAt s (s.w 1) 16 .read 0x10010 ∧ Ready (.futs ⟨[], 2, 1, 0⟩) s ∧ Ready (.futs ⟨[], 2, 1, 1⟩) s ∧ Ready (.futp ⟨[], 2, 1, 0⟩) s ∧
      Ready (.futw ⟨[.pxr 3 0 0], 2, 1, 0⟩) s ∧ Ready (.futw ⟨[], 2, 1, 0⟩) s) ∧
    (let s := object 0
     Claims.ObjAt s (s.w 1) 8 .atomic 0x10010 ∧ (s.memW 0x10010).bits 48 48 = 0 ∧ Ready (.lock ⟨[], 0, 1, 0⟩) s ∧ Ready (.unlock ⟨[], 0, 1, 0⟩) s) ∧
    (let s := object (BitVec.ofNat 64 (2 ^ 48))
     (s.memW 0x10010).bits 48 48 = 1 ∧ (s.memW 0x10010).bits 47 0 = s.cur.taskid.bits 47 0) ∧
    (let s := object (BitVec.ofNat 64 (2 ^ 48 + 7))
     (s.memW 0x10010).bits 48 48 = 1 ∧ (s.memW 0x10010).bits 47 0 ≠ s.cur.taskid.bits 47 0) := by
  refine ⟨?_, ?_, ?_, ?_⟩ <;> decide
/-- A ring of two entries at 0x10100 with its control words at 0x10000, head h, tail t and the state st of entry 0. -/
def ring (h t st : Nat) : State :=
  (((((dram 0 [(1, 0x10000), (2, 9)]).setMemW 0x10000 0x10100).setMemW 0x10008 1).setMemW 0x10010 (BitVec.ofNat 64 h)).setMemW 0x10018
    (BitVec.ofNat 64 t)).setMemW 0x10100 (BitVec.ofNat 64 (st * 2 ^ 62))
theorem wit_StageRings :
    (let s := ring 1 2 0
     Claims.Quiet s ∧ s.cur.st.det = false ∧ s.cur.push = none ∧ Claims.RingAt s (s.w 1) .read .atomic 0x10000 0x10008 0x10010 0x10018 ∧ Ready (.qpush ⟨[], 2, 1, 1⟩) s ∧
     Ready (.qpush ⟨[], 2, 1, 0⟩) s ∧ ((s.memW 0x10018) - (s.memW 0x10010)).toNat < 2 ^ (s.memW 0x10008).bits 4 0 ∧
     Claims.ObjAt s (s.memW 0x10000 + BitVec.ofNat 64 (16 * ((s.memW 0x10018).toNat % 2 ^ (s.memW 0x10008).bits 4 0))) 16 .atomic 0x10100 ∧
     (s.memW 0x10100).bits 63 62 = 0 ∧ Claims.Apart 0x10100 16 0x10018 8) ∧
    (let s := ring 0 1 2
     s.cur.push = none ∧ Claims.RingAt s (s.w 1) .atomic .read 0x10000 0x10008 0x10010 0x10018 ∧ Ready (.qpop ⟨[.pxr 3 0 0], 2, 1, 0⟩) s ∧ s.memW 0x10010 ≠ s.memW 0x10018 ∧
     Claims.ObjAt s (s.memW 0x10000 + BitVec.ofNat 64 (16 * ((s.memW 0x10010).toNat % 2 ^ (s.memW 0x10008).bits 4 0))) 16 .atomic 0x10100 ∧
     (s.memW 0x10100).bits 63 62 = 2 ∧ Claims.Apart 0x10100 16 0x10010 8) := by
  refine ⟨⟨by decide, by decide, by decide, by decide, by decide, by decide, by decide, by decide⟩,
    ⟨by decide, by decide, by decide, by decide, by decide, by decide⟩⟩

theorem wit_VectorFloat :
    (∀ p ∈ Claims.vfTable, let x : XR := ⟨[.pxv 7 1 6 1, .pxr 0 1 0], 1, 2, 0, 0, 1⟩
      Ready (p.1 x) user ∧ user.cur.streams = [] ∧ pxrBad x.fld p.2.1 = false ∧ (x.fld.et = 0 ∨ x.fld.et = 6) ∧ x.fld.rm ≠ 5 ∧
      (p.2.2.1 = true → x.fld.rm = 0) ∧ (p.2.1 = false → x.fld.t = 0) ∧ x.fld.immU = 0) ∧
    (∀ p ∈ Claims.vfTableA, let x : XA := ⟨[.pxv 0 0 6 1], 1, 15, 0, 0⟩
      Ready (p.1 x) user ∧ pxrBad (x.fld 1) false = false ∧ ((x.fld 1).et = 0 ∨ (x.fld 1).et = 6) ∧ (x.fld 1).t = 0 ∧ (x.fld 1).immU = 0) := by
  decide
theorem wit_VectorInteger :
    ∀ p ∈ Claims.viTable, let x : XA := ⟨[.pxv 7 1 14 0], 15, 2, 0, 0⟩
      Ready (p.1 x) user ∧ user.cur.streams = [] ∧ pxrBad (x.fld 1) p.2.1 = false ∧ 7 ≤ (x.fld 1).et ∧ (x.fld 1).et = 14 ∧
      (p.2.2.1 = false → (x.fld 1).sat = 0) ∧ (p.2.1 = false → (x.fld 1).t = 0) ∧ (x.fld 1).immU = 0 := by decide
theorem wit_VectorRearranging :
    (let x : XA := ⟨[.pxv 7 0 6 0], 7, 15, 3, 7⟩
     let f := x.fld 1
     user.cur.streams = [] ∧ Ready (.vcmp x) user ∧ pxrBad f true = false ∧ f.sat = 0 ∧ f.immU < 8 ∧ f.d < 8 ∧ Ready (.vsel x) user ∧
     pxrBad f false = false) ∧
    (let x : XA := ⟨[.pxv 0 0 7 0], 1, 2, 0, 1⟩
     Ready (.vsplat x) user ∧ pxrBad (x.fld 1) false = false ∧ (x.fld 1).sat = 0 ∧ (x.fld 1).t = 0 ∧ (x.fld 1).immU = 1 ∧ 7 ≤ (x.fld 1).et) ∧
    (let x : XA := ⟨[], 1, 2, 3, 0⟩
     Ready (.vperm x) user ∧ pxrBad (x.fld 1) false = false ∧ (x.fld 1).sat = 0 ∧ (x.fld 1).immU = 0) ∧
    (let x : XA := ⟨[.pxv 0 0 13 0], 1, 0, 0, 0⟩
     Ready (.vrand x) user ∧ ((x.fld 1).et = 0 ∨ (x.fld 1).et = 9 ∨ (x.fld 1).et = 13) ∧ (x.fld 1).sat = 0 ∧ (x.fld 1).s = 0 ∧ (x.fld 1).t = 0 ∧ x.i = 0) ∧
    (let x : XR := ⟨[.pxv 0 0 4 1], 1, 2, 6, 5, 0⟩
     Ready (.vcvt x) user ∧ pxrBad x.fld false = false ∧ x.fld.t < 15 ∧ x.fld.et < 15 ∧ x.fld.rm = 5 ∧ x.fld.et < 7 ∧ x.fld.t < 7 ∧
     etBits x.fld.et < etBits x.fld.t ∧ x.fld.et ≠ 5) := by decide
theorem wit_ReductionsAndScans :
    (let x : XR := ⟨[.pxv 7 0 14 0], 1, 2, 5, 0, 0⟩
     user.cur.streams = [] ∧ pxrBad x.fld false = false ∧ 6 ≤ x.fld.et ∧ x.fld.et = 14 ∧ x.fld.mm = 0 ∧ x.fld.t = 5 ∧ x.fld.rm ≠ 5 ∧ x.fld.sat = 0 ∧
     Ready (.vred x) user ∧ Ready (.vscan x) user) ∧
    (let x : XR := ⟨[.pxv 0 0 6 0], 1, 2, 2, 4, 1⟩
     pxrBad x.fld false = false ∧ x.fld.et = 6 ∧ x.fld.mm = 0 ∧ x.fld.t < 3 ∧ x.fld.rm ≠ 5 ∧ Ready (.vred x) user ∧ Ready (.vscan x) user) := by decide
theorem wit_MasksAndVrel :
    (let x : XA := ⟨[], 7, 7, 0, 0⟩
     x.i = 0 ∧ (x.fld 1).d < 8 ∧ (x.fld 1).s < 8 ∧ (x.fld 1).t = 0 ∧ ∀ i ∈ [Instr.mand x, .mor x, .mnot x, .mpop x, .mfirst x], Ready i user) ∧
    (let x : XA := ⟨[], 8, 7, 7, 0⟩
     x.i = 0 ∧ 8 ≤ (x.fld 1).d ∧ Ready (.mand x) user ∧ Ready (.mor x) user) ∧
    (let x : XA := ⟨[], 0, 0, 0, 0⟩
     (x.fld 1).d = 0 ∧ (x.fld 1).s = 0 ∧ (x.fld 1).t = 0 ∧ Ready (.vrel x) user) := by decide
/-- A user thread with vector offsets 64*l in v3 and the stride 64 in w2. -/
def vectors : State := withSlot { (slotAt 0 [(1, windowVA 0 0x1000), (2, 64)]) with
  v := [(3, (List.range 64).map fun l => BitVec.ofNat 32 l)]
  vlive := 8 }
theorem wit_VectorLoads :
    (let x : XA := ⟨[.pxv 0 0 5 0], 1, 1, 0, 0⟩
     Ready (.vld x) vectors ∧ vectors.cur.streams = [] ∧ vectors.unstamped vectors.curCore vectors.curSlot = false ∧
     Claims.AccessForm 0 (x.fld 1) ∧ (x.fld 1).sat = 0 ∧
     ∀ l < etCount (x.fld 1).et, Claims.elementVA 0 (x.fld 1) vectors l = windowVA vectors.curCore (0x1000 + l / 2) ∧
       Claims.OwnLS vectors (0x1000 + l / 2) (etBytes (x.fld 1).et) false) ∧
    (let x : XA := ⟨[.pxv 0 0 6 0], 1, 1, 2, 0⟩
     Ready (.vlds x) vectors ∧ Claims.AccessForm 1 (x.fld 1) ∧
     ∀ l < etCount (x.fld 1).et, Claims.elementVA 1 (x.fld 1) vectors l = windowVA vectors.curCore (0x1000 + 64 * l) ∧
       Claims.OwnLS vectors (0x1000 + 64 * l) (etBytes (x.fld 1).et) false) ∧
    (let x : XA := ⟨[.pxv 0 0 9 0], 1, 1, 3, 3⟩
     Ready (.vgath x) vectors ∧ Claims.AccessForm 2 (x.fld 1) ∧
     ∀ l < etCount (x.fld 1).et, Claims.elementVA 2 (x.fld 1) vectors l = windowVA vectors.curCore (0x1000 + 8 * l) ∧
       Claims.OwnLS vectors (0x1000 + 8 * l) (etBytes (x.fld 1).et) false) := by
  refine ⟨?_, ?_, ?_⟩ <;> decide
theorem wit_VectorStores :
    (let x : XR := ⟨[.pxv 7 1 6 0], 1, 1, 0, 0, 0⟩
     Ready (.vst x) vectors ∧ vectors.cur.wait = .none ∧ vectors.curK.storesStall = false ∧ Claims.AccessForm 0 x.fld ∧ x.fld.et ≠ 5 ∧ x.fld.ftz = 0 ∧ x.fld.rm ≠ 5 ∧
     (∀ l < etCount x.fld.et, Claims.elementVA 0 x.fld vectors l = windowVA vectors.curCore (0x1000 + 8 * l) ∧
       Claims.OwnLS vectors (0x1000 + 8 * l) 8 true) ∧
     ∀ l < etCount x.fld.et, ∀ j < l, Claims.Apart (0x1000 + 8 * l) 8 (0x1000 + 8 * j) 8) ∧
    (let x : XR := ⟨[.pxv 0 0 6 0], 1, 1, 2, 0, 0⟩
     Ready (.vsts x) vectors ∧ Claims.AccessForm 1 x.fld ∧
     ∀ l < etCount x.fld.et, Claims.elementVA 1 x.fld vectors l = windowVA vectors.curCore (0x1000 + 64 * l)) ∧
    (let x : XR := ⟨[.pxv 0 0 11 0, .pxi 3], 1, 1, 3, 0, 0⟩
     Ready (.vscat x) vectors ∧ Claims.AccessForm 2 x.fld ∧
     ∀ l < etCount x.fld.et, Claims.elementVA 2 x.fld vectors l = windowVA vectors.curCore (0x1000 + 8 * l)) := by
  refine ⟨?_, ?_, ?_⟩ <;> decide
/-- A stream record at offset 0x800: 3 vectors, read, lead 32, position 0. -/
def recorded : State := (((at_ 0 [(1, windowVA 0 0x800)]).setMemW (lsPA State.reset 0 0x800) 0x5000).setMemW (lsPA State.reset 0 0x810)
  (BitVec.ofNat 64 (3 * 2 ^ 32 + 32 * 2 ^ 16)))
/-- A stream bound to v15, whose next vector has arrived. -/
def bound : Stream := { record := windowVA 0 0x800, base := 0x5000, stride := 256, count := 3, lead := 4, et := 0, sat := 0, write := false, next := 2,
                        xs := none, fetched := [(2, zeroVec)], rc := {} }
/-- A user thread with that stream. -/
def streaming : State := withSlot { (slotAt 0 []) with streams := [(15, bound)] }
theorem wit_StreamsBindAndPop :
    (let x : XA := ⟨[], 12, 1, 0, 0⟩
     let w (i : Nat) : Word := recorded.memW (lsPA recorded recorded.curCore (0x800 + 8 * i))
     Ready (.sbind x) recorded ∧ (x.fld 1).m = 0 ∧ (x.fld 1).mm = 0 ∧ (x.fld 1).t = 0 ∧ x.i = 0 ∧ 12 ≤ (x.fld 1).d ∧ (x.fld 1).et ≠ 5 ∧
     recorded.w 1 = windowVA recorded.curCore 0x800 ∧ Claims.OwnLS recorded 0x800 32 false ∧ get? recorded.cur.streams 12 = none ∧
     (w 2).bits 31 24 = 0 ∧ (w 2).bits 10 9 = 0 ∧ (w 2).bits 7 0 = 0 ∧ (w 3).bits 31 17 = 0) ∧
    (let x : XA := ⟨[.pxi 2], 15, 0, 0, 0⟩
     let f := x.fld 1
     pxrBad f false = false ∧ f.m = 0 ∧ f.mm = 0 ∧ f.et = 0 ∧ f.sat = 0 ∧ f.s = 0 ∧ f.t = 0 ∧ Ready (.slead x) streaming ∧ 1 ≤ f.immU ∧ f.immU = 32 ∧
     get? streaming.cur.streams f.d = some bound ∧ Ready (.slead x) user ∧ Ready (.sunb x) user ∧ get? user.cur.streams f.d = none) ∧
    (let x : XA := ⟨[], 15, 0, 0, 0⟩
     Ready (.sunb x) streaming ∧ (x.fld 1).immU = 0 ∧ streaming.cur.wait = .none ∧ get? streaming.cur.streams 15 = some bound ∧
     bound.record = windowVA streaming.curCore 0x800 ∧ coreExists streaming.curCore = true ∧ streaming.hub.package < 64 ∧
     streaming.ownBusy (0x800 + 16) 16 = false ∧ streaming.recordRefused 0 0 bound = false ∧ streaming.curK.view = false ∧ streaming.stuck = [] ∧ streaming.storesAway streaming.curCore streaming.curSlot = false ∧ bound.count < 2 ^ 32 ∧ bound.lead < 256 ∧ bound.et < 16 ∧ bound.sat < 2 ∧ bound.next < 2 ^ 32) ∧
    (let x : XA := ⟨[], 1, 15, 0, 0⟩
     Ready (.vneg x) streaming ∧ pxrBad (x.fld 1) false = false ∧ (x.fld 1).et = 0 ∧ (x.fld 1).immU = 0 ∧ (x.fld 1).d ≠ (x.fld 1).s ∧
     streaming.cur.streams = [(15, bound)] ∧ bound.write = false ∧ bound.next < bound.count ∧ get? bound.fetched bound.next = some zeroVec ∧
     bound.xs = none) := by
  refine ⟨?_, ?_, ?_, ?_⟩ <;> decide

/-- The thread of `sited` with a stream bound to v15. -/
def learning : State := sited.modCur fun t => { t with streams := [(15, bound)] }
theorem wit_ExperienceInstructions :
    (let x : XB := ⟨[.pxx 0], 15, 0x800⟩
     Ready (.xbr x) sited ∧ pxrBad x.fld false = false ∧ x.fld.xs = 0) ∧
    (sited.translateCur (slotVA (sited.hearth 0) 0) .read = (.ok 0x10000 { xa := 1, base := 0x10000 }, sited) ∧
     (sited.entryOf sited.curCore 0 0 sited.cur.xtask).base = some 0x10) ∧
    (let x : XA := ⟨[.pxx 0, .pxi 1], 15, 0, 0, 0⟩
     let y : XA := ⟨[.pxx 0], 15, 0, 0, 0⟩
     pxrBad (x.fld 1) false = false ∧ Ready (.xsel x) sited ∧ (x.fld 1).immU = 16 ∧ Ready (.xrd y) sited ∧ Ready (.xunr y) sited ∧
     Ready (.xlead y) learning ∧ get? learning.cur.streams (y.fld 1).d = some bound) ∧
    (let x : XA := ⟨[.pxi 1, .pxx 0], 15, 0, 0, 0⟩
     pxrBad (x.fld 1) false = false ∧ (x.fld 1).s = 0 ∧ (x.fld 1).t = 0 ∧ (x.fld 1).immU = 0 ∧ (x.fld 1).xs = 512 ∧
     slotInRange (sited.hearth 0) 512 = false ∧ Ready (.xrd x) sited ∧ Ready (.xunr x) sited) ∧
    (let x : XA := ⟨[.pxx 511], 0, 0, 0, 0⟩
     Ready (.xclr x) sited ∧ pxrBad (x.fld 1) false = false ∧ sited.cur.st.det = false ∧ sited.xadds = [] ∧ slotInRange (sited.hearth 0) 511 = true ∧
     sited.translateCur (slotVA (sited.hearth 0) 511) .read = (.ok 0x10FF8 { xa := 1, base := 0x10000 }, sited) ∧ paClass 0x10FF8 = 0) ∧
    (let x : XA := ⟨[], 0, 0, 0, 0⟩
     let d : XAdd := { id := 0, hearth := 0, idx := 0, pa := 0x10000, core := 0, task := none, clear := true, kind := 0, c1 := 0, c2 := 0,
                       k := 0, hist := 0, lead := none, frozen := false }
     let s := { sited with xadds := [d] }
     Ready (.xflush x) sited ∧ pxrBad (x.fld 1) false = false ∧ (∀ e ∈ sited.curK.xcache, e.hearth = 0 → e.task = none → e.kind = 0) ∧
     (∀ d ∈ sited.xadds, d.core ≠ 0 ∨ d.hearth ≠ 0) ∧ Ready (.xflush x) s ∧ ∃ d ∈ s.xadds, d.core = s.curCore ∧ d.hearth = 0) := by
  refine ⟨?_, ?_, ?_, ?_, ?_, ?_⟩ <;> decide
/-- A claimed FP32 tile of 64 by 64 at 0 of slot 0, an exact one of 32 by 32 at 3, and a record at offset 0x800 of eight words. -/
def tiled (busy : Nat) (ws : List (Nat × Word)) : State :=
  let s := ((at_ 0 ws).setMemW (lsPA State.reset 0 0x820) (BitVec.ofNat 64 (3 * 2 ^ 44 + 4 * 2 ^ 40))).setMemW (lsPA State.reset 0 0xC20)
    (BitVec.ofNat 64 (7 * 2 ^ 44 + 7 * 2 ^ 40))
  s.modCurK fun k => { k with
    tiles := [(0, { claimed := true, slot := 0, exact := false, rows := 64, cols := 64, fp := [], ex := [] }),
              (3, { claimed := true, slot := 0, exact := true, rows := 32, cols := 32, fp := [], ex := [] })]
    anvq := List.replicate busy (Claims.cmdOf s 1 (.zero false) none) }
theorem wit_TileCommands_stopped :
    let s : State := { (tiled 1 [(1, 0x2020)]) with clusters := [(0, { stopped := true })] }
    Ready (.tcfg ⟨[], 2, 1, 0, 1⟩) s ∧ (s.cluster (clusterOf s.curCore)).stopped = true := by decide
theorem wit_TileCommands :
    (let x : XA := ⟨[], 2, 1, 0, 1⟩
     let s := tiled 1 [(1, 0x2020)]
     Ready (.tcfg x) s ∧ (x.fld 2).base < 2 ∧ (x.fld 2).t = 0 ∧ (x.fld 2).d < 4 ∧ (s.w 1).bits 63 16 = 0 ∧ (s.w 1).bits 15 8 * (s.w 1).bits 7 0 = 1024 ∧
     (∀ k ∈ s.curK.anvq, k.tile ≠ 2) ∧ (s.cluster (clusterOf s.curCore)).stopped = false ∧ ((s.curK.tile 2).claimed = true → (s.curK.tile 2).slot = 0) ∧
     ∃ k ∈ s.curK.anvq, k.tile = 1) ∧
    (let s := tiled 7 [(1, windowVA 0 0x800), (2, 256)]
     s.curK.anvq.length < 8 ∧ s.unstamped s.curCore s.curSlot = false ∧ Claims.OwnTile s 0 ∧ Claims.OwnTile s 3 ∧ Ready (.tzero ⟨[], 3, 0, 0, 1⟩) s ∧
     Ready (.tld ⟨[.pxv 0 0 9 0, .pxm 1 1 0 0], 3, 1, 2, 0⟩) s ∧ 9 ∈ Claims.tileTypes true true ∧ Ready (.tst ⟨[.pxv 0 0 4 0, .pxm 5 2 0 0], 0, 1, 2, 0⟩) s ∧
     4 ∈ Claims.tileTypes false false ∧ (∀ r < 64, (s.w 1 + BitVec.ofNat 64 r * s.w 2).toNat % 4 = 0) ∧
     Ready (.tsave ⟨[], 0, 1, 0, 1⟩) s ∧ Ready (.trest ⟨[], 1, 1, 0, 0⟩) s ∧ (s.w 1).toNat % 64 = 0 ∧ Ready (.gset ⟨[], 3, 2, 0, 0⟩) s) ∧
    (let s := tiled 8 []
     8 ≤ s.curK.anvq.length ∧ ∀ i ∈ [Instr.tzero, .tld, .tst, .mma, .mmax, .tsave, .trest], Ready (i ⟨[], 0, 1, 0, 0⟩) s) := by
  refine ⟨?_, ?_, ?_⟩ <;> decide
/-- The descriptors of `tiled` with their addresses in registers. -/
def described : State := tiled 0 [(1, windowVA 0 0x800), (2, windowVA 0 0xC00)]
theorem wit_TileCommands_descriptors :
    Claims.RecordAt described (described.w 1) 0x800 8 ∧ Claims.RecordAt described (described.w 2) 0xC00 8 ∧
    Ready (.mma ⟨[], 0, 1, 3, 0⟩) described ∧ Ready (.mmax ⟨[], 3, 2, 0, 0⟩) described ∧
    Claims.DescOk false (Claims.recWords described 0x800 8) described.curK.swage ∧
    Claims.DescOk true (Claims.recWords described 0xC00 8) described.curK.swage := by
  refine ⟨?_, ?_, ?_, ?_, ?_, ?_⟩ <;> decide
/-- A swage record at 0x800: a 4 by 4 tensor of 2 channels, 1 byte each, at 0x2000, with a 2 by 2 kernel. -/
def swaged : State :=
  let at_ (o v : Nat) (s : State) : State := s.setMemW (lsPA State.reset 0 o) (BitVec.ofNat 64 v)
  at_ 0x810 9 (at_ 0x808 (4 * 2 ^ 48 + 4 * 2 ^ 32 + 2 * 2 ^ 16 + 1) (at_ 0x800 (windowVA 0 0x2000).toNat (Tests.at_ 0 [(1, windowVA 0 0x800)])))
/-- A sequence record at 0x800 for the tile of `tiled`, with loop bounds n. -/
def sequenced (n : Word) : State :=
  ((tiled 0 [(1, windowVA 0 0x800)]).setMemW (lsPA State.reset 0 0x840) 0).modCurK fun k => { k with loops := [(0, n)] }
theorem wit_SwageAndSequencer :
    (let w := Claims.recWord swaged 0x800
     Ready (.swcfg ⟨[], 0, 1, 0, 0⟩) swaged ∧ Claims.RecordAt swaged (swaged.w 1) 0x800 4 ∧ (swaged.w 1).toNat % 32 = 0 ∧ (w 2).bits 2 0 ≠ 7 ∧
     (w 2).bits 5 3 ≠ 7 ∧ (w 2).bits 14 12 ≠ 7 ∧ (w 2).bits 17 15 ≠ 7 ∧ (w 2).bits 63 18 = 0 ∧ w 3 = 0 ∧ (w 1).bits 63 48 ≠ 0 ∧ (w 1).bits 47 32 ≠ 0 ∧
     (w 1).bits 31 16 ≠ 0 ∧ (w 1).bits 15 0 ≠ 0 ∧ w 0 = windowVA swaged.curCore 0x2000 ∧
     0x2000 + (w 1).bits 63 48 * (w 1).bits 47 32 * (w 1).bits 31 16 ≤ 2 ^ 18) ∧
    (let s := sequenced 1
     Ready (.mseq ⟨[], 0, 1, 0, 0⟩) s ∧ s.curK.seqr = none ∧ s.unstamped s.curCore s.curSlot = false ∧ Claims.RecordAt s (s.w 1) 0x800 16 ∧ (s.w 1).toNat % 64 = 0 ∧
     (Claims.recWord s 0x800 8).bits 43 0 = 0 ∧ (Claims.recWord s 0x800 15).bits 62 60 = 0 ∧ (get 0 s.curK.loops 0).toNat = 1 ∧
     Claims.DescOk ((Claims.recWord s 0x800 8).bits 63 63 == 1) (Claims.recWords s 0x800 8) s.curK.swage ∧ Claims.OwnTile s 0 ∧
     (s.curK.tile 0).exact = ((Claims.recWord s 0x800 8).bits 63 63 == 1)) ∧
    (Ready (.mseq ⟨[], 0, 1, 0, 0⟩) (sequenced 0) ∧ (get 0 (sequenced 0).curK.loops 0).toNat = 0) ∧
    (let q : Sequence := { slot := 0, record := 0, priv := 0, rc := {}, tmpl := [], sctl := 0, da := [], db := [], n := [], i0 := 0, i1 := 0, i2 := 0 }
     ((sequenced 0).modCurK fun k => { k with seqr := some q }).curK.seqr ≠ none) := by
  refine ⟨?_, ?_, ?_, ?_⟩ <;> decide

/-- A user thread before a copy: source, destination and length in w1, w2, w3, and channel 7 busy when asked. -/
def copying (busy : Bool) (ws : List (Nat × Word)) : State :=
  (at_ 0 ws).modCurK fun k => { k with tongs := [(7, { busy := busy })] }
theorem wit_TongsCommands :
    (let y : XA := ⟨[.pxi 250], 2, 1, 3, 15⟩
     let s := copying false [(1, windowVA 0 0x1000), (2, windowVA 1279 0x1000), (3, 2 ^ 55 - 1)]
     Claims.CopyForm (y.fld 2) ∧ s.unstamped s.curCore s.curSlot = false ∧ (y.fld 2).immU / 8 % 2 = 1 ∧ Claims.FreeChan s (y.fld 2) ∧ Ready (.cpy y) s ∧ (s.w 3).toNat < 2 ^ 55 ∧ s.w 3 ≠ 0 ∧
     s.translateCur (s.w 2) .write = (.ok (lsPA s 1279 0x1000) { window := true }, s) ∧ paClass (lsPA s 1279 0x1000) = 1) ∧
    (let x : XA := ⟨[], 0, 1, 0, 7⟩
     let s := (((copying false [(1, windowVA 0 0x800)]).setMemW (lsPA State.reset 0 0x808) (windowVA 0 0x3000)).setMemW (lsPA State.reset 0 0x810)
       (BitVec.ofNat 64 (2 ^ 32 + 8))).setMemW (lsPA State.reset 0 0x818) (BitVec.ofNat 64 (2 ^ 32 + 1))
     let w := Claims.recWord s 0x800
     Claims.CopyForm (x.fld 2) ∧ Claims.FreeChan s (x.fld 2) ∧ Ready (.cpys x) s ∧ Claims.RecordAt s (s.w 1) 0x800 12 ∧ (s.w 1).toNat % 32 = 0 ∧
     w 10 = 0 ∧ w 11 = 0 ∧ (w 2).bits 31 0 * (w 2).bits 63 32 * (w 3).bits 31 0 * (w 3).bits 63 32 = 8 ∧
     s.translateCur (w 1) .write = (.ok (lsPA s 0 0x3000) { window := true }, s)) ∧
    (let x : XA := ⟨[], 2, 1, 3, 7⟩
     let s := copying false [(1, windowVA 0 0), (2, 0x100000005), (3, 0x30000)]
     Claims.CopyForm (x.fld 2) ∧ Claims.FreeChan s (x.fld 2) ∧ Ready (.cpyn x) s ∧ (x.fld 2).sc = 0 ∧ (s.w 3).toNat ≤ 2 ^ 18 ∧
     s.w 1 = windowVA s.curCore 0 ∧ s.curK.lsRefusedN 0 0 s.cur.st.hearth s.cur.st.priv false = false) ∧
    (∀ i ∈ [Instr.cpy, .cpys, .cpyn], Ready (i ⟨[], 2, 1, 3, 7⟩) (copying true []) ∧
      ((copying true []).chan (copying true []).curCore (((XA.mk [] 2 1 3 7).fld 2).immU % 8)).busy = true) := by
  refine ⟨?_, ?_, ?_, ?_⟩ <;> decide
theorem wit_TongsCommands_waits :
    (let s := copying false []
     let x : XA := ⟨[.pxm 0 1 0 0], 0, 0, 0, 7⟩
     Ready (.waitc x) s ∧ (x.fld 2).base < 8 ∧ (x.fld 2).ord < 2 ∧ (x.fld 2).sc = 0 ∧ (x.fld 2).wt = 0 ∧ (x.fld 2).cp = 0 ∧ s.cur.deferred = [] ∧
     (s.chan s.curCore 7).busy = false ∧ (s.chan s.curCore 7).flt = false ∧ Ready (.chst ⟨[], 1, 0, 0, 15⟩) s) ∧
    (let s : State := (at_ 0 []).modCurK fun k => { k with tongs := [(0, { flt := true })] }
     Ready (.waitc ⟨[], 0, 0, 0, 0⟩) s ∧ (s.chan s.curCore 0).busy = false ∧ (s.chan s.curCore 0).flt = true ∧
     (s.chan s.curCore 0).ownedBy s.curCore s.curSlot = true ∧ (s.chan s.curCore 0).task = s.cur.taskid) ∧
    (let s := copying true []
     Ready (.waitc ⟨[], 0, 0, 0, 7⟩) s ∧ (s.chan s.curCore 7).busy = true ∧ (s.chan s.curCore 7).hearth = s.cur.st.hearth) := by
  refine ⟨?_, ?_, ?_⟩ <;> decide
/-- CSRR or CSRW with a register number. -/
def csrForm (n : Nat) : XA := ⟨[.pxi (BitVec.ofNat 9 (n / 16))], 0, 1, 0, BitVec.ofNat 4 n⟩
theorem wit_ControlRegisters :
    (∀ p ∈ Claims.csrReads, let x : XA := { csrForm p.1 with d := 1, s := 0 }
      (x.fld 2).immU = p.1 ∧ (x.fld 2).s = 0 ∧ (x.fld 2).t = 0 ∧ Ready (.csrr x) firm ∧ p.2.1 ≤ firm.cur.st.priv ∧ Ready (.csrr x) user) ∧
    (∀ p ∈ Claims.csrWrites, (((csrForm p.1).fld 2).immU = p.1 ∧ ((csrForm p.1).fld 2).d = 0 ∧ ((csrForm p.1).fld 2).t = 0) ∧
      p.2.1 ≤ firm.cur.st.priv ∧ ∀ o ∈ Claims.csrOps, Ready (o.1 (csrForm p.1)) firm) ∧
    (((csrForm 0).fld 2).immU = 0 ∧ Ready (.csrw (csrForm 0)) super ∧ 1 ≤ super.cur.st.priv) ∧
    (let x : XA := { csrForm 0xFFF with d := 1, s := 0 }
     Ready (.csrr x) user ∧ (x.fld 2).immU = 4095 ∧ ∀ p ∈ Claims.csrReads, (x.fld 2).immU ≠ p.1) := by
  refine ⟨?_, ?_, ?_, ?_⟩ <;> decide
/-- A supervisor in a handler, to return to level p at address a. -/
def handling (p a : Nat) : State :=
  withSlot { (slotAt 1 []) with trapstat := BitVec.ofNat 64 (p * 2 ^ 20 + 2 ^ 57), trappc := BitVec.ofNat 64 a }
theorem wit_RteReturns :
    Ready (.rte ⟨[], 0, 0, 0, 0⟩) (handling 1 0x2000) ∧ 1 ≤ (handling 1 0x2000).cur.st.priv ∧ (handling 1 0x2000).cur.replay = [] ∧
    (handling 1 0x2000).cur.anvTrap = false ∧ (handling 1 0x2000).cur.trapstat.bits 21 20 ≤ (handling 1 0x2000).cur.st.priv ∧
    (handling 1 0x2000).cur.trappc.getLsbD 0 = false ∧ (handling 0 0x2001).cur.trappc.getLsbD 0 = true ∧
    (handling 0 0x2001).cur.trapstat.bits 21 20 ≤ (handling 0 0x2001).cur.st.priv ∧
    (handling 2 0x2000).cur.st.priv < (handling 2 0x2000).cur.trapstat.bits 21 20 := by decide
/-- A supervisor with one parked element of v5, lane 63, at offset 0x40 of its local store. -/
def parked : State :=
  withSlot { (slotAt 1 []) with
    vlive := 32
    v := [(5, zeroVec)]
    replay := [{ cause := 0x44, kind := 0, vreg := 5, lane := 63, va := windowVA 0 0x40, elem := windowVA 0 0x40, et := 9 }] }
theorem wit_SystemInstructions :
    (Ready (.trap ⟨[.pxi 255], 0, 0, 0, 15⟩) user ∧ ((XA.mk [.pxi 255] 0 0 0 15).fld 2).immU = 4095 ∧ Ready (.idem ⟨[], 0, 0, 0, 0⟩) user ∧
     Ready (.idem ⟨[], 0, 0, 0, 1⟩) user ∧ Ready (.halt ⟨[], 0, 0, 0, 0⟩) firm ∧ firm.cur.st.priv = 2) ∧
    (Ready (.tlbi ⟨[], 0, 1, 2, 0⟩) super ∧ Claims.Quiet super ∧ 1 ≤ super.cur.st.priv ∧ Ready (.tlbi ⟨[], 0, 0, 0, 3⟩) firm ∧ Claims.Quiet firm ∧
     (∀ k < 4, super.walksIn k 0 ((super.hearth 0).aspace.bits 63 56) (super.w 1) (super.w 2) = false) ∧ super.coresStopped = false) ∧
    (Ready (.rqrd ⟨[], 1, 0, 0, 1⟩) parked ∧ (parked.cur.replay[1 / 2]?).isSome = true ∧ Ready (.rqrd ⟨[], 1, 0, 0, 2⟩) parked ∧
     2 * parked.cur.replay.length ≤ ((XA.mk [] 1 0 0 2).fld 2).immU) ∧
    (Ready (.rqgo ⟨[], 0, 0, 0, 1⟩) parked ∧ Ready (.rqgo ⟨[], 0, 0, 0, 0⟩) super ∧ super.cur.replay = [] ∧ Ready (.rqgo ⟨[], 0, 0, 0, 0⟩) parked ∧
     Claims.OwnLS parked 0x40 (etBytes 9) false ∧ parked.curK.bootTest = false ∧ parked.unstamped parked.curCore parked.curSlot = false ∧ parked.cur.vlive.getLsbD 5 = true ∧
     (parked.cur.vec 5).length = 64 ∧ 63 < etCount 9) := by
  refine ⟨?_, ?_, ?_, ?_⟩ <;> decide
/-- Hearth 0 with its records at offset 0x4000, its queues at 0x2000 and a ring of one entry at 0x3000 in the local store of core 0: a task
1 in a state, a queue with a head, a tail and the pull flag. -/
def tasked (state head tail pull : Nat) : State :=
  let w (o v : Nat) (s : State) : State := s.setMemW (lsPA State.reset 0 o) (BitVec.ofNat 64 v)
  let s : State := { at_ 0 [(1, 1), (2, 0), (3, 9)] with
    hearths := [(0, { trbase := windowVA 0 0x4000 ||| 8, qtbase := windowVA 0 0x2000 })] }
  w 0x2018 tail (w 0x2010 head (w 0x2008 (pull * 256) (w 0x2000 (windowVA 0 0x3000).toNat (w 0x4108 (state * 2 ^ 36) (w 0x4100 1 s)))))
/-- The records of hearth 0 at 0x10000 in DRAM, its queues at 0x20000: the record of task 1 with a state and a future, and a queue of core 0
with a ring of 16 entries at 0x20200. -/
def arena (id state fut head tail pull : Nat) (t : Slot) : State :=
  let w (o v : Nat) (s : State) : State := s.setMemW o (BitVec.ofNat 64 v)
  let s : State := { onDram t with hearths := [(0, { trbase := 0x10008, qtbase := 0x20000 })] }
  w 0x20018 tail (w 0x20010 head (w 0x20008 (4 + pull * 256) (w 0x20000 0x20200 (w 0x10110 fut (w 0x10108 (state * 2 ^ 36) (w 0x10100 id s))))))
/-- A thread that spawns task 1 for core 0, with no task of its own. -/
def spawner : Slot := slotAt 0 [(1, 1), (2, 0), (3, 9)]
/-- Task 1. -/
def task1 : Slot := { slotAt 0 [(2, 9)] with taskid := 1, key := 1 }
/-- The hypotheses of the statement about SPAWN: those on the thread, on the record and on the queue. -/
def spawns (s : State) : Bool :=
  decide (Ready (.spawn ⟨[], 3, 1, 2, 0⟩) s ∧ coreExists ((s.w 2).bits 12 0) = true ∧ s.cur.st.det = false ∧ Claims.Quiet s ∧ Claims.Sound s ∧
    s.w 1 ≠ 0x0000FFFFFFFFFFFF ∧ Claims.Arena s ∧ Claims.recordOf s (s.w 1) = 0x10100 ∧ Claims.HwWords s 0x10100 0x10100 2 ∧
    Claims.HwWords s 0x20000 0x20000 4)
set_option maxRecDepth 8000 in
theorem wit_TasksStartAndEnd_spawn :
    (let s := onDram (slotAt 0 [(1, 0x0000FFFFFFFFFFFF)])
     Ready (.spawn ⟨[], 3, 1, 2, 0⟩) s ∧ coreExists ((s.w 2).bits 12 0) = true ∧ s.cur.st.det = false ∧ Claims.Quiet s ∧ Claims.Sound s ∧
     s.w 1 = 0x0000FFFFFFFFFFFF) ∧
    (let s := arena 2 0 0 0 0 0 spawner
     spawns s = true ∧ s.memW 0x10100 ≠ s.w 1) ∧
    (let s := arena 1 0 0 0 0 1 spawner
     spawns s = true ∧ s.memW 0x10100 = s.w 1 ∧ (s.memW 0x20008).bits 8 8 = 1) ∧
    (let s := arena 1 0 0 1 17 0 spawner
     spawns s = true ∧ s.memW 0x10100 = s.w 1 ∧ (s.memW 0x20008).bits 8 8 ≠ 1 ∧ (s.memW 0x20008).bits 4 0 = 4 ∧
     2 ^ 4 ≤ ((s.memW 0x20018) - (s.memW 0x20010)).toNat) ∧
    (∀ state ∈ [0, 4], let s := arena 1 state 0 1 16 0 spawner
     spawns s = true ∧ s.memW 0x10100 = s.w 1 ∧ (s.memW 0x20008).bits 8 8 ≠ 1 ∧ ((s.memW 0x20018) - (s.memW 0x20010)).toNat < 2 ^ 4 ∧
     Claims.HwWords s (s.memW 0x20000 + BitVec.ofNat 64 (16 * ((s.memW 0x20018).toNat % 2 ^ 4))) 0x20200 2 ∧
     Claims.Clear 0x10100 16 0x20000 32 ∧ Claims.Clear 0x20200 16 0x20000 32 ∧ Claims.Clear 0x20200 16 0x10100 16) := by
  refine ⟨?_, ?_, ?_, ?_, ?_⟩ <;> decide
/-- The page tables of hearth 0 from 0x100000 on, with the pages 0x10000 and 0x20000 mapped to themselves. -/
def tables (s : State) : State :=
  let w (a v : Nat) (s : State) : State := s.setBytes a (leBytes 16 v)
  let s := w 0x106000 (2 ^ 63 + 0x108000) (w 0x104000 (2 ^ 63 + 0x106000) (w 0x102000 (2 ^ 63 + 0x104000) (w 0x100000 (2 ^ 63 + 0x102000) s)))
  w 0x108200 (2 ^ 63 + 2 ^ 62 + 0x20000 + 0xC0) (w 0x108100 (2 ^ 63 + 2 ^ 62 + 0x10000 + 0xD0) s)
/-- A thread whose hearth has those tables, its TLB filled. -/
def mapped (t : Slot) : State := tables { onDram t with hearths := [(0, { aspace := 0x100000, trbase := windowVA 0 0x4000 ||| 8 })] }
/-- A user thread that yields to channel 5, its record at 0x10100. -/
def yielding : State := mapped (slotAt 0 [(1, 0x10100), (2, 5), (3, 6)])
/-- The same with one resident frame to spill, to offset 0x200 of its local store. -/
def yieldingDeep : State :=
  mapped { slotAt 0 [(1, 0x10100), (2, 0x10300), (3, 6)] with st := { priv := 0, hearth := 0, resid := 1, spillp := 8 } }
set_option maxRecDepth 8000 in
theorem wit_TasksStartAndEnd_yield :
    (let s := yielding
     Ready (.yieldc ⟨[], 2, 1, 3, 0⟩) s ∧ s.cur.st.det = false ∧ Claims.Quiet s ∧ Claims.Sound s ∧ s.cur.st.vclean = true ∧ s.cur.loads = 0 ∧
     s.cur.stores = 0 ∧ s.cur.tiles = 0 ∧ s.cur.deferred = [] ∧ (s.w 1).toNat % 16 = 0 ∧ Claims.TlbHit s (s.w 1) .write 0x10100 ∧
     Claims.TlbHit s (s.w 1 + 168) .write (0x10100 + 168) ∧ Claims.HwWords s (s.w 1) 0x10100 22 ∧ s.cur.st.resid = 0 ∧
     (s.chan s.curCore 5).busy = false ∧ ((s.modCurK fun k => { k with tongs := [(5, { busy := true })] }).chan s.curCore 5).busy = true) ∧
    (let s := yieldingDeep
     Ready (.yieldc ⟨[], 2, 1, 3, 1⟩) s ∧ Claims.Quiet s ∧ Claims.Sound s ∧ s.cur.st.vclean = true ∧ s.cur.st.resid = 1 ∧
     Claims.ObjAt s (s.w 2) 16 .read 0x10300 ∧ Claims.TlbHit s (s.w 1) .write 0x10100 ∧ Claims.HwWords s (s.w 1) 0x10100 22 ∧
     frameCheck s 8 true = none ∧ spillBusy s 8 = false ∧ ∀ e ∈ s.cores, ∀ y ∈ e.2.tongs, y.2.busy = false ∧ y.2.held = none) := by
  refine ⟨?_, ?_⟩ <;> decide
/-- The hypotheses of the statement about EXIT of a task, without those on its record's words. -/
def exits (s : State) : Bool :=
  decide (Ready (.exit ⟨[], 2, 0, 0, 0⟩) s ∧ (∀ d ∈ s.cur.deferred, d.count < 2) ∧ s.cur.copies = 0 ∧ s.cur.tiles = 0 ∧
    s.cur.link.bits 63 61 ≠ 2 ∧ s.cur.taskid = 1 ∧ s.cur.st.det = false ∧ Claims.Quiet s ∧ Claims.Sound s ∧ Claims.Arena s ∧
    (∀ y ∈ s.curK.anvq, y.slot ≠ s.curSlot) ∧ Claims.recordOf s 1 = 0x10100 ∧ Claims.HwWords s 0x10100 0x10100 3)
set_option maxRecDepth 8000 in
theorem wit_TasksStartAndEnd_exit :
    (let s := withSlot { (slotAt 0 []) with taskid := 0x0000FFFFFFFFFFFF }
     Ready (.exit ⟨[], 0, 0, 0, 0⟩) s ∧ s.cur.deferred = [] ∧ s.cur.copies = 0 ∧ s.cur.tiles = 0 ∧ s.cur.link.bits 63 61 ≠ 2 ∧
     s.cur.taskid = 0x0000FFFFFFFFFFFF ∧ (withSlot { (slotAt 0 []) with copies := 1 }).cur.copies ≠ 0) ∧
    (let s := arena 2 2 0 0 0 0 task1
     exits s = true ∧ s.memW 0x10100 ≠ 1) ∧
    (∀ state ∈ [2, 3], let s := arena 1 state 0 0 0 0 task1
     exits s = true ∧ s.memW 0x10100 = 1 ∧ s.memW 0x10110 = 0) ∧
    (∀ st ∈ [0, 1, 2], let s := (arena 1 2 0x20300 0 0 0 task1).setMemW 0x20300 (BitVec.ofNat 64 (st * 2 ^ 62 + 7))
     exits s = true ∧ s.memW 0x10100 = 1 ∧ s.memW 0x10110 = 0x20300 ∧ Claims.HwWords s 0x20300 0x20300 2 ∧ Claims.Clear 0x20300 16 0x10100 24 ∧
     (s.memW 0x20300).bits 63 62 = st) := by
  refine ⟨?_, ?_, ?_, ?_⟩ <;> decide
/-- A thread with a core in w1, a value in w2 and an address in w3, whose channel 63 on that core holds an entry. -/
def channelled (priv : Nat) (v e : Word) : State :=
  (dram priv [(1, 0), (2, v), (3, 0x10008)]).modCurK fun k => { k with chans := [(63, e)] }
theorem wit_MessagesAndChannels :
    (let s := at_ 0 [(1, 1279), (2, windowVA 0 0x40)]
     Ready (.send ⟨[.pxi 3, .pxm 4 2 0 0], 1, 2, 0, 15⟩) s ∧ coreExists ((s.w 1).bits 12 0) = true ∧ (s.w 2).toNat % 32 = 0 ∧ s.cur.st.det = false ∧
     ((XA.mk [.pxi 3, .pxm 4 2 0 0] 1 2 0 15).fld 2).immU = 63 ∧ (s.core 1279).msgs.length + (s.messages.filter fun m => m.core == 1279 && !m.irq).length < 32 ∧
     Claims.RecordAt s (s.w 2) 0x40 4) ∧
    (let m : Msg := { core := 0, hearth := 0, chan := 0, payload := [], rc := {}, src := none }
     let s := { user with messages := List.replicate 32 m }
     Ready (.send ⟨[], 0, 0, 0, 0⟩) s ∧ 32 ≤ (s.core 0).msgs.length + (s.messages.filter fun m => m.core == 0 && !m.irq).length) ∧
    (let s := channelled 0 0 0
     Ready (.tailw ⟨[.pxm 6 2 0 0], 2, 3, 0, 0⟩) s ∧ Claims.Quiet s ∧ (s.w 3).toNat % 8 = 0 ∧ Claims.TlbHit s (s.w 3) .write 0x10008 ∧
     s.curK.bootTest = false ∧ s.curK.log.newSize = none ∧
     s.curK.log.used < s.curK.log.entries) ∧
    (let x : XA := ⟨[.pxi 3], 1, 2, 0, 15⟩
     (x.fld 2).immU = 63 ∧ Ready (.chan x) (channelled 2 0x8100000000000000 0) ∧ Ready (.chan x) (channelled 1 0 0) ∧
     ((channelled 1 0 0).w 2).bits 59 56 = 0 ∧ ((channelled 1 0x8100000000000000 0).w 2).bits 59 56 ≠ 0) ∧
    (let x : XA := ⟨[.pxi 3], 1, 0, 0, 15⟩
     (∀ i ∈ [Instr.blk x, .unblk x], Ready i (channelled 0 0 0x8000000000000000)) ∧
     (get 0 ((channelled 0 0 0x8000000000000000).core 0).chans 63).bits 63 63 = 1 ∧ (get 0 ((channelled 0 0 0x8100000000000000).core 0).chans 63).bits 59 56 ≠ 0 ∧
     (get 0 ((channelled 0 0 0).core 0).chans 63).bits 63 63 = 0) := by
  refine ⟨?_, ?_, ?_, ?_, ?_⟩ <;> decide
/-- A supervisor that hands ring descriptor 0x10040 to the governor. -/
def governing : State := mapped (slotAt 1 [(1, 0x10040), (2, 0x60001)])
set_option maxRecDepth 8000 in
theorem wit_MessagesAndChannels_governor :
    (Ready (.govcfg ⟨[], 0, 1, 0, 3⟩) governing ∧ 1 ≤ governing.cur.st.priv ∧ (governing.cluster 0).gov.enabled = false ∧ (governing.w 1).toNat % 64 = 0 ∧
     Claims.TlbHit governing (governing.w 1 + 8) .write 0x10048 ∧ governing.hwReadWords 0 0x10048 1 = .ok [0] ∧ Ready (.govcfg ⟨[], 0, 2, 0, 4⟩) governing ∧
     (governing.w 2).bits 17 16 ≠ 3 ∧ Ready (.govcfg ⟨[], 0, 0, 0, 5⟩) governing) ∧
    (match governing.hwWords 0 0x10048 [0x300] with | .ok _ => true | .error _ => false) = true ∧
    (let s := { governing with clusters := [(0, { gov := { enabled := true, hearth := 1 } })] }
     (s.cluster (clusterOf s.curCore)).gov.enabled = true ∧ (s.cluster (clusterOf s.curCore)).gov.hearth ≠ s.cur.st.hearth) := by
  refine ⟨?_, ?_, ?_⟩ <;> decide

/-! ## Witnesses of the statements about events -/

/-- A whole word for DRAM in a log entry. -/
def wordEntry : LogEntry := { wadr := 0x10008 / 8, data := 0x77, mask := 0xFF, kind := 0, slot := 0, task := 0, pos := 0 }
/-- A piece of one word on its way to its home. -/
def flying : Piece := { id := 0, rel := 0, home := State.reset.pieceHome (0x10008 / 8), stamp := {}, die := 3, core := 0, hearth := 0,
                        entries := [wordEntry] }
/-- A release whose last piece is that one. -/
def pending : Release := { id := 0, core := 0, hearth := 0, sc := 5, slot := some 0, tail := 1, stamp := {}, publish := true, counted := true }
/-- A closed segment of a release of scope sc. -/
def closing (sc : Nat) : Segment :=
  { hearth := 0, sc := sc, slot := some 0, rc := {}, entries := [wordEntry], tail := 1, publish := true, counted := false,
    follow := [] }
theorem wit_ReleaseEvents :
    (let s : State := user.modCurK fun k => { k with log := { k.log with closed := [closing 4] } }
     let g := closing 4
     (s.core 0).pw.paused = false ∧ (s.core 0).log.closed = [g] ∧ Claims.TailGe (BitVec.ofNat 48 g.tail) (get 0 (s.core 0).log.pubtail g.hearth) ∧ g.sc ≠ 1 ∧ g.afterAcks = false ∧ g.wb = false ∧ g.publish = true ∧ g.sc < 5 ∧ g.slot = some 0 ∧ wordEntry ∈ g.entries) ∧
    (State.reset.pieces = [] ∧ ({ State.reset with pieces := [flying] } : State).pieces = [flying] ∧ flying.die = 3 ∧ flying.home < 640 ∧
     flying.arrived = false) ∧
    (let s : State := { State.reset with beacons := [(3, 0xFFFFFFFF)] }
     (639 : Nat) < 640 ∧ get? s.beacons 3 = some 0xFFFFFFFF) ∧
    (let x := { flying with id := 1 }
     let p := { flying with stamp := flying.stamp.setComp 3 1 }
     let s : State := { State.reset with pieces := [x, p] }
     s.pieces = [x, p] ∧ x.id ≠ p.id ∧ p.home < 640 ∧ x.home = p.home ∧ x.die = p.die ∧ x.arrived = false ∧
     2 ^ 31 ≤ (x.stamp.comp p.die - p.stamp.comp p.die).toNat) ∧
    (let p := { flying with arrived := true }
     let s : State := { State.reset with pieces := [p] }
     s.pieces = [p] ∧ p.arrived = true ∧ p.applied = false ∧ p.home < 640 ∧ (s.die (p.home / 160)).powerLost = false ∧ wordEntry.det = false ∧
     (∀ i < 4, i ≠ p.die → ((s.home p.home).kh.comp i - p.stamp.comp i).toNat < 2 ^ 31) ∧ p.entries = [wordEntry] ∧
     Claims.WholeWord s wordEntry 0x10008 0x77) ∧
    (let p := { flying with arrived := true, applied := true }
     let s : State := { user with pieces := [p], releases := [pending] }
     s.pieces = [p] ∧ p.applied = true ∧ (s.core p.core).pw.paused = false ∧ s.releases = [pending] ∧ pending.id = p.rel ∧
     Claims.TailGe (BitVec.ofNat 48 pending.tail) (get 0 (s.core pending.core).log.pubtail pending.hearth) ∧ pending.publish = true ∧ 5 ≤ pending.sc ∧ pending.slot = some 0) ∧
    (let s : State := { State.reset with clusters := [(159, { cu := [(5, 9, 0)] })] }
     s.clusterStill 159 = false ∧ get? (s.cluster 159).cu 5 = some (9, 0)) ∧
    (let s : State := user.modCurK fun k => { k with log := { k.log with newSize := some 3 } }
     (s.core 0).log.newSize = some 3 ∧ (s.core 0).log.openEntries = [] ∧ (s.core 0).log.closed = [] ∧ s.pieces = [] ∧ s.releases = [] ∧ (s.core 0).pw.paused = false ∧
     (s.core 0).bootTest = false ∧ s.stuck = []) := by
  refine ⟨?_, ?_, ?_, ?_, ?_, ?_, ?_, ?_⟩ <;> decide
/-- A request for DRAM at 0x10008 alone in flight. -/
def flight (op : ReqOp) (sc : Nat) (det : Bool) : Req := { waiting with pa := 0x10008, va := 0x10008, op := op, sc := sc, det := det, dst := .none }
/-- A state with one request in flight. -/
def asked (r : Req) : State := { user with reqs := [r] }
/-- A request for the last word of the user part of core 1's local store. -/
def crossing (op : ReqOp) : Req := { waiting with pa := lsPA State.reset 1 0x2FFF8, va := windowVA 1 0x2FFF8, op := op, dst := .none }
/-- The package with core 1 as well. -/
def paired (r : Req) : State := { asked r with cores := [(0, user.core 0), (1, { bootTest := false })] }
theorem wit_RequestEvents :
    (let r := flight (.load false) 0 false
     Claims.Alone (asked r) r ∧ Claims.HomeServes (asked r) r.rc r.pa ∧ r.op = .load false ∧ r.det = false ∧ r.fwd = []) ∧
    (let r := flight (.watch 0 0) 0 false
     Claims.Alone (asked r) r ∧ Claims.HomeServes (asked r) r.rc r.pa ∧ (asked r).memW r.pa = 0 ∧
     ((asked r).home (homeOf r.pa)).watches.length < 256 ∧ (asked r).memW r.pa ≠ 1) ∧
    (∀ op ∈ [ReqOp.store [1, 2, 3, 4, 5, 6, 7, 8], .amo 10 1, .put [1, 2, 3, 4, 5, 6, 7, 8] 15],
     let r := crossing op
     Claims.Alone (paired r) r ∧ Claims.BankTakes (paired r) r ∧ r.pa = lsPA (paired r) 1 0x2FFF8 ∧ coreExists 1 = true ∧
     (paired r).hub.package < 64 ∧ (0x2FFF8 : Nat) + r.size ≤ 2 ^ 18 ∧ r.stamp = none ∧
     ∀ n < 16, ((paired r).slot 1 n).wait = .none) ∧
    (let r := flight (.amo 10 5) 3 false
     Claims.Alone (asked r) r ∧ Claims.HomeServes (asked r) r.rc r.pa ∧ (asked r).pieces = [] ∧ r.op = .amo 10 5 ∧ r.size = 8 ∧ r.pa % r.size = 0 ∧
     r.pa < 2 ^ 56 ∧ 3 ≤ r.sc ∧ r.det = false) ∧
    (∀ op ∈ [0, 7, 8, 10],
     let r := flight (.amo op 5) 2 true
     let s : State := { asked r with hearths := [(0, { det := { on := true } })] }
     Claims.Alone s r ∧ Claims.HomeServes s r.rc r.pa ∧ s.pieces = [] ∧ r.op = .amo op 5 ∧ r.pa % r.size = 0 ∧ r.det = true ∧ r.dst = .none ∧
     2 ≤ r.sc ∧ (s.hearth r.hearth).det.on = true ∧ (s.hearth r.hearth).det.pieces = [] ∧ (s.home (homeOf r.pa)).holding.length < 16) ∧
    (let p : Reply := { req := { waiting with dst := .w 15 4 }, value := 0x80, clk := {}, cause := 0 }
     let s : State := { user with replies := [p] }
     Claims.Answered s p ∧ p.cause = 0 ∧ p.req.op = .load false ∧ p.req.dst = .w 15 4 ∧ p.req.xs = none) ∧
    (∀ c ∈ [0, 0x11],
     let p : Reply := { req := crossing (.store [1]), value := 0, clk := {}, cause := c }
     let s : State := { user with replies := [p] }
     Claims.Answered s p ∧ p.req.dst = .none ∧ p.req.op = .store [1]) := by
  refine ⟨?_, ?_, ?_, ?_, ?_, ?_, ?_⟩ <;> decide
/-- The page tables with the slots of `sited` behind them. -/
def placed : State :=
  (tables { sited with hearths := [(0, { xbase := 0x10009, aspace := 0x100000 })] }).setBytes 0x108100
    (leBytes 16 (2 ^ 118 + 2 ^ 63 + 2 ^ 62 + 0x10000 + 0xC0))
/-- A walk of a die, and the miss that it serves. -/
def walking (va : Word) : Walk := { id := 0, hearth := 0, aspace := 0x100000, va := va, rc := {} }
def missed (va : Word) : Miss := { core := 0, who := 0, hearth := 0, aspace := 0x100000, va := va, rc := {} }
/-- A branch add for a slot that holds a branch record. -/
def adding : XAdd := { id := 0, hearth := 0, idx := 0, pa := 0x10000, core := 0, task := none, clear := false, kind := 1, c1 := 1, c2 := 2, k := 3, hist := 5,
                       lead := none, frozen := false }
set_option maxRecDepth 8000 in
theorem wit_CoreEvents :
    (let s (va : Word) : State := { mapped {} with dies := [(0, { misses := [missed va], walks := [walking va] })] }
     ((s 0x10FF8).die 0).walks = [walking 0x10FF8] ∧ ((s 0x30000).die 0).walks = [walking 0x30000] ∧
     (match (s 0x10FF8).walk (some {}) 0 0x100000 0x10FF8 with | .leaf _ => true | _ => false) = true ∧
     (match (s 0x30000).walk (some {}) 0 0x100000 0x30000 with | .fault _ => true | _ => false) = true ∧
     missed 0x30000 ∈ ((s 0x30000).die 0).misses ∧ (s 0).latent = [] ∧ (missed 0x30000).cause = none ∧ (missed 0x30000).leaf = none ∧
     (missed 0x30000).pre = false ∧ (walking 0x30000).rc = (missed 0x30000).rc ∧
     (match (s 0x10FF8).walk (some { c0 := 1 }) 0 0x100000 0x10FF8 with | .wait => true | _ => false) = true) ∧
    (let e : XEntry := { hearth := 0, idx := 0, task := none, base := none, kind := 0 }
     placed.entryPlace 0 e = some (0x10000, 1) ∧ e.base = none ∧ Claims.Sound placed ∧ placed.xadds = [] ∧ (placed.core 0).pw.paused = false) ∧
    (let s : State := { (user.setMemW 0x10000 (BitVec.ofNat 64 (0xFFFFFE * 2 ^ 40 + 7 * 2 ^ 16 + 16))) with xadds := [adding] }
     let w := s.memW 0x10000
     s.xadds = [adding] ∧ Claims.Sound s ∧ (s.die (homeOf adding.pa / 160)).powerLost = false ∧ paClass adding.pa = 0 ∧ s.ownPackage adding.pa = true ∧ w.bits 3 3 = 0 ∧ w.bits 7 4 = 1 ∧
     w.bits 63 40 + 1 < 2 ^ 24 ∧ w.bits 39 16 + 2 < 2 ^ 24) ∧
    (let b : Stream := { bound with base := windowVA 0 0x2FF00, next := 0, fetched := [] }
     let s : State := withSlot { (slotAt 0 []) with streams := [(15, b)] }
     get? s.cur.streams 15 = some b ∧ b.write = false ∧ b.fetched = [] ∧ b.bad = [] ∧ b.xs = none ∧ 1 ≤ b.lead ∧ b.next < b.count ∧ b.et < 15 ∧
     s.unstamped 0 0 = false ∧ (s.core 0).pw.paused = false ∧ ∀ l < etCount b.et, b.base + BitVec.ofNat 64 b.next * b.stride + BitVec.ofNat 64 (l * 4) =
        windowVA 0 (0x2FF00 + 4 * l) ∧ Claims.OwnLS s (0x2FF00 + 4 * l) 4 false) ∧
    (let x := (barred { expected := 2, nexp := 2, arrived := 1 }).bar barId
     let y := (barred { expected := 3, nexp := 3 }).bar barId
     x.hearth ≠ 1 ∧ x.hearth = 0 ∧ x.poison = false ∧ x.expected ≠ 0 ∧ x.arrived + 1 = x.expected ∧ y.arrived + 1 ≠ y.expected) ∧
    (let s : State := user.modCur fun t => { t with wait := .sleep 5 0x1000 }
     (s.slot 0 0).wait = .sleep 5 0x1000 ∧ (s.core 0).pw.paused = false ∧ (s.core 0).cycle.toNat < 5 ∧ 5 ≤ ((s.modCurK fun k => { k with cycle := 5 }).core 0).cycle.toNat) := by
  refine ⟨?_, ?_, ?_, ?_, ?_, ?_⟩ <;> decide
/-- A queued message for channel 7 of core 0. -/
def queued : Msg := { core := 0, hearth := 0, chan := 7, payload := [1, 2, 3, 4], rc := {}, src := some (0, 0) }
/-- A frame of an evicted thread for core 0. -/
def evicted : Frame :=
  { barlast := 0, kind := 2, hearth := 0, target := 0, handle := 0, key := 1, ctr := 2,
    billet := { pc := windowVA 0 0x100, status := 3, w := [5, 6], taskid := 1, link := 0 } }
theorem wit_SchedulerEvents_no_run_queue : Claims.NoRunQueue user ∧ ∀ h, (user.hearth h).qtbase = 0 :=
  ⟨fun _ => .inl (show (0 : Nat) < 12 by decide), fun _ => rfl⟩
theorem wit_SchedulerEvents_frames :
    (let s : State := user.modCurK fun k => { k with msgs := [queued], chans := [(7, 0x8000000000000100)] }
     let e := get 0 (s.core 0).chans 7
     s.coreServes 0 = true ∧ Claims.LowestFree s 0 1 ∧ s.pieces = [] ∧ (s.core 0).conts = [] ∧ (s.core 0).msgs = [queued] ∧ queued.hearth < 16 ∧ queued.irq = false ∧
     (s.hearth 0).suspended = false ∧ e.bits 63 63 = 1 ∧ e.bits 62 62 = 0 ∧ e.bits 59 56 = queued.hearth ∧ e.bits 61 60 = 0 ∧
     s.hearths = user.hearths) ∧
    (let s : State := { user with frames := [{ frame := evicted, src := 1 }] }
     s.frames[0]? = some { frame := evicted, src := 1 } ∧ evicted.kind = 2 ∧ s.coreServes 0 = true ∧ Claims.LowestFree s 0 1 ∧
     s.reqs = [] ∧ (s.hearth evicted.hearth).suspended = false ∧ s.hearths = user.hearths) ∧
    (let s : State := { user with refused := [{ frame := evicted, src := 1 }] }
     (s.core 1).pw.paused = false ∧ s.refused[0]? = some { frame := evicted, src := 1 } ∧ get? (s.core 1).departing 0 = none) ∧
    (let s (again : Bool) : State := user.modCurK fun k => { k with departing := [(0, evicted, {}, again)] }
     let x : Flight := { frame := evicted, src := 0, resent := true }
     (∀ b, ((s b).core 0).pw.paused = false) ∧ get? ((s false).core 0).departing 0 = some (evicted, {}, false) ∧ ({ s true with refused := [x] } : State).refused[0]? = some x ∧
     get? ((s true).core x.src).departing x.frame.hearth = some (evicted, {}, true)) := by
  refine ⟨?_, ?_, ?_, ?_⟩ <;> decide
/-- A task 1 at a future, its run-queue area at offset 0x4000 of the local store. -/
def sleeping : State :=
  { withSlot { (slotAt 0 [(1, 5)]) with taskid := 1, key := 1, wait := .obj 0x10008 } with hearths := [(0, { rqbase := windowVA 0 0x4000 ||| 12 })] }
/-- A range of 64 bytes of a footprint, and task 1 that waits for it. -/
def range : Range := { src := windowVA 0 0x5000, off := 0x8000, len := 64 }
def footing : State := (tasked 2 0 0 0).modCur fun t => { t with taskid := 1, key := 1, wait := .footprint, fetch := [range] }
set_option maxRecDepth 8000 in
theorem wit_SchedulerEvents_waiters :
    (evictable (sleeping.slot 0 0) = true ∧ (sleeping.core 0).pw.paused = false) ∧
    (match sleeping.spillSlot 0 0 with
      | (none, v) =>
        let a := v.leave 0 0
        (match a.casThread 0 (a.slot 0 0).st.hearth (a.slot 0 0).taskid 2 4 with
          | .ok b => (match b.runAppend 0 (b.frameOfSlot 0 0 2 0 0) (a.slot 0 0).kept with | .ok _ => true | _ => false)
          | .error _ => false)
      | _ => false) = true ∧
    ((footing.slot 0 0).wait = .footprint ∧ (footing.core 0).pw.paused = false ∧ (footing.slot 0 0).fetch = [range] ∧
     range.pinned (footing.core 0) = false ∧ (match footing.fetchRange 0 0 range with | .ok _ => true | _ => false) = true) ∧
    (let s := (tasked 2 0 0 0).modCur fun t => { t with taskid := 1, key := 1 }
     (s.core 0).pw.paused = false ∧ (s.core 0).seqr = none ∧ s.takeable 0 0 = true ∧ (s.takeThread 0 0).1 = true) ∧
    coreExists 1279 = true := by
  refine ⟨?_, ?_, ?_, ?_, ?_⟩ <;> decide
/-- A governor that watches two rings at offsets 0x4000 and 0x4040 of core 0's local store: stage 1 full at hi 63, stage 0 empty. -/
def governed : State :=
  let w (o v : Nat) (s : State) : State := s.setMemW (lsPA State.reset 0 o) (BitVec.ofNat 64 v)
  let s := w 0x4048 2 (w 0x4018 4 (w 0x4008 (63 * 2 ^ 18 + 2) user))
  { s with clusters := [(0, { gov := { enabled := true, rings := [(1, windowVA 0 0x4000), (0, windowVA 0 0x4040)], hiRun := [(1, 3)] } })] }
/-- The queued message in flight, its channel's entry e. -/
def messaged (e : Word) : State := { user with messages := [queued], cores := [(0, { chans := [(7, e)], bootTest := false })] }
theorem wit_SchedulerEvents_messages (e : Word) :
    (messaged e).messages[0]? = some queued ∧ queued.src = some (0, 0) ∧ get 0 ((messaged e).core queued.core).chans queued.chan = e ∧
    ((messaged e).core queued.core).msgs.length < 32 ∧ ((messaged e).core queued.core).pw.paused = false := ⟨rfl, rfl, rfl, show 0 < 32 by decide, rfl⟩
theorem wit_SchedulerEvents_hears : (messaged 0x8000000000000100).deaf 0 = false ∧ (messaged 0).deaf 0 = false ∧
    (messaged 0x8100000000000000).deaf 0 = false := ⟨by decide, by decide, by decide⟩
theorem wit_SchedulerEvents_channel_entries :
    ((0x8000000000000100 : Word).bits 63 63 = 1 ∧ (0x8000000000000100 : Word).bits 59 56 = 0 ∧ (0 : Word).bits 63 63 = 0 ∧
     (0x8100000000000000 : Word).bits 59 56 ≠ 0) := by decide
theorem wit_SchedulerEvents_continuation :
    (let w : ContWait := { record := windowVA 0 0x4000, hearth := 0, stamp := {}, chan := none, future := 0, core := 0 }
     let s : State := { user with conts := [w] }
     s.conts[0]? = some w ∧ (s.core w.core).quarantined = false ∧ s.deaf w.core = false) := by decide
theorem wit_SchedulerEvents_governor_state :
    (let g : Governor := { enabled := true, rings := [(1, windowVA 0 0x4000), (0, windowVA 0 0x4040)], hiRun := [(1, 3)] }
     (governed.cluster 0).gov = g ∧ g.enabled = true ∧ get 0 g.hiRun 1 = 3 ∧
     g.g + 1 ≤ ((List.range 8).filter fun k => get 0 g.assign k == 0).length) :=
  ⟨rfl, by decide, by decide, by decide⟩
set_option maxRecDepth 8000 in
theorem wit_SchedulerEvents_governor : governed.occupancy 0 (windowVA 0 0x4000) = some (64, 63, 0) ∧
    governed.occupancy 0 (windowVA 0 0x4040) = some (0, 0, 0) := ⟨by decide, by decide⟩

/-- A user thread with a channel in a state. -/
def channel (x : Channel) : State := user.modCurK fun k => { k with tongs := [(7, x)] }
/-- A copy of 64 bytes from one offset of the local store of core 0 to another. -/
def copy (src dst : Nat) : Channel := { busy := true, src := windowVA 0 src, dst := windowVA 0 dst, len := 64 }
/-- A queue with one running command on tile 0. -/
def anvilRuns (op : AnvOp) : State :=
  let s := tiled 0 []
  let k : AnvCmd := { Claims.cmdOf s 0 op none with started := true }
  { (s.modCurK fun x => { x with anvq := [k] }) with clusters := [(0, { running := some 0 })] }
/-- A sequence of two by one by one commands. -/
def stepping (i0 : Nat) : Sequence :=
  { slot := 0, record := 0, priv := 0, rc := {}, tmpl := [windowVA 0 0x2000, windowVA 0 0x3000], sctl := 0, da := [64, 0, 0], db := [64, 0, 0],
    n := [2, 1, 1], i0 := i0, i1 := 0, i2 := 0 }
theorem wit_EngineEvents_tongs :
    (let x := copy 0x2FFC0 0
     let s := channel x
     s.chan 0 7 = x ∧ Claims.ShortCopy s 0 x 0x2FFC0 0 ∧ Claims.ChanLS s 0 7 x 0x2FFC0 x.len false ∧ Claims.ChanLS s 0 7 x 0 x.len true ∧ s.nextChannel 0 = some 7) ∧
    (let x := copy 0x30000 0
     let s := channel x
     s.chan 0 7 = x ∧ Claims.ShortCopy s 0 x 0x30000 0 ∧ 0x30000 + x.len ≤ 2 ^ 18 ∧ (0x30000 : Nat) % 64 = 0 ∧
     (s.core 0).lsRefusedN 0x30000 x.len x.hearth x.priv false = true ∧ (s.slot x.owner.1 x.owner.2).abort = none) ∧
    (let x : Channel := { copy 0 0x1000 with run := 1 }
     let s := channel x
     s.chan 0 7 = x ∧ x.busy = true ∧ x.net = none ∧ x.runs ≤ x.run ∧ x.global = false ∧ x.away = none ∧ x.bind = none ∧
     (s.die 0).powerLost = false ∧ (s.core 0).pw.paused = false ∧ (s.slot x.owner.1 x.owner.2).abort = none) := by
  refine ⟨?_, ?_, ?_⟩ <;> decide
set_option maxRecDepth 8000 in
theorem wit_EngineEvents_anvil :
    (let s := tiled 2 []
     let q := s.cluster 0
     q.running = none ∧ q.stopped = false ∧ s.clusterStill 0 = false ∧ q.turnCore < 8 ∧ (match (s.core (0 * 8 + 0)).anvq with | k :: _ => !k.held | [] => false) = true ∧ ∀ i < 8, i ≠ 0 → (s.core (0 * 8 + i)).anvq = []) ∧
    (let s := anvilRuns (.zero false)
     let k : AnvCmd := { Claims.cmdOf (tiled 0 []) 0 (.zero false) none with started := true }
     Claims.Running s 0 k ∧ k.op = .zero false ∧ (s.core 0).seqr = none ∧
     (∀ i < 8, ∀ e ∈ (s.core (0 / 8 * 8 + i)).slots, e.2.anvTrap = false) ∧ (s.die 0).trip3 = false ∧ (s.die 0).powerLost = false) ∧
    (let k : AnvCmd := { Claims.cmdOf (tiled 0 []) 0 (.restore 0x9000 0) none with started := true }
     let s := anvilRuns (.restore 0x9000 0)
     Claims.Running s 0 k ∧ (s.core 0).seqr = none ∧ s.latent = [] ∧ (match (s.runCmd 0 k).1 with | .fault c _ => decide (c ≠ 0x0D) | _ => false) = true) ∧
    (let s := (tiled 0 []).modCurK fun k => { k with seqr := some (stepping 0) }
     let t := (tiled 7 []).modCurK fun k => { k with seqr := some (stepping 1) }
     (s.core 0).seqr = some (stepping 0) ∧ (s.core 0).pw.paused = false ∧ (t.core 0).pw.paused = false ∧ (s.core 0).anvq.length < 8 ∧ (stepping 0).i0 + 1 < 2 ∧ (t.core 0).seqr = some (stepping 1) ∧
     (t.core 0).anvq.length < 8 ∧ (stepping 1).i0 + 1 = 2 ∧ (stepping 1).i1 + 1 = 1 ∧ (stepping 1).i2 + 1 = 1 ∧ (stepping 1).n = [2, 1, 1]) := by
  refine ⟨?_, ?_, ?_, ?_⟩ <;> decide

/-- Hearth 0 in deterministic mode with a state of its phase. -/
def phased (d : Det) : State := { user with hearths := [(0, { det := d })] }
/-- A deferred integer update of DRAM. -/
def deferred (op : Nat) : DetUpd := { pa := 0x1FFFC, size := 4, op := op, value := 5, task := 0, seq := 0, hearth := 0 }
theorem wit_PhaseEvents :
    (let s := phased { on := true, exiting := [(0, 1)] }
     (s.hearth 0).det.exiting[0]? = some (0, 1) ∧ s.pieces = [] ∧ s.reqs = [] ∧ s.replies = [] ∧ s.xadds = [] ∧ ∀ k ∈ s.cores, k.2.log.closed = []) ∧
    (let d : Det := { on := true, current := some (7, 1), counted := [BitVec.ofNat 64 (7 * 2 ^ 48)] }
     d.failed = false ∧ d.aborting = false ∧ d.committing = false ∧ 1 ≤ (d.counted.filter fun t => t.bits 63 48 == 7).length ∧
     (d.counted.filter fun t => t.bits 63 48 == 7).length < 2 ∧ ((phased d).hearth 0).det = d) ∧
    (let d : Det := { on := true, current := some (7, 1), committing := true }
     let s := phased d
     d.committing = true ∧ d.pieces = [] ∧ d.accs = [] ∧ ∀ e ∈ s.homes, ∀ u ∈ e.2.holding ++ e.2.overflow, u.hearth ≠ 0) ∧
    (let d : Det := { committing := true, pieces := [flying] }
     let s := phased d
     (s.hearth 0).det.committing = true ∧ Claims.Sound s ∧ (s.die (flying.home / 160)).powerLost = false ∧ (s.home flying.home).holding = [] ∧ (s.home flying.home).overflow = [] ∧
     flying.entries = [wordEntry] ∧ d.accs = [] ∧ Claims.WholeWord s wordEntry 0x10008 0x77) ∧
    (∀ op < 8, let u := deferred op
     let s := phased { committing := true, accs := [u] }
     (s.hearth 0).det.accs = [u] ∧ Claims.Sound s ∧ (s.die (homeOf u.pa / 160)).powerLost = false ∧ (s.home (homeOf u.pa)).holding = [] ∧ u.x = none ∧ u.op < 8 ∧ u.pa % u.size = 0 ∧ paClass u.pa = 0 ∧
     s.ownPackage u.pa = true) := by
  refine ⟨?_, ?_, ?_, ?_, ?_⟩ <;> decide
/-- The package with a state of core 0's power. -/
def powered (p : CorePower) : State := { State.reset with cores := [(0, { pw := p, bootTest := false })] }
theorem wit_PowerEvents :
    (coreExists 0 = true ∧ coreExists 1280 = false ∧ ((powered { fduty := 0x8008 }).core 0).pw.fduty.bits 15 15 = 1 ∧
     ((powered { gated := true }).core 0).pw.gated = true ∧ ((powered {}).core 0).pw.gated = false) ∧
    (((powered { busy := true }).core 0).pw.vrfail = false ∧ ((powered { busy := true }).core 0).pw.busy = true ∧
     ((powered { busy := true }).core 0).pw.fduty.bits 15 15 = 0 ∧ ((powered {}).core 0).pw.fduty.bits 15 15 = 0 ∧
     ((powered {}).core 0).pw.busy = false ∧ (0xBF0028 : Word).bits 23 16 = 191 ∧ ((powered {}).core 0).pw.vcur < (0xBE0032 : Word).bits 23 16 ∧
     Claims.leastVolt (min (max ((0xBE0032 : Word).bits 7 0) 16) 50) ≤ 190) ∧
    (let p : CorePower := { busy := true, change := some (190, 50, true) }
     p.held = none ∧ p.paused = false ∧ p.vcur ≠ 190 ∧ p.fcur ≠ 50) ∧
    (let p : CorePower := { busy := true, change := some (190, 40, true) }
     p.held = none ∧ p.vcur ≠ 190 ∧ p.fcur = 40) ∧
    (let p : CorePower := { busy := true, paused := true, change := some (170, 30, false) }
     p.held = none ∧ p.paused = true) ∧
    (let s := powered {}
     (s.core 0).pw.paused = false ∧ s.queueTails 0 = some [] ∧ s.gateable 0 = true ∧ (s.core 0).pw.preparing = false ∧ (s.core 0).quarantined = false ∧ (s.core 0).bootTest = false) ∧
    (let s := powered { preparing := true }
     (s.core 0).pw.preparing = true ∧ s.xadds = [] ∧ (s.core 0).pw.wake = false ∧ (s.core 0).pw.paused = false ∧ s.queueTails 0 = some (s.core 0).pw.tails ∧ s.gateable 0 = true ∧
     ((powered { preparing := true, wake := true }).core 0).pw.wake = true ∧
     (powered { preparing := true, tails := [1] }).queueTails 0 ≠ some ((powered { preparing := true, tails := [1] }).core 0).pw.tails) ∧
    (40 ≤ (40 : Word).bits 7 0 ∧ (88 : Word).bits 7 0 ≤ 88 ∧ (39 : Word).bits 7 0 < 40 ∧ 88 < (89 : Word).bits 7 0 ∧
     (State.reset.die 3).powerLost = false) ∧
    (coreExists (8 * 159) = true ∧ (State.reset.cluster 159).vrfail = false) ∧
    (∀ paused ∈ [false, true],
      let s : State := { powered {} with
        clusters := [(0, { vcur := if paused then 170 else 120, fcur := 30, change := some (170, 40, true), paused := paused })] }
      let q := s.cluster 0
      let top (g : CorePower → Nat) : Nat := ((List.range 8).map fun j => g (s.core (0 * 8 + j)).pw).foldl max 0
      q.vrfail = false ∧ top (·.vcur) = 170 ∧ top (·.fcur) = 40 ∧ q.change = some (170, 40, true) ∧ q.paused = paused ∧ q.fcur ≠ 40 ∧
      (paused = false → q.vcur < 170) ∧ (paused = true → q.vcur = 170)) := by
  refine ⟨?_, ?_, ?_, ?_, ?_, ?_, ?_, ?_, ?_, ?_⟩ <;> decide
/-- The package whose hearth 0 has its save area in the local-store window, where no core stands behind the fault ring. -/
def ringless : State := { State.reset with hearths := [(0, { savebase := 0x0100000000000000 - 0x28001000 })] }
/-- The same with symbols in error in the line of 0x10000. -/
def faulty (syms : List Nat) : State := { ringless with latent := [(0x400, syms)] }
theorem wit_FaultEvents :
    (paClass (64 * 0x400) = 0 ∧ paBad (64 * 0x400) = false ∧ State.reset.ownPackage (64 * 0x400) = true ∧ get? State.reset.latent 0x400 = none ∧
     paClass (64 * 0x401) = 0 ∧ paBad (64 * 0x401) = false ∧ State.reset.ownPackage (64 * 0x401) = true ∧
     [0, 71].Nodup ∧ (∀ x ∈ [0, 71], x < 72) ∧
     (∀ n ∈ [1, 4], get? (faulty (List.range n)).latent 0x400 = some (List.range n) ∧
       2 * ((faulty (List.range n)).lineErrs 0x400).length + (((faulty (List.range n)).home (homeOf (64 * 0x400))).erased 0x400).length ≤ 8 ∧
       ((faulty (List.range n)).home (homeOf (64 * 0x400))).ceSent = false) ∧
     8 < 2 * ((faulty (List.range 5)).lineErrs 0x400).length + (((faulty (List.range 5)).home (homeOf (64 * 0x400))).erased 0x400).length) ∧
    (match (faulty []).hwPA 0 ((faulty []).faultRing 0) .read with | .error _ => true | .ok _ => false) = true ∧
    (get 0 ({ State.reset with homes := [(639, { rows := [(127, 8)] })] }.home 639).rows (16 * 7 + 15) = 8 ∧
     (State.reset.home 639).ues = [] ∧ (State.reset.home 639).fixed = []) ∧
    (State.reset.hub.linkUp = true ∧ 7 ∉ State.reset.hub.podLinksDown) ∧
    ({ user with frames := [{ frame := evicted, src := 1 }] }.frames[0]? = some { frame := evicted, src := 1 } ∧
     { user with pieces := [flying] }.pieces[0]? = some flying ∧ flying.arrived = false) := by
  refine ⟨?_, ?_, ?_, ?_, ?_⟩ <;> decide
/-- A row in which a line was uncorrectable: that of line 5, wherever it lies (log 155). -/
theorem wit_FaultEvents_repair :
    let s : State := { State.reset with homes := [(639, { ues := [5] })] }
    lineLayer 5 < 8 ∧ lineBank 5 < 16 ∧ lineRow 5 < 2 ^ 16 ∧ 5 ∈ (s.home 639).ues ∧
      get 0 (s.home 639).rows (16 * lineLayer 5 + lineBank 5) < 8 ∧ s.latent = [] :=
  ⟨Nat.mod_lt _ (by decide), Nat.mod_lt _ (by decide), Nat.mod_lt _ (by decide), by decide, Nat.zero_lt_succ 7, rfl⟩

/-- A command of code op that runs: its flags, its aux field and words 1 to 5. -/
def command (op flags aux : Nat) (ws : List Word) : Command :=
  { seq := 1, queue := 0, running := true, words := BitVec.ofNat 64 (op * 2 ^ 56 + flags * 2 ^ 48 + aux * 2 ^ 32) :: (ws ++ List.replicate (7 - ws.length) 0) }
/-- Hearth 0 of a state with one command. -/
def commanded (s : State) (c : Command) : State := s.modHearth 0 fun q => { q with commands := [c] }
/-- Hearth 0 with an enabled queue 3 at 0x40000, of tail 1, whose first entry begins with word w. -/
def belled (w : Word) : State :=
  (user.modHearth 0 fun q => { q with qbase := [(3, 0x40003)], qtail := [(3, 1)] }).setMemW 0x40000 w
/-- The command that the hub reads there. -/
def rung (w : Word) : Command :=
  { seq := 1, queue := 3, words := (List.range 8).map fun i => (belled w).memW (0x40000 + 8 * i) }
set_option maxRecDepth 8000 in
theorem wit_HostCommands_queues :
    (user.hub.linkUp = true ∧ (256 - get 0 (user.hearth 15).qhead 3).toNat ≤ 256 ∧
     (get 0 (user.hearth 15).qtail 3 - get 0 (user.hearth 15).qhead 3).toNat ≤ 256 ∧ 256 < ((257 : BitVec 32) - get 0 (user.hearth 15).qhead 3).toNat) ∧
    (let x := (belled 0x0700000000000000).hearth 0
     let b := get 0 x.qbase 3
     b.bits 0 0 = 1 ∧ b.bits 1 1 = 1 ∧ get 0 x.qtail 3 ≠ get 0 x.qhead 3 ∧ x.commands = [] ∧ (rung 0x0700000000000000).bad = false ∧ (rung 0).bad = true) ∧
    (user.hub.locked = false ∧ ({ user.hub with locked := true } : Hub).locked = true) := by
  refine ⟨?_, ?_, ?_⟩ <;> decide
theorem wit_HostCommands_first :
    ∀ p ∈ [(1, 0), (2, 0), (2, 1), (2, 2), (2, 3), (3, 0), (4, 0), (5, 0), (6, 0), (7, 0), (8, 0), (9, 0)],
      let c := { command p.1 p.2 0 [] with running := false }
      Claims.Has (commanded user c) 0 c p.1 false ∧ c.flags = p.2 := by decide
/-- LAUNCH of task 1 on core 0 from a template at offset 0x6000. -/
def launching (flags : Nat) : Command := command 1 flags 0 [windowVA 0 0x6000, 1, 1]
set_option maxRecDepth 8000 in
theorem wit_HostCommands_launch :
    (let c := launching 64
     Claims.Next (commanded user c) 0 c 1 ∧ c.flags.testBit 6 = true ∧ ((commanded user c).hearth 0).hres.bits 56 12 = 0) ∧
    (let c := launching 0
     let s := commanded (tasked 0 0 0 0) c
     Claims.Next s 0 c 1 ∧ c.flags.testBit 6 = false ∧ 8 ≤ (s.hearth 0).trbase.bits 4 0 ∧ (s.hearth 0).trbase.bits 4 0 ≤ 24 ∧
     (c.words.getD 3 0).bits 23 0 = 1 ∧ coreExists (c.launchCore 0) = true ∧
     (match s.asHub.recordFree 0 (recordVA (s.hearth 0) (taskNo (c.launchId 0))) with | .ok b => b | _ => false) = true) ∧
    (let c := launching 0
     let s := (commanded (tasked 0 0 0 0) c).asHub
     (match s.hwReadWords 0 (c.words.getD 1 0) 32 with
       | .ok l => (match s.launchAll 0 c l (List.range 1) with | some (none, _) => true | _ => false)
       | .error _ => false) = true) := by
  refine ⟨?_, ?_, ?_⟩ <;> decide
/-- PHASE of phase 7 with one task. -/
def phasing (flags : Nat) : Command := command 2 flags 0 [BitVec.ofNat 64 (7 * 2 ^ 48 + 1)]
/-- A hearth with that command and a state of its phase. -/
def inPhase (flags : Nat) (d : Det) : State := commanded (phased d) (phasing flags)
theorem wit_HostCommands_phase :
    (∀ f < 4, ∀ d ∈ [({} : Det), { on := true }, { on := true, current := some (7, 1) }, { on := true, current := some (6, 1) },
        { on := true, current := some (7, 1), created := [BitVec.ofNat 64 (7 * 2 ^ 48)] }],
      Claims.Next (inPhase f d) 0 (phasing f) 2 ∧ ((inPhase f d).hearth 0).det.committing = false ∧ ((inPhase f d).hearth 0).det.aborting = false ∧
      (phasing f).flags = f) ∧
    (let s := inPhase 1 { on := true }
     ({ s with hub := { s.hub with accept := 1 } } : State).hub.accept.getLsbD 0 = true) ∧
    ((phasing 0).words.getD 1 0).bits 63 48 = 7 ∧ ((phasing 0).words.getD 1 0).bits 23 0 = 1 ∧
    ({ on := true, current := some (7, 1) } : Det).unended 7 = [] ∧
    ({ on := true, current := some (7, 1), created := [BitVec.ofNat 64 (7 * 2 ^ 48)] } : Det).unended 7 ≠ [] := by
  refine ⟨?_, ?_, ?_, ?_, ?_, ?_⟩ <;> decide
/-- MAP and UNMAP of the page 0x10000. -/
def mapping : Command := command 3 0 0 [0x10000, 0x30000, 4096, 0, 0xC0]
def unmapping : Command := command 4 0 0 [0x10000, 4096]
set_option maxRecDepth 8000 in
theorem wit_HostCommands_map :
    (let s := commanded (mapped {}) mapping
     let t := commanded (mapped {}) unmapping
     s.rootBad 0 = false ∧ Claims.Next s 0 mapping 3 ∧ mapping.mapBad = false ∧ mapping.words.getD 3 0 = 4096 ∧
     (mapping.words.getD 5 0).bits 1 0 = 0 ∧ Claims.Next t 0 unmapping 4 ∧ unmapping.words.getD 2 0 = 4096 ∧
     t.walksIn 0 0 ((t.hearth 0).aspace.bits 63 56) 0x10000 4096 = false ∧ t.coresStopped = false) ∧
    (let t := commanded (mapped {}) unmapping
     (match t.tableEntry none 0x108000 0x10 with | .leaf e => ebits e 63 63 == 1 | _ => false) = true ∧ paClass 0x108100 = 0 ∧
     t.ownPackage 0x108100 = true) ∧
    (let s := commanded (mapped {}) mapping
     (match s.descend 0 (s.hearth 0).root (walkIndices 0x10000 3) with | .table t _ => t == 0x108000 | _ => false) = true) := by
  refine ⟨?_, ?_, ?_⟩ <;> decide
/-- LOADBIN of a file without sections at 0x40000, checked and not signed. -/
def loading : Command := command 5 2 0 [0x40000, 64, 0x1000]
/-- Its file: magic, version 1, a header of 64 bytes, no section, their table at 64; ACCEPT takes unsigned files. -/
def filed : State :=
  let s := ((mapped {}).setMemW 0x40000 (BitVec.ofNat 64 (2 ^ 32 + 0x4D4C4547))).setMemW 0x40008 64
  commanded { s.setMemW 0x40010 64 with hub := { s.hub with accept := 16 } } loading
set_option maxRecDepth 8000 in
theorem wit_HostCommands_loadbin :
    (let g : Gof := ⟨0x40000, 64, filed.asHub, []⟩
     Claims.Next filed 0 loading 5 ∧ loading.flags.testBit 1 = true ∧ paHost g.pa = false ∧ (loading.words.getD 3 0).toNat % 4096 = 0 ∧
     (loading.words.getD 5 0).bits 15 0 = 0) ∧
    (⟨0x40000, 64, filed.asHub, []⟩ : Gof).headerBad = false ∧
    (let g : Gof := ⟨0x40000, 64, filed.asHub, []⟩
     BitVec.ofNat 128 (g.num 0x20 16) &&& ~~~filed.hub.accept = 0 ∧ g.layoutBad = false ∧ g.signed (filed.hearth 0) filed.hub.accept = true) ∧
    (let g : Gof := ⟨0x40000, 64, filed.asHub, []⟩
     (match g.relocated 0x1000 0 with
      | some g' =>
        let known := g'.kernels 0x1000 ++ (filed.hearth 0).kernels
        let l : Load := ⟨g'.bind known, 0, 0x1000, 0, []⟩
        (ofType g'.sects 5).isEmpty && !l.unmappable filed.asHub &&
          (match l.write (filed.asHub.modHearth 0 fun q => { q with kernels := known }) with | .ok _ => true | _ => false)
      | none => false) = true) ∧ filed.rootBad 0 = false := by
  refine ⟨?_, ?_, ?_, ?_, ?_⟩ <;> decide
theorem wit_HostCommands_others :
    (let c := command 6 0 63 [1279, 1, 2, 3, 4]
     Claims.Next (commanded user c) 0 c 6 ∧ coreExists ((c.words.getD 1 0).bits 12 0) = true ∧ (commanded user c).msgTaken 1279 < 32) ∧
    (∀ op ∈ [7, 8, 9], let c := command op 0 0 []
     Claims.Next (commanded State.reset c) 0 c op ∧ (commanded State.reset c).threadsOf 0 = [] ∧ (commanded State.reset c).copying 0 = false ∧
     ((commanded State.reset c).hearth 0).saved = [] ∧ ((commanded State.reset c).hearth 0).rqbase.bits 4 0 < 12) := by
  refine ⟨?_, ?_⟩ <;> decide
/-- An entry that names a table is that table, and the state is as it was. -/
theorem tableAt_named {s : State} {h t i : Nat} {e : BitVec 128} (he : s.tableEntry none t i = .leaf e) (hv : ebits e 63 63 ≠ 0)
    (hl : ¬(ebits e 62 62 = 1 ∨ tableReserved e)) : s.tableAt h t i = .table (ebits e 55 13 * 2 ^ 13) s := by
  unfold State.tableAt; rw [he]; exact (if_neg hv).trans (if_neg hl)
/-- So a descent through entries that name tables ends at the last of them. -/
theorem descend_named {s : State} {h t i : Nat} {r : List Nat} {e : BitVec 128} {x : Reached} (he : s.tableEntry none t i = .leaf e)
    (hv : ebits e 63 63 ≠ 0) (hl : ¬(ebits e 62 62 = 1 ∨ tableReserved e)) (hr : s.descend h (ebits e 55 13 * 2 ^ 13) r = x) :
    s.descend h t (i :: r) = x := by
  rw [State.descend, tableAt_named he hv hl]; exact hr
set_option maxRecDepth 8000 in
theorem wit_HostCommands_descend :
    let s := commanded (mapped {}) mapping
    s.descend 0 0x100000 [0, 0, 0, 0] = .table 0x108000 s ∧ walkIndices 0x10000 3 = [0, 0, 0, 0] :=
  ⟨descend_named (e := BitVec.ofNat 128 (2 ^ 63 + 0x102000)) (by decide) (by decide) (by decide)
    (descend_named (e := BitVec.ofNat 128 (2 ^ 63 + 0x104000)) (by decide) (by decide) (by decide)
    (descend_named (e := BitVec.ofNat 128 (2 ^ 63 + 0x106000)) (by decide) (by decide) (by decide)
    (descend_named (e := BitVec.ofNat 128 (2 ^ 63 + 0x108000)) (by decide) (by decide) (by decide) rfl))), by decide⟩
/-- Hearth 15 with one reduction object. -/
def reducing (r : Reduction) : State := { user with hearths := [(15, { reductions := [(3, r)] })] }
/-- The package with a ring of context 4 at 0x40000. -/
def ringed : State := { user with hub := { user.hub with rings := [(4, 0x40000, 8)] } }
/-- The package with the boot block of core 0 at a value of BCTL. -/
def booting (bctl : Word) : State := { State.reset with hub := { State.reset.hub with boots := [(0, { bctl := bctl })] } }
theorem wit_HubEvents :
    (let x : Reduction := get {} ((reducing { mask := 3 }).hearth 15).reductions 3
     x.gen.getLsbD 0 = false ∧ (0x0400000000000000 : Word).bits 63 58 + 1 = (List.range 64).countP x.mask.getLsbD ∧ x.mask.getLsbD 63 = false ∧
     (1 : Word).getLsbD 0 = true) ∧
    (let x : Reduction := get {} ((reducing { mask := 1 }).hearth 15).reductions 3
     let p := (reducing { mask := 1 }).hub.package
     p < 64 ∧ x.parts = [] ∧ x.mask = 1#64 <<< p ∧ x.ctl.bits 7 4 = 0 ∧ x.ctl.bits 3 0 = 0) ∧
    (let d := 0xC000000000 - 8
     let pa := user.hub.package * 2 ^ 50 + d / 0x3000000000 * 2 ^ 48 + d % 0x3000000000
     d % 64 + 8 ≤ 64 ∧ user.latent = [] ∧ user.hub.linkUp = true ∧ user.hub.package < 64 ∧ (user.die (paDie pa)).powerLost = false) ∧
    (ringed.hub.rings = [(4, 0x40000, 8)] ∧ paClass 0x40008 = 0 ∧ ringed.ownPackage 0x40008 = true ∧ (0x40008 : Nat) % 2 ^ 46 + 3 ≤ 2 ^ 46) ∧
    (let x : Frame := { evicted with billet := { evicted.billet with status := 0x200003 } }
     let s : State := { State.reset with hub := { State.reset.hub with verified := [0, 7] } }
     coreExists 0 = true ∧ x.billet.status.bits 21 20 = 2 ∧ 0 ∈ s.hub.verified ∧ 7 ∈ s.hub.verified ∧ 3 ∉ s.hub.verified ∧
     (s.core 0).bootTest = true ∧
     (State.reset.core 0).quarantined = false ∧ (State.reset.slot 0 15).busy = false) ∧
    ((get {} State.reset.hub.boots 0).bctl.bits 1 1 = 0 ∧ (1 : Word).bits 1 1 = 0 ∧ (2 : Word).bits 1 1 = 1 ∧
     (get {} (booting 2).hub.boots 0).bctl.bits 1 1 = 1 ∧ (get {} (booting 2).hub.boots 0).bstat.bits 63 60 ≠ 3 ∧
     ({ bctl := 2, bstat := 0x3000000000000000 } : BootBlock).bstat.bits 63 60 = 3) := by
  refine ⟨?_, ?_, ?_, ?_, ?_, ?_⟩ <;> decide
theorem wit_EncodeAndDecodeAgree :
    (Instr.ld ⟨[.pxi 511, .pxm 1 1 0 2], 4, 9, 0⟩).WellFormed = true ∧ decode [0xF452#16, 0xB092, 5] = .ok (.ld ⟨[.pxm 1 1 0 2], 4, 9, 0⟩) 2 := by decide
/-- The thread of `user` on core 0 before an ADD in its local store. -/
def fetching : State := user.setBytes (lsPA user 0 0x100) (leBytes 2 0x026B)
set_option maxRecDepth 8000 in
theorem wit_StepRunsTheInstruction :
    (({ user with agenda := [.beacon 0] } : State).agenda = [.beacon 0]) ∧
    (∀ m, let s := fetching.modCore 0 fun k => { k with mismatch := m }
     let i := Instr.add ⟨[], 3, 5, 1⟩
     s.agenda = [] ∧ s.coreRuns 0 = true ∧ s.fetchEnabled 0 = true ∧ (s.core 0).order = [] ++ 0 :: (s.core 0).order.tail ∧ s.slotLive 0 0 = true ∧
     (s.boundary 0 0).isNone = true ∧ (s.core 0).upset = false ∧
     (match ((({ s with curCore := 0, curSlot := 0 } : State).modSlot 0 0 endWait).fetchSlot 0 0) with
      | (.instr j _, s') => decide (j = i) && (s'.core 0).takesPage (i.page != 0) && scoreboardOk (s'.slot 0 0) (useOf i (fldOf i)) &&
          streamsOk (s'.slot 0 0) (useOf i (fldOf i)) &&
          (match exec i (({ s' with curCore := 0, curSlot := 0 } : State).modCur fun t => { t with atVector := false }) with
           | .next t => !(s'.slot 0 0).begun && !(t.slot 0 0).begun && decide ((t.slot 0 0).wait = .none) &&
            decide ((t.core 0).softErrs + 1 < (t.core 0).softBase + 64) && !stillWaits (s'.slot 0 0) (t.slot 0 0) && (s'.core 0).mismatch == m && !(t.slot 0 0).atVector
           | _ => false)
      | _ => false) = true) ∧
    (let s := fetching
     coreExists 0 = true ∧ s.hub.package < 64 ∧ (s.core 0).view = false ∧ (s.core 0).icache = [] ∧ (s.core 0).pw.paused = false ∧
     s.latent = [] ∧ (∀ k ∈ s.cores, ∀ e ∈ k.2.tongs, e.2.busy = false ∧ e.2.held = none) ∧
     (∀ j < 0x108, 0x100 ≤ j → (s.core 0).lsRefused j 0 0 false = false) ∧
     decode ((List.range 1).map (Claims.parcelAt s 0 0x100)) = .ok (.add ⟨[], 3, 5, 1⟩) 1) := by
  refine ⟨?_, ?_, ?_⟩ <;> decide
theorem wit_MemoryKeepsItsForm : State.reset.MemOk := Memory.nil_wf

end Sys2Proof.Tests
end

/-! # Every step keeps memory in its canonical form

Memory changes through `State.setByte` and `State.loseMemory` only, and both keep the form (`State.setByte_wf`,
`Memory.write_wf`). For every function `f` of the model that answers a state there is one lemma `f_memOk`: where the
states given to `f` have memory in canonical form, so has the state that `f` answers. Its proof follows the branches of
`f` and cites the lemmas of the functions that `f` calls. The lemmas stand in the order of the model's parts. -/

namespace Sys2Proof.Machine

/-! ## Predicates on results that hold a state -/

/-- The second component satisfies P. -/
def OnSnd {α β : Type} (P : β → Prop) (p : α × β) : Prop := P p.2

/-- The first component satisfies P. -/
def OnFst {α β : Type} (P : α → Prop) (p : α × β) : Prop := P p.1

/-- The value, where there is one, satisfies P. -/
inductive OnSome {α : Type} (P : α → Prop) : Option α → Prop
  | protected some {a : α} : P a → OnSome P (Option.some a)
  | protected none : OnSome P Option.none

/-- The result, where there is one, satisfies P. -/
inductive OnOk {ε α : Type} (P : α → Prop) : Except ε α → Prop
  | protected ok {a : α} : P a → OnOk P (.ok a)
  | protected error {e : ε} : OnOk P (.error e)

/-- The next state, where there is one, satisfies P. -/
inductive OnNext (P : State → Prop) : Out → Prop
  | protected next {s : State} : P s → OnNext P (.next s)
  | protected fault {e : Fault} : OnNext P (.fault e)
  | protected refused {r : Refusal} : OnNext P (.refused r)

/-- The event keeps memory in its canonical form. -/
def MemKept (e : State → Out) : Prop := ∀ s : State, s.MemOk → OnNext State.MemOk (e s)

theorem OnSnd.of_eq {α β : Type} {P : β → Prop} {p : α × β} {a : α} {b : β} (h : OnSnd P p) (e : p = (a, b)) :
    P b := by
  subst e; exact h

theorem OnFst.of_eq {α β : Type} {P : α → Prop} {p : α × β} {a : α} {b : β} (h : OnFst P p) (e : p = (a, b)) :
    P a := by
  subst e; exact h

theorem OnSome.of_eq {α : Type} {P : α → Prop} {x : Option α} {a : α} (h : OnSome P x) (e : x = some a) : P a := by
  subst e; cases h; assumption

theorem OnOk.of_eq {ε α : Type} {P : α → Prop} {x : Except ε α} {a : α} (h : OnOk P x) (e : x = .ok a) : P a := by
  subst e; cases h; assumption

theorem OnNext.of_eq {P : State → Prop} {x : Out} {t : State} (h : OnNext P x) (e : x = .next t) : P t := by
  subst e; cases h; assumption

theorem OnSome.getD {α : Type} {P : α → Prop} {x : Option α} {d : α} (h : OnSome P x) (hd : P d) : P (x.getD d) := by
  cases h with
  | none => exact hd
  | some h => exact h

theorem OnOk.getD {ε α : Type} {P : α → Prop} {x : Except ε α} {d : α} (h : OnOk P x) (hd : P d) :
    P (x.toOption.getD d) := by
  cases h with
  | error => exact hd
  | ok h => exact h

theorem OnSome.map {α β : Type} {P : α → Prop} {Q : β → Prop} {x : Option α} {f : α → β} (h : OnSome P x)
    (hf : ∀ a, P a → Q (f a)) :
    OnSome Q (x.map f) := by
  cases h with
  | none => exact .none
  | some h => exact .some (hf _ h)

theorem OnSome.map_of_forall {α β : Type} {P : β → Prop} {x : Option α} {f : α → β} (h : ∀ a, P (f a)) :
    OnSome P (x.map f) := by
  cases x with
  | none => exact .none
  | some a => exact .some (h a)

theorem OnSome.findSome? {α β : Type} {P : β → Prop} {l : List α} {f : α → Option β} (h : ∀ a, OnSome P (f a)) :
    OnSome P (l.findSome? f) := by
  cases e : l.findSome? f with
  | none => exact .none
  | some b =>
    obtain ⟨a, -, ha⟩ := List.exists_of_findSome?_eq_some e
    exact .some ((h a).of_eq ha)

theorem OnOk.map {ε α β : Type} {P : α → Prop} {Q : β → Prop} {x : Except ε α} {f : α → β} (h : OnOk P x)
    (hf : ∀ a, P a → Q (f a)) :
    OnOk Q (x.map f) := by
  cases h with
  | error => exact .error
  | ok h => exact .ok (hf _ h)

theorem OnOk.bind {ε α β : Type} {P : α → Prop} {Q : β → Prop} {x : Except ε α} {f : α → Except ε β} (h : OnOk P x)
    (hf : ∀ a, P a → OnOk Q (f a)) : OnOk Q (x.bind f) := by
  cases h with
  | error => exact .error
  | ok h => exact hf _ h

/-- What every step of a fold keeps, the fold keeps. -/
theorem foldl_keeps {σ α : Type} {P : σ → Prop} {f : σ → α → σ} {l : List α} {s : σ} (h : P s)
    (hf : ∀ s a, P s → P (f s a)) : P (l.foldl f s) :=
  List.foldlRecOn l f h fun s hs a _ => hf s a hs

/-- A change of fields other than memory. -/
theorem State.memOk_update {s : State} {poison cores clusters dies homes hearths barriers hub pieces releases beacons
    reqs replies messages frames refused contWaits conts xadds agenda focus curCore curSlot nextId freeCtr stuck latent
    crossings} (hs : s.MemOk) :
    State.MemOk { mem := s.mem, poison, cores, clusters, dies, homes, hearths, barriers, hub, pieces, releases, beacons,
                  reqs, replies, messages, frames, refused, contWaits, conts, xadds, agenda, focus, curCore, curSlot,
                  nextId, freeCtr, stuck, latent, crossings } := hs

/-! The results of operations that carry a state: the state they carry has the form. -/

def Redone.MemOk : Redone → Prop
  | .done s | .again _ s | .wait s => s.MemOk

def Built.MemOk : Built → Prop
  | .ok s | .pool s | .conflict s => s.MemOk

def Attempt.MemOk : Attempt → Prop
  | .skip _ s => s.MemOk
  | .used o => OnNext State.MemOk o

def Stored.MemOk : Stored → Prop
  | .ok s | .trap _ s | .wait s | .restart _ s => s.MemOk

def Reached.MemOk : Reached → Prop
  | .table _ s => s.MemOk
  | .stop b => b.MemOk

def Pushed.MemOk : Pushed → Prop
  | .ok s => s.MemOk
  | _ => True

def Appended.MemOk : Appended → Prop
  | .ok s => s.MemOk
  | _ => True

theorem holds_of_eq {α : Type} {P : α → Prop} {x y : α} (h : P x) (e : x = y) : P y := e ▸ h

/-- The access keeps memory in its canonical form. -/
def EngM.Keeps {α : Type} (x : EngM α) : Prop := ∀ s : State, s.MemOk → OnSnd State.MemOk (x s)

theorem EngM.Keeps.pure {α : Type} {a : α} : (EngM.pure a).Keeps := fun _ hs => hs

theorem EngM.Keeps.fault {α : Type} {cause : Nat} {va : Word} : (EngM.fault cause va : EngM α).Keeps := fun _ hs => hs

theorem EngM.Keeps.look {α : Type} {f : State → Eng α} : (EngM.look f).Keeps := fun _ hs => hs

theorem EngM.Keeps.set {f : State → State} (hf : ∀ s, s.MemOk → (f s).MemOk) :
    (EngM.set f).Keeps := fun s hs => hf s hs

theorem EngM.Keeps.bind {α β : Type} {x : EngM α} {f : α → EngM β} (hx : x.Keeps) (hf : ∀ a, (f a).Keeps) :
    (x.bind f).Keeps := by
  intro s hs
  unfold EngM.bind
  split
  next e => exact hf _ _ ((hx s hs).of_eq e)
  next e => exact (hx s hs).of_eq e
  next e => exact (hx s hs).of_eq e

theorem EngM.Keeps.all {α : Type} {l : List (EngM α)} (h : ∀ x ∈ l, x.Keeps) : (EngM.all l).Keeps := by
  induction l with
  | nil => exact .pure
  | cons x r ih =>
    have hr := ih fun y hy => h y (List.mem_cons_of_mem x hy)
    exact .bind (h x List.mem_cons_self) fun _ => .bind hr fun _ => .pure

/-- A list of accesses of one form. -/
theorem EngM.Keeps.allMap {α β : Type} {l : List β} {f : β → EngM α} (h : ∀ b, (f b).Keeps) :
    (EngM.all (l.map f)).Keeps :=
  .all (List.forall_mem_map.mpr fun b _ => h b)

/-! ## The functions of the model -/

/-! ### Machine/Ops -/

theorem State.setCore_memOk {s : State} {c : Nat} {k : Core} (hs : s.MemOk) : (s.setCore c k).MemOk :=
  hs

theorem State.modCore_memOk {s : State} {c : Nat} {f : Core → Core} (hs : s.MemOk) : (s.modCore c f).MemOk :=
  State.setCore_memOk hs

theorem State.setSlot_memOk {s : State} {c n : Nat} {t : Slot} (hs : s.MemOk) : (s.setSlot c n t).MemOk :=
  State.modCore_memOk hs

theorem State.modSlot_memOk {s : State} {c n : Nat} {f : Slot → Slot} (hs : s.MemOk) : (s.modSlot c n f).MemOk :=
  State.setSlot_memOk hs

theorem State.modCur_memOk {s : State} {f : Slot → Slot} (hs : s.MemOk) : (s.modCur f).MemOk :=
  State.modSlot_memOk hs

theorem State.modCurK_memOk {s : State} {f : Core → Core} (hs : s.MemOk) : (s.modCurK f).MemOk :=
  State.modCore_memOk hs

theorem State.modHearth_memOk {s : State} {h : Nat} {f : Hearth → Hearth} (hs : s.MemOk) : (s.modHearth h f).MemOk :=
  hs

theorem State.modCluster_memOk {s : State} {c : Nat} {f : Cluster → Cluster} (hs : s.MemOk) :
    (s.modCluster c f).MemOk :=
  hs

theorem State.modDie_memOk {s : State} {d : Nat} {f : Die → Die} (hs : s.MemOk) : (s.modDie d f).MemOk :=
  hs

theorem State.modHome_memOk {s : State} {h : Nat} {f : Home → Home} (hs : s.MemOk) : (s.modHome h f).MemOk :=
  hs

theorem State.fresh_memOk {s : State} (hs : s.MemOk) : OnSnd State.MemOk s.fresh := hs

theorem State.free_memOk {s : State} (hs : s.MemOk) : OnSnd State.MemOk s.free := hs

theorem State.setW_memOk {s : State} {n : Nat} {v : Word} (hs : s.MemOk) : (s.setW n v).MemOk :=
  State.modCur_memOk hs

theorem State.setBytes_memOk {s : State} {pa : Nat} {bs : List Byte} (hs : s.MemOk) : (s.setBytes pa bs).MemOk :=
  State.setBytes_wf pa bs hs

theorem State.setMemW_memOk {s : State} {pa : Nat} {v : Word} (hs : s.MemOk) : (s.setMemW pa v).MemOk :=
  State.setBytes_memOk hs

theorem State.setPoison_memOk {s : State} {w : Nat} (hs : s.MemOk) : (s.setPoison w).MemOk := by
  unfold State.setPoison
  split <;> exact hs

theorem State.writeLS_memOk {s : State} {c off : Nat} {bs : List Byte} (hs : s.MemOk) : (s.writeLS c off bs).MemOk :=
  State.modCore_memOk (State.setBytes_memOk hs)

theorem State.trapAt_memOk {s : State} {pc : Word} {r : TrapRec} (hs : s.MemOk) : (s.trapAt pc r).MemOk :=
  State.modCur_memOk hs

theorem State.trap_memOk {s : State} {r : TrapRec} (hs : s.MemOk) : (s.trap r).MemOk :=
  State.trapAt_memOk hs

theorem State.keep_memOk {s : State} {h : Nat} {va : Word} {x : Kept} (hs : s.MemOk) : (s.keep h va x).MemOk :=
  State.modHearth_memOk hs

theorem State.unkeep_memOk {s : State} {h : Nat} {va : Word} (hs : s.MemOk) : (s.unkeep h va).MemOk := by
  unfold State.unkeep
  split
  · exact State.modHearth_memOk hs
  · exact hs

theorem State.advance_memOk {s : State} {x : Fld} (hs : s.MemOk) : (s.advance x).MemOk :=
  State.modCur_memOk hs

theorem State.jump_memOk {s : State} {l : Word} (hs : s.MemOk) : (s.jump l).MemOk :=
  State.modCur_memOk hs

theorem State.waitFor_memOk {s : State} {w : Wait} (hs : s.MemOk) : (s.waitFor w).MemOk :=
  State.modCur_memOk hs

theorem State.clearIdv_memOk {s : State} (hs : s.MemOk) : s.clearIdv.MemOk := State.modCur_memOk hs

/-! ### Machine/Translate -/

theorem State.addMiss_memOk {s : State} {m : Miss} (hs : s.MemOk) : (s.addMiss m).MemOk := by
  unfold State.addMiss
  split
  · exact State.modDie_memOk hs
  · split
    · exact hs
    · exact State.modDie_memOk hs

theorem State.dropMiss_memOk {s : State} {c who h : Nat} {va : Word} (hs : s.MemOk) :
    (s.dropMiss c who h va).MemOk := by
  unfold State.dropMiss
  split
  · exact State.modDie_memOk hs
  · exact hs

theorem State.dropMisses_memOk {s : State} {c who : Nat} (hs : s.MemOk) : (s.dropMisses c who).MemOk := by
  unfold State.dropMisses
  split
  · exact State.modDie_memOk hs
  · exact hs

theorem State.dropHearthMisses_memOk {s : State} {h : Nat} (hs : s.MemOk) : (s.dropHearthMisses h).MemOk :=
  hs

theorem State.fillTlb_memOk {s : State} {c : Nat} {t : TlbEntry} (hs : s.MemOk) : (s.fillTlb c t).MemOk :=
  State.modDie_memOk (State.modCore_memOk hs)

theorem State.startWalk_memOk {s : State} {m : Miss} (hs : s.MemOk) : (s.startWalk m).MemOk := by
  unfold State.startWalk
  split <;> exact hs

theorem State.takeAnswer_memOk {s : State} {c who h : Nat} {va : Word} (hs : s.MemOk) :
    (s.takeAnswer c who h va).MemOk := by
  unfold State.takeAnswer
  split
  · exact hs
  · exact State.dropMiss_memOk hs

theorem State.miss_memOk {s : State} {m : Miss} {priv : Nat} {k : Acc} (hs : s.MemOk) :
    OnSnd State.MemOk (s.miss m priv k) := by
  unfold State.miss
  split
  · exact hs
  · split
    · exact State.addMiss_memOk hs
    · split
      · exact State.fillTlb_memOk hs
      · split
        · exact State.addMiss_memOk (State.dropMiss_memOk hs)
        · exact State.dropMiss_memOk hs
      · exact State.startWalk_memOk (State.addMiss_memOk hs)

theorem State.translate_memOk {s : State} {c who h priv : Nat} {rc : Clock} {va : Word} {k : Acc} (hs : s.MemOk) :
    OnSnd State.MemOk (s.translate c who h priv rc va k) := by
  unfold State.translate
  split
  · exact hs
  · split
    · dsimp only
      split <;> exact hs
    · dsimp only
      split
      · exact State.takeAnswer_memOk hs
      · exact State.takeAnswer_memOk hs
      · split
        · exact State.dropMiss_memOk hs
        · split
          · exact State.modCore_memOk (State.dropMiss_memOk hs)
          · exact State.miss_memOk hs

theorem State.translateCur_memOk {s : State} {va : Word} {k : Acc} (hs : s.MemOk) :
    OnSnd State.MemOk (s.translateCur va k) :=
  State.translate_memOk hs

/-! ### Machine/Homes -/

theorem State.acquireAt_memOk {s : State} {c n : Nat} {clk : Clock} (hs : s.MemOk) : (s.acquireAt c n clk).MemOk :=
  State.modCore_memOk (State.modSlot_memOk hs)

theorem State.fireWatch_memOk {s : State} {clk : Clock} {w : Watch} (hs : s.MemOk) : (s.fireWatch clk w).MemOk := by
  unfold State.fireWatch
  split
  · exact State.modSlot_memOk (State.acquireAt_memOk hs)
  · exact State.modSlot_memOk hs
  · exact hs

theorem State.wakeHome_memOk {s : State} {pa n : Nat} (hs : s.MemOk) : (s.wakeHome pa n).MemOk := by
  unfold State.wakeHome
  dsimp only
  split
  · exact hs
  · refine foldl_keeps (State.modHome_memOk hs) (fun _ _ h1 => ?_)
    split
    · exact h1
    · exact State.fireWatch_memOk h1

theorem State.unpoison_memOk {s : State} {pa n : Nat} (hs : s.MemOk) : (s.unpoison pa n).MemOk := by
  unfold State.unpoison
  split <;> exact hs

theorem State.writeAt_memOk {s : State} {pa : Nat} {bs : List Byte} (hs : s.MemOk) : (s.writeAt pa bs).MemOk := by
  unfold State.writeAt
  split
  · exact State.writeLS_memOk hs
  · split
    · exact State.wakeHome_memOk (State.unpoison_memOk (State.setBytes_memOk hs))
    · exact State.setBytes_memOk hs

theorem State.coreWrite_memOk {s : State} {c slot off : Nat} {bs : List Byte} (hs : s.MemOk) :
    (s.coreWrite c slot off bs).MemOk := by
  unfold State.coreWrite
  split
  · exact State.modCore_memOk hs
  · exact State.writeLS_memOk hs

theorem State.asHub_memOk {s : State} (hs : s.MemOk) : s.asHub.MemOk := hs

theorem State.hwWrite_memOk {s : State} {h : Nat} {va : Word} {bs : List Byte} (hs : s.MemOk) :
    OnOk State.MemOk (s.hwWrite h va bs) := by
  unfold State.hwWrite
  split
  · exact .error
  · split
    · exact .error
    · exact .ok (State.writeAt_memOk hs)

theorem State.hwWords_memOk {s : State} {h : Nat} {va : Word} {l : List Word} (hs : s.MemOk) :
    OnOk State.MemOk (s.hwWords h va l) := by
  induction l generalizing s h va with
  | nil => exact .ok hs
  | cons a r ih =>
    unfold State.hwWords
    split
    · exact .error
    next e1 => exact ih ((State.hwWrite_memOk hs).of_eq e1)

theorem State.hwPut_memOk {s : State} {h : Nat} {va : Word} {l : List Word} (hs : s.MemOk) :
    OnSnd State.MemOk (s.hwPut h va l) := by
  induction l generalizing s h va with
  | nil => exact hs
  | cons a r ih =>
    unfold State.hwPut
    split
    · exact hs
    next e1 => exact ih ((State.hwWrite_memOk hs).of_eq e1)

/-- `unfold`, or a `split` on a read, would have the kernel evaluate the hardware accesses of the body: the definition is
unfolded in place, and `hwWords` stands as an opaque function. -/
theorem State.ringWrite_memOk {s : State} {r : Record} (hs : s.MemOk) :
    OnSnd (OnSnd State.MemOk) (s.ringWrite r) := by
  conv => arg 2; fun; fun; delta State.ringWrite
  have hw := @State.hwWords_memOk
  obtain ⟨W, eW⟩ := exists_eq' (a' := State.hwWords)
  rw [eW] at hw ⊢
  extract_lets ring
  split
  · exact hs
  · extract_lets wr rd lost seq at_
    split
    · exact hs
    next e =>
      have h1 := (hw hs).of_eq e
      split
      · split
        · exact h1
        next e => exact (hw h1).of_eq e
      · split
        · exact h1
        next e =>
          have h2 := (hw h1).of_eq e
          split
          · exact h2
          next e => exact (hw h2).of_eq e

theorem State.setJournal_memOk {s : State} {h : Nat} {seq : Word} {e : BitVec 256} (hs : s.MemOk) :
    (s.setJournal h seq e).MemOk :=
  State.modHearth_memOk hs

theorem State.errorJournal_memOk {s : State} {h cause : Nat} (hs : s.MemOk) : (s.errorJournal h cause).MemOk :=
  State.setJournal_memOk (State.modHearth_memOk hs)

/-- Unfolded in place, so that the kernel does not evaluate `ringWrite`. -/
theorem State.report_memOk {s : State} {r : Record} (hs : s.MemOk) : (s.report r).MemOk := by
  conv => arg 1; fun; fun; delta State.report
  split
  next e =>
    have h0 := ((State.ringWrite_memOk hs).of_eq e).of_eq rfl
    extract_lets s1 ras s2 s3
    have h1 : s1.MemOk := by
      change State.MemOk (if _ then _ else _)
      split
      · exact h0
      · split
        · exact h0
        · exact State.memOk_update h0
    have h2 : s2.MemOk := by
      change State.MemOk (if _ then _ else _)
      split
      · exact State.memOk_update h1
      · exact h1
    have h3 : s3.MemOk := by
      change State.MemOk (if _ then _ else _)
      split
      · exact State.errorJournal_memOk h2
      · exact h2
    clear_value s3
    split
    · exact State.modCore_memOk h3
    · exact h3

theorem State.lineFixed_memOk {s : State} {r : Record} {line errors erasures : Nat} {syms : List Nat} (hs : s.MemOk) :
    (s.lineFixed r line errors erasures syms).MemOk := by
  unfold State.lineFixed
  dsimp only
  split
  · split
    · exact State.free_memOk (State.modHome_memOk hs)
    · exact State.report_memOk (State.modHome_memOk (State.free_memOk (State.modHome_memOk hs)))
  · split
    · exact State.modHome_memOk hs
    · exact State.report_memOk (State.modHome_memOk (State.modHome_memOk hs))

theorem State.readLine_memOk {s : State} {r : Record} {line : Nat} (hs : s.MemOk) : (s.readLine r line).MemOk := by
  unfold State.readLine
  split
  · exact hs
  · dsimp only
    split
    · exact hs
    · split
      · exact State.lineFixed_memOk hs
      · split
        · exact State.lineFixed_memOk (foldl_keeps (State.free_memOk hs) (fun _ _ h1 => State.setMemW_memOk
            (State.free_memOk h1)))
        · exact State.report_memOk (State.modHome_memOk (foldl_keeps (State.free_memOk hs) (fun _ _ =>
            State.setPoison_memOk)))

theorem State.readLines_memOk {s : State} {r : Record} {pa n : Nat} (hs : s.MemOk) : (s.readLines r pa n).MemOk := by
  unfold State.readLines
  split
  · exact hs
  · exact foldl_keeps hs (fun _ _ => State.readLine_memOk)

/-! ### Machine/Experience -/

theorem State.snapSlot_memOk {s : State} {h pa : Nat} (hs : s.MemOk) : (s.snapSlot h pa).MemOk := by
  unfold State.snapSlot
  dsimp only
  split
  · exact State.modHearth_memOk hs
  · exact hs

theorem State.sendEntry_memOk {s : State} {c : Nat} {e : XEntry} (hs : s.MemOk) :
    OnFst State.MemOk (s.sendEntry c e) := by
  unfold State.sendEntry
  split
  · exact hs
  · split <;> exact hs

theorem State.evictEntries_memOk {s : State} {c : Nat} (hs : s.MemOk) : (s.evictEntries c).MemOk :=
  State.modCore_memOk (foldl_keeps hs (fun _ _ => State.sendEntry_memOk))

theorem State.putEntry_memOk {s : State} {c : Nat} {e : XEntry} (hs : s.MemOk) : (s.putEntry c e).MemOk :=
  State.evictEntries_memOk (State.modCore_memOk hs)

theorem State.updateEntry_memOk {s : State} {c : Nat} {e : XEntry} {kind : Nat} {f : XEntry → XEntry} (hs : s.MemOk) :
    (s.updateEntry c e kind f).MemOk := by
  unfold State.updateEntry
  dsimp only
  split
  · exact hs
  · split
    · split
      · exact State.putEntry_memOk (State.sendEntry_memOk (State.sendEntry_memOk hs))
      · exact State.putEntry_memOk (State.sendEntry_memOk hs)
    · split
      · exact State.putEntry_memOk (State.sendEntry_memOk hs)
      · exact State.putEntry_memOk hs

theorem State.siteUpdate_memOk {s : State} {xs kind : Nat} {f : XEntry → XEntry} (hs : s.MemOk) :
    (s.siteUpdate xs kind f).MemOk := by
  unfold State.siteUpdate
  dsimp only
  split
  · exact hs
  · split
    next e1 => exact (State.translateCur_memOk hs).of_eq e1
    next e1 => exact State.updateEntry_memOk ((State.translateCur_memOk hs).of_eq e1)
    next e1 =>
      split
      · exact State.updateEntry_memOk ((State.translateCur_memOk hs).of_eq e1)
      · exact (State.translateCur_memOk hs).of_eq e1

theorem State.branchUpdate_memOk {s : State} {xs : Nat} {taken : Bool} (hs : s.MemOk) :
    (s.branchUpdate xs taken).MemOk :=
  State.siteUpdate_memOk hs

theorem State.loopEnd_memOk {s : State} {xs n : Nat} (hs : s.MemOk) : (s.loopEnd xs n).MemOk :=
  State.siteUpdate_memOk hs

theorem State.loadUpdate_memOk {s : State} {xs : Nat} (hs : s.MemOk) : (s.loadUpdate xs).MemOk :=
  State.siteUpdate_memOk hs

theorem State.loadWaited_memOk {s : State} {c n priv xs : Nat} (hs : s.MemOk) : (s.loadWaited c n priv xs).MemOk := by
  unfold State.loadWaited
  dsimp only
  split
  · exact hs
  · split
    · exact State.updateEntry_memOk hs
    · exact hs

theorem State.sendEntries_memOk {s : State} {c : Nat} {p : XEntry → Bool} {keep : Bool} (hs : s.MemOk) :
    (s.sendEntries c p keep).MemOk := by
  unfold State.sendEntries
  refine List.foldrRecOn _ _ hs fun t ht e _ => ?_
  split
  · exact State.modCore_memOk (State.sendEntry_memOk ht)
  · exact ht

theorem State.sendTask_memOk {s : State} {c n : Nat} (hs : s.MemOk) : (s.sendTask c n).MemOk := by
  unfold State.sendTask
  dsimp only
  split
  · exact State.sendEntries_memOk hs
  · exact hs

theorem State.dropPhaseEntries_memOk {s : State} {h p : Nat} (hs : s.MemOk) : (s.dropPhaseEntries h p).MemOk :=
  hs

theorem State.flushSection_memOk {s : State} {h : Nat} (hs : s.MemOk) : (s.flushSection h).MemOk := by
  unfold State.flushSection
  refine foldl_keeps hs (fun _ _ h1 => ?_)
  split
  · exact State.sendEntries_memOk h1
  · exact h1

/-! ### Machine/Flags -/

theorem State.discardedWaits_memOk {s : State} {c n : Nat} (hs : s.MemOk) : (s.discardedWaits c n).MemOk := by
  unfold State.discardedWaits
  refine foldl_keeps (P := OnFst State.MemOk) hs (fun _ _ h1 => ?_)
  split
  · exact h1
  · exact State.loadWaited_memOk h1

theorem State.restartRegion_memOk {s : State} {cause : Nat} {addr : Word} (hs : s.MemOk) :
    (s.restartRegion cause addr).MemOk := by
  unfold State.restartRegion
  dsimp only
  split
  · exact State.trap_memOk (State.clearIdv_memOk hs)
  · exact State.modCur_memOk (State.memOk_update (State.modCore_memOk (State.discardedWaits_memOk (State.report_memOk
      hs))))

theorem State.regionRestart_memOk {s : State} {addr : Word} (hs : s.MemOk) : (s.regionRestart addr).MemOk :=
  State.restartRegion_memOk hs

theorem State.consumePoison_memOk {s : State} {addr : Word} (hs : s.MemOk) : (s.consumePoison addr).MemOk := by
  unfold State.consumePoison
  split
  · exact State.regionRestart_memOk hs
  · exact State.trap_memOk hs

theorem State.fetchFault_memOk {s : State} {cause : Nat} {addr : Word} (hs : s.MemOk) :
    (s.fetchFault cause addr).MemOk := by
  unfold State.fetchFault
  split
  · exact State.consumePoison_memOk hs
  · exact State.trap_memOk hs

theorem State.consume_memOk {s : State} {d : Deferred} (hs : s.MemOk) : (s.consume d).MemOk := by
  unfold State.consume
  dsimp only
  split
  · exact State.consumePoison_memOk (State.modCur_memOk hs)
  · exact State.trap_memOk (State.modCur_memOk hs)

theorem State.consumeMark_memOk {s : State} {m : Mark} (hs : s.MemOk) : (s.consumeMark m).MemOk := by
  unfold State.consumeMark
  split
  · exact State.consume_memOk hs
  · dsimp only
    split
    · exact State.consumePoison_memOk (State.modCur_memOk hs)
    · exact State.trap_memOk (State.modCur_memOk hs)

theorem State.boundary_memOk {s : State} {c n : Nat} (hs : s.MemOk) : OnSome State.MemOk (s.boundary c n) := by
  unfold State.boundary
  dsimp only
  split
  · exact .none
  · split
    · exact .some (State.trap_memOk (State.modCur_memOk (State.dropMisses_memOk hs)))
    · split
      · exact .map_of_forall fun _ => State.trap_memOk (State.modCur_memOk hs)
      · split
        · exact .map_of_forall fun _ => State.consume_memOk hs
        · exact .none

theorem gate_memOk {i : Instr} {chk : State → Option TrapRec} {k : State → State} {s : State}
    (hk : ∀ s, s.MemOk → (k s).MemOk) (hs : s.MemOk) : OnNext State.MemOk (gate i chk k s) := by
  unfold gate
  split
  · exact .next (State.trap_memOk hs)
  · split
    · exact .next (State.consumeMark_memOk hs)
    · split
      · exact .next (State.trap_memOk hs)
      · exact .next (hk _ hs)

theorem State.result_memOk {s : State} {f : Fld} {n : Nat} {v : Word} (hs : s.MemOk) : (s.result f n v).MemOk :=
  State.advance_memOk (State.setW_memOk hs)

/-! ### Machine/Fetch -/

theorem State.fetchBlock_memOk {s : State} {c n h priv : Nat} {rc : Clock} {va : Word} (hs : s.MemOk) :
    OnSnd State.MemOk (s.fetchBlock c n h priv rc va) := by
  unfold State.fetchBlock
  split
  next e1 => exact (State.translate_memOk hs).of_eq e1
  next e1 => exact (State.translate_memOk hs).of_eq e1
  next e1 =>
    dsimp only
    split
    · exact (State.translate_memOk hs).of_eq e1
    · split
      · exact State.modCore_memOk (State.readLines_memOk ((State.translate_memOk hs).of_eq e1))
      · exact State.readLines_memOk ((State.translate_memOk hs).of_eq e1)

theorem State.fetchFrom_memOk {s : State} {c n h priv : Nat} {rc : Clock} {pc : Word} {ps : List Parcel} {l : Nat}
    (hs : s.MemOk) : OnSnd State.MemOk (s.fetchFrom c n h priv rc pc ps l) := by
  induction l generalizing s c n h priv rc pc ps with
  | zero => exact hs
  | succ n ih =>
    unfold State.fetchFrom
    dsimp only
    split
    next e1 => exact (State.fetchBlock_memOk hs).of_eq e1
    next e1 => exact (State.fetchBlock_memOk hs).of_eq e1
    next e1 =>
      split
      · exact (State.fetchBlock_memOk hs).of_eq e1
      · exact (State.fetchBlock_memOk hs).of_eq e1
      · exact ih ((State.fetchBlock_memOk hs).of_eq e1)

theorem State.fetch_memOk {s : State} {c n h priv : Nat} {rc : Clock} {pc : Word} (hs : s.MemOk) :
    OnSnd State.MemOk (s.fetch c n h priv rc pc) :=
  State.fetchFrom_memOk hs

theorem State.fetchSlot_memOk {s : State} {c n : Nat} (hs : s.MemOk) : OnSnd State.MemOk (s.fetchSlot c n) :=
  State.fetch_memOk hs

/-! ### Machine/Branch -/

theorem condBranch_memOk {i : Instr} {f : Fld} {cond : State → Bool} {s : State} (hs : s.MemOk) :
    OnNext State.MemOk (condBranch i f cond s) := by
  unfold condBranch
  refine gate_memOk (fun _ h1 => ?_) hs
  dsimp only
  split
  · refine State.branchUpdate_memOk ?_
    split
    · exact State.jump_memOk h1
    · exact State.advance_memOk h1
  · split
    · exact State.jump_memOk h1
    · exact State.advance_memOk h1

theorem condRR_memOk {i : Instr} {f : Fld} {cond : (n : Nat) → BitVec n → BitVec n → Bool} {s : State}
    (hs : s.MemOk) : OnNext State.MemOk (condRR i f cond s) :=
  condBranch_memOk hs

theorem freeUpper_memOk {s : State} {l : Nat} (hs : s.MemOk) : (freeUpper s l).MemOk := by
  induction l generalizing s with
  | zero => exact hs
  | succ n ih =>
    unfold freeUpper
    exact ih (State.modCur_memOk (State.free_memOk hs))

theorem State.callTo_memOk {s : State} {f : Fld} {l : Word} (hs : s.MemOk) : (s.callTo f l).MemOk := by
  unfold State.callTo
  split
  · exact State.trap_memOk hs
  · dsimp only
    exact State.jump_memOk (State.setW_memOk (freeUpper_memOk (State.modCur_memOk hs)))

theorem execIcall_memOk {x : RR} {s : State} (hs : s.MemOk) : OnNext State.MemOk (execIcall x s) := by
  unfold execIcall
  dsimp only
  refine gate_memOk (fun _ h1 => ?_) hs
  split
  next e1 => exact State.callTo_memOk ((State.fetch_memOk h1).of_eq e1)
  next e1 => exact State.fetchFault_memOk ((State.fetch_memOk h1).of_eq e1)
  next e1 => exact State.waitFor_memOk ((State.fetch_memOk h1).of_eq e1)
  next e1 => exact State.trap_memOk ((State.fetch_memOk h1).of_eq e1)

theorem execLoops_memOk {x : RI} {s : State} (hs : s.MemOk) : OnNext State.MemOk (execLoops x s) := by
  unfold execLoops
  refine gate_memOk (fun _ h1 => ?_) hs
  dsimp only
  split
  · exact State.result_memOk h1
  · split
    · exact State.loopEnd_memOk (State.jump_memOk h1)
    · exact State.jump_memOk h1

theorem State.frameTrap_memOk {s : State} {r : TrapRec} (hs : s.MemOk) : (s.frameTrap r).MemOk := by
  unfold State.frameTrap
  dsimp only
  split
  · exact State.modCur_memOk (State.trap_memOk hs)
  · exact State.trap_memOk hs

theorem State.putFrame_memOk {s : State} {frame : Nat} {ws : List Word} (hs : s.MemOk) :
    (s.putFrame frame ws).MemOk :=
  State.coreWrite_memOk hs

theorem State.rouseOwner_memOk {s : State} {frame : Nat} (hs : s.MemOk) : (s.rouseOwner frame).MemOk := by
  unfold State.rouseOwner
  dsimp only
  split
  · exact hs
  · exact State.modCore_memOk hs

theorem execSpillw_memOk {x : Z9} {s : State} (hs : s.MemOk) : OnNext State.MemOk (execSpillw x s) := by
  unfold execSpillw
  refine gate_memOk (fun _ h1 => ?_) hs
  dsimp only
  split
  · exact State.frameTrap_memOk h1
  · split
    · exact State.waitFor_memOk h1
    · exact State.advance_memOk (State.modCur_memOk (State.putFrame_memOk h1))

theorem execFillw_memOk {x : Z9} {s : State} (hs : s.MemOk) : OnNext State.MemOk (execFillw x s) := by
  unfold execFillw
  refine gate_memOk (fun _ h1 => ?_) hs
  dsimp only
  split
  · exact State.frameTrap_memOk h1
  · split
    · exact State.waitFor_memOk h1
    · exact State.advance_memOk (State.modCur_memOk (State.rouseOwner_memOk h1))

/-! ### Machine/Hub -/

theorem State.setPlimit_memOk {s : State} {v : Word} (hs : s.MemOk) : (s.setPlimit v).MemOk := by
  unfold State.setPlimit
  split
  · dsimp only
    exact hs
  · exact hs

theorem State.modBoot_memOk {s : State} {c : Nat} {f : BootBlock → BootBlock} (hs : s.MemOk) :
    (s.modBoot c f).MemOk :=
  hs

theorem State.setBctl_memOk {s : State} {c : Nat} {v : Word} (hs : s.MemOk) : (s.setBctl c v).MemOk := by
  unfold State.setBctl
  split
  · exact hs
  · split <;> exact State.modCore_memOk (State.modBoot_memOk hs)

theorem State.setBstat_memOk {s : State} {c : Nat} {v : Word} (hs : s.MemOk) : (s.setBstat c v).MemOk :=
  State.modBoot_memOk hs

theorem State.setLsrep_memOk {s : State} {c n : Nat} {v : Word} (hs : s.MemOk) : (s.setLsrep c n v).MemOk :=
  State.modBoot_memOk hs

theorem State.setReduction_memOk {s : State} {h j : Nat} {x : Reduction} (hs : s.MemOk) :
    (s.setReduction h j x).MemOk :=
  State.modHearth_memOk hs

theorem State.endRound_memOk {s : State} {h j : Nat} {last : Option Nat} (hs : s.MemOk) :
    (s.endRound h j last).MemOk := by
  unfold State.endRound
  dsimp only
  split
  · exact hs
  · split
    · exact State.setReduction_memOk hs
    · exact State.setReduction_memOk (State.memOk_update (State.free_memOk (State.free_memOk hs)))

theorem State.contribute_memOk {s : State} {h j pkg : Nat} {v : Word} (hs : s.MemOk) :
    (s.contribute h j pkg v).MemOk := by
  unfold State.contribute
  dsimp only
  split
  · exact State.setReduction_memOk hs
  · exact State.endRound_memOk (State.setReduction_memOk hs)

theorem State.setRedCtl_memOk {s : State} {h j : Nat} {v : Word} (hs : s.MemOk) : (s.setRedCtl h j v).MemOk := by
  unfold State.setRedCtl
  dsimp only
  split
  · exact hs
  · split <;> exact State.setReduction_memOk hs

theorem State.clearRedGen_memOk {s : State} {h j : Nat} {v : Word} (hs : s.MemOk) : (s.clearRedGen h j v).MemOk := by
  unfold State.clearRedGen
  dsimp only
  split
  · exact State.setReduction_memOk hs
  · exact hs

theorem State.setReductionReg_memOk {s : State} {h j r : Nat} {v : Word} {pod : Bool} (hs : s.MemOk) :
    (s.setReductionReg h j r v pod).MemOk := by
  unfold State.setReductionReg
  dsimp only
  split
  · exact State.setRedCtl_memOk hs
  · split
    · exact State.contribute_memOk (State.setReduction_memOk hs)
    · exact State.setReduction_memOk hs
  · exact State.clearRedGen_memOk hs
  · split
    · exact hs
    · exact State.endRound_memOk (State.setReduction_memOk hs)
  · exact hs

theorem State.hubWrite_memOk {s : State} {r : HubReg} {v : Word} {pod : Bool} (hs : s.MemOk) :
    (s.hubWrite r v pod).MemOk := by
  unfold State.hubWrite
  split
  · exact State.setPlimit_memOk hs
  · exact State.modHearth_memOk hs
  · exact State.modHearth_memOk hs
  · exact State.modHearth_memOk hs
  · exact State.setReductionReg_memOk hs
  · exact State.setBctl_memOk hs
  · exact State.setBstat_memOk hs
  · exact State.setLsrep_memOk hs
  · exact hs

theorem State.hubSetBytes_memOk {s : State} {pa : Nat} {bs : List Byte} {pod : Bool} (hs : s.MemOk) :
    (s.hubSetBytes pa bs pod).MemOk := by
  unfold State.hubSetBytes
  split
  · dsimp only
    exact State.hubWrite_memOk hs
  · exact hs

theorem State.unitWrite_memOk {s : State} {pa : Nat} {bs : List Byte} {pod : Bool} (hs : s.MemOk) :
    (s.unitWrite pa bs pod).MemOk := by
  unfold State.unitWrite
  split
  · exact State.writeAt_memOk hs
  · split
    · exact State.hubSetBytes_memOk hs
    · exact hs

/-! ### Machine/Det -/

theorem State.failPhase_memOk {s : State} {h unit : Nat} {r : Record} (hs : s.MemOk) :
    (s.failPhase h unit r).MemOk := by
  unfold State.failPhase
  dsimp only
  split
  · exact State.modHearth_memOk hs
  · exact State.report_memOk (State.modHearth_memOk (State.modHearth_memOk hs))

theorem State.dupTask_memOk {s : State} {h : Nat} {id : Word} (hs : s.MemOk) : (s.dupTask h id).MemOk := by
  unfold State.dupTask
  dsimp only
  split
  · exact State.failPhase_memOk hs
  · split
    · exact hs
    · exact State.report_memOk (State.modHearth_memOk hs)

theorem State.mergeFail_memOk {s : State} {h : Nat} {cs : List (Nat × Word × Word)} (hs : s.MemOk) :
    (s.mergeFail h cs).MemOk := by
  unfold State.mergeFail
  split
  · exact hs
  · split
    · split
      · exact State.failPhase_memOk hs

theorem State.checkMerge_memOk {s : State} {h : Nat} {t : Word} {pas : List Nat} {atomic : Bool} (hs : s.MemOk) :
    (s.checkMerge h t pas atomic).MemOk :=
  State.mergeFail_memOk hs

theorem State.deferPiece_memOk {s : State} {p : Piece} {es : List LogEntry} (hs : s.MemOk) :
    (s.deferPiece p es).MemOk :=
  State.modHearth_memOk (State.mergeFail_memOk hs)

theorem State.applyInts_memOk {s : State} {us : List DetUpd} (hs : s.MemOk) : (s.applyInts us).MemOk :=
  foldl_keeps hs (fun _ _ h1 => foldl_keeps h1 (fun _ _ h2 => foldl_keeps h2 (fun _ _ => State.writeAt_memOk)))

theorem State.applyFloats_memOk {s : State} {us : List DetUpd} (hs : s.MemOk) : (s.applyFloats us).MemOk :=
  foldl_keeps hs (fun _ _ => State.writeAt_memOk)

theorem State.holdUpdate_memOk {s : State} {h : Nat} {u : DetUpd} (hs : s.MemOk) :
    OnSome State.MemOk (s.holdUpdate h u) := by
  unfold State.holdUpdate
  dsimp only
  split
  · exact .some (State.modHome_memOk hs)
  · split
    · exact .some (State.failPhase_memOk hs)
    · split
      · split
        · exact .none
        · exact .some (State.failPhase_memOk hs)
      next e1 =>
        split
        · split
          · exact .none
          · exact .some (State.failPhase_memOk hs)
        next e2 =>
          refine .some (State.modHome_memOk (OnOk.of_eq (State.hwWords_memOk (OnOk.of_eq (State.hwWords_memOk ?_)
              e1)) e2))
          split
          · exact State.free_memOk (State.free_memOk (State.asHub_memOk hs))
          · exact State.asHub_memOk hs

/-! ### Machine/Log -/

theorem State.ringSet_memOk {s : State} {c pos : Nat} {w0 w1 : Word} (hs : s.MemOk) :
    (s.ringSet c pos w0 w1).MemOk := by
  unfold State.ringSet
  dsimp only
  split
  · exact hs
  · exact State.setBytes_memOk hs

theorem State.ringEntry_memOk {s : State} {c : Nat} {e : LogEntry} (hs : s.MemOk) : (s.ringEntry c e).MemOk :=
  State.ringSet_memOk hs

theorem State.closeLog_memOk {s : State} {c : Nat} {x : Closing} (hs : s.MemOk) : (s.closeLog c x).MemOk :=
  State.modCore_memOk (State.ringSet_memOk hs)

theorem State.switchHearth_memOk {s : State} {c h : Nat} (hs : s.MemOk) : (s.switchHearth c h).MemOk := by
  unfold State.switchHearth
  dsimp only
  split
  · exact hs
  · refine State.modCore_memOk ?_
    split
    · exact hs
    · exact State.closeLog_memOk hs

theorem State.release_memOk {s : State} {c n sc : Nat} {follow : List Nat} (hs : s.MemOk) :
    (s.release c n sc follow).MemOk := by
  unfold State.release
  exact State.modSlot_memOk (State.closeLog_memOk (State.switchHearth_memOk hs))

theorem State.implicitRelease_memOk {s : State} {c n : Nat} {follow : List Nat} (hs : s.MemOk) :
    (s.implicitRelease c n follow).MemOk := by
  unfold State.implicitRelease
  exact State.modSlot_memOk (State.closeLog_memOk (State.switchHearth_memOk hs))

theorem State.exhausted_memOk {s : State} {c n : Nat} {addr : Word} {faulted : Bool} (hs : s.MemOk) :
    (s.exhausted c n addr faulted).MemOk :=
  State.report_memOk (State.modCore_memOk (State.closeLog_memOk hs))

theorem State.spillEntry_memOk {s : State} {c n : Nat} (hs : s.MemOk) : (s.spillEntry c n).MemOk := by
  unfold State.spillEntry
  dsimp only
  split
  · exact hs
  · split
    · exact State.exhausted_memOk hs
    · split
      · split
        · exact hs
        · exact State.exhausted_memOk hs
      next e1 => exact State.modCore_memOk ((State.hwWords_memOk hs).of_eq e1)

theorem State.makeRoomAt_memOk {s : State} {c n : Nat} (hs : s.MemOk) : (s.makeRoomAt c n).MemOk := by
  unfold State.makeRoomAt
  dsimp only
  split
  · exact hs
  · exact State.spillEntry_memOk hs

theorem State.logStore_memOk {s : State} {c n pa : Nat} {bs : List Byte} {kind : Nat} (hs : s.MemOk) :
    OnSnd State.MemOk (s.logStore c n pa bs kind) := by
  unfold State.logStore
  dsimp only
  split
  · exact State.switchHearth_memOk hs
  · split
    · split
      · split
        · exact State.ringEntry_memOk (State.modCore_memOk (State.switchHearth_memOk hs))
        · split
          · exact State.ringEntry_memOk (State.modCore_memOk (State.switchHearth_memOk hs))
          · exact State.spillEntry_memOk (State.switchHearth_memOk hs)
      · exact State.switchHearth_memOk hs
    · split
      · exact State.ringEntry_memOk (State.modCore_memOk (State.switchHearth_memOk hs))
      · exact State.spillEntry_memOk (State.switchHearth_memOk hs)

theorem State.stamp_memOk {s : State} {d : Nat} {rc : Clock} (hs : s.MemOk) : OnSnd State.MemOk (s.stamp d rc) :=
  State.modDie_memOk hs

theorem State.publish_memOk {s : State} {c h tail : Nat} {v : Clock} (hs : s.MemOk) : (s.publish c h tail v).MemOk :=
  State.modCore_memOk hs

theorem State.completeRelease_memOk {s : State} {r : Release} (hs : s.MemOk) : (s.completeRelease r).MemOk := by
  unfold State.completeRelease
  dsimp only
  split
  · split
    · refine State.modSlot_memOk ?_
      split
      · refine State.publish_memOk ?_
        split
        · exact hs
        · exact State.modCore_memOk hs
      · split
        · exact hs
        · exact State.modCore_memOk hs
    · split
      · refine State.publish_memOk ?_
        split
        · exact hs
        · exact State.modCore_memOk hs
      · split
        · exact hs
        · exact State.modCore_memOk hs
  · split
    · refine State.publish_memOk ?_
      split
      · exact hs
      · exact State.modCore_memOk hs
    · split
      · exact hs
      · exact State.modCore_memOk hs

theorem State.ship_memOk {s : State} {r : Release} {pod : Bool} {es : List LogEntry} (hs : s.MemOk) :
    (s.ship r pod es).MemOk := by
  unfold State.ship
  dsimp only
  split
  · exact State.completeRelease_memOk (foldl_keeps hs (fun _ _ h1 => State.memOk_update (State.fresh_memOk h1)))
  · exact foldl_keeps hs (fun _ _ h1 => State.memOk_update (State.fresh_memOk h1))

theorem State.cuWriteback_memOk {s : State} {cl w : Nat} (hs : s.MemOk) : (s.cuWriteback cl w).MemOk := by
  unfold State.cuWriteback
  split
  · exact hs
  · dsimp only
    exact State.ship_memOk (State.fresh_memOk (State.stamp_memOk (State.modCluster_memOk hs)))

theorem State.stampRelease_memOk {s : State} {c : Nat} (hs : s.MemOk) : (s.stampRelease c).MemOk := by
  unfold State.stampRelease
  split
  · exact hs
  · dsimp only
    refine State.ship_memOk (State.memOk_update ?_)
    split
    · refine State.modCore_memOk ?_
      split
      · refine State.modSlot_memOk ?_
        split
        · refine State.publish_memOk (State.modCore_memOk (State.fresh_memOk (State.stamp_memOk ?_)))
          split
          · exact foldl_keeps hs (fun _ _ => State.cuWriteback_memOk)
          · exact hs
        · refine State.modCore_memOk (State.fresh_memOk (State.stamp_memOk ?_))
          split
          · exact foldl_keeps hs (fun _ _ => State.cuWriteback_memOk)
          · exact hs
      · split
        · refine State.publish_memOk (State.modCore_memOk (State.fresh_memOk (State.stamp_memOk ?_)))
          split
          · exact foldl_keeps hs (fun _ _ => State.cuWriteback_memOk)
          · exact hs
        · refine State.modCore_memOk (State.fresh_memOk (State.stamp_memOk ?_))
          split
          · exact foldl_keeps hs (fun _ _ => State.cuWriteback_memOk)
          · exact hs
    · split
      · refine State.modSlot_memOk ?_
        split
        · refine State.publish_memOk (State.modCore_memOk (State.fresh_memOk (State.stamp_memOk ?_)))
          split
          · exact foldl_keeps hs (fun _ _ => State.cuWriteback_memOk)
          · exact hs
        · refine State.modCore_memOk (State.fresh_memOk (State.stamp_memOk ?_))
          split
          · exact foldl_keeps hs (fun _ _ => State.cuWriteback_memOk)
          · exact hs
      · split
        · refine State.publish_memOk (State.modCore_memOk (State.fresh_memOk (State.stamp_memOk ?_)))
          split
          · exact foldl_keeps hs (fun _ _ => State.cuWriteback_memOk)
          · exact hs
        · refine State.modCore_memOk (State.fresh_memOk (State.stamp_memOk ?_))
          split
          · exact foldl_keeps hs (fun _ _ => State.cuWriteback_memOk)
          · exact hs

theorem State.applyEntry_memOk {s : State} {h : Nat} {pod : Bool} {e : LogEntry} (hs : s.MemOk) :
    (s.applyEntry h pod e).MemOk := by
  unfold State.applyEntry
  split
  · split
    · exact hs
    · split
      · exact hs
      · exact State.hubSetBytes_memOk hs
  · split
    · exact State.writeAt_memOk hs
    · exact foldl_keeps (State.readLines_memOk hs) (fun _ _ => State.writeAt_memOk)

theorem State.applyPiece_memOk {s : State} {p : Piece} (hs : s.MemOk) : (s.applyPiece p).MemOk := by
  unfold State.applyPiece
  dsimp only
  split
  · exact foldl_keeps hs (fun _ _ => State.applyEntry_memOk)
  · exact foldl_keeps (State.deferPiece_memOk hs) (fun _ _ => State.applyEntry_memOk)

theorem State.ackPiece_memOk {s : State} {p : Piece} (hs : s.MemOk) : (s.ackPiece p).MemOk := by
  unfold State.ackPiece
  dsimp only
  split
  · split
    · exact hs
    · split
      · exact State.completeRelease_memOk hs
      · exact hs
  · split
    · exact State.memOk_update (State.modCore_memOk hs)
    · split
      · exact State.completeRelease_memOk (State.memOk_update (State.modCore_memOk hs))
      · exact State.memOk_update (State.modCore_memOk hs)

theorem State.hearAll_memOk {s : State} {hm : Nat} (hs : s.MemOk) : (s.hearAll hm).MemOk := by
  unfold State.hearAll
  split
  · exact hs
  · exact State.modHome_memOk hs

theorem State.settle_memOk {s : State} (hs : s.MemOk) : s.settle.MemOk := by
  unfold State.settle
  refine foldl_keeps (foldl_keeps (foldl_keeps hs (fun _ _ h1 => ?_)) (fun _ _ => State.hearAll_memOk)) (fun _ _ =>
      State.ackPiece_memOk)
  split
  · exact h1
  · exact State.applyPiece_memOk h1

theorem State.drainN_memOk {s : State} {c l : Nat} (hs : s.MemOk) : (s.drainN c l).MemOk := by
  induction l generalizing s c with
  | zero => exact hs
  | succ n ih =>
    unfold State.drainN
    split
    · exact ih (State.settle_memOk (State.stampRelease_memOk hs))
    · exact hs

theorem State.drain_memOk {s : State} {c hm : Nat} (hs : s.MemOk) : (s.drain c hm).MemOk :=
  State.hearAll_memOk (State.drainN_memOk (State.settle_memOk hs))

/-! ### Machine/Migrate -/

theorem State.orphan_memOk {s : State} {c n : Nat} (hs : s.MemOk) : (s.orphan c n).MemOk := hs

theorem State.freeSlot_memOk {s : State} {c n : Nat} (hs : s.MemOk) : (s.freeSlot c n).MemOk :=
  State.setSlot_memOk (State.dropMisses_memOk (State.orphan_memOk hs))

theorem State.spillFrom_memOk {s : State} {i l : Nat} (hs : s.MemOk) : OnSnd State.MemOk (s.spillFrom i l) := by
  induction l generalizing s i with
  | zero => exact hs
  | succ n ih =>
    unfold State.spillFrom
    dsimp only
    split
    · exact hs
    · split
      · exact hs
      · exact ih (State.putFrame_memOk hs)

theorem State.spillAll_memOk {s : State} (hs : s.MemOk) : OnSnd State.MemOk s.spillAll := by
  unfold State.spillAll
  split
  next e1 => exact State.modCur_memOk ((State.spillFrom_memOk hs).of_eq e1)
  · exact State.spillFrom_memOk hs

theorem State.migrate_memOk {s : State} {target : Nat} (hs : s.MemOk) : (s.migrate target).MemOk := by
  unfold State.migrate
  dsimp only
  split
  · exact State.consume_memOk hs
  · split
    · exact State.waitFor_memOk hs
    · split
      next e1 => exact State.trap_memOk ((State.spillAll_memOk (State.release_memOk hs)).of_eq e1)
      next e1 => exact State.waitFor_memOk ((State.spillAll_memOk (State.release_memOk hs)).of_eq e1)
      next e1 =>
        exact State.freeSlot_memOk (State.memOk_update (State.fresh_memOk (State.sendTask_memOk
            ((State.spillAll_memOk (State.release_memOk hs)).of_eq e1))))

theorem State.leave_memOk {s : State} {c n : Nat} (hs : s.MemOk) : (s.leave c n).MemOk := by
  unfold State.leave
  exact State.modCore_memOk (State.drainN_memOk (State.settle_memOk (State.release_memOk (State.sendTask_memOk hs))))

/-! ### Machine/Access -/

theorem State.finish_memOk {s : State} {f : Fld} (hs : s.MemOk) : (s.finish f).MemOk := by
  unfold State.finish
  dsimp only
  split
  · exact State.waitFor_memOk (State.advance_memOk hs)
  · exact State.waitFor_memOk (State.advance_memOk hs)
  · exact State.waitFor_memOk (State.advance_memOk hs)
  · exact State.advance_memOk hs

theorem State.withPlace_memOk {s : State} {l : Word} {k : Acc} {go : Nat → Attr → State → State} (hs : s.MemOk)
    (hgo : ∀ x y s, s.MemOk → (go x y s).MemOk) : (s.withPlace l k go).MemOk := by
  unfold State.withPlace
  split
  next e1 => exact State.fetchFault_memOk ((State.translateCur_memOk hs).of_eq e1)
  next e1 => exact State.waitFor_memOk ((State.translateCur_memOk hs).of_eq e1)
  next e1 => exact hgo _ _ _ ((State.translateCur_memOk hs).of_eq e1)

theorem State.misaligned_memOk {s : State} {f : Fld} {l : Word} {k : Acc} (hs : s.MemOk) :
    (s.misaligned f l k).MemOk :=
  State.withPlace_memOk hs (fun _ _ _ => State.trap_memOk)

theorem State.sendReq_memOk {s : State} {r : Req} {count : Bool} (hs : s.MemOk) : (s.sendReq r count).MemOk :=
  State.modCur_memOk hs

theorem State.globalLoad_memOk {s : State} {f : Fld} {l : Word} {pa n : Nat} {at_ : Attr} {dest : Nat}
    {fin : State → State} (hs : s.MemOk) (hfin : ∀ s, s.MemOk → (fin s).MemOk) :
    (s.globalLoad f l pa n at_ dest fin).MemOk := by
  unfold State.globalLoad
  dsimp only
  split
  · exact State.waitFor_memOk hs
  · split
    · exact hfin _ (State.setW_memOk hs)
    · split
      · exact State.waitFor_memOk hs
      · refine hfin _ (State.sendReq_memOk ?_)
        split
        · exact State.release_memOk hs
        · exact hs

theorem State.bankLoad_memOk {s : State} {f : Fld} {l : Word} {pa n dest : Nat} {fin : State → State} (hs : s.MemOk)
    (hfin : ∀ s, s.MemOk → (fin s).MemOk) : (s.bankLoad f l pa n dest fin).MemOk := by
  unfold State.bankLoad
  split
  · exact State.waitFor_memOk hs
  · refine hfin _ (State.sendReq_memOk ?_)
    split
    · exact State.release_memOk hs
    · exact hs

theorem State.load_memOk {s : State} {f : Fld} {l : Word} {dest : Nat} {fin : State → State} (hs : s.MemOk)
    (hfin : ∀ s, s.MemOk → (fin s).MemOk) : (s.load f l dest fin).MemOk := by
  unfold State.load
  dsimp only
  split
  · exact State.misaligned_memOk hs
  · refine State.withPlace_memOk hs (fun _ _ _ h1 => ?_)
    split
    · split
      · exact State.trap_memOk h1
      · split
        · exact State.waitFor_memOk h1
        · split
          · exact State.bankLoad_memOk h1 hfin
          · refine hfin _ (State.setW_memOk ?_)
            split
            · refine State.acquireAt_memOk ?_
              split
              · exact State.release_memOk h1
              · exact h1
            · split
              · exact State.release_memOk h1
              · exact h1
    · split
      · exact State.migrate_memOk h1
      · split
        · exact State.waitFor_memOk h1
        · exact State.bankLoad_memOk h1 hfin
    · split
      · exact State.trap_memOk h1
      · exact State.globalLoad_memOk h1 hfin
    · exact State.globalLoad_memOk h1 hfin
    · exact State.globalLoad_memOk h1 hfin
    · exact State.globalLoad_memOk h1 hfin

theorem State.podPrepare_memOk {s : State} {c n sc : Nat} (hs : s.MemOk) : (s.podPrepare c n sc).MemOk := by
  unfold State.podPrepare
  dsimp only
  split
  · exact State.switchHearth_memOk hs
  · exact State.closeLog_memOk (State.switchHearth_memOk hs)

theorem State.podRelease_memOk {s : State} {c n sc : Nat} {follow : List Nat} (hs : s.MemOk) :
    (s.podRelease c n sc follow).MemOk := by
  unfold State.podRelease
  exact State.modSlot_memOk (State.closeLog_memOk hs)

theorem State.storeRelease_memOk {s : State} {f : Fld} (hs : s.MemOk) : (s.storeRelease f).MemOk := by
  unfold State.storeRelease
  dsimp only
  split
  · refine State.modCurK_memOk ?_
    split
    · exact hs
    · split
      · exact State.podRelease_memOk hs
      · exact State.release_memOk hs
  · split
    · exact hs
    · split
      · exact State.podRelease_memOk hs
      · exact State.release_memOk hs

theorem State.logOwn_memOk {s : State} {pa : Nat} {bs : List Byte} {f : Fld} {kind : Nat} (hs : s.MemOk) :
    OnSnd State.MemOk (s.logOwn pa bs f kind) := by
  unfold State.logOwn
  refine State.logStore_memOk ?_
  split
  · exact State.podPrepare_memOk hs
  · exact hs

theorem State.globalStore_memOk {s : State} {f : Fld} {l : Word} {pa : Nat} {bs : List Byte} {at_ : Attr}
    {fin : State → State} (hs : s.MemOk) (hfin : ∀ s, s.MemOk → (fin s).MemOk) :
    (s.globalStore f l pa bs at_ fin).MemOk := by
  unfold State.globalStore
  split
  · split
    · exact State.waitFor_memOk hs
    · exact hfin _ (State.sendReq_memOk hs)
  · split
    next e1 => exact State.waitFor_memOk ((State.logOwn_memOk hs).of_eq e1)
    next e1 => exact hfin _ (State.storeRelease_memOk ((State.logOwn_memOk hs).of_eq e1))

theorem State.postStore_memOk {s : State} {f : Fld} {r : Req} (hs : s.MemOk) : (s.postStore f r).MemOk := by
  unfold State.postStore
  dsimp only
  split
  · refine State.modCurK_memOk (State.sendReq_memOk ?_)
    split
    · exact State.release_memOk hs
    · exact hs
  · refine State.sendReq_memOk ?_
    split
    · exact State.release_memOk hs
    · exact hs

theorem State.raiseBank_memOk {s : State} {c off : Nat} {clk : Clock} (hs : s.MemOk) :
    (s.raiseBank c off clk).MemOk :=
  State.modCore_memOk hs

theorem State.store_memOk {s : State} {f : Fld} {l : Word} {bs : List Byte} {fin : State → State} (hs : s.MemOk)
    (hfin : ∀ s, s.MemOk → (fin s).MemOk) : (s.store f l bs fin).MemOk := by
  unfold State.store
  dsimp only
  split
  · exact State.misaligned_memOk hs
  · refine State.withPlace_memOk hs (fun _ _ _ h1 => ?_)
    split
    · split
      · exact State.trap_memOk h1
      · split
        · exact State.waitFor_memOk h1
        · split
          · exact hfin _ (State.coreWrite_memOk h1)
          · split
            · split
              · exact State.waitFor_memOk h1
              · exact hfin _ (State.postStore_memOk h1)
            · refine hfin _ ?_
              split
              · exact State.modCurK_memOk (State.coreWrite_memOk (State.raiseBank_memOk (State.release_memOk h1)))
              · exact State.coreWrite_memOk (State.raiseBank_memOk (State.release_memOk h1))
    · split
      · exact State.migrate_memOk h1
      · split
        · exact State.waitFor_memOk h1
        · exact hfin _ (State.postStore_memOk h1)
    · split
      · exact State.trap_memOk h1
      · exact State.globalStore_memOk h1 hfin
    · exact State.globalStore_memOk h1 hfin
    · exact State.globalStore_memOk h1 hfin
    · exact State.globalStore_memOk h1 hfin

/-! ### Machine/Memory -/

theorem loadFin_memOk {f : Fld} {s : State} (hs : s.MemOk) : (loadFin f s).MemOk := by
  unfold loadFin
  refine State.finish_memOk ?_
  split
  · exact State.loadUpdate_memOk hs
  · exact hs

theorem execAcq_memOk {x : RR} {s : State} (hs : s.MemOk) : OnNext State.MemOk (execAcq x s) := by
  unfold execAcq
  refine gate_memOk (fun _ h1 => ?_) hs
  dsimp only
  split
  · exact State.advance_memOk (State.acquireAt_memOk h1)
  · exact State.waitFor_memOk h1

theorem execFence_memOk {x : Z9} {s : State} (hs : s.MemOk) : OnNext State.MemOk (execFence x s) := by
  unfold execFence
  refine gate_memOk (fun _ h1 => ?_) hs
  split
  · exact State.waitFor_memOk h1
  · exact State.advance_memOk h1

theorem State.countFp_memOk {s : State} {op : ReqOp} (hs : s.MemOk) : (s.countFp op).MemOk := by
  unfold State.countFp
  split
  · split
    · exact State.modHearth_memOk hs
    · exact hs
  · exact hs

theorem State.atomicOwn_memOk {s : State} {f : Fld} {l : Word} {off n : Nat} {op : ReqOp} {wr : Nat → State → State}
    (hs : s.MemOk) (hwr : ∀ x s, s.MemOk → (wr x s).MemOk) : (s.atomicOwn f l off n op wr).MemOk := by
  unfold State.atomicOwn
  dsimp only
  split
  · exact State.trap_memOk hs
  · split
    · exact State.waitFor_memOk hs
    · refine State.finish_memOk (State.clearIdv_memOk (hwr _ _ (State.countFp_memOk ?_)))
      split
      · refine State.acquireAt_memOk ?_
        split
        · refine State.coreWrite_memOk ?_
          split
          · exact State.raiseBank_memOk (State.release_memOk hs)
          · exact hs
        · split
          · exact State.raiseBank_memOk (State.release_memOk hs)
          · exact hs
      · split
        · refine State.coreWrite_memOk ?_
          split
          · exact State.raiseBank_memOk (State.release_memOk hs)
          · exact hs
        · split
          · exact State.raiseBank_memOk (State.release_memOk hs)
          · exact hs

theorem State.atomicSend_memOk {s : State} {f : Fld} {sc : Nat} {r : Req} (hs : s.MemOk) :
    (s.atomicSend f sc r).MemOk := by
  unfold State.atomicSend
  refine State.finish_memOk (State.clearIdv_memOk (State.sendReq_memOk ?_))
  split
  · refine State.implicitRelease_memOk ?_
    split
    · exact State.release_memOk (State.countFp_memOk hs)
    · exact State.countFp_memOk hs
  · split
    · exact State.release_memOk (State.countFp_memOk hs)
    · exact State.countFp_memOk hs

theorem State.atomic_memOk {s : State} {f : Fld} {l : Word} {n : Nat} {op : ReqOp} {wr : Nat → State → State}
    {dst : Dest} (hs : s.MemOk) (hwr : ∀ x s, s.MemOk → (wr x s).MemOk) : (s.atomic f l n op wr dst).MemOk := by
  unfold State.atomic
  dsimp only
  refine State.withPlace_memOk hs (fun _ _ _ h1 => ?_)
  split
  · exact State.trap_memOk h1
  · split
    · exact State.trap_memOk h1
    · split
      · exact State.atomicOwn_memOk h1 hwr
      · split
        · exact State.migrate_memOk h1
        · split
          · exact State.waitFor_memOk h1
          · exact State.atomicSend_memOk h1

theorem wrW_memOk {d m : Nat} {s : State} (hs : s.MemOk) : (wrW d m s).MemOk := State.setW_memOk hs

theorem execAmo_memOk {x : RR} {s : State} (hs : s.MemOk) : OnNext State.MemOk (execAmo x s) := by
  unfold execAmo
  exact gate_memOk (fun _ h1 => State.atomic_memOk h1 (fun _ _ h2 => h2)) hs

theorem execAmov_memOk {x : RR} {s : State} (hs : s.MemOk) : OnNext State.MemOk (execAmov x s) := by
  unfold execAmov
  exact gate_memOk (fun _ h1 => State.atomic_memOk h1 (fun _ _ => wrW_memOk)) hs

theorem execCas_memOk {x : RR} {s : State} (hs : s.MemOk) : OnNext State.MemOk (execCas x s) := by
  unfold execCas
  exact gate_memOk (fun _ h1 => State.atomic_memOk h1 (fun _ _ => wrW_memOk)) hs

theorem execCas16_memOk {x : RR} {s : State} (hs : s.MemOk) : OnNext State.MemOk (execCas16 x s) := by
  unfold execCas16
  exact gate_memOk (fun _ h1 => State.atomic_memOk h1 (fun _ _ h2 => State.setW_memOk (State.setW_memOk h2))) hs

theorem State.putTarget_memOk {s : State} {l : Word} {k : Nat → State → State} (hs : s.MemOk)
    (hk : ∀ x s, s.MemOk → (k x s).MemOk) : (s.putTarget l k).MemOk := by
  unfold State.putTarget
  refine State.withPlace_memOk hs (fun _ _ _ h1 => ?_)
  split
  · exact hk _ _ h1
  · exact State.trap_memOk h1

theorem State.withTwo_memOk {s : State} {l : Word} {ka : Acc} {b : Word} {kb : Acc} {go : Nat → Nat → State → State}
    (hs : s.MemOk) (hgo : ∀ x y s, s.MemOk → (go x y s).MemOk) : (s.withTwo l ka b kb go).MemOk := by
  unfold State.withTwo
  split <;> exact State.withPlace_memOk hs (fun _ _ _ h1 => State.withPlace_memOk h1 (fun _ _ _ h2 => hgo _ _ _ h2))

theorem State.putBlock_memOk {s : State} {d src : Word} {k : Nat → List Byte → State → State} (hs : s.MemOk)
    (hk : ∀ x y s, s.MemOk → (k x y s).MemOk) : (s.putBlock d src k).MemOk := by
  unfold State.putBlock
  refine State.withTwo_memOk hs (fun _ _ _ h1 => ?_)
  dsimp only
  split
  · exact State.trap_memOk h1
  · split
    · exact State.trap_memOk h1
    · split
      · exact State.trap_memOk h1
      · split
        · exact State.waitFor_memOk h1
        · exact hk _ _ _ h1

theorem State.putSend_memOk {s : State} {f : Fld} {l : Word} {pa : Nat} {bs : List Byte} (hs : s.MemOk) :
    (s.putSend f l pa bs).MemOk := by
  unfold State.putSend
  split
  · exact State.waitFor_memOk hs
  · exact State.finish_memOk (State.clearIdv_memOk (State.postStore_memOk hs))

theorem execPut_memOk {x : RR} {s : State} (hs : s.MemOk) : OnNext State.MemOk (execPut x s) := by
  unfold execPut
  refine gate_memOk (fun _ h1 => ?_) hs
  dsimp only
  split
  · exact State.putTarget_memOk h1 (fun _ _ => State.putSend_memOk)
  · exact State.putBlock_memOk h1 (fun _ _ _ => State.putSend_memOk)

theorem State.takeMail_memOk {s : State} {c slot tag n : Nat} {npc : Word} (hs : s.MemOk) :
    (s.takeMail c slot tag n npc).MemOk := by
  unfold State.takeMail
  exact State.modSlot_memOk (State.acquireAt_memOk (State.modCore_memOk hs))

theorem State.testMail_memOk {s : State} {c h tag : Nat} (hs : s.MemOk) : (s.testMail c h tag).MemOk := by
  unfold State.testMail
  refine foldl_keeps hs (fun _ _ h1 => ?_)
  split
  · split
    · exact State.takeMail_memOk h1
    · exact h1
  · exact h1

theorem execWaitm_memOk {x : RI} {s : State} (hs : s.MemOk) : OnNext State.MemOk (execWaitm x s) := by
  unfold execWaitm
  refine gate_memOk (fun _ h1 => ?_) hs
  dsimp only
  split
  · exact State.takeMail_memOk h1
  · exact State.waitFor_memOk h1

theorem execWait_memOk {x : Z9} {s : State} (hs : s.MemOk) : OnNext State.MemOk (execWait x s) := by
  unfold execWait
  dsimp only
  split
  · exact .next (State.consume_memOk hs)
  · refine gate_memOk (fun _ h1 => ?_) hs
    split
    · exact State.advance_memOk h1
    · exact State.waitFor_memOk h1

theorem execWatch_memOk {x : RR} {s : State} (hs : s.MemOk) : OnNext State.MemOk (execWatch x s) := by
  unfold execWatch
  refine gate_memOk (fun _ h1 => State.withPlace_memOk h1 (fun _ _ _ h2 => ?_)) hs
  dsimp only
  split
  · split
    · exact State.trap_memOk h2
    · split
      · exact State.waitFor_memOk h2
      · split
        · exact State.advance_memOk h2
        · exact State.waitFor_memOk h2
  · split
    · exact State.waitFor_memOk h2
    · exact State.waitFor_memOk (State.sendReq_memOk h2)
  · split
    · split
      · exact State.trap_memOk h2
      · exact State.advance_memOk h2
    · exact State.trap_memOk h2
  · exact State.trap_memOk h2

theorem execSleep_memOk {x : RI} {s : State} (hs : s.MemOk) : OnNext State.MemOk (execSleep x s) := by
  unfold execSleep
  refine gate_memOk (fun _ h1 => ?_) hs
  split
  · exact State.advance_memOk h1
  · exact State.waitFor_memOk h1

theorem execMig_memOk {x : RR} {s : State} (hs : s.MemOk) : OnNext State.MemOk (execMig x s) := by
  unfold execMig
  refine gate_memOk (fun _ h1 => ?_) hs
  dsimp only
  split
  · exact State.advance_memOk h1
  · exact State.migrate_memOk h1

/-! ### Machine/Barriers -/

theorem State.setBar_memOk {s : State} {b : BarId} {x : Barrier} (hs : s.MemOk) : (s.setBar b x).MemOk :=
  hs

theorem State.barAcquire_memOk {s : State} {c n : Nat} {b : BarId} {clk : Clock} (hs : s.MemOk) :
    (s.barAcquire c n b clk).MemOk :=
  State.acquireAt_memOk hs

theorem State.wakeBar_memOk {s : State} {c n : Nat} {b : BarId} {ok phase : Bool} {clk : Clock} (hs : s.MemOk) :
    (s.wakeBar c n b ok phase clk).MemOk := by
  unfold State.wakeBar
  split
  · split
    · exact hs
    · split
      · exact hs
      · dsimp only
        split
        · exact State.barAcquire_memOk (State.modSlot_memOk hs)
        · exact State.modSlot_memOk hs
  · exact hs

theorem State.cross_memOk {s : State} {c : Nat} {l : Crossing} (hs : s.MemOk) : (s.cross c l).MemOk := by
  unfold State.cross
  split
  · exact State.fireWatch_memOk hs
  · exact State.wakeBar_memOk hs

theorem State.takeCrossings_memOk {s : State} {c : Nat} (hs : s.MemOk) : (s.takeCrossings c).MemOk :=
  foldl_keeps hs (fun _ _ => State.cross_memOk)

theorem State.wakeAll_memOk {s : State} {b : BarId} {ok : Bool} (hs : s.MemOk) : (s.wakeAll b ok).MemOk :=
  foldl_keeps hs (fun _ _ h1 => foldl_keeps h1 (fun _ _ => State.wakeBar_memOk))

theorem State.arrive_memOk {s : State} {b : BarId} {drop : Bool} {record : BitVec 20} {stamp : Clock} (hs : s.MemOk) :
    OnSnd State.MemOk (s.arrive b drop record stamp) := by
  unfold State.arrive
  dsimp only
  split
  · exact hs
  · split
    · exact State.wakeAll_memOk (State.setBar_memOk hs)
    · split
      · exact State.wakeAll_memOk (State.setBar_memOk hs)
      · exact State.setBar_memOk hs

theorem State.engineArrive_memOk {s : State} {b : BarId} {stamp : Clock} (hs : s.MemOk) :
    OnSnd State.MemOk (s.engineArrive b stamp) :=
  State.arrive_memOk hs

theorem State.threadArrive_memOk {s : State} {f : Fld} {drop wait : Bool} (hs : s.MemOk) :
    (s.threadArrive f drop wait).MemOk := by
  unfold State.threadArrive
  dsimp only
  split
  next e1 =>
    exact State.result_memOk ((State.arrive_memOk (State.drain_memOk (State.release_memOk hs))).of_eq e1)
  next e1 => exact State.trap_memOk ((State.arrive_memOk (State.drain_memOk (State.release_memOk hs))).of_eq e1)
  next e1 =>
    split
    · exact State.advance_memOk (State.setW_memOk (State.modCur_memOk ((State.arrive_memOk (State.drain_memOk
        (State.release_memOk hs))).of_eq e1)))
    · split
      all_goals
        split
        · exact State.advance_memOk (State.barAcquire_memOk (State.setW_memOk (State.modCur_memOk
            ((State.arrive_memOk (State.drain_memOk (State.release_memOk hs))).of_eq e1))))
        · exact State.waitFor_memOk (State.setW_memOk (State.modCur_memOk ((State.arrive_memOk (State.drain_memOk
            (State.release_memOk hs))).of_eq e1)))

theorem execBarw_memOk {x : RI} {s : State} (hs : s.MemOk) : OnNext State.MemOk (execBarw x s) := by
  unfold execBarw
  refine gate_memOk (fun _ h1 => ?_) hs
  dsimp only
  split
  · exact State.result_memOk h1
  · split
    · exact State.result_memOk (State.barAcquire_memOk h1)
    · exact State.waitFor_memOk h1

theorem execBari_memOk {x : RI} {s : State} (hs : s.MemOk) : OnNext State.MemOk (execBari x s) := by
  unfold execBari
  exact gate_memOk (fun _ h1 => State.advance_memOk (State.setBar_memOk (State.wakeAll_memOk h1))) hs

/-! ### Machine/Elements -/

theorem State.resolve_memOk {s : State} {va : Word} {k : Acc} {et : Nat} (hs : s.MemOk) :
    OnSnd State.MemOk (s.resolve va k et) := by
  unfold State.resolve
  dsimp only
  split
  next e1 => exact (State.translateCur_memOk hs).of_eq e1
  next e1 => exact (State.translateCur_memOk hs).of_eq e1
  next e1 =>
    split
    · exact (State.translateCur_memOk hs).of_eq e1
    · split
      · exact (State.translateCur_memOk hs).of_eq e1
      · split
        · exact (State.translateCur_memOk hs).of_eq e1
        · split
          next e2 => exact (State.translateCur_memOk ((State.translateCur_memOk hs).of_eq e1)).of_eq e2
          next e2 => exact (State.translateCur_memOk ((State.translateCur_memOk hs).of_eq e1)).of_eq e2
          next e2 =>
            split
            · exact (State.translateCur_memOk ((State.translateCur_memOk hs).of_eq e1)).of_eq e2
            · split <;> exact (State.translateCur_memOk ((State.translateCur_memOk hs).of_eq e1)).of_eq e2

theorem State.resolveAll_memOk {s : State} {k : Acc} {et : Nat} {l : List Elem} (hs : s.MemOk) :
    OnSnd State.MemOk (s.resolveAll k et l) := by
  induction l generalizing s k et with
  | nil => exact hs
  | cons a r ih =>
    unfold State.resolveAll
    exact ih (State.resolve_memOk hs)

theorem State.parkStores_memOk {s : State} {kind vreg et sat rm cp : Nat} {bad : List (Elem × Nat × Word)}
    (hs : s.MemOk) : (s.parkStores kind vreg et sat rm cp bad).MemOk := by
  unfold State.parkStores
  split
  · exact hs
  · dsimp only
    exact State.modCur_memOk hs

theorem State.logForce_memOk {s : State} {pa : Nat} {bs : List Byte} {kind : Nat} (hs : s.MemOk) :
    OnSome State.MemOk (s.logForce pa bs kind) := by
  unfold State.logForce
  split
  next e1 => exact .some ((State.logStore_memOk hs).of_eq e1)
  next e1 =>
    split
    next e2 => exact .some ((State.logStore_memOk ((State.logStore_memOk hs).of_eq e1)).of_eq e2)
    · exact .none

theorem State.storeElem_memOk {s : State} {m : StoreMode} {group : Nat} {counted : Bool} {e : Elem} {pa : Nat}
    {l : Attr} (hs : s.MemOk) : OnSome (OnSnd State.MemOk) (s.storeElem m group counted e pa l) := by
  unfold State.storeElem
  dsimp only
  split
  · exact .none
  · split
    · split
      · exact .some (State.sendReq_memOk hs)
      · exact .some (State.coreWrite_memOk hs)
    · exact .some (State.sendReq_memOk hs)
    · split
      · exact .some (State.sendReq_memOk hs)
      · exact .map (State.logForce_memOk hs) fun _ h => h

theorem State.storeAll_memOk {s : State} {m : StoreMode} {group : Nat} {l : Bool}
    {k : List (Elem × Nat × Attr × Option (Nat × Nat))} (hs : s.MemOk) :
    OnSome State.MemOk (s.storeAll m group l k) := by
  induction k generalizing s m group l with
  | nil => exact .some hs
  | cons a r ih =>
    unfold State.storeAll
    split
    · exact .none
    next e1 => exact ih (OnSome.of_eq (State.storeElem_memOk hs) e1 :)

theorem State.endStores_memOk {s : State} {m : StoreMode} {group : Nat} (hs : s.MemOk) :
    (s.endStores m group).MemOk := by
  unfold State.endStores
  split
  · exact hs
  · dsimp only
    split
    · exact State.podRelease_memOk hs
    · exact State.release_memOk hs

theorem State.storeElems_memOk {s : State} {m : StoreMode} {kind vreg : Nat} {srPos : Word} {es : List Elem}
    (hs : s.MemOk) : Stored.MemOk (s.storeElems m kind vreg srPos es) := by
  unfold State.storeElems
  split
  · exact hs
  · split
    next e1 =>
      split
      · exact (State.resolveAll_memOk hs).of_eq e1
      · exact (State.resolveAll_memOk hs).of_eq e1
      · exact (State.resolveAll_memOk hs).of_eq e1
      · split
        · exact (State.resolveAll_memOk hs).of_eq e1
        · split
          · exact (State.resolveAll_memOk hs).of_eq e1
          · dsimp only
            split
            · refine State.makeRoomAt_memOk ?_
              split
              · exact State.podPrepare_memOk ((State.resolveAll_memOk hs).of_eq e1)
              · exact (State.resolveAll_memOk hs).of_eq e1
            next e2 =>
              refine State.parkStores_memOk (State.endStores_memOk (OnSome.of_eq (State.storeAll_memOk ?_) e2))
              split
              · exact State.podPrepare_memOk ((State.resolveAll_memOk hs).of_eq e1)
              · exact (State.resolveAll_memOk hs).of_eq e1

theorem State.readElems_memOk {s : State} {l : List (Elem × Nat × Attr × Option (Nat × Nat))} (hs : s.MemOk) :
    (s.readElems l).MemOk := by
  unfold State.readElems
  split
  · exact hs
  · exact foldl_keeps hs (fun _ _ => State.readLines_memOk)

/-! ### Machine/Streams -/

theorem State.modStream_memOk {s : State} {n : Nat} {f : Stream → Stream} (hs : s.MemOk) : (s.modStream n f).MemOk :=
  State.modCur_memOk hs

theorem freeLanes_memOk {et : Nat} {x : List (BitVec 32)} {s : State} {l : List (Elem × Nat × Word)} (hs : s.MemOk) :
    OnSnd State.MemOk (freeLanes et x s l) := by
  induction l generalizing et x s with
  | nil => exact hs
  | cons a r ih =>
    unfold freeLanes
    exact ih (State.free_memOk hs)

theorem State.streamUpdate_memOk {s : State} {b : Stream} (hs : s.MemOk) : (s.streamUpdate b).MemOk := by
  unfold State.streamUpdate
  split
  · exact State.siteUpdate_memOk hs
  · exact hs

theorem State.popLoad_memOk {s : State} {n : Nat} {b : Stream} {go : State → State} (hs : s.MemOk)
    (hgo : ∀ s, s.MemOk → (go s).MemOk) : (s.popLoad n b go).MemOk := by
  unfold State.popLoad
  split
  · exact State.trap_memOk hs
  · split
    next e1 =>
      split
      · exact State.trap_memOk ((State.resolveAll_memOk hs).of_eq e1)
      · exact State.waitFor_memOk ((State.resolveAll_memOk hs).of_eq e1)
      · exact State.consumePoison_memOk ((State.resolveAll_memOk hs).of_eq e1)
      · dsimp only
        split
        · exact State.waitFor_memOk (State.readElems_memOk ((State.resolveAll_memOk hs).of_eq e1))
        · split
          · exact State.consumePoison_memOk (State.readElems_memOk ((State.resolveAll_memOk hs).of_eq e1))
          · exact State.trap_memOk (State.readElems_memOk ((State.resolveAll_memOk hs).of_eq e1))
          · refine hgo _ (State.modStream_memOk ?_)
            split
            · exact freeLanes_memOk (State.readElems_memOk ((State.resolveAll_memOk hs).of_eq e1))
            · exact State.streamUpdate_memOk (freeLanes_memOk (State.readElems_memOk ((State.resolveAll_memOk
                hs).of_eq e1)))

theorem State.withPops_memOk {go : State → State} {l : List Nat} {k : State} (hgo : ∀ s, s.MemOk → (go s).MemOk)
    (hk : k.MemOk) : (State.withPops go l k).MemOk := by
  induction l generalizing go k with
  | nil => exact hgo _ hk
  | cons a r ih =>
    unfold State.withPops
    split
    · split
      · exact ih hgo hk
      · exact State.popLoad_memOk hk (fun _ h1 => ih hgo h1)
    · exact ih hgo hk

theorem State.popOne_memOk {s : State} {n : Nat} (hs : s.MemOk) : (s.popOne n).MemOk := by
  unfold State.popOne
  split
  · dsimp only
    split
    · split
      · exact State.siteUpdate_memOk (State.modStream_memOk (State.modCur_memOk hs))
      · exact State.modStream_memOk (State.modCur_memOk hs)
    · exact State.modStream_memOk (State.modCur_memOk hs)
  · exact hs

theorem State.popAll_memOk {s : State} {u : Use} (hs : s.MemOk) : (s.popAll u).MemOk :=
  foldl_keeps hs (fun _ _ => State.popOne_memOk)

theorem State.vwrite_memOk {s : State} {f : Fld} {d : Nat} {x : List (BitVec 32)} {fin : State → State} (hs : s.MemOk)
    (hfin : ∀ s, s.MemOk → (fin s).MemOk) : (s.vwrite f d x fin).MemOk := by
  unfold State.vwrite
  split
  · exact hfin _ (State.modCur_memOk hs)
  · dsimp only
    split
    next e1 => exact hfin _ (State.modStream_memOk (holds_of_eq (State.storeElems_memOk hs) e1 :))
    next e1 => exact State.trap_memOk (holds_of_eq (State.storeElems_memOk hs) e1 :)
    next e1 => exact State.waitFor_memOk (holds_of_eq (State.storeElems_memOk hs) e1 :)
    next e1 => exact State.consumePoison_memOk (holds_of_eq (State.storeElems_memOk hs) e1 :)

theorem vgate_memOk {i : Instr} {lims : Fld → List (Bool × Nat)} {extra : State → Option TrapRec} {go : State → State}
    {s : State} (hgo : ∀ s, s.MemOk → (go s).MemOk) (hs : s.MemOk) :
    OnNext State.MemOk (vgate i lims extra go s) := by
  unfold vgate
  exact gate_memOk (fun _ h1 => State.withPops_memOk hgo h1) hs

theorem State.vdone_memOk {s : State} {i : Instr} (hs : s.MemOk) : (s.vdone i).MemOk :=
  State.advance_memOk (State.popAll_memOk hs)

theorem State.withRecord_memOk {s : State} {l : Word} {n : Nat} {go : Nat → List Word → State → State} (hs : s.MemOk)
    (hgo : ∀ x y s, s.MemOk → (go x y s).MemOk) : (s.withRecord l n go).MemOk := by
  unfold State.withRecord
  refine State.withPlace_memOk hs (fun _ _ _ h1 => ?_)
  split
  · split
    · exact State.trap_memOk h1
    · split
      · exact State.waitFor_memOk h1
      · exact hgo _ _ _ h1
  · exact State.trap_memOk h1

theorem State.someRaw_memOk {s : State} {l : List Elem} (hs : s.MemOk) : OnSnd State.MemOk (s.someRaw l) := by
  induction l generalizing s with
  | nil => exact hs
  | cons a r ih =>
    unfold State.someRaw
    split
    next e1 => exact (State.translateCur_memOk hs).of_eq e1
    next e1 =>
      split
      · exact (State.translateCur_memOk hs).of_eq e1
      · exact ih ((State.translateCur_memOk hs).of_eq e1)
    next e1 => exact ih ((State.translateCur_memOk hs).of_eq e1)

theorem State.streamRaw_memOk {s : State} {b : Stream} (hs : s.MemOk) : OnSnd State.MemOk (s.streamRaw b) := by
  unfold State.streamRaw
  split
  · exact State.someRaw_memOk hs
  · exact hs

theorem State.writeRecord_memOk {s : State} {c n : Nat} {b : Stream} (hs : s.MemOk) : (s.writeRecord c n b).MemOk :=
  State.coreWrite_memOk hs

theorem execSbind_memOk {x : XA} {s : State} (hs : s.MemOk) : OnNext State.MemOk (execSbind x s) := by
  unfold execSbind
  refine gate_memOk (fun _ h1 => State.withRecord_memOk h1 (fun _ _ _ h2 => ?_)) hs
  dsimp only
  split
  · exact State.trap_memOk h2
  · split
    next e1 => exact State.waitFor_memOk ((State.streamRaw_memOk h2).of_eq e1)
    next e1 => exact State.trap_memOk ((State.streamRaw_memOk h2).of_eq e1)
    next e1 => exact State.advance_memOk (State.modCur_memOk ((State.streamRaw_memOk h2).of_eq e1))

theorem execSunb_memOk {x : XA} {s : State} (hs : s.MemOk) : OnNext State.MemOk (execSunb x s) := by
  unfold execSunb
  refine gate_memOk (fun _ h1 => ?_) hs
  split
  · exact h1
  · split
    · exact State.trap_memOk h1
    · split
      · exact State.waitFor_memOk h1
      · exact State.advance_memOk (State.modCur_memOk (State.writeRecord_memOk h1))

theorem State.setLead_memOk {s : State} {d l : Nat} (hs : s.MemOk) : (s.setLead d l).MemOk :=
  State.modStream_memOk hs

theorem execSlead_memOk {x : XA} {s : State} (hs : s.MemOk) : OnNext State.MemOk (execSlead x s) := by
  unfold execSlead
  exact gate_memOk (fun _ h1 => State.advance_memOk (State.setLead_memOk h1)) hs

/-! ### Machine/Vector -/

theorem vop_memOk {i : Instr} {f : Fld} {lims : List (Bool × Nat)} {op : Nat → Nat → Nat → Nat} {s : State}
    (hs : s.MemOk) : OnNext State.MemOk (vop i f lims op s) :=
  vgate_memOk (fun _ h1 => State.vwrite_memOk h1 (fun _ => State.vdone_memOk)) hs

theorem vfloat_memOk {i : Instr} {f : Fld} {scalar rmZero : Bool} {op : Fmt → Nat × Nat × Nat → Nat → Nat → Nat → Nat}
    {s : State} (hs : s.MemOk) : OnNext State.MemOk (vfloat i f scalar rmZero op s) := by
  unfold vfloat
  exact vop_memOk hs

theorem vint_memOk {i : Instr} {f : Fld} {scalar sat : Bool} {op : Nat → Nat → Nat → Nat → Nat} {s : State}
    (hs : s.MemOk) : OnNext State.MemOk (vint i f scalar sat op s) :=
  vop_memOk hs

theorem execVcmp_memOk {x : XA} {s : State} (hs : s.MemOk) : OnNext State.MemOk (execVcmp x s) := by
  unfold execVcmp
  exact vgate_memOk (fun _ h1 => State.vdone_memOk (State.modCur_memOk h1)) hs

theorem execVsel_memOk {x : XA} {s : State} (hs : s.MemOk) : OnNext State.MemOk (execVsel x s) := by
  unfold execVsel
  exact vgate_memOk (fun _ h1 => State.vwrite_memOk h1 (fun _ => State.vdone_memOk)) hs

theorem execVsplat_memOk {x : XA} {s : State} (hs : s.MemOk) : OnNext State.MemOk (execVsplat x s) := by
  unfold execVsplat
  exact vgate_memOk (fun _ h1 => State.vwrite_memOk h1 (fun _ => State.vdone_memOk)) hs

theorem execVperm_memOk {x : XA} {s : State} (hs : s.MemOk) : OnNext State.MemOk (execVperm x s) := by
  unfold execVperm
  exact vgate_memOk (fun _ h1 => State.vwrite_memOk h1 (fun _ => State.vdone_memOk)) hs

theorem execVred_memOk {x : XR} {s : State} (hs : s.MemOk) : OnNext State.MemOk (execVred x s) := by
  unfold execVred
  exact vgate_memOk (fun _ h1 => State.vdone_memOk (State.setW_memOk h1)) hs

theorem execVscan_memOk {x : XR} {s : State} (hs : s.MemOk) : OnNext State.MemOk (execVscan x s) := by
  unfold execVscan
  exact vgate_memOk (fun _ h1 => State.vwrite_memOk h1 (fun _ => State.vdone_memOk)) hs

theorem execVcvt_memOk {x : XR} {s : State} (hs : s.MemOk) : OnNext State.MemOk (execVcvt x s) := by
  unfold execVcvt
  refine vgate_memOk (fun _ h1 => State.vwrite_memOk h1 (fun _ h2 => State.vdone_memOk ?_)) hs
  split
  · exact State.modCur_memOk h2
  · exact h2

theorem execVrand_memOk {x : XA} {s : State} (hs : s.MemOk) : OnNext State.MemOk (execVrand x s) := by
  unfold execVrand
  exact vgate_memOk (fun _ h1 => State.vwrite_memOk h1 (fun _ h2 => State.vdone_memOk (State.modCur_memOk h2))) hs

theorem maskOp_memOk {i : Instr} {f : Fld} {bad : Bool} {op : State → State} {s : State}
    (hop : ∀ s, s.MemOk → (op s).MemOk) (hs : s.MemOk) : OnNext State.MemOk (maskOp i f bad op s) :=
  gate_memOk (fun _ h1 => State.advance_memOk (hop _ h1)) hs

theorem execVrel_memOk {x : XA} {s : State} (hs : s.MemOk) : OnNext State.MemOk (execVrel x s) := by
  unfold execVrel
  exact gate_memOk (fun _ h1 => State.advance_memOk (State.modCur_memOk h1)) hs

/-! ### Machine/VecMem -/

theorem State.loadElems_memOk {s : State} {f : Fld} {kind group : Nat} {counted : Bool} {x : List (BitVec 32)}
    {l : List (Elem × Nat × Attr × Option (Nat × Nat))} (hs : s.MemOk) :
    OnSnd State.MemOk (s.loadElems f kind group counted x l) := by
  induction l generalizing s f kind group counted x with
  | nil => exact hs
  | cons a r ih =>
    unfold State.loadElems
    split
    · refine ih ?_
      split
      · split
        · exact State.acquireAt_memOk hs
        · exact hs
      · exact hs
    · exact ih (State.sendReq_memOk hs)

theorem vloadFin_memOk {i : Instr} {f : Fld} {s : State} (hs : s.MemOk) : (vloadFin i f s).MemOk := by
  unfold vloadFin
  refine State.finish_memOk (State.popAll_memOk ?_)
  split
  · exact State.loadUpdate_memOk hs
  · exact hs

theorem State.vload_memOk {s : State} {i : Instr} {f : Fld} {kind : Nat} {es : List Elem} (hs : s.MemOk) :
    (s.vload i f kind es).MemOk := by
  unfold State.vload
  split
  · exact State.trap_memOk hs
  · split
    next e1 =>
      split
      · exact State.trap_memOk ((State.resolveAll_memOk hs).of_eq e1)
      · exact State.waitFor_memOk ((State.resolveAll_memOk hs).of_eq e1)
      · exact State.consumePoison_memOk ((State.resolveAll_memOk hs).of_eq e1)
      · split
        · dsimp only
          split
          · exact State.waitFor_memOk (State.readElems_memOk ((State.resolveAll_memOk hs).of_eq e1))
          · split
            · exact State.consumePoison_memOk (State.readElems_memOk ((State.resolveAll_memOk hs).of_eq e1))
            · exact State.trap_memOk (State.readElems_memOk ((State.resolveAll_memOk hs).of_eq e1))
            · refine State.vwrite_memOk (freeLanes_memOk (State.readElems_memOk ((State.resolveAll_memOk hs).of_eq
                e1))) (fun _ h1 => vloadFin_memOk (State.modCur_memOk ?_))
              split
              · exact State.acquireAt_memOk h1
              · exact h1
        · split
          · exact State.waitFor_memOk ((State.resolveAll_memOk hs).of_eq e1)
          · refine State.finish_memOk (State.popAll_memOk ?_)
            split
            · refine State.loadUpdate_memOk (State.modCur_memOk (State.modCur_memOk (State.loadElems_memOk ?_)))
              split
              · split
                · exact State.acquireAt_memOk ((State.resolveAll_memOk hs).of_eq e1)
                · exact (State.resolveAll_memOk hs).of_eq e1
              · refine State.memOk_update ?_
                split
                · exact State.acquireAt_memOk ((State.resolveAll_memOk hs).of_eq e1)
                · exact (State.resolveAll_memOk hs).of_eq e1
            · refine State.modCur_memOk (State.modCur_memOk (State.loadElems_memOk ?_))
              split
              · split
                · exact State.acquireAt_memOk ((State.resolveAll_memOk hs).of_eq e1)
                · exact (State.resolveAll_memOk hs).of_eq e1
              · refine State.memOk_update ?_
                split
                · exact State.acquireAt_memOk ((State.resolveAll_memOk hs).of_eq e1)
                · exact (State.resolveAll_memOk hs).of_eq e1

theorem vloadInstr_memOk {i : Instr} {f : Fld} {kind : Nat} {lims : List (Bool × Nat)} {addr : State → Nat → Word}
    {s : State} (hs : s.MemOk) : OnNext State.MemOk (vloadInstr i f kind lims addr s) :=
  vgate_memOk (fun _ => State.vload_memOk) hs

theorem vstoreInstr_memOk {i : Instr} {f : Fld} {kind : Nat} {lims : List (Bool × Nat)} {addr : State → Nat → Word}
    {s : State} (hs : s.MemOk) : OnNext State.MemOk (vstoreInstr i f kind lims addr s) := by
  unfold vstoreInstr
  refine vgate_memOk (fun _ h1 => ?_) hs
  dsimp only
  split
  next e1 => exact State.finish_memOk (State.popAll_memOk (holds_of_eq (State.storeElems_memOk h1) e1 :))
  next e1 => exact State.trap_memOk (holds_of_eq (State.storeElems_memOk h1) e1 :)
  next e1 => exact State.waitFor_memOk (holds_of_eq (State.storeElems_memOk h1) e1 :)
  next e1 => exact State.consumePoison_memOk (holds_of_eq (State.storeElems_memOk h1) e1 :)

theorem execVst_memOk {x : XR} {s : State} (hs : s.MemOk) : OnNext State.MemOk (execVst x s) := by
  unfold execVst
  exact vstoreInstr_memOk hs

theorem execVsts_memOk {x : XR} {s : State} (hs : s.MemOk) : OnNext State.MemOk (execVsts x s) := by
  unfold execVsts
  exact vstoreInstr_memOk hs

theorem execVscat_memOk {x : XR} {s : State} (hs : s.MemOk) : OnNext State.MemOk (execVscat x s) := by
  unfold execVscat
  exact vstoreInstr_memOk hs

/-! ### Machine/Xp -/

theorem State.withSlot_memOk {s : State} {f : Fld} {go : Nat → Attr → State → State} (hs : s.MemOk)
    (hgo : ∀ x y s, s.MemOk → (go x y s).MemOk) : (s.withSlot f go).MemOk := by
  unfold State.withSlot
  dsimp only
  split
  · exact State.trap_memOk hs
  · split
    next e1 => exact State.fetchFault_memOk ((State.translateCur_memOk hs).of_eq e1)
    next e1 => exact State.waitFor_memOk ((State.translateCur_memOk hs).of_eq e1)
    next e1 =>
      split
      · exact hgo _ _ _ ((State.translateCur_memOk hs).of_eq e1)
      · exact State.trap_memOk ((State.translateCur_memOk hs).of_eq e1)

theorem State.withView_memOk {s : State} {f : Fld} {go : Word → State → State} (hs : s.MemOk)
    (hgo : ∀ x s, s.MemOk → (go x s).MemOk) : (s.withView f go).MemOk := by
  unfold State.withView
  refine State.withSlot_memOk hs (fun _ _ _ h1 => ?_)
  dsimp only
  split
  · exact hgo _ _ h1
  · split
    · exact State.consumePoison_memOk (State.readLines_memOk h1)
    · exact State.waitFor_memOk (State.putEntry_memOk (State.readLines_memOk h1))

theorem execXbr_memOk {x : XB} {s : State} (hs : s.MemOk) : OnNext State.MemOk (execXbr x s) := by
  unfold execXbr
  refine gate_memOk (fun _ h1 => State.withView_memOk h1 (fun _ _ h2 => ?_)) hs
  split
  · exact State.jump_memOk h2
  · exact State.advance_memOk h2

theorem execXsel_memOk {x : XA} {s : State} (hs : s.MemOk) : OnNext State.MemOk (execXsel x s) := by
  unfold execXsel
  exact gate_memOk (fun _ h1 => State.withView_memOk h1 (fun _ _ h2 => State.advance_memOk (State.setW_memOk h2))) hs

theorem execXrd_memOk {x : XA} {s : State} (hs : s.MemOk) : OnNext State.MemOk (execXrd x s) := by
  unfold execXrd
  exact gate_memOk (fun _ h1 => State.withView_memOk h1 fun _ _ h2 => State.result_memOk h2) hs

theorem execXlead_memOk {x : XA} {s : State} (hs : s.MemOk) : OnNext State.MemOk (execXlead x s) := by
  unfold execXlead
  refine gate_memOk (fun _ h1 => State.withView_memOk h1 (fun _ _ h2 => ?_)) hs
  split
  · exact State.advance_memOk (State.setLead_memOk h2)
  · exact h2

theorem execXunr_memOk {x : XA} {s : State} (hs : s.MemOk) : OnNext State.MemOk (execXunr x s) := by
  unfold execXunr
  exact gate_memOk (fun _ h1 => State.withView_memOk h1 fun _ _ h2 => State.result_memOk h2) hs

theorem State.applyXAdd_memOk {s : State} {d : XAdd} (hs : s.MemOk) : (s.applyXAdd d).MemOk :=
  State.setMemW_memOk (State.snapSlot_memOk hs)

theorem State.flushSlot_memOk {s : State} {c h idx : Nat} (hs : s.MemOk) : (s.flushSlot c h idx).MemOk :=
  State.memOk_update (foldl_keeps hs (fun _ _ => State.applyXAdd_memOk))

theorem execXclr_memOk {x : XA} {s : State} (hs : s.MemOk) : OnNext State.MemOk (execXclr x s) := by
  unfold execXclr
  refine gate_memOk (fun _ h1 => State.withSlot_memOk h1 (fun _ _ _ h2 => State.advance_memOk (State.clearIdv_memOk
      ?_))) hs
  split
  · exact State.memOk_update (State.modCurK_memOk h2)
  · exact State.applyXAdd_memOk (State.flushSlot_memOk (State.modCurK_memOk h2))

theorem execXflush_memOk {x : XA} {s : State} (hs : s.MemOk) : OnNext State.MemOk (execXflush x s) := by
  unfold execXflush
  refine gate_memOk (fun _ h1 => ?_) hs
  dsimp only
  split
  · exact State.advance_memOk (State.clearIdv_memOk h1)
  · split
    · exact State.waitFor_memOk (State.sendEntries_memOk h1)
    · exact State.advance_memOk (State.clearIdv_memOk (State.sendEntries_memOk h1))

/-! ### Machine/Engine -/

theorem Agent.tr_memOk {g : Agent} {va : Word} {k : Acc} : EngM.Keeps (Agent.tr g va k) := by
  intro s hs
  unfold Agent.tr
  split
  next e => exact (State.translate_memOk hs).of_eq e
  next e => exact (State.translate_memOk hs).of_eq e
  next e => exact (State.translate_memOk hs).of_eq e

theorem State.reached_memOk {s : State} {pa : Nat} (hs : s.MemOk) : (s.reached pa).MemOk := by
  unfold State.reached
  dsimp only
  split
  · exact State.modCore_memOk hs
  · exact hs

theorem Agent.read_memOk {g : Agent} {own : Option (Nat × Nat)} {va : Word} {pa n : Nat} :
    EngM.Keeps (Agent.read g own va pa n) := by
  intro s hs
  unfold Agent.read
  dsimp only
  split
  · exact State.reached_memOk (State.readLines_memOk hs)
  · exact State.readLines_memOk hs

theorem Agent.elem_memOk {g : Agent} {et : Nat} {raw : Bool} {va : Word} {l : Nat} :
    EngM.Keeps (Agent.elem g et raw va l) := by
  refine .bind Agent.tr_memOk fun (pa, a) => ?_
  dsimp only
  split
  · exact .fault
  · refine .bind Agent.read_memOk fun bs => ?_
    split
    · exact .pure
    · split
      · exact .pure
      · refine .bind Agent.tr_memOk fun (spa, b) => ?_
        dsimp only
        split
        · exact .fault
        · exact .bind Agent.read_memOk fun _ => .pure

theorem Agent.check_memOk {g : Agent} {et : Option Nat} {cp : Nat} {va : Word} {bs : List Byte} :
    EngM.Keeps (Agent.check g et cp va bs) :=
  .bind Agent.tr_memOk fun _ => .look

theorem State.engPut_memOk {s : State} {g : Agent} {p : EngPut} (hs : s.MemOk) :
    OnSome State.MemOk (s.engPut g p) := by
  unfold State.engPut
  split
  · exact .some (State.writeLS_memOk hs)
  · split
    · exact .some (State.unitWrite_memOk hs)
    · split
      next e1 => exact .some ((State.logStore_memOk hs).of_eq e1)
      next e1 =>
        split
        next e2 => exact .some ((State.logStore_memOk ((State.logStore_memOk hs).of_eq e1)).of_eq e2)
        · exact .none

theorem State.engPuts_memOk {s : State} {g : Agent} {l : List EngPut} (hs : s.MemOk) :
    OnSome State.MemOk (s.engPuts g l) := by
  induction l generalizing s g with
  | nil => exact .some hs
  | cons a r ih =>
    unfold State.engPuts
    split
    next e1 => exact ih ((State.engPut_memOk hs).of_eq e1)
    · exact .none

theorem State.poisonArrive_memOk {s : State} {b : BarId} {hearth : Nat} (hs : s.MemOk) :
    (s.poisonArrive b hearth).MemOk := by
  unfold State.poisonArrive
  dsimp only
  split
  · exact hs
  · exact State.wakeAll_memOk (State.setBar_memOk hs)

theorem State.boundArrive_memOk {s : State} {r : Record} {hearth : Nat} {b : BarId} {stamp : Clock} (hs : s.MemOk) :
    OnSnd State.MemOk (s.boundArrive r hearth b stamp) := by
  unfold State.boundArrive
  dsimp only
  split
  · exact hs
  · split
    next e1 => exact (State.engineArrive_memOk hs).of_eq e1
    next e1 => exact State.report_memOk ((State.engineArrive_memOk hs).of_eq e1)

theorem State.setChan_memOk {s : State} {c ch : Nat} {x : Channel} (hs : s.MemOk) : (s.setChan c ch x).MemOk :=
  State.modCore_memOk hs

theorem State.modOwner_memOk {s : State} {x : Channel} {inSlot : Slot → Slot} {beside : Kept → Kept} (hs : s.MemOk) :
    (s.modOwner x inSlot beside).MemOk := by
  unfold State.modOwner
  split
  · exact State.modSlot_memOk hs
  · exact State.keep_memOk hs

theorem State.deferChan_memOk {s : State} {x : Channel} {d : Deferred} (hs : s.MemOk) : (s.deferChan x d).MemOk :=
  State.modOwner_memOk hs

theorem State.uncount_memOk {s : State} {c ch : Nat} (hs : s.MemOk) : (s.uncount c ch).MemOk :=
  State.modOwner_memOk hs

theorem State.cancelHeld_memOk {s : State} {c ch : Nat} (hs : s.MemOk) : (s.cancelHeld c ch).MemOk := by
  unfold State.cancelHeld
  dsimp only
  split
  · exact State.poisonArrive_memOk (State.uncount_memOk (State.setChan_memOk hs))
  · exact State.uncount_memOk (State.setChan_memOk hs)

theorem State.cancelAll_memOk {s : State} {c n : Nat} (hs : s.MemOk) : (s.cancelAll c n).MemOk := by
  unfold State.cancelAll
  refine foldl_keeps hs (fun _ _ h1 => foldl_keeps h1 (fun _ _ h2 => ?_))
  dsimp only
  split
  · exact State.cancelHeld_memOk h2
  · exact h2

/-! ### Machine/Tasks -/

theorem State.stopDispatch_memOk {s : State} {c h : Nat} (hs : s.MemOk) : (s.stopDispatch c h).MemOk :=
  State.modCore_memOk hs

theorem State.lookup_memOk {s : State} {c h : Nat} {id : Word} (hs : s.MemOk) :
    OnSnd State.MemOk (s.lookup c h id) := by
  unfold State.lookup
  split
  · exact State.stopDispatch_memOk (State.report_memOk hs)
  · exact hs

theorem State.casTask_memOk {s : State} {h : Nat} {tr : Word} {old new : Nat} (hs : s.MemOk) :
    OnOk (OnSnd State.MemOk) (s.casTask h tr old new) := by
  unfold State.casTask
  split
  · exact .error
  · dsimp only
    split
    · exact .ok hs
    · split
      next e1 => exact .ok ((State.hwWrite_memOk hs).of_eq e1)
      · exact .error

theorem State.casNoted_memOk {s : State} {c h : Nat} {id tr : Word} {old new : Nat} (hs : s.MemOk) :
    (s.casNoted c h id tr old new).MemOk := by
  unfold State.casNoted
  split
  next e1 => exact (OnOk.of_eq (State.casTask_memOk hs) e1 :)
  · split
    · exact hs
    · exact State.report_memOk hs

theorem State.casThread_memOk {s : State} {c h : Nat} {id : Word} {old new : Nat} (hs : s.MemOk) :
    OnOk State.MemOk (s.casThread c h id old new) := by
  unfold State.casThread
  split
  next e => exact .map (State.casTask_memOk ((State.lookup_memOk hs).of_eq e)) fun _ h => h
  · exact .error
  next e => exact .ok ((State.lookup_memOk hs).of_eq e)

theorem State.fetchRange_memOk {s : State} {c h : Nat} {r : Range} (hs : s.MemOk) :
    OnOk State.MemOk (s.fetchRange c h r) := by
  unfold State.fetchRange
  split
  · exact .error
  · split
    · exact .error
    · cases s.hwReadBytes h r.src r.len with
      | error e => exact .error
      | ok bs => exact .ok (State.writeLS_memOk hs)

theorem State.fetchRanges_memOk {s : State} {c h : Nat} {l : List Range} (hs : s.MemOk) :
    OnOk State.MemOk (s.fetchRanges c h l) := by
  induction l generalizing s c h with
  | nil => exact .ok hs
  | cons a r ih =>
    unfold State.fetchRanges
    split
    · exact .error
    next e1 => exact ih ((State.fetchRange_memOk hs).of_eq e1)

theorem State.pinRanges_memOk {s : State} {c h : Nat} {task : Word} {rs : List Range} (hs : s.MemOk) :
    (s.pinRanges c h task rs).MemOk :=
  State.modCore_memOk hs

theorem State.unpin_memOk {s : State} {h : Nat} {task : Word} (hs : s.MemOk) : (s.unpin h task).MemOk :=
  hs

theorem State.setFuture_memOk {s : State} {c pa st : Nat} {v : Word} (hs : s.MemOk) : (s.setFuture c pa st v).MemOk :=
  State.memOk_update (State.writeAt_memOk hs)

theorem State.tryFuture_memOk {s : State} {c pa st : Nat} {v : Word} (hs : s.MemOk) :
    (s.tryFuture c pa st v).MemOk := by
  unfold State.tryFuture
  split
  · exact State.setFuture_memOk hs
  · exact hs

theorem State.acquireVA_memOk {s : State} {c n : Nat} {va : Word} (hs : s.MemOk) : (s.acquireVA c n va).MemOk :=
  State.acquireAt_memOk hs

theorem State.queuePush_memOk {s : State} {h : Nat} {desc task : Word} (hs : s.MemOk) :
    Pushed.MemOk (s.queuePush h desc task) := by
  unfold State.queuePush
  split
  · exact trivial
  · dsimp only
    split
    · exact trivial
    · split
      · exact trivial
      next e1 =>
        split
        · exact trivial
        next e2 => exact (State.hwWords_memOk ((State.hwWords_memOk hs).of_eq e1)).of_eq e2

theorem State.endUnits_memOk {s : State} {c n : Nat} (hs : s.MemOk) : (s.endUnits c n).MemOk :=
  State.modCore_memOk (State.modSlot_memOk hs)

theorem State.chansAway_memOk {s : State} {c n : Nat} {va : Word} (hs : s.MemOk) : (s.chansAway c n va).MemOk :=
  State.modCore_memOk hs

theorem State.chansBack_memOk {s : State} {c n h : Nat} {va : Word} (hs : s.MemOk) : (s.chansBack c n h va).MemOk :=
  hs

theorem State.keepAt_memOk {s : State} {c n : Nat} {va : Word} (hs : s.MemOk) : (s.keepAt c n va).MemOk :=
  State.chansAway_memOk (State.keep_memOk hs)

theorem State.takeKept_memOk {s : State} {c n h : Nat} {va : Word} (hs : s.MemOk) : (s.takeKept c n h va).MemOk :=
  State.chansBack_memOk (State.unkeep_memOk (State.modSlot_memOk hs))

theorem State.resumeHelper_memOk {s : State} {c n : Nat} {link : Word} {rc : Clock} {h : Nat} (hs : s.MemOk) :
    (s.resumeHelper c n link rc h).MemOk := by
  unfold State.resumeHelper
  dsimp only
  split
  · exact State.takeKept_memOk (State.setSlot_memOk (State.dropMisses_memOk (State.orphan_memOk (State.casNoted_memOk
      hs))))
  · exact State.freeSlot_memOk (State.report_memOk hs)
  · exact State.freeSlot_memOk (State.report_memOk hs)

theorem State.unchain_memOk {s : State} {c n : Nat} (hs : s.MemOk) : (s.unchain c n).MemOk := by
  unfold State.unchain
  dsimp only
  split
  · exact State.resumeHelper_memOk hs
  · exact State.freeSlot_memOk hs

theorem State.detExit_memOk {s : State} {h : Nat} {task : Word} (hs : s.MemOk) : (s.detExit h task).MemOk :=
  State.modHearth_memOk hs

theorem State.taskDone_memOk {s : State} {c n h : Nat} {tr : Word} (hs : s.MemOk) : (s.taskDone c n h tr).MemOk := by
  unfold State.taskDone
  dsimp only
  split
  · exact State.detExit_memOk (State.unpin_memOk (State.casNoted_memOk hs))
  · exact State.unpin_memOk (State.casNoted_memOk hs)

theorem State.resultFuture_memOk {s : State} {c n : Nat} {tr : Word} {st : Nat} {v : Word} (hs : s.MemOk) :
    (s.resultFuture c n tr st v).MemOk := by
  unfold State.resultFuture
  dsimp only
  split
  · exact hs
  · split
    · split
      · exact State.modHearth_memOk hs
      · exact State.tryFuture_memOk hs
    · exact hs

theorem State.endTask_memOk {s : State} {c n : Nat} {v : Word} (hs : s.MemOk) : (s.endTask c n v).MemOk := by
  unfold State.endTask
  dsimp only
  split
  next e1 =>
    exact State.unchain_memOk (State.taskDone_memOk (State.resultFuture_memOk ((State.lookup_memOk (State.leave_memOk
        (State.endUnits_memOk hs))).of_eq e1)))
  next e1 =>
    exact State.unchain_memOk ((State.lookup_memOk (State.leave_memOk (State.endUnits_memOk hs))).of_eq e1)

theorem State.unclaimOwner_memOk {s : State} {c n : Nat} (hs : s.MemOk) : (s.unclaimOwner c n).MemOk := by
  unfold State.unclaimOwner
  split
  · exact hs
  · exact State.modSlot_memOk (State.casNoted_memOk hs)

theorem State.abortNow_memOk {s : State} {c n cause : Nat} (hs : s.MemOk) : (s.abortNow c n cause).MemOk := by
  unfold State.abortNow
  refine State.unchain_memOk (State.report_memOk ?_)
  split
  next e1 =>
    refine State.taskDone_memOk (State.resultFuture_memOk ?_)
    split
    · exact (State.lookup_memOk (State.sendTask_memOk (State.endUnits_memOk (State.unclaimOwner_memOk hs)))).of_eq e1
    · exact State.drain_memOk (State.release_memOk ((State.lookup_memOk (State.sendTask_memOk (State.endUnits_memOk
        (State.unclaimOwner_memOk hs)))).of_eq e1))
  next e1 =>
    exact (State.lookup_memOk (State.sendTask_memOk (State.endUnits_memOk (State.unclaimOwner_memOk hs)))).of_eq e1

theorem State.taskAbort_memOk {s : State} {c n cause : Nat} (hs : s.MemOk) : (s.taskAbort c n cause).MemOk := by
  unfold State.taskAbort
  dsimp only
  split
  · exact State.abortNow_memOk hs
  · exact State.modSlot_memOk hs

theorem State.resumeAbort_memOk {s : State} {c n : Nat} (hs : s.MemOk) : (s.resumeAbort c n).MemOk := by
  unfold State.resumeAbort
  dsimp only
  split
  · split
    · exact State.abortNow_memOk hs
    · exact hs
  · exact hs

theorem State.holdBegun_memOk {s : State} (hs : s.MemOk) : s.holdBegun.MemOk :=
  State.modCur_memOk hs

theorem State.watchWait_memOk {s : State} {pa : Nat} (hs : s.MemOk) : (s.watchWait pa).MemOk := by
  unfold State.watchWait
  dsimp only
  split
  · exact State.holdBegun_memOk hs
  · exact State.waitFor_memOk (State.modHome_memOk hs)

theorem State.cycleFault_memOk {s : State} {lock : Bool} {pa : Nat} {l : Word} {owner : Nat} (hs : s.MemOk) :
    (s.cycleFault lock pa l owner).MemOk := by
  unfold State.cycleFault
  split
  · exact State.trap_memOk hs
  · dsimp only
    exact State.holdBegun_memOk (State.report_memOk (State.tryFuture_memOk hs))

theorem State.hwFail_memOk {s : State} {e : Nat × Word} (hs : s.MemOk) : OnOk State.MemOk (s.hwFail e) := by
  unfold State.hwFail
  split
  · exact .ok (State.waitFor_memOk hs)
  · exact .error

theorem State.orTrap_memOk {s : State} {r : Except TrapRec State} (hs : s.MemOk) (hr : OnOk State.MemOk r) :
    (s.orTrap r).MemOk := by
  cases hr with
  | ok ht => exact ht
  | error => exact State.trap_memOk hs

theorem State.holdAdopt_memOk {s : State} {wrec tr : Word} {st : Nat} (hs : s.MemOk) :
    (s.holdAdopt wrec tr st).MemOk :=
  State.holdBegun_memOk (State.modCur_memOk hs)

theorem State.adopt_memOk {s : State} {wrec tr : Word} {st : Nat} (hs : s.MemOk) :
    OnOk State.MemOk (s.adopt wrec tr st) := by
  unfold State.adopt
  dsimp only
  split
  · exact .error
  · exact .ok (State.holdAdopt_memOk hs)
  next e1 =>
    split
    · split
      · exact .ok (State.holdAdopt_memOk hs)
      · exact .error
    next e2 =>
      split
      · split
        · exact .ok (State.holdAdopt_memOk hs)
        · exact .error
      next e3 =>
        split
        · split
          · exact .ok (State.holdAdopt_memOk hs)
          · exact .error
        next e4 =>
          split
          · exact .ok (State.resumeHelper_memOk (State.report_memOk (State.keepAt_memOk (OnOk.of_eq
              (State.casTask_memOk (State.drain_memOk (State.release_memOk
              ((State.hwWords_memOk ((State.hwWords_memOk ((State.spillAll_memOk (State.clearIdv_memOk hs)).of_eq
              e1)).of_eq e2)).of_eq e3)))) e4 :))))
          · refine .ok ?_
            split
            all_goals
              split
              · split
                all_goals
                  split
                  · exact State.taskAbort_memOk (State.modSlot_memOk (State.takeKept_memOk (State.setSlot_memOk
                      (State.keepAt_memOk (OnOk.of_eq (State.casTask_memOk (State.drain_memOk (State.release_memOk
                      ((State.hwWords_memOk ((State.hwWords_memOk ((State.spillAll_memOk (State.clearIdv_memOk
                      hs)).of_eq e1)).of_eq e2)).of_eq e3)))) e4 :)))))
                  · exact State.modSlot_memOk (State.takeKept_memOk (State.setSlot_memOk (State.keepAt_memOk
                      (OnOk.of_eq (State.casTask_memOk (State.drain_memOk (State.release_memOk
                      ((State.hwWords_memOk ((State.hwWords_memOk ((State.spillAll_memOk (State.clearIdv_memOk
                      hs)).of_eq e1)).of_eq e2)).of_eq e3)))) e4 :))))
              · split
                all_goals
                  split
                  · exact State.taskAbort_memOk (State.modSlot_memOk (State.unkeep_memOk (State.setSlot_memOk
                      (State.keepAt_memOk (OnOk.of_eq (State.casTask_memOk (State.drain_memOk (State.release_memOk
                      ((State.hwWords_memOk ((State.hwWords_memOk ((State.spillAll_memOk (State.clearIdv_memOk
                      hs)).of_eq e1)).of_eq e2)).of_eq e3)))) e4 :)))))
                  · exact State.modSlot_memOk (State.unkeep_memOk (State.setSlot_memOk (State.keepAt_memOk
                      (OnOk.of_eq (State.casTask_memOk (State.drain_memOk (State.release_memOk
                      ((State.hwWords_memOk ((State.hwWords_memOk ((State.spillAll_memOk (State.clearIdv_memOk
                      hs)).of_eq e1)).of_eq e2)).of_eq e3)))) e4 :))))

theorem State.adoptNow_memOk {s : State} {wrec tr : Word} {st : Nat} (hs : s.MemOk) :
    (s.adoptNow wrec tr st).MemOk := by
  unfold State.adoptNow
  split
  · exact State.holdAdopt_memOk hs
  · split
    next e1 => exact (State.adopt_memOk hs).of_eq e1
    · exact State.trap_memOk (State.unclaimOwner_memOk (State.modCur_memOk hs))

theorem State.orAdopt_memOk {s : State} {go : State → State} (hs : s.MemOk) (hgo : ∀ s, s.MemOk → (go s).MemOk) :
    (s.orAdopt go).MemOk := by
  unfold State.orAdopt
  split
  · exact State.adoptNow_memOk hs
  · exact hgo _ hs

/-- Unfolded in place, and `lookup` opaque, so that the kernel does not evaluate the walk of the task table. -/
theorem State.waitOrHelp_memOk {s : State} {lock : Bool} {pa : Nat} {l : Word} {owner : Nat} (hs : s.MemOk) :
    OnOk State.MemOk (s.waitOrHelp lock pa l owner) := by
  conv => arg 2; fun; fun; fun; fun; fun; delta State.waitOrHelp
  have hl := @State.lookup_memOk
  obtain ⟨L, eL⟩ := exists_eq' (a' := State.lookup)
  rw [eL] at hl ⊢
  extract_lets t h id
  split
  · exact .ok (State.watchWait_memOk hs)
  · split
    next e => exact .ok (State.watchWait_memOk ((hl hs).of_eq e))
    next e => exact .ok (State.watchWait_memOk ((hl hs).of_eq e))
    next e => exact State.hwFail_memOk ((hl hs).of_eq e)
    next e =>
      have h1 := (hl hs).of_eq e
      split
      · exact State.hwFail_memOk h1
      · extract_lets ctrl st
        split
        · exact .ok (State.cycleFault_memOk h1)
        · split
          · exact .ok (State.watchWait_memOk h1)
          · split
            next e =>
              have h2 := (hl h1).of_eq e
              split
              · exact State.hwFail_memOk h2
              next e =>
                have h3 := ((State.casTask_memOk h2).of_eq e).of_eq rfl
                extract_lets s3
                have h4 : s3.MemOk := State.acquireVA_memOk h3
                split
                · exact .ok (State.holdAdopt_memOk h4)
                · exact State.adopt_memOk h4
            next e => exact State.hwFail_memOk ((hl h1).of_eq e)
            next e => exact .ok (State.watchWait_memOk ((hl h1).of_eq e))

/-! ### Machine/Anvil -/

theorem State.claimTile_memOk {s : State} {c n i : Nat} (hs : s.MemOk) : (s.claimTile c n i).MemOk :=
  State.modSlot_memOk (State.modCore_memOk hs)

theorem Agent.blockStart_memOk {g : Agent} {et : Nat} {va : Word} : EngM.Keeps (Agent.blockStart g et va) := by
  refine .bind Agent.tr_memOk fun (_, a) => ?_
  dsimp only
  split
  · exact .fault
  · exact .pure

theorem Agent.run_memOk {g : Agent} {et : Nat} {base : Word} {n : Nat} : EngM.Keeps (Agent.run g et base n) :=
  .bind Agent.blockStart_memOk fun _ => .allMap fun _ => Agent.elem_memOk

theorem Agent.rowA_memOk {g : Agent} {d : List Word} {sw : Swage} {r : Nat} : EngM.Keeps (Agent.rowA g d sw r) := by
  unfold Agent.rowA
  dsimp only
  split
  · refine .allMap fun k => ?_
    split
    · exact Agent.elem_memOk
    · exact .pure
  · exact Agent.run_memOk

theorem Agent.colB_memOk {g : Agent} {d : List Word} {c : Nat} : EngM.Keeps (Agent.colB g d c) :=
  Agent.run_memOk

theorem Agent.commit_memOk {g : Agent} {before : State → State} {ps : List EngPut} {fin : State → Option State}
    (hbefore : ∀ s, s.MemOk → (before s).MemOk) (hfin : ∀ s, s.MemOk → OnSome State.MemOk (fin s)) :
    EngM.Keeps (Agent.commit g before ps fin) := by
  intro s hs
  unfold Agent.commit
  split
  · exact State.makeRoomAt_memOk hs
  next e =>
    split
    next e' => exact (hfin _ ((State.engPuts_memOk (hbefore s hs)).of_eq e)).of_eq e'
    · exact hs

theorem Agent.word_memOk {g : Agent} {va : Word} : EngM.Keeps (Agent.word g va) :=
  .bind Agent.tr_memOk fun _ => .bind Agent.read_memOk fun _ => .pure

theorem State.raisePuts_memOk {s : State} {rc : Clock} {ps : List EngPut} (hs : s.MemOk) :
    (s.raisePuts rc ps).MemOk := by
  unfold State.raisePuts
  refine foldl_keeps hs (fun _ _ h1 => ?_)
  split
  · exact State.raiseBank_memOk h1
  · exact h1

theorem State.tstRelease_memOk {s : State} {c n sc : Nat} {ps : List EngPut} (hs : s.MemOk) :
    OnSome State.MemOk (s.tstRelease c n sc ps) := by
  unfold State.tstRelease
  dsimp only
  split
  · split
    · exact .some (State.podRelease_memOk hs)
    · split
      · split
        · exact .none
        · exact .some (State.raisePuts_memOk (State.drain_memOk (State.podRelease_memOk hs)))
      · split
        · exact .none
        · exact .some (State.raisePuts_memOk (State.podRelease_memOk hs))
  · split
    · exact .some (State.release_memOk hs)
    · split
      · split
        · exact .none
        · exact .some (State.raisePuts_memOk (State.drain_memOk (State.release_memOk hs)))
      · split
        · exact .none
        · exact .some (State.raisePuts_memOk (State.release_memOk hs))

theorem State.runCmd_memOk {s : State} {c : Nat} {k : AnvCmd} (hs : s.MemOk) : OnSnd State.MemOk (s.runCmd c k) := by
  unfold State.runCmd
  generalize k.op = op
  cases op with
  | zero e => exact EngM.Keeps.set (fun _ => State.modCore_memOk) s hs
  | load a st et sat acq =>
    refine EngM.Keeps.bind (.allMap fun _ => Agent.elem_memOk) (fun _ => .set fun _ h => ?_) s hs
    dsimp only
    split
    · exact State.acquireAt_memOk (State.modCore_memOk h)
    · exact State.modCore_memOk h
  | store a st et sat rel sc cp =>
    refine EngM.Keeps.bind (.allMap fun _ => Agent.check_memOk) (fun _ => Agent.commit_memOk (fun _ h => ?_)
        fun _ h => ?_) s hs
    · split
      · exact State.podPrepare_memOk h
      · exact h
    · split
      · exact State.tstRelease_memOk h
      · exact .some h
  | mma d gain sw x =>
    exact EngM.Keeps.bind (.allMap fun _ => Agent.rowA_memOk) (fun _ => .bind (.allMap fun _ => Agent.colB_memOk)
      fun _ => .set fun _ h => State.modCore_memOk h) s hs
  | save a e gain =>
    refine EngM.Keeps.bind (.allMap fun _ => Agent.check_memOk) (fun _ => Agent.commit_memOk (fun _ h => h)
        fun _ h => .some ?_) s hs
    dsimp only
    split
    · exact State.modCore_memOk h
    · exact h
  | restore a claim =>
    refine EngM.Keeps.bind Agent.word_memOk (fun hd => ?_) s hs
    split
    · exact .fault
    · exact .bind (.allMap fun _ => Agent.word_memOk) fun _ => .bind Agent.word_memOk
        fun _ => .set fun _ h => State.modSlot_memOk (State.modCore_memOk (State.modCore_memOk h))

theorem State.discardCmds_memOk {s : State} {c n : Nat} (hs : s.MemOk) : (s.discardCmds c n).MemOk := by
  unfold State.discardCmds
  refine foldl_keeps (State.modCluster_memOk (State.modSlot_memOk (State.modCore_memOk hs))) (fun _ _ h1 => ?_)
  split
  · exact State.poisonArrive_memOk h1
  · exact h1

theorem State.stopSequence_memOk {s : State} {c n : Nat} (hs : s.MemOk) : (s.stopSequence c n).MemOk := by
  unfold State.stopSequence
  split
  · split
    · exact hs
    · refine State.modSlot_memOk (State.modCore_memOk ?_)
      split
      · exact hs
      · exact State.writeLS_memOk hs
  · exact hs

theorem State.killTask_memOk {s : State} {c n cause : Nat} (hs : s.MemOk) : (s.killTask c n cause).MemOk :=
  State.taskAbort_memOk (State.discardCmds_memOk (State.cancelAll_memOk hs))

theorem execAnvilCommandStart_memOk {cl : Nat} {s : State} (hs : s.MemOk) :
    OnNext State.MemOk (execAnvilCommandStart cl s) := by
  unfold execAnvilCommandStart
  dsimp only
  split
  · exact .next hs
  · split
    · exact .next hs
    · exact .next (State.modCore_memOk (State.modCluster_memOk hs))

theorem State.cmdDone_memOk {s : State} {cl c : Nat} {k : AnvCmd} (hs : s.MemOk) : (s.cmdDone cl c k).MemOk := by
  unfold State.cmdDone
  dsimp only
  split
  · exact State.resumeAbort_memOk (State.modSlot_memOk (State.modCluster_memOk (State.modCore_memOk hs)))
  · split
    next e1 =>
      exact State.resumeAbort_memOk (State.modSlot_memOk ((State.boundArrive_memOk (State.modCluster_memOk
          (State.modCore_memOk hs))).of_eq e1))
    next e1 =>
      exact State.modSlot_memOk ((State.boundArrive_memOk (State.modCluster_memOk (State.modCore_memOk hs))).of_eq e1)

theorem execAnvilCommandComplete_memOk {cl : Nat} {check : AnvilCheck} {s : State} (hs : s.MemOk) :
    OnNext State.MemOk (execAnvilCommandComplete cl check s) := by
  unfold execAnvilCommandComplete
  split
  · exact .next hs
  · split
    next e1 =>
      split
      · exact .next (State.cmdDone_memOk ((State.runCmd_memOk hs).of_eq e1))
      · split
        · exact .next hs
        · exact .next (State.cmdDone_memOk (State.report_memOk ((State.runCmd_memOk hs).of_eq e1)))
      · split
        · exact .next hs
        · refine .next (foldl_keeps (State.modCluster_memOk hs) (fun _ _ h1 => foldl_keeps h1 (fun _ _ h2 => ?_)))
          split
          · exact State.killTask_memOk h2
          · exact h2
    next e1 => exact .next ((State.runCmd_memOk hs).of_eq e1)

theorem execAnvilFetchFault_memOk {cl : Nat} {s : State} (hs : s.MemOk) :
    OnNext State.MemOk (execAnvilFetchFault cl s) := by
  unfold execAnvilFetchFault
  split
  · exact .next hs
  · split
    next e1 =>
      dsimp only
      split
      · exact .next (State.resumeAbort_memOk (State.modSlot_memOk (State.discardCmds_memOk (State.modCluster_memOk
          ((State.runCmd_memOk hs).of_eq e1)))))
      · split
        · exact .next ((State.runCmd_memOk hs).of_eq e1)
        · exact .next (State.resumeAbort_memOk (State.modSlot_memOk (State.modCore_memOk (State.stopSequence_memOk
            (State.modCluster_memOk ((State.runCmd_memOk hs).of_eq e1))))))
    · exact .next hs
    next e1 => exact .next ((State.runCmd_memOk hs).of_eq e1)

theorem execAnvilWatchdog_memOk {cl : Nat} {s : State} (hs : s.MemOk) :
    OnNext State.MemOk (execAnvilWatchdog cl s) := by
  unfold execAnvilWatchdog
  dsimp only
  split
  · split
    · exact .next hs
    · exact .next (State.killTask_memOk (State.report_memOk hs))
  · exact .next hs

theorem anvGate_memOk {i : Instr} {chk : State → Option TrapRec} {k : State → State} {s : State}
    (hk : ∀ s, s.MemOk → (k s).MemOk) (hs : s.MemOk) : OnNext State.MemOk (anvGate i chk k s) := by
  unfold anvGate
  refine gate_memOk (fun _ h1 => ?_) hs
  split
  · exact State.waitFor_memOk h1
  · exact hk _ h1

theorem State.queueCmd_memOk {s : State} {f : Fld} {tile : Nat} {op : AnvOp} {bind : Option BarId} (hs : s.MemOk) :
    (s.queueCmd f tile op bind).MemOk :=
  State.finish_memOk (State.clearIdv_memOk (State.modCur_memOk (State.modCurK_memOk hs)))

theorem execTcfg_memOk {x : XA} {s : State} (hs : s.MemOk) : OnNext State.MemOk (execTcfg x s) := by
  unfold execTcfg
  refine gate_memOk (fun _ h1 => ?_) hs
  split
  · exact State.waitFor_memOk h1
  · refine State.advance_memOk ?_
    split
    · split
      · exact h1
      · exact State.modCurK_memOk h1
    · split
      · exact State.modCurK_memOk (State.claimTile_memOk h1)
      · exact State.modCurK_memOk (State.modCurK_memOk (State.claimTile_memOk h1))

theorem mmaInstr_memOk {i : Instr} {f : Fld} {exact : Bool} {s : State} (hs : s.MemOk) :
    OnNext State.MemOk (mmaInstr i f exact s) := by
  unfold mmaInstr
  refine anvGate_memOk (fun _ h1 => State.withRecord_memOk h1 (fun _ _ _ h2 => ?_)) hs
  split
  · exact State.trap_memOk h2
  · exact State.queueCmd_memOk h2

theorem execGset_memOk {x : XA} {s : State} (hs : s.MemOk) : OnNext State.MemOk (execGset x s) := by
  unfold execGset
  exact gate_memOk (fun _ h1 => State.advance_memOk (State.modCurK_memOk h1)) hs

theorem execSwcfg_memOk {x : XA} {s : State} (hs : s.MemOk) : OnNext State.MemOk (execSwcfg x s) := by
  unfold execSwcfg
  refine gate_memOk (fun _ h1 => State.withRecord_memOk h1 (fun _ _ _ h2 => ?_)) hs
  dsimp only
  split
  · exact State.trap_memOk h2
  · split
    next e1 => exact State.waitFor_memOk ((State.translateCur_memOk h2).of_eq e1)
    next e1 => exact State.trap_memOk ((State.translateCur_memOk h2).of_eq e1)
    next e1 =>
      split
      · split
        · exact State.trap_memOk ((State.translateCur_memOk h2).of_eq e1)
        · exact State.advance_memOk (State.modCurK_memOk ((State.translateCur_memOk h2).of_eq e1))
      · exact State.trap_memOk ((State.translateCur_memOk h2).of_eq e1)

theorem execMseq_memOk {x : XA} {s : State} (hs : s.MemOk) : OnNext State.MemOk (execMseq x s) := by
  unfold execMseq
  refine gate_memOk (fun _ h1 => ?_) hs
  split
  · exact State.waitFor_memOk h1
  · refine State.withRecord_memOk h1 (fun _ _ _ h2 => ?_)
    dsimp only
    split
    · exact State.trap_memOk h2
    · refine State.advance_memOk (State.clearIdv_memOk ?_)
      split
      all_goals
        split
        · exact h2
        · exact State.modCur_memOk (State.modCurK_memOk h2)

theorem execSequencerQueue_memOk {c : Nat} {s : State} (hs : s.MemOk) :
    OnNext State.MemOk (execSequencerQueue c s) := by
  unfold execSequencerQueue
  dsimp only
  split
  · exact .next hs
  · split
    · exact .next hs
    · exact .next (State.modSlot_memOk (State.modCore_memOk hs))

/-! ### Machine/Tongs -/

theorem Channel.readNext_memOk {x : Channel} {c ch : Nat} : EngM.Keeps (Channel.readNext x c ch) := by
  unfold Channel.readNext
  dsimp only
  split
  · exact .pure
  · exact .bind Agent.tr_memOk fun _ => .bind .look fun _ => .bind Agent.read_memOk fun _ => .pure

theorem Channel.writeTo_memOk {x : Channel} {c ch : Nat} {dst : Word} {n : Nat} :
    EngM.Keeps (Channel.writeTo x c ch dst n) :=
  .bind Agent.tr_memOk fun _ => .look

theorem Channel.access_memOk {x : Channel} {c ch : Nat} : EngM.Keeps (Channel.access x c ch) :=
  .bind Channel.readNext_memOk fun _ => .bind Channel.writeTo_memOk fun _ => .pure

theorem State.copyDeliver_memOk {s : State} {c ch : Nat} {x : Channel} {pa : Nat} {bs : List Byte} (hs : s.MemOk) :
    (s.copyDeliver c ch x pa bs).MemOk := by
  unfold State.copyDeliver
  split
  · exact hs
  · split
    · exact State.writeLS_memOk hs
    · split
      next e1 =>
        split
        next e2 => exact State.ship_memOk ((State.fresh_memOk ((State.stamp_memOk hs).of_eq e1)).of_eq e2)

theorem execTongsTransfer_memOk {c ch : Nat} {s : State} (hs : s.MemOk) :
    OnNext State.MemOk (execTongsTransfer c ch s) := by
  unfold execTongsTransfer
  dsimp only
  split
  · exact .next hs
  · split
    next e =>
      have ht := (Channel.access_memOk s hs).of_eq e
      split
      · exact .next (State.modCore_memOk (State.setChan_memOk (State.copyDeliver_memOk ht)))
      · exact .next ht
    next e => exact .next ((Channel.access_memOk s hs).of_eq e)

theorem State.chanConts_memOk {s : State} {c ch : Nat} (hs : s.MemOk) : (s.chanConts c ch).MemOk :=
  hs

theorem State.copyDone_memOk {s : State} {c ch : Nat} {x : Channel} (hs : s.MemOk) : (s.copyDone c ch x).MemOk := by
  unfold State.copyDone
  dsimp only
  split
  · split
    · exact State.resumeAbort_memOk (State.modOwner_memOk (State.chanConts_memOk (State.setChan_memOk hs)))
    · exact State.modOwner_memOk (State.chanConts_memOk (State.setChan_memOk hs))
  · split
    next e1 =>
      split
      · exact State.resumeAbort_memOk (State.modOwner_memOk ((State.boundArrive_memOk (State.chanConts_memOk
          (State.setChan_memOk hs))).of_eq e1))
      · exact State.modOwner_memOk ((State.boundArrive_memOk (State.chanConts_memOk (State.setChan_memOk hs))).of_eq
          e1)
    next e1 =>
      exact State.deferChan_memOk ((State.boundArrive_memOk (State.chanConts_memOk (State.setChan_memOk hs))).of_eq
          e1)

theorem State.copyRelease_memOk {s : State} {c ch : Nat} {x : Channel} (hs : s.MemOk) :
    (s.copyRelease c ch x).MemOk :=
  State.closeLog_memOk (State.switchHearth_memOk hs)

theorem State.copyFinish_memOk {s : State} {c ch : Nat} {x : Channel} (hs : s.MemOk) :
    (s.copyFinish c ch x).MemOk := by
  unfold State.copyFinish
  split
  · exact State.copyDone_memOk hs
  · split
    · split
      · exact hs
      · exact State.copyRelease_memOk hs
    · split
      · exact hs
      · exact State.copyDone_memOk hs

theorem State.sendDone_memOk {s : State} {c ch : Nat} {x : Channel} {ctx tag port : Nat} (hs : s.MemOk) :
    (s.sendDone c ch x ctx tag port).MemOk := by
  unfold State.sendDone
  dsimp only
  split
  · split
    · exact State.copyDone_memOk hs
    · split
      · exact hs
      · exact State.copyDone_memOk hs
  · exact State.copyDone_memOk hs

theorem execCopyComplete_memOk {c ch : Nat} {s : State} (hs : s.MemOk) :
    OnNext State.MemOk (execCopyComplete c ch s) := by
  unfold execCopyComplete
  dsimp only
  split
  · exact .next hs
  · split
    · exact .next (State.sendDone_memOk hs)
    · refine .next ?_
      split
      · exact State.copyFinish_memOk hs
      · exact hs

theorem State.holdCopy_memOk {s : State} {c ch : Nat} {x : Channel} {cause : Nat} {l : Word} {dst : Bool}
    (hs : s.MemOk) : (s.holdCopy c ch x cause l dst).MemOk := by
  unfold State.holdCopy
  dsimp only
  split
  all_goals
    split
    · exact State.resumeAbort_memOk (State.cancelHeld_memOk (State.deferChan_memOk (State.report_memOk
        (State.chanConts_memOk (State.setChan_memOk hs)))))
    · exact State.deferChan_memOk (State.report_memOk (State.chanConts_memOk (State.setChan_memOk hs)))

theorem execCopyFault_memOk {c ch : Nat} {s : State} (hs : s.MemOk) : OnNext State.MemOk (execCopyFault c ch s) := by
  unfold execCopyFault
  dsimp only
  split
  · exact .next hs
  · split
    next e => exact .next ((Channel.readNext_memOk s hs).of_eq e)
    next e =>
      have ht := (Channel.readNext_memOk s hs).of_eq e
      split
      · exact .next (State.holdCopy_memOk ht)
      · split
        next e' => exact .next ((Channel.writeTo_memOk _ ht).of_eq e')
        next e' => exact .next (State.holdCopy_memOk ((Channel.writeTo_memOk _ ht).of_eq e'))
        next e' => exact .next (State.holdCopy_memOk (State.copyDeliver_memOk ((Channel.writeTo_memOk _ ht).of_eq
            e')))
    next e =>
      have ht := (Channel.readNext_memOk s hs).of_eq e
      split
      next e' => exact .next (State.holdCopy_memOk ((Channel.writeTo_memOk _ ht).of_eq e'))
      next e' => exact .next ((Channel.writeTo_memOk _ ht).of_eq e')

theorem copyGate_memOk {i : Instr} {f : Fld} {chk : State → Option TrapRec} {k : State → State} {s : State}
    (hk : ∀ s, s.MemOk → (k s).MemOk) (hs : s.MemOk) : OnNext State.MemOk (copyGate i f chk k s) := by
  unfold copyGate
  refine gate_memOk (fun _ h1 => ?_) hs
  split
  · exact State.waitFor_memOk h1
  · exact hk _ h1

theorem State.copyEmpty_memOk {s : State} {c ch : Nat} {x : Channel} (hs : s.MemOk) : (s.copyEmpty c ch x).MemOk := by
  unfold State.copyEmpty
  split
  · exact State.copyDone_memOk hs
  · dsimp only
    exact State.copyFinish_memOk (State.drain_memOk (State.copyRelease_memOk hs))

theorem State.startCopy_memOk {s : State} {f : Fld} {x : Channel} (hs : s.MemOk) : (s.startCopy f x).MemOk := by
  unfold State.startCopy
  dsimp only
  split
  · exact State.finish_memOk (State.cancelHeld_memOk (State.clearIdv_memOk hs))
  · refine State.finish_memOk ?_
    split
    · refine State.copyEmpty_memOk (State.modSlot_memOk (State.setChan_memOk ?_))
      split
      · exact State.uncount_memOk (State.clearIdv_memOk hs)
      · exact State.clearIdv_memOk hs
    · refine State.modSlot_memOk (State.setChan_memOk ?_)
      split
      · exact State.uncount_memOk (State.clearIdv_memOk hs)
      · exact State.clearIdv_memOk hs

theorem State.withScope_memOk {s : State} {f : Fld} {dst : Word} {go : Bool → Nat → State → State} (hs : s.MemOk)
    (hgo : ∀ x y s, s.MemOk → (go x y s).MemOk) : (s.withScope f dst go).MemOk := by
  unfold State.withScope
  dsimp only
  split
  next e1 => exact State.waitFor_memOk ((State.translateCur_memOk hs).of_eq e1)
  next e1 =>
    split
    · exact State.trap_memOk ((State.translateCur_memOk hs).of_eq e1)
    · exact hgo _ _ _ ((State.translateCur_memOk hs).of_eq e1)
  next e1 =>
    split
    · exact hgo _ _ _ ((State.translateCur_memOk hs).of_eq e1)
    · split
      · split
        · exact State.trap_memOk ((State.translateCur_memOk hs).of_eq e1)
        · exact hgo _ _ _ ((State.translateCur_memOk hs).of_eq e1)
      · split
        all_goals
          split
          · exact State.trap_memOk ((State.translateCur_memOk hs).of_eq e1)
          · exact hgo _ _ _ ((State.translateCur_memOk hs).of_eq e1)

theorem execCpys_memOk {x : XA} {s : State} (hs : s.MemOk) : OnNext State.MemOk (execCpys x s) := by
  unfold execCpys
  refine copyGate_memOk (fun _ h1 => State.withRecord_memOk h1 (fun _ _ _ h2 => ?_)) hs
  dsimp only
  split
  · exact State.trap_memOk h2
  · split
    · exact State.trap_memOk h2
    · exact State.withScope_memOk h2 (fun _ _ _ => State.startCopy_memOk)

theorem execCpyn_memOk {x : XA} {s : State} (hs : s.MemOk) : OnNext State.MemOk (execCpyn x s) := by
  unfold execCpyn
  refine copyGate_memOk (fun _ h1 => State.withPlace_memOk h1 (fun _ _ _ h2 => ?_)) hs
  split
  · split
    · exact State.trap_memOk h2
    · split
      · exact State.trap_memOk h2
      · exact State.startCopy_memOk h2
  · exact State.trap_memOk h2

theorem execWaitc_memOk {x : XA} {s : State} (hs : s.MemOk) : OnNext State.MemOk (execWaitc x s) := by
  unfold execWaitc
  dsimp only
  split
  · exact .next (State.consume_memOk hs)
  · refine gate_memOk (fun _ h1 => ?_) hs
    split
    · exact State.waitFor_memOk h1
    · split
      · exact State.trap_memOk h1
      · refine State.advance_memOk ?_
        split
        · exact State.acquireAt_memOk h1
        · exact h1

theorem execChst_memOk {x : XA} {s : State} (hs : s.MemOk) : OnNext State.MemOk (execChst x s) := by
  unfold execChst
  exact gate_memOk (fun _ => State.result_memOk) hs

/-! ### Machine/Save -/

theorem State.hwBytes_memOk {s : State} {h : Nat} {va : Word} {n : Nat} {bs : List Byte} (hs : s.MemOk) :
    OnSnd State.MemOk (s.hwBytes h va n bs) := by
  induction n generalizing s va bs with
  | zero => exact hs
  | succ n ih =>
    cases bs with
    | nil => exact hs
    | cons b r =>
      unfold State.hwBytes
      split
      · exact hs
      next e => exact ih ((State.hwWrite_memOk hs).of_eq e)

theorem State.saveTiles_memOk {s : State} {c n h : Nat} {l : List Nat} (hs : s.MemOk) :
    OnSnd State.MemOk (s.saveTiles c n h l) := by
  induction l generalizing s c n h with
  | nil => exact hs
  | cons a r ih =>
    unfold State.saveTiles
    dsimp only
    split
    next e1 => exact ih ((State.hwBytes_memOk hs).of_eq e1)
    · exact State.hwBytes_memOk hs

theorem State.unclaimTiles_memOk {s : State} {c n : Nat} (hs : s.MemOk) : (s.unclaimTiles c n).MemOk :=
  State.modCore_memOk hs

theorem State.spillSlot_memOk {s : State} {c n : Nat} (hs : s.MemOk) : OnSnd State.MemOk (s.spillSlot c n) :=
  State.spillAll_memOk hs

theorem State.saveFault_memOk {s : State} {c n cause : Nat} {addr : Word} (hs : s.MemOk) :
    (s.saveFault c n cause addr).MemOk :=
  State.modSlot_memOk (State.report_memOk hs)

theorem State.saveStop_memOk {s : State} {c n : Nat} {e : Nat × Word} (hs : s.MemOk) :
    OnSnd State.MemOk (s.saveStop c n e) := by
  unfold State.saveStop
  split
  · exact hs
  · exact State.saveFault_memOk hs

theorem State.taking_memOk {s : State} {c n : Nat} {go : State → Bool × State} (hs : s.MemOk)
    (hgo : ∀ s, s.MemOk → OnSnd State.MemOk (go s)) : OnSnd State.MemOk (s.taking c n go) := by
  unfold State.taking
  split
  next e1 => exact (State.spillSlot_memOk hs).of_eq e1
  next e1 => exact State.saveFault_memOk ((State.spillSlot_memOk hs).of_eq e1)
  next e1 => exact hgo _ (State.leave_memOk ((State.spillSlot_memOk hs).of_eq e1))

theorem State.saveThread_memOk {s : State} {c n : Nat} (hs : s.MemOk) : OnSnd State.MemOk (s.saveThread c n) := by
  unfold State.saveThread
  refine State.taking_memOk hs (fun _ h1 => ?_)
  dsimp only
  split
  · exact h1
  · split
    · exact State.saveStop_memOk h1
    · split
      next e1 =>
        exact State.saveStop_memOk ((State.hwPut_memOk (foldl_keeps h1 (fun _ _ => State.writeRecord_memOk))).of_eq
            e1)
      next e1 =>
        split
        next e2 =>
          exact State.saveStop_memOk ((State.saveTiles_memOk ((State.hwPut_memOk (foldl_keeps h1 (fun _ _ =>
              State.writeRecord_memOk))).of_eq e1)).of_eq e2)
        next e2 =>
          split
          · exact State.saveStop_memOk ((State.saveTiles_memOk ((State.hwPut_memOk (foldl_keeps h1 (fun _ _ =>
              State.writeRecord_memOk))).of_eq e1)).of_eq e2)
          next e3 =>
            exact State.freeSlot_memOk (State.modHearth_memOk (State.unclaimTiles_memOk ((State.casThread_memOk
                ((State.saveTiles_memOk ((State.hwPut_memOk (foldl_keeps h1 (fun _ _ =>
                State.writeRecord_memOk))).of_eq e1)).of_eq e2)).of_eq e3)))

theorem State.parkThread_memOk {s : State} {c n : Nat} {tr : Word} (hs : s.MemOk) :
    OnSnd State.MemOk (s.parkThread c n tr) := by
  unfold State.parkThread
  refine State.taking_memOk hs (fun _ h1 => ?_)
  dsimp only
  split
  next e1 => exact State.saveStop_memOk ((State.hwPut_memOk h1).of_eq e1)
  next e1 =>
    split
    next e2 => exact State.saveStop_memOk ((State.hwPut_memOk ((State.hwPut_memOk h1).of_eq e1)).of_eq e2)
    next e2 =>
      split
      · exact State.saveStop_memOk ((State.hwPut_memOk ((State.hwPut_memOk h1).of_eq e1)).of_eq e2)
      · split
        · exact State.saveStop_memOk ((State.hwPut_memOk ((State.hwPut_memOk h1).of_eq e1)).of_eq e2)
        · exact State.saveThread_memOk ((State.hwPut_memOk ((State.hwPut_memOk h1).of_eq e1)).of_eq e2)
        next e3 =>
          split
          · exact State.saveStop_memOk (holds_of_eq (State.queuePush_memOk
              ((State.hwPut_memOk ((State.hwPut_memOk h1).of_eq e1)).of_eq e2)) e3 :)
          next e4 =>
            exact State.freeSlot_memOk (State.keepAt_memOk (OnOk.of_eq (State.casTask_memOk (holds_of_eq
                (State.queuePush_memOk ((State.hwPut_memOk ((State.hwPut_memOk h1).of_eq e1)).of_eq e2)) e3 :)) e4 :))

theorem State.takeThread_memOk {s : State} {c n : Nat} (hs : s.MemOk) : OnSnd State.MemOk (s.takeThread c n) := by
  unfold State.takeThread
  split
  · exact hs
  · split
    · exact State.parkThread_memOk hs
    · exact State.saveThread_memOk hs

theorem State.preempt_memOk {s : State} {c n : Nat} (hs : s.MemOk) : (s.preempt c n).MemOk := by
  unfold State.preempt
  dsimp only
  split
  · exact hs
  · split
    · split
      · exact hs
      · exact State.consume_memOk (State.memOk_update (State.stopSequence_memOk hs))
    · split
      · exact State.takeThread_memOk (State.memOk_update (State.stopSequence_memOk hs))
      · exact State.memOk_update (State.stopSequence_memOk hs)

theorem execPreempt_memOk {c n : Nat} {s : State} (hs : s.MemOk) : OnNext State.MemOk (execPreempt c n s) := by
  unfold execPreempt
  refine .next ?_
  split
  · exact hs
  · exact State.preempt_memOk hs

/-- Unfolded in place, and `saveThread` opaque, so that the kernel does not evaluate it. -/
theorem State.vectorFault_memOk {s : State} {c n cause : Nat} (hs : s.MemOk) : (s.vectorFault c n cause).MemOk := by
  conv => arg 1; fun; fun; fun; fun; delta State.vectorFault
  have hv := @State.saveThread_memOk
  obtain ⟨V, eV⟩ := exists_eq' (a' := State.saveThread)
  rw [eV] at hv ⊢
  extract_lets t
  split
  next e =>
    split
    · exact (hv (State.report_memOk hs)).of_eq e
    · exact hs

theorem State.restoreTiles_memOk {s : State} {c n : Nat} {l : List (Nat × List Word)} (hs : s.MemOk) :
    (s.restoreTiles c n l).MemOk :=
  foldl_keeps hs (fun _ _ h1 => State.claimTile_memOk (State.modCore_memOk h1))

/-- Unfolded in place, and `report` opaque, so that the kernel does not evaluate it. -/
theorem State.restoreThread_memOk {s : State} {h c n : Nat} (hs : s.MemOk) :
    OnSnd State.MemOk (s.restoreThread h c n) := by
  conv => arg 2; fun; fun; fun; fun; delta State.restoreThread
  have hr := @State.report_memOk
  obtain ⟨R, eR⟩ := exists_eq' (a' := State.report)
  rw [eR] at hr ⊢
  extract_lets s1 fail
  have hfail (e : Nat × Word) : OnSnd State.MemOk (fail e) := by
    change OnSnd State.MemOk (if _ then _ else _)
    split
    · exact State.memOk_update hs
    · exact hr (State.memOk_update hs)
  clear_value fail
  split
  · exact State.memOk_update hs
  · split
    · exact hfail _
    · exact hfail _
    · split
      · exact State.memOk_update hs
      · extract_lets t
        split
        · exact hfail _
        next e =>
          exact State.modHearth_memOk ((State.casThread_memOk (State.restoreTiles_memOk (State.setSlot_memOk
            (State.memOk_update hs)))).of_eq e)

/-! ### Machine/Power -/

theorem State.modPower_memOk {s : State} {c : Nat} {f : CorePower → CorePower} (hs : s.MemOk) :
    (s.modPower c f).MemOk :=
  State.modCore_memOk hs

theorem State.setFduty_memOk {s : State} {c : Nat} {v : Word} (hs : s.MemOk) : (s.setFduty c v).MemOk :=
  State.modPower_memOk hs

theorem State.followCluster_memOk {s : State} {cl : Nat} (hs : s.MemOk) : (s.followCluster cl).MemOk := by
  unfold State.followCluster
  dsimp only
  split
  · exact hs
  · exact State.modCluster_memOk hs

theorem State.levelRequest_memOk {s : State} {c : Nat} {v : Word} (hs : s.MemOk) : (s.levelRequest c v).MemOk := by
  unfold State.levelRequest
  dsimp only
  split
  · exact hs
  · split
    · exact State.modPower_memOk (State.modCore_memOk hs)
    · exact State.followCluster_memOk (State.modPower_memOk (State.modCore_memOk hs))

theorem execFdutyWrite_memOk {c : Nat} {v : Word} {s : State} (hs : s.MemOk) :
    OnNext State.MemOk (execFdutyWrite c v s) := by
  unfold execFdutyWrite
  refine .next ?_
  split
  · exact State.setFduty_memOk hs
  · exact hs

theorem execLevelRequest_memOk {c : Nat} {v : Word} {s : State} (hs : s.MemOk) :
    OnNext State.MemOk (execLevelRequest c v s) := by
  unfold execLevelRequest
  refine .next ?_
  split
  · exact State.levelRequest_memOk hs
  · exact hs

theorem execVoltageRampDone_memOk {d : Domain} {s : State} (hs : s.MemOk) :
    OnNext State.MemOk (execVoltageRampDone d s) := by
  unfold execVoltageRampDone
  split
  · dsimp only
    split
    · split
      · exact .next hs
      · exact .next (State.followCluster_memOk (State.modPower_memOk hs))
    · exact .next hs
  · dsimp only
    split
    · split
      · exact .next hs
      · exact .next (State.followCluster_memOk (State.modCluster_memOk hs))
    · exact .next hs

theorem execClockRestart_memOk {d : Domain} {s : State} (hs : s.MemOk) :
    OnNext State.MemOk (execClockRestart d s) := by
  unfold execClockRestart
  split
  · dsimp only
    split
    · split
      · exact .next hs
      · exact .next (State.followCluster_memOk (State.takeCrossings_memOk (State.modPower_memOk hs)))
    · exact .next hs
  · dsimp only
    split
    · split
      · exact .next hs
      · exact .next (State.followCluster_memOk (State.modCluster_memOk hs))
    · exact .next hs

theorem State.endSlot_memOk {s : State} {c n l : Nat} (hs : s.MemOk) : (s.endSlot c n l).MemOk := by
  induction l generalizing s c n with
  | zero => exact hs
  | succ n ih =>
    unfold State.endSlot
    split
    · exact ih (State.killTask_memOk hs)
    · exact hs

theorem State.endThreads_memOk {s : State} {c : Nat} (hs : s.MemOk) : (s.endThreads c).MemOk :=
  foldl_keeps hs (fun _ _ => State.endSlot_memOk)

theorem execVrfail_memOk {d : Domain} {s : State} (hs : s.MemOk) : OnNext State.MemOk (execVrfail d s) := by
  unfold execVrfail
  split
  · split
    · exact .next hs
    · dsimp only
      exact .next (State.modPower_memOk (foldl_keeps (State.endThreads_memOk hs) (fun _ _ => State.report_memOk)))
  · split
    · exact .next hs
    · dsimp only
      exact .next (State.modCluster_memOk (foldl_keeps (foldl_keeps hs (fun _ _ => State.endThreads_memOk))
          (fun _ _ => State.report_memOk)))

theorem execGatePrepare_memOk {c : Nat} {s : State} (hs : s.MemOk) : OnNext State.MemOk (execGatePrepare c s) := by
  unfold execGatePrepare
  dsimp only
  split
  · exact .next hs
  · split
    · exact .next hs
    · exact .next (State.modCore_memOk (State.sendEntries_memOk hs))

theorem execGateCommit_memOk {c : Nat} {s : State} (hs : s.MemOk) : OnNext State.MemOk (execGateCommit c s) := by
  unfold execGateCommit
  dsimp only
  split
  · exact .next hs
  · split
    · exact .next hs
    · exact .next (State.modPower_memOk hs)

theorem execGateWake_memOk {c : Nat} {s : State} (hs : s.MemOk) : OnNext State.MemOk (execGateWake c s) :=
  .next (State.modCore_memOk hs)

theorem State.bellowsLeaf_memOk {s : State} {c grant : Nat} (hs : s.MemOk) : (s.bellowsLeaf c grant).MemOk :=
  State.modPower_memOk hs

theorem State.bellows_memOk {s : State} {x : Word} (hs : s.MemOk) : (s.bellows x).MemOk :=
  foldl_keeps hs (fun _ _ h1 => foldl_keeps h1 (fun _ _ h2 => foldl_keeps h2 (fun _ _ => State.bellowsLeaf_memOk)))

theorem execLogsizeWrite_memOk {c : Nat} {s : State} (hs : s.MemOk) : OnNext State.MemOk (execLogsizeWrite c s) := by
  unfold execLogsizeWrite
  dsimp only
  split
  · exact .next hs
  · split
    · exact .next hs
    · refine .next ?_
      split
      · exact State.setBytes_memOk (State.modCore_memOk hs)
      · exact State.modCore_memOk hs

/-! ### Machine/Csr -/

theorem State.restartDispatch_memOk {s : State} {h : Nat} (hs : s.MemOk) : (s.restartDispatch h).MemOk :=
  hs

theorem State.setCsr_memOk {s : State} {n : Nat} {v : Word} (hs : s.MemOk) : (s.setCsr n v).MemOk := by
  unfold State.setCsr
  dsimp only
  split
  · exact State.modCur_memOk hs
  · exact State.modCur_memOk hs
  · exact State.modCur_memOk hs
  · exact State.modCur_memOk hs
  · exact State.modCur_memOk hs
  · exact State.modCur_memOk hs
  · exact State.modCur_memOk hs
  · exact State.modCur_memOk hs
  · exact State.modCur_memOk hs
  · exact State.modCur_memOk hs
  · exact State.modCur_memOk hs
  · exact State.modCur_memOk hs
  · exact State.modHearth_memOk (State.flushSection_memOk hs)
  · exact State.restartDispatch_memOk (State.modHearth_memOk hs)
  · exact State.restartDispatch_memOk (State.modHearth_memOk hs)
  · exact State.modHearth_memOk hs
  · exact State.modHearth_memOk hs
  · exact State.modHearth_memOk hs
  · exact State.modHearth_memOk hs
  · exact State.modHearth_memOk hs
  · exact State.modHearth_memOk hs
  · exact State.modCore_memOk hs
  · exact State.modCore_memOk hs
  · exact State.modCore_memOk hs
  · exact State.modCluster_memOk hs
  · exact State.setFduty_memOk hs
  · exact State.modPower_memOk hs
  · exact State.levelRequest_memOk hs
  · exact hs

theorem privGate_memOk {i : Instr} {bad : State → Bool} {chk : State → Option TrapRec} {k : State → State} {s : State}
    (hk : ∀ s, s.MemOk → (k s).MemOk) (hs : s.MemOk) : OnNext State.MemOk (privGate i bad chk k s) := by
  unfold privGate
  split
  · exact .next (State.trap_memOk hs)
  · exact gate_memOk hk hs

theorem csrWrite_memOk {i : Instr} {f : Fld} {op : Word → Word → Word} {s : State} (hs : s.MemOk) :
    OnNext State.MemOk (csrWrite i f op s) :=
  privGate_memOk (fun _ h1 => State.advance_memOk (State.clearIdv_memOk (State.setCsr_memOk h1))) hs

/-! ### Machine/Sync -/

theorem State.withObj_memOk {s : State} {l : Word} {n : Nat} {k : Acc} {go : Nat → State → State} (hs : s.MemOk)
    (hgo : ∀ x s, s.MemOk → (go x s).MemOk) : (s.withObj l n k go).MemOk := by
  unfold State.withObj
  refine State.withPlace_memOk hs (fun _ _ _ h1 => ?_)
  split
  · split
    · exact State.waitFor_memOk h1
    · dsimp only
      split
      · exact State.trap_memOk (State.readLines_memOk h1)
      · exact hgo _ _ (State.acquireAt_memOk (State.drain_memOk (State.readLines_memOk h1)))
  · exact State.trap_memOk h1

theorem State.pkgRelease_memOk {s : State} (hs : s.MemOk) : s.pkgRelease.MemOk :=
  State.drain_memOk (State.release_memOk hs)

theorem State.casRelease_memOk {s : State} (hs : s.MemOk) : s.casRelease.MemOk :=
  State.drain_memOk (State.implicitRelease_memOk hs)

theorem State.deliver_memOk {s : State} {f : Fld} {v : Word} {status : Nat} (hs : s.MemOk) :
    (s.deliver f v status).MemOk := by
  unfold State.deliver
  refine State.advance_memOk ?_
  split
  · exact State.setW_memOk (State.setW_memOk hs)
  · exact State.setW_memOk hs

theorem execFutw_memOk {x : RR} {s : State} (hs : s.MemOk) : OnNext State.MemOk (execFutw x s) := by
  unfold execFutw
  refine gate_memOk (fun _ h1 => State.orAdopt_memOk h1 (fun _ h2 => State.withObj_memOk h2 (fun _ _ h3 => ?_))) hs
  dsimp only
  split
  · exact State.deliver_memOk h3
  · split
    · split
      · exact State.deliver_memOk h3
      · exact State.trap_memOk h3
    · split
      · exact State.trap_memOk h3
      · exact State.orTrap_memOk h3 (State.waitOrHelp_memOk h3)

theorem execFuts_memOk {x : RR} {s : State} (hs : s.MemOk) : OnNext State.MemOk (execFuts x s) := by
  unfold execFuts
  refine gate_memOk (fun _ h1 => State.withObj_memOk h1 (fun _ _ h2 => ?_)) hs
  split
  · split
    · exact State.trap_memOk h2
    · exact State.advance_memOk (State.clearIdv_memOk (State.writeAt_memOk h2))
  · dsimp only
    split
    · exact State.trap_memOk (State.pkgRelease_memOk h2)
    · exact State.advance_memOk (State.clearIdv_memOk (State.setFuture_memOk (State.pkgRelease_memOk h2)))

theorem execFutp_memOk {x : RR} {s : State} (hs : s.MemOk) : OnNext State.MemOk (execFutp x s) := by
  unfold execFutp
  refine gate_memOk (fun _ h1 => State.withObj_memOk h1 (fun _ _ h2 => ?_)) hs
  dsimp only
  split
  · exact State.trap_memOk (State.pkgRelease_memOk h2)
  · refine State.advance_memOk (State.clearIdv_memOk ?_)
    split
    · exact State.pkgRelease_memOk h2
    · exact State.setFuture_memOk (State.pkgRelease_memOk h2)

theorem execLock_memOk {x : RR} {s : State} (hs : s.MemOk) : OnNext State.MemOk (execLock x s) := by
  unfold execLock
  refine gate_memOk (fun _ h1 => State.orAdopt_memOk h1 (fun _ h2 => State.withObj_memOk h2 (fun _ _ h3 => ?_))) hs
  dsimp only
  split
  · exact State.trap_memOk h3
  · split
    · exact State.trap_memOk (State.casRelease_memOk h3)
    · split
      · exact State.advance_memOk (State.writeAt_memOk (State.casRelease_memOk h3))
      · refine State.orTrap_memOk (State.casRelease_memOk h3) (State.waitOrHelp_memOk ?_)
        split
        · exact State.casRelease_memOk h3
        · exact State.writeAt_memOk (State.casRelease_memOk h3)

theorem execUnlock_memOk {x : RR} {s : State} (hs : s.MemOk) : OnNext State.MemOk (execUnlock x s) := by
  unfold execUnlock
  refine gate_memOk (fun _ h1 => State.withObj_memOk h1 (fun _ _ h2 => ?_)) hs
  dsimp only
  split
  · exact State.trap_memOk h2
  · split
    · exact State.trap_memOk (State.pkgRelease_memOk h2)
    · exact State.advance_memOk (State.clearIdv_memOk (State.writeAt_memOk (State.pkgRelease_memOk h2)))

theorem State.withRing_memOk {s : State} {l : Word} {kh kt : Acc} {go : Ring → State → State} (hs : s.MemOk)
    (hgo : ∀ x s, s.MemOk → (go x s).MemOk) : (s.withRing l kh kt go).MemOk :=
  State.withObj_memOk hs (fun _ _ h1 => State.withObj_memOk h1 (fun _ _ h2 => State.withObj_memOk h2 (fun _ _ h3 =>
      State.withObj_memOk h3 (fun _ _ h4 => hgo _ _ h4))))

theorem State.pushAt_memOk {s : State} {f : Fld} {e : Word} (hs : s.MemOk) : (s.pushAt f e).MemOk := by
  unfold State.pushAt
  refine State.withObj_memOk hs (fun _ _ h1 => ?_)
  split
  · exact State.watchWait_memOk h1
  · split
    · dsimp only
      exact State.result_memOk (State.clearIdv_memOk (State.modCur_memOk (State.writeAt_memOk (State.casRelease_memOk
          h1))))
    · dsimp only
      exact State.advance_memOk (State.clearIdv_memOk (State.modCur_memOk (State.setFuture_memOk
          (State.pkgRelease_memOk h1))))

theorem execQpush_memOk {x : RR} {s : State} (hs : s.MemOk) : OnNext State.MemOk (execQpush x s) := by
  unfold execQpush
  refine gate_memOk (fun _ h1 => ?_) hs
  split
  · exact State.pushAt_memOk h1
  · refine State.withRing_memOk h1 (fun _ _ h2 => ?_)
    dsimp only
    split
    · exact State.watchWait_memOk h2
    · split
      · exact State.trap_memOk h2
      · exact State.withObj_memOk h2 (fun _ _ h3 => State.pushAt_memOk (State.modCur_memOk (State.writeAt_memOk
          (State.casRelease_memOk h3))))

theorem execQpop_memOk {x : RR} {s : State} (hs : s.MemOk) : OnNext State.MemOk (execQpop x s) := by
  unfold execQpop
  refine gate_memOk (fun _ h1 => State.orAdopt_memOk h1 (fun _ h2 => State.withRing_memOk h2 (fun _ _ h3 => ?_))) hs
  dsimp only
  split
  · exact State.watchWait_memOk h3
  · split
    · exact State.trap_memOk h3
    · refine State.withObj_memOk h3 (fun _ _ h4 => ?_)
      split
      · exact State.orTrap_memOk h4 (State.waitOrHelp_memOk h4)
      · split
        · exact State.deliver_memOk (State.clearIdv_memOk (State.writeAt_memOk (State.pkgRelease_memOk
            (State.writeAt_memOk (State.casRelease_memOk h4)))))
        · split
          · exact State.deliver_memOk (State.clearIdv_memOk (State.writeAt_memOk (State.pkgRelease_memOk
              (State.writeAt_memOk (State.casRelease_memOk h4)))))
          · exact State.trap_memOk (State.clearIdv_memOk (State.writeAt_memOk (State.pkgRelease_memOk
              (State.writeAt_memOk (State.casRelease_memOk h4)))))

/-! ### Machine/System -/

theorem State.redo_memOk {s : State} {r : Replay} (hs : s.MemOk) : Redone.MemOk (s.redo r) := by
  unfold State.redo
  dsimp only
  split
  next e1 => exact (State.resolve_memOk hs).of_eq e1
  next e1 => exact (State.resolve_memOk hs).of_eq e1
  next e1 => exact (State.resolve_memOk hs).of_eq e1
  next e1 =>
    split
    · split
      · exact (State.resolve_memOk hs).of_eq e1
      · split
        next e2 => exact (OnSome.of_eq (State.storeElem_memOk ((State.resolve_memOk hs).of_eq e1)) e2 :)
        · exact (State.resolve_memOk hs).of_eq e1
    · split
      · exact (State.resolve_memOk hs).of_eq e1
      · exact (State.resolve_memOk hs).of_eq e1
      · split
        · exact (State.resolve_memOk hs).of_eq e1
        · exact State.modCur_memOk ((State.resolve_memOk hs).of_eq e1)

theorem State.redoAll_memOk {s : State} {l : List Replay} (hs : s.MemOk) :
    OnSnd (OnSnd State.MemOk) (s.redoAll l) := by
  induction l generalizing s with
  | nil => exact hs
  | cons a r ih =>
    unfold State.redoAll
    split
    next e1 => exact ih (holds_of_eq (State.redo_memOk hs) e1 :)
    next e1 => exact ih (holds_of_eq (State.redo_memOk hs) e1 :)
    next e1 => exact (holds_of_eq (State.redo_memOk hs) e1 :)

theorem State.settleV_memOk {s : State} {c n : Nat} (hs : s.MemOk) : (s.settleV c n).MemOk :=
  State.modSlot_memOk hs

theorem State.countWaited_memOk {s : State} {l : List Replay} (hs : s.MemOk) : (s.countWaited l).MemOk := by
  unfold State.countWaited
  refine foldl_keeps hs (fun _ _ h1 => ?_)
  split
  · exact h1
  · split
    · exact h1
    · split
      · exact State.loadWaited_memOk h1
      · exact h1

theorem State.replayAll_memOk {s : State} (hs : s.MemOk) : OnSnd State.MemOk s.replayAll :=
  State.countWaited_memOk (State.settleV_memOk (State.modCur_memOk (State.redoAll_memOk hs)))

theorem execRqgo_memOk {x : XA} {s : State} (hs : s.MemOk) : OnNext State.MemOk (execRqgo x s) := by
  unfold execRqgo
  refine gate_memOk (fun _ h1 => ?_) hs
  split
  · dsimp only
    exact State.advance_memOk (State.countWaited_memOk (State.settleV_memOk (State.modCur_memOk h1)))
  · split
    next e1 => exact State.advance_memOk ((State.replayAll_memOk h1).of_eq e1)
    next e1 => exact State.waitFor_memOk ((State.replayAll_memOk h1).of_eq e1)

theorem execRqrd_memOk {x : XA} {s : State} (hs : s.MemOk) : OnNext State.MemOk (execRqrd x s) := by
  unfold execRqrd
  exact gate_memOk (fun _ => State.result_memOk) hs

theorem execTrap_memOk {x : XA} {s : State} (hs : s.MemOk) : OnNext State.MemOk (execTrap x s) := by
  unfold execTrap
  exact gate_memOk (fun _ => State.trapAt_memOk) hs

theorem State.requeue_memOk {s : State} (hs : s.MemOk) : s.requeue.MemOk := by
  unfold State.requeue
  dsimp only
  split
  · exact hs
  · exact State.modCur_memOk (State.modCurK_memOk hs)

theorem execRte_memOk {x : XA} {s : State} (hs : s.MemOk) : OnNext State.MemOk (execRte x s) := by
  unfold execRte
  refine privGate_memOk (fun _ h1 => ?_) hs
  split
  next e1 =>
    split
    · refine State.waitFor_memOk (OnSnd.of_eq ?_ e1)
      split
      · exact h1
      · exact State.replayAll_memOk h1
    · split
      · refine State.modCur_memOk (OnSnd.of_eq ?_ e1)
        split
        · exact h1
        · exact State.replayAll_memOk h1
      · refine State.modCur_memOk (State.requeue_memOk (OnSnd.of_eq ?_ e1))
        split
        · exact h1
        · exact State.replayAll_memOk h1

theorem execIdem_memOk {x : XA} {s : State} (hs : s.MemOk) : OnNext State.MemOk (execIdem x s) := by
  unfold execIdem
  refine gate_memOk (fun _ h1 => ?_) hs
  split
  · exact State.advance_memOk (State.clearIdv_memOk h1)
  · dsimp only
    exact State.advance_memOk (State.modCur_memOk h1)

theorem State.tlbi_memOk {s : State} {kind h asid : Nat} {l n : Word} (hs : s.MemOk) :
    (s.tlbi kind h asid l n).MemOk :=
  hs

theorem execTlbi_memOk {x : XA} {s : State} (hs : s.MemOk) : OnNext State.MemOk (execTlbi x s) := by
  unfold execTlbi
  refine privGate_memOk (fun _ h1 => ?_) hs
  dsimp only
  split
  · exact State.waitFor_memOk (State.drain_memOk h1)
  · exact State.advance_memOk (State.tlbi_memOk (State.drain_memOk h1))

theorem State.created_memOk {s : State} {h : Nat} {ids : List Word} (hs : s.MemOk) : (s.created h ids).MemOk := by
  unfold State.created
  split
  · exact State.modHearth_memOk hs
  · exact hs

theorem State.spawn_memOk {s : State} {id : Word} {c : Nat} {wrong : Bool} (hs : s.MemOk) :
    OnOk (OnSnd (OnSnd State.MemOk)) (s.spawn id c wrong) := by
  unfold State.spawn
  dsimp only
  split
  next e1 => exact .ok ((State.lookup_memOk hs).of_eq e1)
  next e1 => exact .ok ((State.lookup_memOk hs).of_eq e1)
  · exact .error
  next e1 =>
    split
    · exact .error
    · split
      · exact .error
      · split
        · exact .ok ((State.lookup_memOk hs).of_eq e1)
        · split
          · exact .error
          · exact .ok (State.acquireVA_memOk ((State.lookup_memOk hs).of_eq e1))
          next e2 =>
            split
            · exact .ok (State.acquireVA_memOk (holds_of_eq (State.queuePush_memOk ((State.lookup_memOk hs).of_eq
                e1)) e2 :))
            · split
              · exact .error
              next e3 =>
                exact .ok (State.created_memOk (State.acquireVA_memOk (OnOk.of_eq (State.casTask_memOk (holds_of_eq
                    (State.queuePush_memOk ((State.lookup_memOk hs).of_eq e1)) e2 :)) e3 :)))

theorem execSpawn_memOk {x : XA} {s : State} (hs : s.MemOk) : OnNext State.MemOk (execSpawn x s) := by
  unfold execSpawn
  refine gate_memOk (fun _ h1 => ?_) hs
  dsimp only
  split
  · exact State.orTrap_memOk (State.pkgRelease_memOk h1) (State.hwFail_memOk (State.pkgRelease_memOk h1))
  next e1 =>
    split
    · exact State.trap_memOk (State.dupTask_memOk (OnOk.of_eq (State.spawn_memOk (State.pkgRelease_memOk h1)) e1 :))
    · split
      · exact State.trap_memOk (OnOk.of_eq (State.spawn_memOk (State.pkgRelease_memOk h1)) e1 :)
      · exact State.result_memOk (OnOk.of_eq (State.spawn_memOk (State.pkgRelease_memOk h1)) e1 :)

theorem execExit_memOk {x : XA} {s : State} (hs : s.MemOk) : OnNext State.MemOk (execExit x s) := by
  unfold execExit
  dsimp only
  split
  · exact .next (State.consume_memOk hs)
  · refine gate_memOk (fun _ h1 => ?_) hs
    split
    · exact State.waitFor_memOk h1
    · split
      · exact State.waitFor_memOk h1
      · split
        · exact State.orTrap_memOk h1 (State.hwFail_memOk h1)
        · exact State.endTask_memOk (State.discardCmds_memOk h1)

theorem State.yieldTo_memOk {s : State} {record : Word} {chan : Option (Nat × Nat)} {future : Nat}
    {ready : State → Bool} (hs : s.MemOk) : (s.yieldTo record chan future ready).MemOk := by
  unfold State.yieldTo
  refine State.freeSlot_memOk (State.keepAt_memOk ?_)
  split <;> exact State.memOk_update (State.leave_memOk hs)

theorem State.yieldWrite_memOk {s : State} {f : Fld} {record link : Word} {chan : Option (Nat × Nat)} {future : Nat}
    {ready : State → Bool} (hs : s.MemOk) : (s.yieldWrite f record link chan future ready).MemOk := by
  unfold State.yieldWrite
  refine State.withPlace_memOk hs (fun _ _ _ h1 => State.withPlace_memOk h1 (fun _ _ _ h2 => ?_))
  split
  · split
    · exact State.trap_memOk h2
    · exact State.waitFor_memOk h2
    next e1 =>
      split
      · exact State.orTrap_memOk h2 (State.hwFail_memOk h2)
      next e2 => exact State.yieldTo_memOk ((State.hwWords_memOk ((State.spillAll_memOk h2).of_eq e1)).of_eq e2)
  · exact State.trap_memOk h2

theorem execYieldc_memOk {x : XA} {s : State} (hs : s.MemOk) : OnNext State.MemOk (execYieldc x s) := by
  unfold execYieldc
  refine gate_memOk (fun _ h1 => ?_) hs
  dsimp only
  split
  · exact State.consume_memOk h1
  · split
    · exact State.waitFor_memOk h1
    · split
      · exact State.yieldWrite_memOk h1
      · refine State.withTwo_memOk h1 (fun _ _ _ h2 => ?_)
        split
        · exact State.trap_memOk h2
        · exact State.withObj_memOk h2 (fun _ _ => State.yieldWrite_memOk)

theorem execTailw_memOk {x : XA} {s : State} (hs : s.MemOk) : OnNext State.MemOk (execTailw x s) := by
  unfold execTailw
  exact gate_memOk (fun _ h1 => State.store_memOk h1 (fun _ h2 => State.finish_memOk (State.clearIdv_memOk h2))) hs

theorem execSend_memOk {x : XA} {s : State} (hs : s.MemOk) : OnNext State.MemOk (execSend x s) := by
  unfold execSend
  refine gate_memOk (fun _ h1 => ?_) hs
  split
  · exact State.waitFor_memOk h1
  · refine State.withRecord_memOk h1 (fun _ _ _ h2 => State.finish_memOk (State.clearIdv_memOk (State.modCur_memOk
      (State.memOk_update ?_))))
    split
    · exact State.drain_memOk (State.release_memOk h2)
    · exact h2

theorem State.setChanEntry_memOk {s : State} {c ch : Nat} {v : Word} (hs : s.MemOk) : (s.setChanEntry c ch v).MemOk :=
  State.modCore_memOk hs

theorem execChan_memOk {x : XA} {s : State} (hs : s.MemOk) : OnNext State.MemOk (execChan x s) := by
  unfold execChan
  exact gate_memOk (fun _ h1 => State.advance_memOk (State.setChanEntry_memOk h1)) hs

theorem execBlk_memOk {x : XA} {s : State} (hs : s.MemOk) : OnNext State.MemOk (execBlk x s) := by
  unfold execBlk
  exact gate_memOk (fun _ h1 => State.advance_memOk (State.setChanEntry_memOk h1)) hs

theorem execUnblk_memOk {x : XA} {s : State} (hs : s.MemOk) : OnNext State.MemOk (execUnblk x s) := by
  unfold execUnblk
  exact gate_memOk (fun _ h1 => State.advance_memOk (State.setChanEntry_memOk h1)) hs

theorem State.setGov_memOk {s : State} {g : Governor → Governor} (hs : s.MemOk) : (s.setGov g).MemOk :=
  State.modCluster_memOk hs

theorem execGovcfg_memOk {x : XA} {s : State} (hs : s.MemOk) : OnNext State.MemOk (execGovcfg x s) := by
  unfold execGovcfg
  refine gate_memOk (fun _ h1 => ?_) hs
  dsimp only
  split
  · refine State.withPlace_memOk h1 (fun _ _ _ h2 => ?_)
    split
    · exact State.orTrap_memOk h2 (State.hwFail_memOk h2)
    · split
      · exact State.orTrap_memOk h2 (State.hwFail_memOk h2)
      next e1 => exact State.advance_memOk (State.setGov_memOk ((State.hwWords_memOk h2).of_eq e1))
  · split <;> exact State.advance_memOk (State.setGov_memOk h1)

/-! ### Machine/Sched -/

theorem State.nextArr_memOk {s : State} {c : Nat} (hs : s.MemOk) : (s.nextArr c).MemOk :=
  State.modCore_memOk hs

theorem State.runAppend_memOk {s : State} {c : Nat} {x : Frame} {q : Kept} (hs : s.MemOk) :
    Appended.MemOk (s.runAppend c x q) := by
  unfold State.runAppend
  dsimp only
  split
  · exact trivial
  · split
    · exact trivial
    · split
      · exact trivial
      · split
        · exact trivial
        next e1 =>
          split
          · exact trivial
          next e2 =>
            exact State.keep_memOk (State.nextArr_memOk ((State.hwWords_memOk ((State.hwWords_memOk hs).of_eq
                e1)).of_eq e2))

theorem State.placeFrame_memOk {s : State} {c n : Nat} {x : Frame} {q : Kept} {clk : Clock} (hs : s.MemOk) :
    (s.placeFrame c n x q clk).MemOk := by
  unfold State.placeFrame
  dsimp only
  split
  · exact State.modCore_memOk (State.setSlot_memOk hs)
  · split
    next e1 => exact (State.casThread_memOk (State.modCore_memOk (State.setSlot_memOk hs))).of_eq e1
    · split
      · exact State.modCore_memOk (State.setSlot_memOk hs)
      · exact State.report_memOk (State.modCore_memOk (State.setSlot_memOk hs))

theorem State.startCont_memOk {s : State} {c n h : Nat} {record : Word} {clk : Clock} (hs : s.MemOk) :
    (s.startCont c n h record clk).MemOk := by
  unfold State.startCont
  split
  · dsimp only
    exact State.takeKept_memOk (State.modCore_memOk (State.setSlot_memOk hs))
  · exact State.report_memOk hs
  · exact State.report_memOk hs

theorem execContinuationResume_memOk {i : Nat} {s : State} (hs : s.MemOk) :
    OnNext State.MemOk (execContinuationResume i s) := by
  unfold execContinuationResume
  split
  · exact .next hs
  · split
    · exact .next hs
    · dsimp only
      exact .next (State.nextArr_memOk (State.modCore_memOk hs))

theorem State.pull_memOk {s : State} {c h p : Nat} (hs : s.MemOk) : (s.pull c h p).MemOk := by
  unfold State.pull
  dsimp only
  split
  · exact hs
  · split
    · exact hs
    · exact State.modCore_memOk hs

theorem State.queueFault_memOk {s : State} {c h cause : Nat} {addr : Word} (hs : s.MemOk) :
    (s.queueFault c h cause addr).MemOk :=
  State.stopDispatch_memOk (State.report_memOk hs)

theorem State.startRecord_memOk {s : State} {c n h : Nat} {tr : Word} {st : Nat} {fp : List Word} {t : Slot}
    (hs : s.MemOk) : (s.startRecord c n h tr st fp t).MemOk := by
  unfold State.startRecord
  dsimp only
  split
  all_goals
    split
    · split
      all_goals
        split
        · exact State.taskAbort_memOk (State.modSlot_memOk (State.takeKept_memOk (State.modCore_memOk
            (State.setSlot_memOk hs))))
        · exact State.modSlot_memOk (State.takeKept_memOk (State.modCore_memOk (State.setSlot_memOk hs)))
    · split
      all_goals
        split
        · exact State.taskAbort_memOk (State.modSlot_memOk (State.unkeep_memOk (State.modCore_memOk
            (State.setSlot_memOk hs))))
        · exact State.modSlot_memOk (State.unkeep_memOk (State.modCore_memOk (State.setSlot_memOk hs)))

theorem State.dispatchTask_memOk {s : State} {c n h : Nat} {id head desc : Word} {buf : Option Pulled}
    (hs : s.MemOk) : OnSnd State.MemOk (s.dispatchTask c n h id head desc buf) := by
  unfold State.dispatchTask
  dsimp only
  split
  all_goals
    split
    · split
      · exact hs
      · split
        · split
          · exact hs
          · exact State.queueFault_memOk hs
        next e1 =>
          split
          · exact State.stopDispatch_memOk (State.report_memOk (State.modCore_memOk ((State.hwWords_memOk hs).of_eq
              e1)))
          · exact State.modCore_memOk ((State.hwWords_memOk hs).of_eq e1)
          · exact State.report_memOk (State.modCore_memOk ((State.hwWords_memOk hs).of_eq e1))
          · split
            · exact State.modCore_memOk ((State.hwWords_memOk hs).of_eq e1)
            · split
              · exact State.report_memOk (State.modCore_memOk ((State.hwWords_memOk hs).of_eq e1))
              · split
                · exact State.report_memOk (State.modCore_memOk ((State.hwWords_memOk hs).of_eq e1))
                next e2 =>
                  exact (OnOk.of_eq (State.casTask_memOk (State.modCore_memOk ((State.hwWords_memOk hs).of_eq e1)))
                      e2 :)
                next e2 =>
                  exact State.startRecord_memOk (OnOk.of_eq (State.casTask_memOk (State.modCore_memOk
                      ((State.hwWords_memOk hs).of_eq e1))) e2 :)
    · split
      · exact hs
      · split
        · split
          · exact hs
          · exact State.queueFault_memOk hs
        next e1 =>
          split
          · exact State.stopDispatch_memOk (State.report_memOk (State.modCore_memOk ((State.hwWords_memOk hs).of_eq
              e1)))
          · exact State.modCore_memOk ((State.hwWords_memOk hs).of_eq e1)
          · exact State.report_memOk (State.modCore_memOk ((State.hwWords_memOk hs).of_eq e1))
          · split
            · exact State.modCore_memOk ((State.hwWords_memOk hs).of_eq e1)
            · exact State.report_memOk (State.modCore_memOk ((State.hwWords_memOk hs).of_eq e1))

theorem State.startMsg_memOk {s : State} {c n i : Nat} (hs : s.MemOk) : (s.startMsg c n i).MemOk := by
  unfold State.startMsg
  split
  · exact hs
  · dsimp only
    exact State.modCore_memOk (State.setSlot_memOk hs)

theorem State.dispatchHearth_memOk {s : State} {c n h : Nat} (hs : s.MemOk) :
    OnSome State.MemOk (s.dispatchHearth c n h) := by
  unfold State.dispatchHearth
  extract_lets q idle s1 k heads task cand
  split
  · exact .none
  · have h1 : s1.MemOk := by
      change State.MemOk (if _ then _ else _)
      split
      · exact hs
      · exact foldl_keeps hs fun _ _ h => State.pull_memOk h
    clear_value s1 heads task cand
    split
    · exact .some (State.queueFault_memOk h1)
    · split
      · exact .none
      · extract_lets s2 turn fromQueue
        have h2 : s2.MemOk := State.setCore_memOk h1
        have ht {m : Bool} {t : State} (h : t.MemOk) : (turn m t).MemOk := State.modCore_memOk h
        have hq (e : Word × Word × Word × Option Pulled) : (fromQueue e).MemOk := by
          change State.MemOk (match _ with | (true, s) => turn false s | (false, s) => s)
          split
          next e => exact ht ((State.dispatchTask_memOk h2).of_eq e)
          next e => exact (State.dispatchTask_memOk h2).of_eq e
        have hm {i : Nat} : (turn true (s2.startMsg c n i)).MemOk := ht (State.startMsg_memOk h2)
        clear_value fromQueue turn
        split
        · refine .some ?_
          split
          · exact hq _
          · exact hm
        · exact .some (hq _)
        · exact .some hm
        · exact .none

theorem State.resumeFrame_memOk {s : State} {c n h : Nat} {l head : Word} {ws : List Word} (hs : s.MemOk) :
    OnSome State.MemOk (s.resumeFrame c n h l head ws) := by
  unfold State.resumeFrame
  dsimp only
  split
  · exact .none
  · split
    · exact .none
    · exact .some (State.report_memOk hs)
  next e1 =>
    exact .some (State.modSlot_memOk (State.unkeep_memOk (State.placeFrame_memOk ((State.hwWords_memOk hs).of_eq
        e1))))

theorem State.resumeOldest_memOk {s : State} {c n : Nat} (hs : s.MemOk) :
    OnSome State.MemOk (s.resumeOldest c n) := by
  unfold State.resumeOldest
  dsimp only
  split
  · split
    · exact State.resumeFrame_memOk hs
    · exact .some (State.startCont_memOk (State.modCore_memOk hs))
  · exact State.resumeFrame_memOk hs
  · exact .some (State.startCont_memOk (State.modCore_memOk hs))
  · exact .none

theorem execDispatch_memOk {c : Nat} {s : State} (hs : s.MemOk) : OnNext State.MemOk (execDispatch c s) := by
  unfold execDispatch
  split
  · exact .next hs
  · split
    · exact .next hs
    · dsimp only
      split
      next e => exact .next ((State.resumeOldest_memOk (State.memOk_update (State.settle_memOk hs))).of_eq e)
      · split
        · exact .next (State.memOk_update (State.settle_memOk hs))
        · exact .next (OnSome.getD (.findSome? fun _ => State.dispatchHearth_memOk (State.memOk_update
            (State.settle_memOk hs)))
            (State.memOk_update (State.settle_memOk hs)))

theorem execFootprintLanded_memOk {c n : Nat} {s : State} (hs : s.MemOk) :
    OnNext State.MemOk (execFootprintLanded c n s) := by
  unfold execFootprintLanded
  dsimp only
  split
  · exact .next hs
  · split
    · refine .next ?_
      split
      · exact hs
      · exact State.taskAbort_memOk hs
    next e1 =>
      exact .next (State.modSlot_memOk (State.pinRanges_memOk ((State.fetchRanges_memOk (State.memOk_update
          hs)).of_eq e1)))

theorem State.resentBack_memOk {s : State} {x : Flight} {left : Bool} (hs : s.MemOk) :
    (s.resentBack x left).MemOk := by
  unfold State.resentBack
  split
  · exact hs
  · exact State.modCore_memOk hs

theorem execFrameArrival_memOk {i : Nat} {s : State} (hs : s.MemOk) : OnNext State.MemOk (execFrameArrival i s) := by
  unfold execFrameArrival
  split
  · exact .next hs
  · dsimp only
    split
    · exact .next hs
    · split
      · exact .next hs
      · split
        · exact .next (State.resentBack_memOk hs)
        · split
          · exact .next hs
          · split
            · exact .next (State.resentBack_memOk (State.placeFrame_memOk (State.modCore_memOk hs)))
            · split
              next e1 =>
                refine .next (State.resentBack_memOk ?_)
                split
                · exact State.modCore_memOk (holds_of_eq (State.runAppend_memOk (State.modCore_memOk
                    (State.memOk_update hs))) e1 :)
                · exact (holds_of_eq (State.runAppend_memOk (State.modCore_memOk (State.memOk_update hs))) e1 :)
              · exact .next (State.memOk_update (State.modCore_memOk hs))
              · refine .next (State.memOk_update ?_)
                split
                · exact State.modCore_memOk hs
                · exact State.report_memOk (State.modCore_memOk hs)

theorem execFrameRefused_memOk {i : Nat} {s : State} (hs : s.MemOk) : OnNext State.MemOk (execFrameRefused i s) := by
  unfold execFrameRefused
  split
  · exact .next hs
  · dsimp only
    split
    · exact .next hs
    · split
      · exact .next (State.resentBack_memOk hs)
      · split
        · exact .next (State.resentBack_memOk hs)
        · split
          · exact .next hs
          · exact .next (State.modCore_memOk hs)

theorem execDepartureResend_memOk {c h : Nat} {s : State} (hs : s.MemOk) :
    OnNext State.MemOk (execDepartureResend c h s) := by
  unfold execDepartureResend
  split
  · dsimp only
    exact .next (State.memOk_update (State.modCore_memOk hs))
  · exact .next hs

theorem execEvictWaiter_memOk {c n : Nat} {s : State} (hs : s.MemOk) :
    OnNext State.MemOk (execEvictWaiter c n s) := by
  unfold execEvictWaiter
  split
  · exact .next hs
  · split
    next e => exact .next ((State.spillSlot_memOk hs).of_eq e)
    next e =>
      have h1 := State.leave_memOk (c := c) (n := n) ((State.spillSlot_memOk hs).of_eq e)
      extract_lets s' t
      split
      next e =>
        refine .next (State.freeSlot_memOk (State.memOk_update ?_))
        refine holds_of_eq ((OnOk.bind (Q := Appended.MemOk) (State.casThread_memOk h1) fun s1 h2 => ?_).of_eq e) rfl
        split
        · exact .error
        · exact .ok (State.runAppend_memOk h2)
      · exact .next hs
      · split
        · exact .next hs
        · exact .next (State.report_memOk hs)

theorem State.msgAck_memOk {s : State} {m : Msg} {ok : Bool} (hs : s.MemOk) : (s.msgAck m ok).MemOk := by
  unfold State.msgAck
  split
  · exact hs
  · exact State.modSlot_memOk hs

theorem execMessageArrival_memOk {i : Nat} {s : State} (hs : s.MemOk) :
    OnNext State.MemOk (execMessageArrival i s) := by
  unfold execMessageArrival
  split
  · exact .next hs
  · dsimp only
    split
    · exact .next hs
    · split
      · exact .next (State.msgAck_memOk (State.modCore_memOk hs))
      · split
        · exact .next hs
        · exact .next (State.msgAck_memOk (State.modCore_memOk hs))

theorem execGovernorCheck_memOk {cl : Nat} {s : State} (hs : s.MemOk) :
    OnNext State.MemOk (execGovernorCheck cl s) := by
  unfold execGovernorCheck
  dsimp only
  split
  · exact .next hs
  · exact .next (State.modCluster_memOk hs)

/-! ### Machine/Fabric -/

theorem execReleaseStamp_memOk {c : Nat} {s : State} (hs : s.MemOk) : OnNext State.MemOk (execReleaseStamp c s) := by
  unfold execReleaseStamp
  refine .next ?_
  split
  · exact hs
  · exact State.stampRelease_memOk hs

theorem execBeacon_memOk {e : Nat} {s : State} (hs : s.MemOk) : OnNext State.MemOk (execBeacon e s) := by
  unfold execBeacon
  refine .next ?_
  split <;> exact hs

theorem execBeaconReceipt_memOk {hm e : Nat} {s : State} (hs : s.MemOk) :
    OnNext State.MemOk (execBeaconReceipt hm e s) := by
  unfold execBeaconReceipt
  split
  · exact .next hs
  · refine .next ?_
    split
    · exact State.modHome_memOk hs
    · exact hs

theorem execPieceArrival_memOk {id : Nat} {s : State} (hs : s.MemOk) :
    OnNext State.MemOk (execPieceArrival id s) := by
  unfold execPieceArrival
  split
  · exact .next hs
  · split <;> exact .next hs

theorem execPieceApply_memOk {id : Nat} {s : State} (hs : s.MemOk) : OnNext State.MemOk (execPieceApply id s) := by
  unfold execPieceApply
  split
  · exact .next hs
  · refine .next ?_
    split
    · exact State.applyPiece_memOk hs
    · exact hs

theorem execPieceAck_memOk {id : Nat} {s : State} (hs : s.MemOk) : OnNext State.MemOk (execPieceAck id s) := by
  unfold execPieceAck
  split
  · exact .next hs
  · refine .next ?_
    split
    · exact State.ackPiece_memOk hs
    · exact hs

theorem execClusterUnitWriteback_memOk {cl w : Nat} {s : State} (hs : s.MemOk) :
    OnNext State.MemOk (execClusterUnitWriteback cl w s) := by
  unfold execClusterUnitWriteback
  refine .next ?_
  split
  · exact hs
  · exact State.cuWriteback_memOk hs

theorem State.dropReq_memOk {s : State} {id : Nat} (hs : s.MemOk) : (s.dropReq id).MemOk := hs

theorem State.answer_memOk {s : State} {r : Req} {value : Nat} {clk : Clock} {cause : Nat} (hs : s.MemOk) :
    (s.answer r value clk cause).MemOk :=
  State.memOk_update (State.dropReq_memOk hs)

theorem State.bankJoin_memOk {s : State} {r : Req} (hs : s.MemOk) : (s.bankJoin r).MemOk := by
  unfold State.bankJoin
  dsimp only
  split
  · exact hs
  · split <;> exact State.modHome_memOk hs

theorem State.bankTurn_memOk {s : State} {r : Req} (hs : s.MemOk) : OnSnd State.MemOk (s.bankTurn r) := by
  unfold State.bankTurn
  dsimp only
  split
  · exact hs
  · split
    · exact hs
    · split
      · exact hs
      · exact State.bankJoin_memOk hs

theorem State.bankServed_memOk {s : State} {r : Req} (hs : s.MemOk) : (s.bankServed r).MemOk := by
  unfold State.bankServed
  dsimp only
  split
  · exact hs
  · split
    · exact State.modHome_memOk hs
    · split
      · exact State.modHome_memOk hs
      · exact State.modHome_memOk (State.modHome_memOk hs)

theorem State.bankWrite_memOk {s : State} {r : Req} {bs : List Byte} (hs : s.MemOk) : (s.bankWrite r bs).MemOk := by
  unfold State.bankWrite
  split
  · exact State.setBytes_memOk hs
  · split
    · exact State.coreWrite_memOk hs
    · exact State.writeLS_memOk hs

theorem State.bankStamp_memOk {s : State} {r : Req} (hs : s.MemOk) : (s.bankStamp r).MemOk := by
  unfold State.bankStamp
  split
  · split
    · exact State.raiseBank_memOk hs
    · exact hs
  · exact hs

theorem State.homeWatch_memOk {s : State} {r : Req} {v : Word} (hs : s.MemOk) : (s.homeWatch r v).MemOk := by
  unfold State.homeWatch
  dsimp only
  split
  · exact hs
  · split
    · exact State.answer_memOk (State.readLines_memOk hs)
    · split
      · exact State.answer_memOk (State.readLines_memOk hs)
      · split
        · exact State.dropReq_memOk (State.readLines_memOk hs)
        · exact State.modHome_memOk (State.dropReq_memOk (State.readLines_memOk hs))

theorem State.farDone_memOk {s : State} {pa : Nat} (hs : s.MemOk) : (s.farDone pa).MemOk := by
  unfold State.farDone
  split <;> exact hs

theorem State.unitLoad_memOk {s : State} {r : Req} (hs : s.MemOk) : (s.unitLoad r).MemOk := by
  unfold State.unitLoad
  dsimp only
  split
  · split
    · exact hs
    · exact State.farDone_memOk (State.reached_memOk (State.answer_memOk hs))
    · exact State.farDone_memOk (State.reached_memOk (State.answer_memOk hs))
  · split
    · split
      · exact hs
      · split <;> exact State.answer_memOk (State.readLines_memOk hs)
    · split
      · exact State.answer_memOk hs
      · exact State.farDone_memOk (State.answer_memOk hs)

theorem execHomeAccess_memOk {id : Nat} {s : State} (hs : s.MemOk) : OnNext State.MemOk (execHomeAccess id s) := by
  unfold execHomeAccess
  split
  · exact .next hs
  · split
    · exact .next hs
    · dsimp only
      split
      · split
        · exact .next (State.unitLoad_memOk hs)
        · split
          · exact .next (State.unitLoad_memOk hs)
          · split
            next e1 => exact .next ((State.bankTurn_memOk hs).of_eq e1)
            next e1 =>
              split
              · exact .next (State.bankJoin_memOk ((State.bankTurn_memOk hs).of_eq e1))
              · exact .next (State.bankServed_memOk (State.unitLoad_memOk ((State.bankTurn_memOk hs).of_eq e1)))
      · split
        · exact .next (State.homeWatch_memOk hs)
        · split
          next e1 => exact .next ((State.bankTurn_memOk hs).of_eq e1)
          next e1 =>
            split
            · exact .next (State.bankJoin_memOk ((State.bankTurn_memOk hs).of_eq e1))
            · exact .next (State.bankServed_memOk (State.homeWatch_memOk ((State.bankTurn_memOk hs).of_eq e1)))
      · split
        · exact .next hs
        · split
          · exact .next (State.answer_memOk (State.unitWrite_memOk hs))
          · split
            next e1 => exact .next ((State.bankTurn_memOk hs).of_eq e1)
            next e1 =>
              split
              · exact .next (State.bankJoin_memOk ((State.bankTurn_memOk hs).of_eq e1))
              · exact .next (State.bankServed_memOk (State.answer_memOk (State.unitWrite_memOk
                  ((State.bankTurn_memOk hs).of_eq e1))))
      · exact .next hs

theorem State.bankAtomic_memOk {s : State} {r : Req} (hs : s.MemOk) : (s.bankAtomic r).MemOk := by
  unfold State.bankAtomic
  refine State.farDone_memOk (State.reached_memOk (State.answer_memOk (State.bankStamp_memOk ?_)))
  split
  · exact State.bankWrite_memOk hs
  · exact hs

theorem execRemoteStoreArrival_memOk {id : Nat} {s : State} (hs : s.MemOk) :
    OnNext State.MemOk (execRemoteStoreArrival id s) := by
  unfold execRemoteStoreArrival
  split
  · exact .next hs
  · split
    · exact .next hs
    · dsimp only
      split
      · split
        · exact .next hs
        · exact .next (State.farDone_memOk (State.reached_memOk (State.answer_memOk hs)))
        · exact .next (State.farDone_memOk (State.answer_memOk (State.bankStamp_memOk (State.bankWrite_memOk hs))))
      · split
        · exact .next hs
        · exact .next (State.farDone_memOk (State.reached_memOk (State.answer_memOk hs)))
        · exact .next (State.bankAtomic_memOk hs)
      · split
        · exact .next hs
        · exact .next (State.farDone_memOk (State.reached_memOk (State.answer_memOk hs)))
        · exact .next (State.bankAtomic_memOk hs)
      · split
        · exact .next hs
        · exact .next (State.farDone_memOk (State.reached_memOk (State.answer_memOk hs)))
        · exact .next (State.bankAtomic_memOk hs)
      · split
        · exact .next hs
        · exact .next (State.farDone_memOk (State.reached_memOk (State.answer_memOk hs)))
        · exact .next (State.bankAtomic_memOk hs)
      · exact .next hs

theorem execPutLanding_memOk {id : Nat} {s : State} (hs : s.MemOk) : OnNext State.MemOk (execPutLanding id s) := by
  unfold execPutLanding
  split
  · exact .next hs
  · split
    · split
      · exact .next hs
      · exact .next (State.farDone_memOk (State.reached_memOk (State.answer_memOk hs)))
      · dsimp only
        exact .next (State.testMail_memOk (State.answer_memOk (State.modCore_memOk (State.bankStamp_memOk
            (State.bankWrite_memOk hs)))))
    · exact .next hs

theorem State.cuFill_memOk {s : State} {cl h w0 n w : Nat} (hs : s.MemOk) : (s.cuFill cl h w0 n w).MemOk := by
  unfold State.cuFill
  split
  · exact hs
  · refine State.modCluster_memOk ?_
    split
    · exact hs
    · split
      · exact State.cuWriteback_memOk hs
      · exact hs

theorem State.cuAtomic_memOk {s : State} {r : Req} (hs : s.MemOk) : (s.cuAtomic r).MemOk := by
  unfold State.cuAtomic
  refine State.answer_memOk ?_
  split
  · dsimp only
    exact State.modCluster_memOk (foldl_keeps hs (fun _ _ => State.cuFill_memOk))
  · exact foldl_keeps hs (fun _ _ => State.cuFill_memOk)

theorem State.homeAtomic_memOk {s : State} {r : Req} (hs : s.MemOk) : (s.homeAtomic r).MemOk := by
  unfold State.homeAtomic
  refine State.answer_memOk ?_
  split
  · refine State.wakeHome_memOk ?_
    split
    · exact State.writeAt_memOk hs
    · exact hs
  · split
    · exact State.writeAt_memOk hs
    · exact hs

theorem State.poisonAtomic_memOk {s : State} {r : Req} (hs : s.MemOk) : (s.poisonAtomic r).MemOk := by
  unfold State.poisonAtomic
  split
  · exact State.answer_memOk hs
  · exact State.answer_memOk (State.report_memOk hs)

theorem execAtomicExecute_memOk {id : Nat} {s : State} (hs : s.MemOk) :
    OnNext State.MemOk (execAtomicExecute id s) := by
  unfold execAtomicExecute
  split
  · exact .next hs
  · split
    · exact .next hs
    · split
      · exact .next (State.poisonAtomic_memOk hs)
      · dsimp only
        split
        · refine .next ?_
          split
          · split
            · exact State.poisonAtomic_memOk (State.readLines_memOk hs)
            · split
              · exact State.cuAtomic_memOk (State.readLines_memOk hs)
              · exact State.homeAtomic_memOk (State.readLines_memOk hs)
          · split
            · exact State.poisonAtomic_memOk hs
            · split
              · exact State.cuAtomic_memOk hs
              · exact State.homeAtomic_memOk hs
        · split
          next e1 => exact .next ((State.bankTurn_memOk hs).of_eq e1)
          next e1 =>
            refine .next (State.bankServed_memOk ?_)
            split
            · split
              · exact State.poisonAtomic_memOk (State.readLines_memOk ((State.bankTurn_memOk hs).of_eq e1))
              · split
                · exact State.cuAtomic_memOk (State.readLines_memOk ((State.bankTurn_memOk hs).of_eq e1))
                · exact State.homeAtomic_memOk (State.readLines_memOk ((State.bankTurn_memOk hs).of_eq e1))
            · split
              · exact State.poisonAtomic_memOk ((State.bankTurn_memOk hs).of_eq e1)
              · split
                · exact State.cuAtomic_memOk ((State.bankTurn_memOk hs).of_eq e1)
                · exact State.homeAtomic_memOk ((State.bankTurn_memOk hs).of_eq e1)

theorem execDetUpdateArrival_memOk {id : Nat} {s : State} (hs : s.MemOk) :
    OnNext State.MemOk (execDetUpdateArrival id s) := by
  unfold execDetUpdateArrival
  split
  · exact .next hs
  · split
    · exact .next hs
    · split
      · exact .next hs
      · refine .next ?_
        split
        next e1 =>
          refine State.answer_memOk (OnSome.of_eq ?_ e1)
          split
          · exact State.holdUpdate_memOk (State.checkMerge_memOk hs)
          · exact .some (State.modHearth_memOk (State.checkMerge_memOk hs))
        · exact hs

theorem State.dropReply_memOk {s : State} {id : Nat} (hs : s.MemOk) : (s.dropReply id).MemOk := hs

theorem State.loadPended_memOk {s : State} {r : Req} (hs : s.MemOk) : (s.loadPended r).MemOk := by
  unfold State.loadPended
  split
  · exact hs
  · split
    · exact State.loadWaited_memOk hs
    · exact hs

theorem State.loadDone_memOk {s : State} {r : Req} (hs : s.MemOk) : (s.loadDone r).MemOk := by
  unfold State.loadDone
  refine State.loadPended_memOk ?_
  split
  · exact hs
  · exact State.modSlot_memOk hs

theorem State.fillRead_memOk {s : State} {c w : Nat} (hs : s.MemOk) : (s.fillRead c w).MemOk :=
  State.modCore_memOk hs

theorem State.loadValue_memOk {s : State} {p : Reply} (hs : s.MemOk) : (s.loadValue p).MemOk := by
  unfold State.loadValue
  refine State.loadDone_memOk ?_
  split
  · refine State.fillRead_memOk ?_
    split
    · exact State.acquireAt_memOk (State.settleV_memOk (State.modSlot_memOk (State.dropReply_memOk hs)))
    · exact State.settleV_memOk (State.modSlot_memOk (State.dropReply_memOk hs))
  · split
    · exact State.acquireAt_memOk (State.settleV_memOk (State.modSlot_memOk (State.dropReply_memOk hs)))
    · exact State.settleV_memOk (State.modSlot_memOk (State.dropReply_memOk hs))

theorem State.failGroup_memOk {s : State} {p : Reply} {count : Nat} (hs : s.MemOk) : (s.failGroup p count).MemOk :=
  State.loadPended_memOk (State.settleV_memOk (State.modSlot_memOk hs))

theorem State.elemPoison_memOk {s : State} {p : Reply} {reg l et : Nat} (hs : s.MemOk) :
    (s.elemPoison p reg l et).MemOk := by
  unfold State.elemPoison
  dsimp only
  split
  · exact State.regionRestart_memOk hs
  · refine State.loadDone_memOk ?_
    split
    · exact State.modSlot_memOk (State.dropReply_memOk hs)
    · exact State.settleV_memOk (State.modSlot_memOk (State.dropReply_memOk hs))

theorem State.watchReply_memOk {s : State} {p : Reply} {npc : Word} (hs : s.MemOk) : (s.watchReply p npc).MemOk := by
  unfold State.watchReply
  dsimp only
  split
  · split
    · exact State.dropReply_memOk hs
    · split
      · exact State.modSlot_memOk (State.acquireAt_memOk (State.dropReply_memOk hs))
      · exact State.consumePoison_memOk (State.memOk_update (State.modSlot_memOk (State.dropReply_memOk hs)))
  · exact State.dropReply_memOk hs

theorem execLoadReply_memOk {id : Nat} {s : State} (hs : s.MemOk) : OnNext State.MemOk (execLoadReply id s) := by
  unfold execLoadReply
  split
  · exact .next hs
  · dsimp only
    split
    · refine .next ?_
      split
      · exact hs
      · exact State.watchReply_memOk hs
    · split
      · exact .next hs
      · split
        · exact .next (State.dropReply_memOk hs)
        · split
          · exact .next (State.loadValue_memOk hs)
          · split
            · split
              · exact .next (State.elemPoison_memOk hs)
              · refine .next ?_
                split
                · exact hs
                · exact State.failGroup_memOk hs
            · exact .next (State.failGroup_memOk hs)

theorem execStoreAck_memOk {id : Nat} {s : State} (hs : s.MemOk) : OnNext State.MemOk (execStoreAck id s) := by
  unfold execStoreAck
  split
  · exact .next hs
  · dsimp only
    split
    · exact .next hs
    · split
      · exact .next hs
      · split
        · exact .next (State.dropReply_memOk hs)
        · split
          · refine .next ?_
            split
            · exact State.dropReply_memOk hs
            · exact State.modSlot_memOk (State.dropReply_memOk hs)
          · refine .next ?_
            split
            · exact hs
            · exact State.failGroup_memOk hs

theorem execWalkComplete_memOk {e id : Nat} {s : State} (hs : s.MemOk) :
    OnNext State.MemOk (execWalkComplete e id s) := by
  unfold execWalkComplete
  split
  · exact .next hs
  · dsimp only
    split
    · refine .next ?_
      split
      · exact hs
      · exact foldl_keeps hs (fun _ _ => State.readLines_memOk)
    · refine .next (State.modDie_memOk ?_)
      split
      · exact hs
      · exact foldl_keeps hs (fun _ _ => State.readLines_memOk)
    · refine .next (State.modDie_memOk ?_)
      split
      · exact hs
      · exact foldl_keeps hs (fun _ _ => State.readLines_memOk)

theorem execSlotFill_memOk {c h i : Nat} {s : State} (hs : s.MemOk) : OnNext State.MemOk (execSlotFill c h i s) := by
  unfold execSlotFill
  refine .next ?_
  split
  · exact hs
  · exact State.modCore_memOk hs

theorem State.expApply_memOk {s : State} {d : XAdd} (hs : s.MemOk) : (s.expApply d).MemOk := by
  unfold State.expApply
  split
  · exact hs
  · exact State.writeAt_memOk (State.snapSlot_memOk hs)

theorem execExperienceAdd_memOk {id : Nat} {s : State} (hs : s.MemOk) :
    OnNext State.MemOk (execExperienceAdd id s) := by
  unfold execExperienceAdd
  split
  · exact .next hs
  · split
    · exact .next hs
    · dsimp only
      split
      · split
        · exact .next (OnSome.getD (State.holdUpdate_memOk hs) hs)
        · exact .next (State.expApply_memOk hs)
      · exact .next (State.expApply_memOk hs)

theorem execStreamFetch_memOk {c n r : Nat} {s : State} (hs : s.MemOk) :
    OnNext State.MemOk (execStreamFetch c n r s) := by
  unfold execStreamFetch
  split
  · exact .next hs
  · split
    · exact .next hs
    · dsimp only
      split
      · exact .next (State.modStream_memOk (State.streamUpdate_memOk hs))
      · split
        · exact .next (State.resolveAll_memOk hs)
        · exact .next (State.modStream_memOk (State.streamUpdate_memOk (State.resolveAll_memOk hs)))
        · exact .next (State.modStream_memOk (State.streamUpdate_memOk (State.resolveAll_memOk hs)))
        · split
          · exact .next (State.readElems_memOk (State.resolveAll_memOk hs))
          · split <;> exact .next (State.modStream_memOk (State.streamUpdate_memOk (State.readElems_memOk
              (State.resolveAll_memOk hs))))

theorem execBarrierArrival_memOk {b : BarId} {h : Nat} {drop : Bool} {record : BitVec 20} {s : State} (hs : s.MemOk) :
    OnNext State.MemOk (execBarrierArrival b h drop record s) := by
  unfold execBarrierArrival
  refine .next ?_
  split
  · exact State.arrive_memOk hs
  · exact hs

theorem execSleepExpiry_memOk {c n : Nat} {s : State} (hs : s.MemOk) :
    OnNext State.MemOk (execSleepExpiry c n s) := by
  unfold execSleepExpiry
  split
  · split
    · exact .next (State.modSlot_memOk hs)
    · exact .next hs
  · exact .next hs

/-! ### Machine/Phases -/

theorem State.modDet_memOk {s : State} {h : Nat} {f : Det → Det} (hs : s.MemOk) : (s.modDet h f).MemOk :=
  State.modHearth_memOk hs

theorem execExitCount_memOk {h n : Nat} {s : State} (hs : s.MemOk) : OnNext State.MemOk (execExitCount h n s) := by
  unfold execExitCount
  split
  · exact .next hs
  · split
    · exact .next hs
    · exact .next (State.modDet_memOk hs)

theorem State.applyAdds_memOk {s : State} {us : List DetUpd} (hs : s.MemOk) : (s.applyAdds us).MemOk := by
  unfold State.applyAdds
  refine foldl_keeps hs (fun _ _ h1 => ?_)
  split
  · exact State.expApply_memOk h1
  · exact h1

theorem State.mergeWord_memOk {s : State} {h w : Nat} {us : List DetUpd} (hs : s.MemOk) :
    (s.mergeWord h w us).MemOk := by
  unfold State.mergeWord
  dsimp only
  split
  · exact State.report_memOk (State.readLines_memOk hs)
  · exact State.applyAdds_memOk (State.applyFloats_memOk (State.applyInts_memOk (State.readLines_memOk hs)))

theorem State.dropDeferred_memOk {s : State} {h : Nat} {p : Nat → Bool} (hs : s.MemOk) : (s.dropDeferred h p).MemOk :=
  State.memOk_update (State.modDet_memOk hs)

theorem execHomeCommitMerge_memOk {hm h : Nat} {s : State} (hs : s.MemOk) :
    OnNext State.MemOk (execHomeCommitMerge hm h s) := by
  unfold execHomeCommitMerge
  dsimp only
  split
  · exact .next hs
  · exact .next (State.modDet_memOk (State.dropDeferred_memOk (foldl_keeps (foldl_keeps hs (fun _ _ =>
      State.applyEntry_memOk)) (fun _ _ => State.mergeWord_memOk))))

theorem State.endPhase_memOk {s : State} {h : Nat} (hs : s.MemOk) : (s.endPhase h).MemOk := by
  unfold State.endPhase
  split
  · exact State.modDet_memOk (State.dropPhaseEntries_memOk hs)
  · exact hs

theorem State.applyFills_memOk {s : State} {l : List Fill} (hs : s.MemOk) : (s.applyFills l).MemOk :=
  foldl_keeps hs (fun _ _ => State.tryFuture_memOk)

theorem execPhaseCommit_memOk {h : Nat} {s : State} (hs : s.MemOk) : OnNext State.MemOk (execPhaseCommit h s) := by
  unfold execPhaseCommit
  dsimp only
  split
  · exact .next hs
  · split
    · refine .next ?_
      split
      · exact State.modDet_memOk hs
      · exact hs
    · split
      · exact .next hs
      · exact .next (State.modHearth_memOk (State.endPhase_memOk (State.applyFills_memOk hs)))

theorem State.discardPhase_memOk {s : State} {h : Nat} (hs : s.MemOk) : (s.discardPhase h).MemOk :=
  State.endPhase_memOk (State.dropDeferred_memOk hs)

/-! ### Machine/Commands -/

theorem State.journalCmd_memOk {s : State} {h : Nat} {c : Command} {state result : Nat} (hs : s.MemOk) :
    (s.journalCmd h c state result).MemOk :=
  State.setJournal_memOk hs

theorem State.dropCmd_memOk {s : State} {h : Nat} {c : Command} (hs : s.MemOk) : (s.dropCmd h c).MemOk :=
  State.modHearth_memOk hs

theorem State.refuseBad_memOk {s : State} {h l : Nat} (hs : s.MemOk) : (s.refuseBad h l).MemOk := by
  induction l generalizing s h with
  | zero => exact hs
  | succ n ih =>
    unfold State.refuseBad
    split
    · split
      · exact ih (State.dropCmd_memOk (State.journalCmd_memOk hs))
      · exact hs
    · exact hs

theorem State.endCmd_memOk {s : State} {h : Nat} {c : Command} {state result : Nat} (hs : s.MemOk) :
    (s.endCmd h c state result).MemOk :=
  State.refuseBad_memOk (State.dropCmd_memOk (State.journalCmd_memOk hs))

theorem State.endFree_memOk {s : State} {h : Nat} {c : Command} {state : Nat} (hs : s.MemOk) :
    (s.endFree h c state).MemOk :=
  State.refuseBad_memOk (State.dropCmd_memOk (State.journalCmd_memOk hs))

theorem State.runCmdOn_memOk {s : State} {h : Nat} {c : Command} (hs : s.MemOk) : (s.runCmdOn h c).MemOk :=
  State.modHearth_memOk (State.journalCmd_memOk hs)

theorem State.onCmd_memOk {s : State} {h op : Nat} {mine : Command → Bool} {go : Command → State → State}
    (hs : s.MemOk) (hgo : ∀ x s, s.MemOk → (go x s).MemOk) : OnNext State.MemOk (s.onCmd h op mine go) := by
  unfold State.onCmd
  split
  · exact .next hs
  · refine .next ?_
    split
    · exact hs
    · split
      · exact hgo _ _ hs
      · exact State.runCmdOn_memOk hs

theorem State.doorbell_memOk {s : State} {h q : Nat} {tail : BitVec 32} (hs : s.MemOk) :
    (s.doorbell h q tail).MemOk := by
  unfold State.doorbell
  dsimp only
  split
  · exact hs
  · split <;> exact State.modHearth_memOk hs

theorem execQtailDoorbell_memOk {h q : Nat} {tail : BitVec 32} {s : State} (hs : s.MemOk) :
    OnNext State.MemOk (execQtailDoorbell h q tail s) := by
  unfold execQtailDoorbell
  refine .next ?_
  split
  · exact State.doorbell_memOk hs
  · exact hs

theorem execCommandAccept_memOk {h q : Nat} {s : State} (hs : s.MemOk) :
    OnNext State.MemOk (execCommandAccept h q s) := by
  unfold execCommandAccept
  dsimp only
  split
  · exact .next hs
  · exact .next (State.refuseBad_memOk (State.journalCmd_memOk (State.modHearth_memOk hs)))

theorem State.setAccept_memOk {s : State} {v : BitVec 128} (hs : s.MemOk) : (s.setAccept v).MemOk := by
  unfold State.setAccept
  split
  · exact hs
  · dsimp only
    exact hs

theorem State.launchOne_memOk {s : State} {h : Nat} {c : Command} {tmpl : List Word} {i : Nat} (hs : s.MemOk) :
    OnSome (OnSnd State.MemOk) (s.launchOne h c tmpl i) := by
  unfold State.launchOne
  extract_lets q id tr fut desc stop
  have hstop (e : Nat × Word) {t : State} (ht : t.MemOk) : OnSome (OnSnd State.MemOk) (stop e t) := by
    change OnSome (OnSnd State.MemOk) (if _ then _ else _)
    split
    · exact .none
    · exact .some ht
  clear_value stop
  split
  · exact .some (State.dupTask_memOk hs)
  · split
    · exact hstop _ hs
    · exact hstop _ hs
    · split
      · exact .some hs
      · split
        · exact hstop _ hs
        next s1 e =>
          have h1 := (State.hwWords_memOk hs).of_eq e
          have h2 : OnOk State.MemOk (if c.flags.testBit 6 then s1.hwWords h fut [futWord 0 (taskNo id)] else .ok s1)
              := by
            split
            · exact State.hwWords_memOk h1
            · exact .ok h1
          split
          · exact hstop _ h1
          next e =>
            have h3 := h2.of_eq e
            split
            next e =>
              have h4 := holds_of_eq (State.queuePush_memOk h3) e
              split
              next e =>
                have h5 := ((State.casTask_memOk h4).of_eq e).of_eq rfl
                refine .some ?_
                change State.MemOk (if _ then _ else _)
                split
                · exact State.created_memOk h5
                · exact h5
              · exact hstop _ h4
            · exact .some h3
            · exact hstop _ h3

theorem State.launchAll_memOk {s : State} {h : Nat} {c : Command} {tmpl : List Word} {l : List Nat} (hs : s.MemOk) :
    OnSome (OnSnd State.MemOk) (s.launchAll h c tmpl l) := by
  induction l generalizing s h c tmpl with
  | nil => exact .some hs
  | cons a r ih =>
    unfold State.launchAll
    split
    · exact .none
    next e1 => exact ih (OnSome.of_eq (State.launchOne_memOk hs) e1 :)
    next e1 => exact .some (OnSome.of_eq (State.launchOne_memOk hs) e1 :)

theorem State.launch_memOk {s0 : State} {h : Nat} {c : Command} (hs0 : s0.MemOk) : (s0.launch h c).MemOk := by
  unfold State.launch
  dsimp only
  split
  · exact State.endCmd_memOk (State.asHub_memOk hs0)
  · split
    · exact State.endFree_memOk (State.report_memOk (State.asHub_memOk hs0))
    · split
      · exact State.endFree_memOk (State.asHub_memOk hs0)
      · split
        · exact hs0
        · split
          · exact State.endFree_memOk (State.asHub_memOk hs0)
          · split
            · split
              · exact hs0
              · exact State.endFree_memOk (State.asHub_memOk hs0)
            · split
              · exact hs0
              next e1 =>
                exact State.endCmd_memOk (OnSome.of_eq (State.launchAll_memOk (State.asHub_memOk hs0)) e1 :)
              next e1 =>
                exact State.endCmd_memOk (OnSome.of_eq (State.launchAll_memOk (State.asHub_memOk hs0)) e1 :)

theorem execLaunch_memOk {h : Nat} {s : State} (hs : s.MemOk) : OnNext State.MemOk (execLaunch h s) :=
  State.onCmd_memOk hs (fun _ _ => State.launch_memOk)

theorem State.declare_memOk {s : State} {h : Nat} {c : Command} (hs : s.MemOk) : (s.declare h c).MemOk := by
  unfold State.declare
  dsimp only
  split
  · exact State.endCmd_memOk hs
  · exact State.endCmd_memOk (State.modDet_memOk hs)

theorem execPhaseDeclare_memOk {h : Nat} {s : State} (hs : s.MemOk) : OnNext State.MemOk (execPhaseDeclare h s) := by
  unfold execPhaseDeclare
  refine State.onCmd_memOk hs (fun _ _ h1 => ?_)
  split
  · exact State.endCmd_memOk h1
  · exact State.declare_memOk h1

theorem execPhaseEnterDeterministic_memOk {h : Nat} {s : State} (hs : s.MemOk) :
    OnNext State.MemOk (execPhaseEnterDeterministic h s) := by
  unfold execPhaseEnterDeterministic
  refine State.onCmd_memOk hs (fun _ _ h1 => ?_)
  split
  · exact State.endFree_memOk h1
  · exact State.declare_memOk h1

theorem execPhaseAbort_memOk {h : Nat} {s : State} (hs : s.MemOk) : OnNext State.MemOk (execPhaseAbort h s) := by
  unfold execPhaseAbort
  refine State.onCmd_memOk hs (fun _ _ h1 => ?_)
  dsimp only
  split
  · exact h1
  · split
    · exact State.endCmd_memOk h1
    · split
      · exact State.endCmd_memOk h1
      · split
        · exact State.endCmd_memOk (State.discardPhase_memOk h1)
        · exact State.modDet_memOk h1

theorem execSignal_memOk {h : Nat} {s : State} (hs : s.MemOk) : OnNext State.MemOk (execSignal h s) := by
  unfold execSignal
  refine State.onCmd_memOk hs (fun _ _ h1 => ?_)
  dsimp only
  split
  · exact State.endFree_memOk h1
  · split
    · exact h1
    · exact State.endCmd_memOk h1

theorem State.evictRun_memOk {s : State} {c h : Nat} {count : Word} {l : Nat} (hs : s.MemOk) :
    OnSnd State.MemOk (s.evictRun c h count l) := by
  induction l generalizing s c h count with
  | zero => exact hs
  | succ n ih =>
    unfold State.evictRun
    dsimp only
    split
    · exact hs
    · split
      · exact hs
      · split
        · exact ih hs
        · split
          · exact hs
          · exact hs
          next e1 => exact ih (State.modCore_memOk ((State.hwWords_memOk hs).of_eq e1))

theorem State.evictRuns_memOk {s : State} {h : Nat} (hs : s.MemOk) : OnSnd State.MemOk (s.evictRuns h) := by
  unfold State.evictRuns
  split
  · exact hs
  · refine foldl_keeps (P := OnSnd State.MemOk) hs (fun _ _ h1 => ?_)
    split
    · exact h1
    · split
      · exact h1
      · exact State.evictRun_memOk h1

theorem execSuspend_memOk {h : Nat} {s : State} (hs : s.MemOk) : OnNext State.MemOk (execSuspend h s) := by
  unfold execSuspend
  refine State.onCmd_memOk hs (fun _ _ h1 => ?_)
  dsimp only
  split
  · exact State.evictRuns_memOk (State.asHub_memOk (foldl_keeps (State.modHearth_memOk h1) (fun _ _ =>
      State.preempt_memOk)))
  · exact State.endCmd_memOk (foldl_keeps (State.evictRuns_memOk (State.asHub_memOk (foldl_keeps
      (State.modHearth_memOk h1) (fun _ _ => State.preempt_memOk)))) (fun _ _ => State.sendEntries_memOk))

theorem execResume_memOk {h : Nat} {s : State} (hs : s.MemOk) : OnNext State.MemOk (execResume h s) := by
  unfold execResume
  refine State.onCmd_memOk hs (fun _ _ h1 => ?_)
  dsimp only
  split
  · exact State.endCmd_memOk (foldl_keeps (P := OnSnd State.MemOk) (State.modHearth_memOk h1) (fun _ _ =>
      State.restoreThread_memOk))
  · exact foldl_keeps (P := OnSnd State.MemOk) (State.modHearth_memOk h1) (fun _ _ => State.restoreThread_memOk)

/-! ### Machine/Loader -/

theorem Built.then_memOk {b : Built} {f : State → Built} (hb : Built.MemOk b)
    (hf : ∀ s, s.MemOk → Built.MemOk (f s)) : Built.MemOk (Built.then b f) := by
  cases b with
  | ok s => exact hf s hb
  | pool s => exact hb
  | conflict s => exact hb

theorem Built.each_memOk {α : Type} {f : State → α → Built} {l : List α} {s : State}
    (hf : ∀ s y, s.MemOk → Built.MemOk (f s y)) (hs : s.MemOk) : Built.MemOk (Built.each f l s) := by
  induction l generalizing s with
  | nil => exact hs
  | cons a r ih => exact Built.then_memOk (hf s a hs) fun _ h => ih h

theorem State.takePool_memOk {s : State} {h n : Nat} (hs : s.MemOk) :
    OnSome (OnSnd State.MemOk) (s.takePool h n) := by
  unfold State.takePool
  dsimp only
  split
  · exact .none
  · exact .some (State.modHearth_memOk hs)

theorem State.tableAt_memOk {s : State} {h table idx : Nat} (hs : s.MemOk) :
    Reached.MemOk (s.tableAt h table idx) := by
  unfold State.tableAt
  split
  · split
    · split
      · exact hs
      next e1 => exact State.writeAt_memOk (State.writeAt_memOk (OnSome.of_eq (State.takePool_memOk hs) e1 :))
    · split <;> exact hs
  · exact hs

theorem State.descend_memOk {s : State} {h table : Nat} {l : List Nat} (hs : s.MemOk) :
    Reached.MemOk (s.descend h table l) := by
  induction l generalizing s h table with
  | nil => exact hs
  | cons a r ih =>
    unfold State.descend
    split
    next e1 => exact ih (holds_of_eq (State.tableAt_memOk hs) e1 :)
    · exact State.tableAt_memOk hs

theorem State.setLeaf_memOk {s : State} {h : Nat} {va : Word} {e : Nat} (hs : s.MemOk) :
    Built.MemOk (s.setLeaf h va e) := by
  unfold State.setLeaf
  split
  next e1 => exact State.writeAt_memOk (holds_of_eq (State.descend_memOk hs) e1 :)
  next e1 => exact (holds_of_eq (State.descend_memOk hs) e1 :)

theorem Built.finish_memOk {b : Built} {h : Nat} {c : Command} (hb : Built.MemOk b) : (Built.finish b h c).MemOk := by
  cases b with
  | ok s => exact State.endCmd_memOk hb
  | pool s => exact State.endCmd_memOk hb
  | conflict s => exact State.endFree_memOk hb

theorem execMap_memOk {h : Nat} {s : State} (hs : s.MemOk) : OnNext State.MemOk (execMap h s) := by
  unfold execMap
  refine State.onCmd_memOk hs fun _ _ h1 => ?_
  extract_lets sz
  split
  · exact State.endFree_memOk h1
  · split
    · exact State.endCmd_memOk h1
    · exact Built.finish_memOk (Built.each_memOk (fun _ _ => State.setLeaf_memOk) h1)

theorem State.unmapPage_memOk {s : State} {h : Nat} {va : Word} (hs : s.MemOk) : (s.unmapPage h va).MemOk := by
  unfold State.unmapPage
  split
  · exact State.writeAt_memOk hs
  · exact hs

theorem execUnmap_memOk {h : Nat} {s : State} (hs : s.MemOk) : OnNext State.MemOk (execUnmap h s) := by
  unfold execUnmap
  refine State.onCmd_memOk hs (fun _ _ h1 => ?_)
  dsimp only
  split
  · exact foldl_keeps h1 (fun _ _ => State.unmapPage_memOk)
  · exact State.endCmd_memOk (State.tlbi_memOk (foldl_keeps h1 (fun _ _ => State.unmapPage_memOk)))

theorem Load.page_memOk {l : Load} {x : Sect} {s : State} {p : Nat} (hs : s.MemOk) :
    Built.MemOk (Load.page l x s p) := by
  unfold Load.page
  split
  · exact hs
  next e1 =>
    dsimp only
    exact State.setLeaf_memOk (State.writeAt_memOk (OnSome.of_eq (State.takePool_memOk hs) e1 :))

theorem Load.section_memOk {l : Load} {s : State} {x : Sect} (hs : s.MemOk) : Built.MemOk (Load.section_ l s x) := by
  unfold Load.section_
  split
  · exact Built.each_memOk (fun _ _ => Load.page_memOk) hs
  · exact hs

theorem State.setXa_memOk {s : State} {h : Nat} {va : Word} {xa : Nat} (hs : s.MemOk) : (s.setXa h va xa).MemOk := by
  unfold State.setXa
  split
  · exact hs
  · dsimp only
    split
    · exact hs
    · exact State.tlbi_memOk (State.writeAt_memOk hs)

theorem Load.seed_memOk {l : Load} {x : Sect} {s : State} {i : Nat} (hs : s.MemOk) :
    Built.MemOk (Load.seed l x s i) := by
  unfold Load.seed
  dsimp only
  split
  · exact State.writeAt_memOk (State.setXa_memOk hs)
  · split
    · exact hs
    next e1 =>
      exact Built.then_memOk (State.setLeaf_memOk (OnSome.of_eq (State.takePool_memOk hs) e1 :))
          (fun _ => State.writeAt_memOk)

theorem Load.ring_memOk {l : Load} {x : Sect} {s : State} {i : Nat} (hs : s.MemOk) :
    Built.MemOk (Load.ring l x s i) := by
  unfold Load.ring
  refine foldl_keeps hs (fun _ _ h1 => ?_)
  split
  next e1 => exact (State.hwWords_memOk h1).of_eq e1
  · exact h1

theorem Load.channels_memOk {l : Load} {x : Sect} {s : State} (hs : s.MemOk) : (Load.channels l x s).MemOk :=
  foldl_keeps hs (fun _ _ h1 => foldl_keeps h1 (fun _ _ => State.modCore_memOk))

theorem Load.lstore_memOk {l : Load} {x : Sect} {s : State} (hs : s.MemOk) : (Load.lstore l x s).MemOk :=
  foldl_keeps hs (fun _ _ => State.writeLS_memOk)

theorem Load.write_memOk {l : Load} {s : State} (hs : s.MemOk) : Built.MemOk (Load.write l s) := by
  unfold Load.write
  extract_lets ss
  clear_value ss
  refine Built.then_memOk (Built.each_memOk (fun _ _ => Load.section_memOk) hs) fun _ h1 => ?_
  refine Built.then_memOk (Built.each_memOk (fun _ _ h => Built.each_memOk (fun _ _ => Load.seed_memOk) h) h1)
      fun _ h2 => ?_
  refine Built.then_memOk (Built.each_memOk (fun _ _ h => Built.each_memOk (fun _ _ => Load.ring_memOk) h) h2)
      fun _ h3 => ?_
  exact foldl_keeps (foldl_keeps h3 fun _ _ h => Load.lstore_memOk h) fun _ _ h => Load.channels_memOk h

theorem State.loadbin_memOk {s0 : State} {h : Nat} {c : Command} (hs0 : s0.MemOk) : (s0.loadbin h c).MemOk := by
  unfold State.loadbin
  have h1 := State.asHub_memOk hs0
  extract_lets s pa cores g b
  split
  · exact State.endFree_memOk h1
  · split
    · exact State.endFree_memOk h1
    · split
      · exact State.endFree_memOk h1
      · extract_lets known l
        clear_value l
        split
        · exact State.endFree_memOk h1
        · split
          · exact State.endCmd_memOk h1
          · split
            · exact hs0
            · exact Built.finish_memOk (Load.write_memOk (State.modHearth_memOk h1))

theorem execLoadbin_memOk {h : Nat} {s : State} (hs : s.MemOk) : OnNext State.MemOk (execLoadbin h s) :=
  State.onCmd_memOk hs (fun _ _ => State.loadbin_memOk)

/-! ### Machine/Device -/

theorem State.unhand_memOk {s : State} {c n : Nat} (hs : s.MemOk) : (s.unhand c n).MemOk := by
  unfold State.unhand
  split
  · exact hs
  · dsimp only
    split
    · split
      · exact State.discardCmds_memOk (State.cancelAll_memOk (State.unclaimOwner_memOk hs))
      · exact State.cancelAll_memOk (State.unclaimOwner_memOk hs)
    · split
      · exact State.discardCmds_memOk (State.cancelAll_memOk (OnSome.getD (State.boundary_memOk
          (State.unclaimOwner_memOk hs)) (State.unclaimOwner_memOk hs)))
      · exact State.cancelAll_memOk (OnSome.getD (State.boundary_memOk (State.unclaimOwner_memOk hs))
          (State.unclaimOwner_memOk hs))

theorem State.restartSlot_memOk {s : State} {c n : Nat} (hs : s.MemOk) : (s.restartSlot c n).MemOk :=
  State.restartRegion_memOk hs

theorem State.disposeSlot_memOk {s : State} {c n : Nat} (hs : s.MemOk) : OnFst State.MemOk (s.disposeSlot c n) := by
  unfold State.disposeSlot
  split
  · exact State.killTask_memOk hs
  · split
    next e1 => exact State.killTask_memOk ((State.spillSlot_memOk hs).of_eq e1)
    next e1 =>
      refine State.freeSlot_memOk (State.memOk_update (State.memOk_update ?_))
      split
      · exact State.modCore_memOk ((State.spillSlot_memOk hs).of_eq e1)
      · exact State.leave_memOk ((State.spillSlot_memOk hs).of_eq e1)

theorem State.forwardRun_memOk {s : State} {c h l : Nat} (hs : s.MemOk) : OnFst State.MemOk (s.forwardRun c h l) := by
  induction l generalizing s c h with
  | zero => exact hs
  | succ n ih =>
    unfold State.forwardRun
    dsimp only
    split
    · exact hs
    · split
      · exact State.fresh_memOk hs
      next e1 =>
        exact ih (State.memOk_update (State.unkeep_memOk ((State.hwWords_memOk (State.fresh_memOk hs)).of_eq e1)))

theorem State.closeQuarantined_memOk {s : State} {c : Nat} (hs : s.MemOk) : (s.closeQuarantined c).MemOk := by
  unfold State.closeQuarantined
  dsimp only
  split
  · exact hs
  · exact State.closeLog_memOk hs

theorem State.dispose_memOk {s : State} {c n : Nat} (hs : s.MemOk) : (s.dispose c n).MemOk := by
  unfold State.dispose
  extract_lets who ts s1
  have h1 : s1.MemOk := State.closeQuarantined_memOk (foldl_keeps hs fun _ _ h => State.restartSlot_memOk h)
  clear_value s1
  split
  next s2 ab fr e =>
    have h2 : OnFst State.MemOk (s2, ab, fr) := by
      rw [← e]
      exact foldl_keeps (P := OnFst State.MemOk) h1 fun r n h => State.disposeSlot_memOk h
    split
    next s3 fr e =>
      have h3 : OnFst State.MemOk (s3, fr) := by
        rw [← e]
        exact foldl_keeps (P := OnFst State.MemOk) h2 fun r h hr => State.forwardRun_memOk hr
      exact State.report_memOk h3

theorem State.disposal_memOk {s : State} {c : Nat} (hs : s.MemOk) : (s.disposal c).MemOk := by
  unfold State.disposal
  dsimp only
  split
  · exact State.dispose_memOk (State.memOk_update (foldl_keeps hs (fun _ _ => State.unhand_memOk)))
  · exact State.memOk_update (foldl_keeps hs (fun _ _ => State.unhand_memOk))

theorem State.quarantine_memOk {s : State} {c n : Nat} (hs : s.MemOk) : (s.quarantine c n).MemOk := by
  unfold State.quarantine
  split
  · exact hs
  · exact State.disposal_memOk (State.modCore_memOk hs)

theorem State.softLimit_memOk {s : State} {c n : Nat} (hs : s.MemOk) : (s.softLimit c n).MemOk := by
  unfold State.softLimit
  split
  next e1 =>
    dsimp only
    split
    · split
      · exact State.quarantine_memOk (State.modCore_memOk ((State.free_memOk hs).of_eq e1))
      · exact State.modCore_memOk ((State.free_memOk hs).of_eq e1)
    · split
      · exact State.quarantine_memOk ((State.free_memOk hs).of_eq e1)
      · exact (State.free_memOk hs).of_eq e1

theorem State.deviceError_memOk {s : State} {r : Record} {hs : List Nat} (hs' : s.MemOk) :
    (s.deviceError r hs).MemOk :=
  foldl_keeps hs' (fun _ _ => State.report_memOk)

theorem execDramPatrol_memOk {line bad : Nat} {upset : List Nat} {s : State} (hs : s.MemOk) :
    OnNext State.MemOk (execDramPatrol line bad upset s) := by
  unfold execDramPatrol
  refine .next ?_
  split
  · split
    · exact State.readLine_memOk hs
    · exact State.memOk_update (State.readLine_memOk hs)
  · split <;> exact hs

theorem State.copyLines_memOk {s : State} {hm : Nat} {p : Nat → Bool} (hs : s.MemOk) : (s.copyLines hm p).MemOk :=
  foldl_keeps hs (fun _ _ => State.readLine_memOk)

theorem execRepairComplete_memOk {hm : Nat} {r : RepairKind} {layer bank row : Nat} {s : State} (hs : s.MemOk) :
    OnNext State.MemOk (execRepairComplete hm r layer bank row s) := by
  unfold execRepairComplete
  split
  · exact .next hs
  · split
    next e1 =>
      split
      · exact .next hs
      · dsimp only
        exact .next (State.report_memOk (State.modHome_memOk ((State.free_memOk (State.copyLines_memOk hs)).of_eq
            e1)))

theorem State.saveDie_memOk {s : State} {e : Nat} (hs : s.MemOk) : (s.saveDie e).MemOk := by
  unfold State.saveDie
  refine foldl_keeps hs (fun _ _ h1 => foldl_keeps h1 (fun _ _ h2 => ?_))
  dsimp only
  split
  · exact h2
  · split
    · exact State.saveThread_memOk (State.stopSequence_memOk h2)
    · exact State.stopSequence_memOk h2

theorem execThermalTrip_memOk {e trip : Nat} {s : State} (hs : s.MemOk) :
    OnNext State.MemOk (execThermalTrip e trip s) := by
  unfold execThermalTrip
  dsimp only
  split
  · exact .next hs
  · split
    · refine .next ?_
      split
      · exact hs
      · exact State.report_memOk (State.modDie_memOk hs)
    · refine .next ?_
      split
      · exact hs
      · exact State.report_memOk (State.modDie_memOk hs)
    · split
      · exact .next (State.saveDie_memOk hs)
      · exact .next (foldl_keeps (State.saveDie_memOk (State.modDie_memOk hs)) (fun _ _ => State.report_memOk))
    · exact .next (State.deviceError_memOk (State.modDie_memOk hs))
    · exact .next hs

theorem execThermalRelease_memOk {e trip : Nat} {s : State} (hs : s.MemOk) :
    OnNext State.MemOk (execThermalRelease e trip s) := by
  unfold execThermalRelease
  split
  · exact .next hs
  · split
    · exact .next (State.modDie_memOk hs)
    · exact .next (State.modDie_memOk hs)
    · exact .next (State.modDie_memOk hs)
    · exact .next hs

theorem State.loseHost_memOk {s : State} (hs : s.MemOk) : s.loseHost.MemOk :=
  State.deviceError_memOk hs

theorem execHostLoss_memOk {s : State} (hs : s.MemOk) : OnNext State.MemOk (execHostLoss s) := by
  unfold execHostLoss
  refine .next ?_
  split
  · exact State.loseHost_memOk hs
  · exact hs

theorem execIdeFailure_memOk {s : State} (hs : s.MemOk) : OnNext State.MemOk (execIdeFailure s) := by
  unfold execIdeFailure
  refine .next ?_
  split
  · exact State.loseHost_memOk (State.deviceError_memOk hs)
  · exact hs

theorem execHostMemoryAccess_memOk {d : Nat} {store : Option (List Byte)} {s : State} (hs : s.MemOk) :
    OnNext State.MemOk (execHostMemoryAccess d store s) := by
  unfold execHostMemoryAccess
  dsimp only
  split
  · exact .next hs
  · split
    · split
      · exact .next hs
      · refine .next (State.writeAt_memOk ?_)
        split
        · exact hs
        · exact State.readLine_memOk hs
    · exact .next (State.readLine_memOk hs)

theorem State.hostWrite_memOk {s : State} {off : Nat} {v : Word} (hs : s.MemOk) : (s.hostWrite off v).MemOk := by
  unfold State.hostWrite
  dsimp only
  split
  · exact State.modHearth_memOk hs
  · exact State.setAccept_memOk hs
  · exact State.hubWrite_memOk hs
  · exact State.hubWrite_memOk hs
  · exact State.hubWrite_memOk hs
  · exact hs
  · split
    · exact State.doorbell_memOk hs
    · split
      · exact hs
      · exact State.modHearth_memOk hs

theorem State.openContext_memOk {s : State} {n hearth port : Nat} {ring : Option Word} (hs : s.MemOk) :
    (s.openContext n hearth port ring).MemOk := by
  unfold State.openContext
  split
  · exact hs
  · dsimp only
    exact hs

theorem execRegisterWrite_memOk {w : HubPlace} {v : Word} {s : State} (hs : s.MemOk) :
    OnNext State.MemOk (execRegisterWrite w v s) := by
  unfold execRegisterWrite
  split
  · refine .next ?_
    split
    · exact State.hostWrite_memOk hs
    · exact hs
  · exact .next (State.openContext_memOk hs)

theorem State.emptyRunQueues_memOk {s : State} {h : Nat} (hs : s.MemOk) : (s.emptyRunQueues h).MemOk := by
  unfold State.emptyRunQueues
  split
  · exact hs
  · refine foldl_keeps hs (fun _ _ h1 => ?_)
    split
    · exact h1
    · split
      · exact h1
      · split
        · exact h1
        · exact OnOk.getD (State.hwWords_memOk (State.asHub_memOk h1)) h1

theorem State.resetHearth_memOk {s : State} {h : Nat} {c : Command} (hs : s.MemOk) : (s.resetHearth h c).MemOk := by
  unfold State.resetHearth
  exact State.modHearth_memOk (State.discardPhase_memOk (State.memOk_update (foldl_keeps (State.memOk_update
      (State.memOk_update (State.memOk_update (State.dropHearthMisses_memOk (State.emptyRunQueues_memOk hs)))))
      (fun _ _ => State.freeSlot_memOk))))

theorem execReset_memOk {h : Nat} {s : State} (hs : s.MemOk) : OnNext State.MemOk (execReset h s) := by
  unfold execReset
  refine State.onCmd_memOk hs (fun _ _ h1 => ?_)
  split
  next e1 => exact State.resetHearth_memOk ((State.hwWords_memOk (State.asHub_memOk h1)).of_eq e1)
  · split
    · exact h1
    · exact State.resetHearth_memOk h1

theorem State.loseMemory_memOk {s : State} {p : Nat → Bool} (hs : s.MemOk) : (s.loseMemory p).MemOk := by
  refine foldl_keeps hs fun t e ht => ?_
  split
  · exact Memory.write_wf e.1 _ (State.free_memOk ht)
  · exact ht

theorem State.losePackageMemory_memOk {s : State} (hs : s.MemOk) : s.losePackageMemory.MemOk :=
  State.loseMemory_memOk hs

theorem State.deviceReset_memOk {s : State} (hs : s.MemOk) : s.deviceReset.MemOk :=
  State.memOk_update (State.losePackageMemory_memOk hs)

theorem execBoot_memOk {images : List (List Byte)} {reinit : Bool} {s : State} (hs : s.MemOk) :
    OnNext State.MemOk (execBoot images reinit s) := by
  unfold execBoot
  refine .next ?_
  split
  · dsimp only
    exact State.memOk_update (State.loseMemory_memOk hs)
  · dsimp only
    exact hs

theorem State.spdm_memOk {s : State} {kind : Nat} {data : List Byte} (hs : s.MemOk) : (s.spdm kind data).MemOk :=
  hs

theorem execFirmwareThreadStart_memOk {image : Nat} {slot : Option Nat} {fr : Frame} {s : State} (hs : s.MemOk) :
    OnNext State.MemOk (execFirmwareThreadStart image slot fr s) := by
  unfold execFirmwareThreadStart
  extract_lets c x
  split
  · exact .next hs
  · split
    · split
      · exact .next hs
      · exact .next (State.placeFrame_memOk hs)
    · split
      next e =>
        split at e
        · cases e
        · exact .next (State.modCore_memOk (holds_of_eq (State.runAppend_memOk (State.memOk_update hs)) e :))
      · exact .next hs

theorem execBctlView_memOk {c : Nat} {v : Word} {s : State} (hs : s.MemOk) :
    OnNext State.MemOk (execBctlView c v s) := by
  unfold execBctlView
  refine .next ?_
  split
  · exact State.setBctl_memOk hs
  · exact hs

theorem execBctlDone_memOk {c : Nat} {v : Word} {s : State} (hs : s.MemOk) :
    OnNext State.MemOk (execBctlDone c v s) := by
  unfold execBctlDone
  refine .next ?_
  split
  · exact State.setBctl_memOk hs
  · exact hs

theorem execLsrepWrite_memOk {c n : Nat} {v : Word} {s : State} (hs : s.MemOk) :
    OnNext State.MemOk (execLsrepWrite c n v s) := by
  unfold execLsrepWrite
  refine .next ?_
  split
  · exact State.setLsrep_memOk hs
  · exact hs

theorem execBootTimeout_memOk {c : Nat} {s : State} (hs : s.MemOk) : OnNext State.MemOk (execBootTimeout c s) := by
  unfold execBootTimeout
  refine .next ?_
  split
  · exact hs
  · exact State.quarantine_memOk hs

theorem execReductionCtlWrite_memOk {h j : Nat} {v : Word} {s : State} (hs : s.MemOk) :
    OnNext State.MemOk (execReductionCtlWrite h j v s) := by
  unfold execReductionCtlWrite
  refine .next ?_
  split
  · exact State.setRedCtl_memOk hs
  · exact hs

theorem execReductionContribute_memOk {h j pkg : Nat} {v : Word} {s : State} (hs : s.MemOk) :
    OnNext State.MemOk (execReductionContribute h j pkg v s) := by
  unfold execReductionContribute
  split
  · exact .next hs
  · refine .next (State.contribute_memOk ?_)
    split
    · dsimp only
      exact State.setReduction_memOk hs
    · exact hs

theorem execReductionGenClear_memOk {h j : Nat} {v : Word} {s : State} (hs : s.MemOk) :
    OnNext State.MemOk (execReductionGenClear h j v s) := by
  unfold execReductionGenClear
  refine .next ?_
  split
  · exact State.clearRedGen_memOk hs
  · exact hs

theorem execUetReceive_memOk {ctx : Nat} {payload : List Byte} {s : State} (hs : s.MemOk) :
    OnNext State.MemOk (execUetReceive ctx payload s) := by
  unfold execUetReceive
  split
  · exact .next hs
  · dsimp only
    exact .next (State.memOk_update (State.writeAt_memOk hs))

theorem execPodLinkFailure_memOk {link : Nat} {s : State} (hs : s.MemOk) :
    OnNext State.MemOk (execPodLinkFailure link s) := by
  unfold execPodLinkFailure
  split
  · exact .next hs
  · dsimp only
    exact .next (foldl_keeps hs (fun _ _ => State.report_memOk))

theorem execFabricError_memOk {what : FabricLoss} {s : State} (hs : s.MemOk) :
    OnNext State.MemOk (execFabricError what s) := by
  unfold execFabricError
  split
  · split
    · exact .next hs
    · exact .next (State.report_memOk (State.resentBack_memOk hs))
  · split
    · exact .next hs
    · split
      · exact .next hs
      · exact .next (State.report_memOk hs)

/-! ### Machine/FloatOps -/

theorem fp2_memOk {i : Instr} {f : Fld} {op : Nat → Num → Num → Num} {s : State} (hs : s.MemOk) :
    OnNext State.MemOk (fp2 i f op s) :=
  gate_memOk (fun _ => State.result_memOk) hs

theorem fpCode_memOk {i : Instr} {f : Fld} {op : Fmt → Nat → Nat → Nat} {s : State} (hs : s.MemOk) :
    OnNext State.MemOk (fpCode i f op s) :=
  gate_memOk (fun _ => State.result_memOk) hs

theorem execFcvt_memOk {x : RR} {s : State} (hs : s.MemOk) : OnNext State.MemOk (execFcvt x s) := by
  unfold execFcvt
  refine gate_memOk (fun _ h1 => ?_) hs
  dsimp only
  split
  · exact State.modCur_memOk (State.result_memOk h1)
  · exact State.result_memOk h1

/-! ### Machine/Pending -/

theorem oldestFirst_memOk {n : Nat} {f : Nat → State → Out} (hf : ∀ x s, s.MemOk → OnNext State.MemOk (f x s)) :
    ∀ e ∈ oldestFirst n f, MemKept e := by
  unfold oldestFirst
  split
  · exact List.forall_mem_nil _
  · exact List.forall_mem_cons.mpr ⟨hf 0, List.forall_mem_map.mpr fun i _ => hf (i + 1)⟩

theorem State.pendingPieces_memOk {s : State} : ∀ e ∈ s.pendingPieces, MemKept e := by
  simp only [State.pendingPieces, List.forall_mem_append, List.forall_mem_map, List.forall_mem_flatMap,
      List.forall_mem_cons]
  exact ⟨⟨⟨fun _ _ _ => execReleaseStamp_memOk, fun _ _ => ⟨fun _ => execPieceArrival_memOk, fun _ =>
      execPieceApply_memOk,
    fun _ => execPieceAck_memOk, List.forall_mem_nil _⟩⟩, fun _ _ _ => execBeacon_memOk⟩, fun _ _ _ _ _ =>
        execBeaconReceipt_memOk⟩

theorem Req.events_memOk {r : Req} : ∀ e ∈ Req.events r, MemKept e := by
  have haccess : MemKept (execHomeAccess r.id) := fun _ => execHomeAccess_memOk
  unfold Req.events
  split
  · exact List.forall_mem_singleton.mpr haccess
  · exact List.forall_mem_singleton.mpr haccess
  · exact List.forall_mem_singleton.mpr haccess
  · exact List.forall_mem_singleton.mpr fun _ => execRemoteStoreArrival_memOk
  · exact List.forall_mem_singleton.mpr fun _ => execPutLanding_memOk
  · split
    · exact List.forall_mem_singleton.mpr fun _ => execRemoteStoreArrival_memOk
    · simp only [List.forall_mem_cons]
      exact ⟨fun _ => execAtomicExecute_memOk, fun _ => execDetUpdateArrival_memOk, List.forall_mem_nil _⟩

theorem State.pendingReqs_memOk {s : State} : ∀ e ∈ s.pendingReqs, MemKept e := by
  simp only [State.pendingReqs, List.forall_mem_append, List.forall_mem_flatMap, List.forall_mem_cons]
  exact ⟨fun _ _ => Req.events_memOk, fun _ _ => ⟨fun _ => execLoadReply_memOk, fun _ => execStoreAck_memOk,
      List.forall_mem_nil _⟩⟩

theorem State.pendingThreads_memOk {s : State} : ∀ e ∈ s.pendingThreads, MemKept e := by
  simp only [State.pendingThreads, List.forall_mem_append, List.forall_mem_map, List.forall_mem_flatMap]
  exact ⟨⟨⟨⟨oldestFirst_memOk fun _ _ => execFrameArrival_memOk, oldestFirst_memOk fun _ _ => execFrameRefused_memOk⟩,
    fun _ _ _ _ _ => execDepartureResend_memOk⟩, oldestFirst_memOk fun _ _ => execMessageArrival_memOk⟩,
    oldestFirst_memOk fun _ _ => execContinuationResume_memOk⟩

theorem domainPending_memOk {d : Domain} {changes paused : Bool} :
    ∀ e ∈ domainPending d changes paused, MemKept e := by
  refine List.forall_mem_append.mpr ⟨?_, ?_⟩
  · split
    · exact List.forall_mem_singleton.mpr fun _ => execVoltageRampDone_memOk
    · exact List.forall_mem_nil _
  · split
    · exact List.forall_mem_singleton.mpr fun _ => execClockRestart_memOk
    · exact List.forall_mem_nil _

theorem Core.pending_memOk {k : Core} {c : Nat} : ∀ e ∈ Core.pending k c, MemKept e := by
  unfold Core.pending
  simp only [List.forall_mem_append, List.forall_mem_map, List.forall_mem_flatMap]
  refine ⟨⟨⟨⟨⟨⟨⟨⟨⟨fun _ _ _ => execSlotFill_memOk, fun _ _ _ _ _ => execStreamFetch_memOk⟩, fun _ _ => ?_⟩, ?_⟩, ?_⟩,
    domainPending_memOk⟩, ?_⟩, ?_⟩, fun _ _ _ => execFootprintLanded_memOk⟩, ?_⟩
  · simp only [List.forall_mem_cons]
    exact ⟨fun _ => execTongsTransfer_memOk, fun _ => execCopyFault_memOk, fun _ => execCopyComplete_memOk,
        List.forall_mem_nil _⟩
  · split
    · exact List.forall_mem_singleton.mpr fun _ => execSequencerQueue_memOk
    · exact List.forall_mem_nil _
  · split
    · exact List.forall_mem_nil _
    · simp only [List.forall_mem_cons]
      exact ⟨fun _ => execAnvilCommandStart_memOk, fun _ => execAnvilCommandComplete_memOk, fun _ =>
          execAnvilFetchFault_memOk,
        List.forall_mem_nil _⟩
  · split
    · refine List.forall_mem_singleton.mpr fun s hs => ?_
      split
      · exact execGateWake_memOk hs
      · exact .next hs
    · exact List.forall_mem_nil _
  · split
    · exact List.forall_mem_singleton.mpr fun _ => execLogsizeWrite_memOk
    · exact List.forall_mem_nil _
  · split
    · exact List.forall_mem_nil _
    · exact List.forall_mem_singleton.mpr fun _ => execDispatch_memOk

theorem Hearth.pending_memOk {q : Hearth} {h : Nat} {homes : List Nat} :
    ∀ e ∈ Hearth.pending q h homes, MemKept e := by
  have hcommit : MemKept (execPhaseCommit h) := fun _ => execPhaseCommit_memOk
  refine List.forall_mem_append.mpr ⟨List.forall_mem_append.mpr ⟨List.forall_mem_append.mpr ⟨?_, ?_⟩, ?_⟩, ?_⟩
  · split
    · exact List.forall_mem_nil _
    · simp only [List.forall_mem_cons]
      exact ⟨fun _ => execLaunch_memOk, fun _ => execPhaseDeclare_memOk, fun _ => execPhaseEnterDeterministic_memOk,
        fun _ => execPhaseAbort_memOk, fun _ => execMap_memOk, fun _ => execUnmap_memOk, fun _ => execLoadbin_memOk,
        fun _ => execSignal_memOk, fun _ => execSuspend_memOk, fun _ => execResume_memOk, fun _ => execReset_memOk,
        List.forall_mem_nil _⟩
  · exact List.forall_mem_map.mpr fun _ _ _ => execCommandAccept_memOk
  · exact oldestFirst_memOk fun _ _ => execExitCount_memOk
  · split
    · exact List.forall_mem_nil _
    · refine List.forall_mem_cons.mpr ⟨hcommit, ?_⟩
      split
      · exact List.forall_mem_append.mpr ⟨List.forall_mem_map.mpr fun _ _ _ => execHomeCommitMerge_memOk,
          List.forall_mem_singleton.mpr hcommit⟩
      · exact List.forall_mem_nil _

theorem State.pending_memOk {s : State} : ∀ e ∈ s.pending, MemKept e := by
  simp only [State.pending, List.forall_mem_append, List.forall_mem_map, List.forall_mem_flatMap]
  exact ⟨⟨⟨⟨⟨⟨⟨State.pendingPieces_memOk, State.pendingReqs_memOk⟩, fun _ _ _ _ _ => execWalkComplete_memOk⟩,
    fun _ _ _ => execExperienceAdd_memOk⟩, State.pendingThreads_memOk⟩, fun _ _ => Core.pending_memOk⟩,
    fun _ _ => domainPending_memOk⟩, fun _ _ => Hearth.pending_memOk⟩

theorem after_memOk {s : State} {e : State → Out} (hs : s.MemOk) (he : ∀ s, s.MemOk → OnNext State.MemOk (e s)) :
    (after s e).MemOk := by
  unfold after
  split
  next e1 => exact (he _ hs).of_eq e1
  · exact hs

theorem State.onward_memOk {s : State} (hs : s.MemOk) : s.onward.MemOk :=
  List.foldlRecOn _ _ (State.memOk_update hs) fun _ ht e he => after_memOk ht (State.pending_memOk e he)

/-! ### Machine/Issue -/

theorem State.tookTurn_memOk {s : State} {c n pipe : Nat} (hs : s.MemOk) : (s.tookTurn c n pipe).MemOk :=
  State.modSlot_memOk (State.modCore_memOk hs)

theorem State.issued_memOk {s : State} {c n pipe : Nat} (hs : s.MemOk) : (s.issued c n pipe).MemOk :=
  State.tookTurn_memOk (State.modPower_memOk hs)

theorem State.tick_memOk {s : State} {c : Nat} (hs : s.MemOk) : (s.tick c).MemOk :=
  State.modCore_memOk hs

theorem State.slotTrap_memOk {s : State} {c n : Nat} {pc : Word} {r : TrapRec} (hs : s.MemOk) :
    (s.slotTrap c n pc r).MemOk :=
  State.trapAt_memOk hs

theorem State.checked_memOk {s before : State} {c n : Nat} (hs : s.MemOk) : (s.checked before c n).MemOk := by
  unfold State.checked
  split
  · exact hs
  · exact State.softLimit_memOk (State.report_memOk (State.modCore_memOk hs))

theorem State.ended_memOk {s before : State} {c n : Nat} (hs : s.MemOk) : (s.ended before c n).MemOk := by
  unfold State.ended
  dsimp only
  split
  · exact State.modSlot_memOk (State.dropMisses_memOk (State.checked_memOk hs))
  · exact State.dropMisses_memOk (State.checked_memOk hs)

theorem State.tryInstr_memOk {ex : Instr → State → Out} {s : State} {c n : Nat} {i : Instr}
    (hex : ∀ x s, s.MemOk → OnNext State.MemOk (ex x s)) (hs : s.MemOk) :
    Attempt.MemOk (State.tryInstr ex s c n i) := by
  unfold State.tryInstr
  dsimp only
  split
  · exact hs
  · split
    · split
      · exact State.modSlot_memOk hs
      · exact hs
    · split
      · exact hs
      · split
        next e1 =>
          split
          · split
            · exact .next (State.issued_memOk (State.modSlot_memOk ((hex _ _ (State.modCur_memOk (State.memOk_update
                hs))).of_eq e1)))
            · exact (hex _ _ (State.modCur_memOk (State.memOk_update hs))).of_eq e1
          · split
            · exact State.ended_memOk ((hex _ _ (State.modCur_memOk (State.memOk_update hs))).of_eq e1)
            · exact .next (State.issued_memOk (State.ended_memOk ((hex _ _ (State.modCur_memOk (State.memOk_update
                hs))).of_eq e1)))
        · exact hex _ _ (State.modCur_memOk hs)

theorem State.trySlot_memOk {ex : Instr → State → Out} {s : State} {c n : Nat}
    (hex : ∀ x s, s.MemOk → OnNext State.MemOk (ex x s)) (hs : s.MemOk) : Attempt.MemOk (State.trySlot ex s c n) := by
  unfold State.trySlot
  dsimp only
  split
  · exact hs
  · split
    next e1 =>
      exact (State.fetchSlot_memOk (State.modSlot_memOk (State.memOk_update (OnSome.getD (State.boundary_memOk hs)
          hs)))).of_eq e1
    next e1 =>
      split
      · exact State.vectorFault_memOk ((State.fetchSlot_memOk (State.modSlot_memOk (State.memOk_update (OnSome.getD
          (State.boundary_memOk hs) hs)))).of_eq e1)
      · split
        · exact .next (State.tookTurn_memOk (State.dropMisses_memOk (State.fetchFault_memOk (State.memOk_update
            ((State.fetchSlot_memOk (State.modSlot_memOk (State.memOk_update (OnSome.getD (State.boundary_memOk hs)
            hs)))).of_eq e1)))))
        · exact (State.fetchSlot_memOk (State.modSlot_memOk (State.memOk_update (OnSome.getD (State.boundary_memOk
            hs) hs)))).of_eq e1
    next e1 =>
      split
      · exact .next (State.tookTurn_memOk (State.dropMisses_memOk (State.slotTrap_memOk ((State.fetchSlot_memOk
          (State.modSlot_memOk (State.memOk_update (OnSome.getD (State.boundary_memOk hs) hs)))).of_eq e1))))
      · exact (State.fetchSlot_memOk (State.modSlot_memOk (State.memOk_update (OnSome.getD (State.boundary_memOk hs)
          hs)))).of_eq e1
    next e1 =>
      exact State.tryInstr_memOk hex ((State.fetchSlot_memOk (State.modSlot_memOk (State.memOk_update (OnSome.getD
          (State.boundary_memOk hs) hs)))).of_eq e1)

theorem State.lost_memOk {s : State} {c : Nat} {mem : Bool} (hs : s.MemOk) : (s.lost c mem).MemOk := by
  unfold State.lost
  dsimp only
  split
  · exact State.modPower_memOk hs
  · exact hs

theorem issueFrom_memOk {ex : Instr → State → Out} {c : Nat} {mem : Bool} {l : List Nat} {k : State}
    (hex : ∀ x s, s.MemOk → OnNext State.MemOk (ex x s)) (hk : k.MemOk) :
    OnNext State.MemOk (issueFrom ex c mem l k) := by
  induction l generalizing mem k with
  | nil => exact .next (State.onward_memOk (State.tick_memOk (State.lost_memOk hk)))
  | cons n r ih =>
    unfold issueFrom
    have h := State.trySlot_memOk (c := c) (n := n) hex hk
    split
    next e => exact ih (holds_of_eq h e :)
    next e => exact .next (State.tick_memOk (OnNext.of_eq (holds_of_eq (P := Attempt.MemOk) h e) rfl))
    next e => exact holds_of_eq (P := Attempt.MemOk) h e

theorem State.disabled_memOk {ex : Instr → State → Out} {s : State} {c : Nat} (hs : s.MemOk) :
    (State.disabled ex s c).MemOk := by
  unfold State.disabled
  refine State.tick_memOk ?_
  split
  · exact State.modPower_memOk hs
  · exact hs

theorem State.scrubbed_memOk {s : State} {c : Nat} (hs : s.MemOk) : (s.scrubbed c).MemOk := by
  unfold State.scrubbed
  split
  · exact State.softLimit_memOk (State.modCore_memOk hs)
  · exact hs

theorem State.standing_memOk {s : State} {c : Nat} (hs : s.MemOk) : (s.standing c).MemOk := by
  unfold State.standing
  split
  · exact State.disposal_memOk hs
  · exact hs

theorem issue_memOk {ex : Instr → State → Out} {c : Nat} {s : State}
    (hex : ∀ x s, s.MemOk → OnNext State.MemOk (ex x s)) (hs : s.MemOk) : OnNext State.MemOk (issue ex c s) := by
  unfold issue
  dsimp only
  split
  · split
    · exact .next (State.onward_memOk (State.standing_memOk (State.scrubbed_memOk hs)))
    · split
      · exact .next (State.onward_memOk (State.disabled_memOk (State.scrubbed_memOk hs)))
      · exact issueFrom_memOk hex (State.scrubbed_memOk hs)
  · split
    · exact .next (State.onward_memOk (State.standing_memOk hs))
    · split
      · exact .next (State.onward_memOk (State.disabled_memOk hs))
      · exact issueFrom_memOk hex hs

/-! ### Machine/Scalar -/

theorem int2_memOk {i : Instr} {f : Fld} {op : (n : Nat) → BitVec n → BitVec n → BitVec n} {s : State}
    (hs : s.MemOk) : OnNext State.MemOk (int2 i f op s) :=
  gate_memOk (fun _ => State.result_memOk) hs

theorem int1_memOk {i : Instr} {f : Fld} {op : (n : Nat) → BitVec n → BitVec n} {s : State} (hs : s.MemOk) :
    OnNext State.MemOk (int1 i f op s) :=
  gate_memOk (fun _ => State.result_memOk) hs

theorem intI_memOk {i : Instr} {f : Fld} {op : Word → Word → Word} {s : State} (hs : s.MemOk) :
    OnNext State.MemOk (intI i f op s) :=
  gate_memOk (fun _ => State.result_memOk) hs

theorem shiftI_memOk {i : Instr} {f : Fld} {op : Word → Nat → Word} {s : State} (hs : s.MemOk) :
    OnNext State.MemOk (shiftI i f op s) :=
  gate_memOk (fun _ => State.result_memOk) hs

/-! ### Machine/Dispatch -/

theorem exec_memOk {i : Instr} {s : State} (hs : s.MemOk) : OnNext State.MemOk (exec i s) := by
  unfold exec
  cases i with
  | nop => exact gate_memOk (fun _ => State.advance_memOk) hs
  | add | sub | mul | mulh | mulhn | div | divn | rem | remn | and | or | xor | shl | shr | sar | rol | ror | min
  | max | minn | maxn | cmpeq | cmplt | cmpltn =>
    exact int2_memOk hs
  | addi | andi | ori | xori => exact intI_memOk hs
  | shli | shri | sari => exact shiftI_memOk hs
  | clz | ctz | popc | bswap | abs => exact int1_memOk hs
  | sext | zext | sel | mov | movFromLoop | movFromMask | movi | lea | addpc | bitx | biti | fma | fsqrt | fclass
  | entry =>
    exact gate_memOk (fun _ => State.result_memOk) hs
  | movToLoop | isync => exact gate_memOk (fun _ h1 => State.advance_memOk (State.modCurK_memOk h1)) hs
  | movToMask => exact gate_memOk (fun _ h1 => State.advance_memOk (State.modCur_memOk h1)) hs
  | fadd | fsub | fmul | fdiv => exact fp2_memOk hs
  | fmin | fmax | fcmp => exact fpCode_memOk hs
  | fcvt => exact execFcvt_memOk hs
  | br | jmp | loope => exact gate_memOk (fun _ => State.jump_memOk) hs
  | beqz | bnez | bltz | bgez => exact condBranch_memOk hs
  | beq | bne | blt | bltn | bge | bgen => exact condRR_memOk hs
  | call => exact gate_memOk (fun _ => State.callTo_memOk) hs
  | icall => exact execIcall_memOk hs
  | ret => exact gate_memOk (fun _ h1 => State.jump_memOk (State.modCur_memOk h1)) hs
  | loops => exact execLoops_memOk hs
  | spillw => exact execSpillw_memOk hs
  | fillw => exact execFillw_memOk hs
  | ld | lda => exact gate_memOk (fun _ h1 => State.load_memOk h1 (fun _ => loadFin_memOk)) hs
  | ldx => exact gate_memOk (fun _ h1 => State.load_memOk h1 (fun _ h2 => loadFin_memOk (State.setW_memOk h2))) hs
  | st => exact gate_memOk (fun _ h1 => State.store_memOk h1 (fun _ => State.finish_memOk)) hs
  | stx =>
    exact gate_memOk (fun _ h1 => State.store_memOk h1 (fun _ h2 => State.finish_memOk (State.setW_memOk h2))) hs
  | rel => exact gate_memOk (fun _ h1 => State.finish_memOk (State.release_memOk h1)) hs
  | acq => exact execAcq_memOk hs
  | fence => exact execFence_memOk hs
  | amo => exact execAmo_memOk hs
  | amov => exact execAmov_memOk hs
  | cas => exact execCas_memOk hs
  | cas16 => exact execCas16_memOk hs
  | put => exact execPut_memOk hs
  | waitm => exact execWaitm_memOk hs
  | wait => exact execWait_memOk hs
  | watch => exact execWatch_memOk hs
  | sleep => exact execSleep_memOk hs
  | mig => exact execMig_memOk hs
  | barr | bara | bard => exact gate_memOk (fun _ => State.threadArrive_memOk) hs
  | barw => exact execBarw_memOk hs
  | bari => exact execBari_memOk hs
  | futw => exact execFutw_memOk hs
  | futs => exact execFuts_memOk hs
  | futp => exact execFutp_memOk hs
  | lock => exact execLock_memOk hs
  | unlock => exact execUnlock_memOk hs
  | qpush => exact execQpush_memOk hs
  | qpop => exact execQpop_memOk hs
  | vadd | vsub | vmul | vfma | vfms | vmin | vmax | vabs | vneg | vdiv | vsqrt | vrcp | vrsq | vexp2 | vlog2 =>
    exact vfloat_memOk hs
  | viadd | visub | vimul | vand | vor | vxor | vnot | vshl | vshr | vsar => exact vint_memOk hs
  | vcmp => exact execVcmp_memOk hs
  | vsel => exact execVsel_memOk hs
  | vsplat => exact execVsplat_memOk hs
  | vperm => exact execVperm_memOk hs
  | vred => exact execVred_memOk hs
  | vscan => exact execVscan_memOk hs
  | vcvt => exact execVcvt_memOk hs
  | vld | vlds | vgath => exact vloadInstr_memOk hs
  | vst => exact execVst_memOk hs
  | vsts => exact execVsts_memOk hs
  | vscat => exact execVscat_memOk hs
  | vrel => exact execVrel_memOk hs
  | mand | mor | mnot => exact maskOp_memOk (fun _ => State.modCur_memOk) hs
  | mpop | mfirst => exact maskOp_memOk (fun _ => State.setW_memOk) hs
  | sbind => exact execSbind_memOk hs
  | sunb => exact execSunb_memOk hs
  | slead => exact execSlead_memOk hs
  | vrand => exact execVrand_memOk hs
  | xbr => exact execXbr_memOk hs
  | xsel => exact execXsel_memOk hs
  | xrd => exact execXrd_memOk hs
  | xlead => exact execXlead_memOk hs
  | xunr => exact execXunr_memOk hs
  | xclr => exact execXclr_memOk hs
  | xflush => exact execXflush_memOk hs
  | tcfg => exact execTcfg_memOk hs
  | tzero | tld | tst | tsave | trest => exact anvGate_memOk (fun _ => State.queueCmd_memOk) hs
  | mma | mmax => exact mmaInstr_memOk hs
  | gset => exact execGset_memOk hs
  | mseq => exact execMseq_memOk hs
  | swcfg => exact execSwcfg_memOk hs
  | cpy => exact copyGate_memOk (fun _ h1 => State.withScope_memOk h1 (fun _ _ _ => State.startCopy_memOk)) hs
  | cpys => exact execCpys_memOk hs
  | cpyn => exact execCpyn_memOk hs
  | waitc => exact execWaitc_memOk hs
  | chst => exact execChst_memOk hs
  | spawn => exact execSpawn_memOk hs
  | yieldc => exact execYieldc_memOk hs
  | exit => exact execExit_memOk hs
  | tailw => exact execTailw_memOk hs
  | send => exact execSend_memOk hs
  | chan => exact execChan_memOk hs
  | blk => exact execBlk_memOk hs
  | unblk => exact execUnblk_memOk hs
  | govcfg => exact execGovcfg_memOk hs
  | idem => exact execIdem_memOk hs
  | trap => exact execTrap_memOk hs
  | rte => exact execRte_memOk hs
  | csrr => exact privGate_memOk (fun _ => State.result_memOk) hs
  | csrw | csrs | csrc => exact csrWrite_memOk hs
  | halt => exact gate_memOk (fun _ h1 => State.advance_memOk (State.memOk_update (State.modCurK_memOk h1))) hs
  | tlbi => exact execTlbi_memOk hs
  | rqrd => exact execRqrd_memOk hs
  | rqgo => exact execRqgo_memOk hs
  | dispatch => exact execDispatch_memOk hs
  | frameArrival => exact execFrameArrival_memOk hs
  | frameRefused => exact execFrameRefused_memOk hs
  | departureResend => exact execDepartureResend_memOk hs
  | evictWaiter => exact execEvictWaiter_memOk hs
  | footprintLanded => exact execFootprintLanded_memOk hs
  | messageArrival => exact execMessageArrival_memOk hs
  | continuationResume => exact execContinuationResume_memOk hs
  | governorCheck => exact execGovernorCheck_memOk hs
  | preempt => exact execPreempt_memOk hs
  | releaseStamp => exact execReleaseStamp_memOk hs
  | beacon => exact execBeacon_memOk hs
  | beaconReceipt => exact execBeaconReceipt_memOk hs
  | pieceArrival => exact execPieceArrival_memOk hs
  | pieceApply => exact execPieceApply_memOk hs
  | pieceAck => exact execPieceAck_memOk hs
  | homeAccess => exact execHomeAccess_memOk hs
  | loadReply => exact execLoadReply_memOk hs
  | remoteStoreArrival => exact execRemoteStoreArrival_memOk hs
  | storeAck => exact execStoreAck_memOk hs
  | putLanding => exact execPutLanding_memOk hs
  | atomicExecute => exact execAtomicExecute_memOk hs
  | clusterUnitWriteback => exact execClusterUnitWriteback_memOk hs
  | walkComplete => exact execWalkComplete_memOk hs
  | slotFill => exact execSlotFill_memOk hs
  | experienceAdd => exact execExperienceAdd_memOk hs
  | streamFetch => exact execStreamFetch_memOk hs
  | tongsTransfer => exact execTongsTransfer_memOk hs
  | copyComplete => exact execCopyComplete_memOk hs
  | copyFault => exact execCopyFault_memOk hs
  | anvilCommandStart => exact execAnvilCommandStart_memOk hs
  | anvilCommandComplete => exact execAnvilCommandComplete_memOk hs
  | anvilFetchFault => exact execAnvilFetchFault_memOk hs
  | sequencerQueue => exact execSequencerQueue_memOk hs
  | anvilWatchdog => exact execAnvilWatchdog_memOk hs
  | barrierArrival => exact execBarrierArrival_memOk hs
  | sleepExpiry => exact execSleepExpiry_memOk hs
  | quarantine => exact .next (State.quarantine_memOk hs)
  | detUpdateArrival => exact execDetUpdateArrival_memOk hs
  | exitCount => exact execExitCount_memOk hs
  | phaseCommit => exact execPhaseCommit_memOk hs
  | homeCommitMerge => exact execHomeCommitMerge_memOk hs
  | dramPatrol => exact execDramPatrol_memOk hs
  | repairComplete => exact execRepairComplete_memOk hs
  | bellowsInterval => exact .next (State.bellows_memOk hs)
  | fdutyWrite => exact execFdutyWrite_memOk hs
  | levelRequest => exact execLevelRequest_memOk hs
  | voltageRampDone => exact execVoltageRampDone_memOk hs
  | clockRestart => exact execClockRestart_memOk hs
  | logsizeWrite => exact execLogsizeWrite_memOk hs
  | gatePrepare => exact execGatePrepare_memOk hs
  | gateCommit => exact execGateCommit_memOk hs
  | gateWake => exact execGateWake_memOk hs
  | plimitWrite => exact .next (State.setPlimit_memOk hs)
  | thermalTrip => exact execThermalTrip_memOk hs
  | thermalRelease => exact execThermalRelease_memOk hs
  | vrfail => exact execVrfail_memOk hs
  | qtailDoorbell => exact execQtailDoorbell_memOk hs
  | commandAccept => exact execCommandAccept_memOk hs
  | launch => exact execLaunch_memOk hs
  | phaseDeclare => exact execPhaseDeclare_memOk hs
  | phaseEnterDeterministic => exact execPhaseEnterDeterministic_memOk hs
  | phaseAbort => exact execPhaseAbort_memOk hs
  | map => exact execMap_memOk hs
  | unmap => exact execUnmap_memOk hs
  | loadbin => exact execLoadbin_memOk hs
  | signal => exact execSignal_memOk hs
  | suspend => exact execSuspend_memOk hs
  | resume => exact execResume_memOk hs
  | reset => exact execReset_memOk hs
  | acceptWrite => exact .next (State.setAccept_memOk hs)
  | reductionCtlWrite => exact execReductionCtlWrite_memOk hs
  | reductionContribute => exact execReductionContribute_memOk hs
  | reductionGenClear => exact execReductionGenClear_memOk hs
  | hostMemoryAccess => exact execHostMemoryAccess_memOk hs
  | uetReceive => exact execUetReceive_memOk hs
  | hostLoss => exact execHostLoss_memOk hs
  | ideFailure => exact execIdeFailure_memOk hs
  | deviceReset => exact .next (State.deviceReset_memOk hs)
  | boot => exact execBoot_memOk hs
  | spdmGetVersion | spdmGetCapabilities | spdmNegotiateAlgorithms | spdmGetDigests | spdmGetCertificate
  | spdmChallenge =>
    exact .next (State.spdm_memOk hs)
  | spdmGetMeasurements | hostLinkReturn => exact .next hs
  | spdmKeyExchange => exact .next (State.memOk_update (State.spdm_memOk hs))
  | firmwareThreadStart => exact execFirmwareThreadStart_memOk hs
  | bctlView => exact execBctlView_memOk hs
  | bctlDone => exact execBctlDone_memOk hs
  | lsrepWrite => exact execLsrepWrite_memOk hs
  | bootTimeout => exact execBootTimeout_memOk hs
  | registerWrite => exact execRegisterWrite_memOk hs
  | podLinkFailure => exact execPodLinkFailure_memOk hs
  | fabricError => exact execFabricError_memOk hs

/-! ### Machine/Step -/

theorem step_memOk {s : State} (hs : s.MemOk) : OnNext State.MemOk (step s) := by
  unfold step
  split
  · exact exec_memOk hs
  · exact issue_memOk (fun _ _ => exec_memOk) hs

/-- Settles O59: `step` is the last function of the model for which `f_memOk` holds. -/
theorem memoryKeepsItsForm : Obligations.MemoryKeepsItsForm := fun _ _ hs e => (step_memOk hs).of_eq e

end Sys2Proof.Machine

/-! # Stores to the own local store

`ST` and `STX` at an address of the own core's window come down to `State.writeLS` (`State.store_own`); what a read after it
returns rests on that the bytes of one row of 256 lie in successive cells (`State.cell_add`). -/

namespace Sys2Proof.Machine
/-! ## Addresses of the local-store window -/

theorem coreExists_lt {c : Nat} (h : coreExists c = true) : c < 8192 := by
  simp only [coreExists, Bool.and_eq_true, decide_eq_true_eq] at h
  exact h.1

theorem windowVA_toNat {c off : Nat} (hc : c < 8192) (ho : off < 2 ^ 18) :
    (windowVA c off).toNat = 0x00FFFFFF80000000 + c * 2 ^ 18 + off := by
  simp only [windowVA, word, lswin, BitVec.toNat_ofNat]
  omega

theorem canonical_windowVA {c off : Nat} (hc : c < 8192) (ho : off < 2 ^ 18) : canonical (windowVA c off) = true := by
  have h : (windowVA c off).bits 63 56 = 0 := by
    rw [Word.bits, windowVA_toNat hc ho, natBits]
    omega
  simp [canonical, h]

theorem inWindow_windowVA {c off : Nat} (hc : c < 8192) (ho : off < 2 ^ 18) : inWindow (windowVA c off) = true := by
  simp only [inWindow, windowVA_toNat hc ho, lswin, Bool.and_eq_true, decide_eq_true_eq]
  omega

/-- A window address translates to the byte of the local store that it names, for every unit and access (R97). -/
theorem State.translate_windowVA (s : State) {c off : Nat} (hc : coreExists c = true) (ho : off < 2 ^ 18)
    (k who h priv : Nat) (rc : Clock) (a : Acc) :
    s.translate k who h priv rc (windowVA c off) a = (.ok (lsPA s c off) { window := true }, s) := by
  have hlt := coreExists_lt hc
  have hn := windowVA_toNat hlt ho
  have hcore : ((windowVA c off).toNat - lswin) / 2 ^ 18 = c := by rw [hn, lswin]; omega
  have hoff : ((windowVA c off).toNat - lswin) % 2 ^ 18 = off := by rw [hn, lswin]; omega
  rw [State.translate, if_neg (by simp [canonical_windowVA hlt ho]), if_pos (inWindow_windowVA hlt ho)]
  simp only [hcore, hoff, hc, if_true]

/-- The PA of an offset of the executing core's local store is that offset's place (R100, R102). -/
theorem State.place_lsPA {s : State} {off : Nat} (hc : coreExists s.curCore = true) (hp : s.hub.package < 64)
    (ho : off < 2 ^ 18) : s.place (lsPA s s.curCore off) = .own off := by
  have hlt := coreExists_lt hc
  have hclass : paClass (lsPA s s.curCore off) = 1 := by rw [paClass, lsPA]; omega
  have hpkg : s.ownPackage (lsPA s s.curCore off) = true := by
    have hd : lsPA s s.curCore off / 2 ^ 50 = s.hub.package := by
      have hdie : s.curCore / 2048 < 4 := by omega
      rw [lsPA]; omega
    rw [State.ownPackage, paPackage, hd, beq_iff_eq, Nat.mod_eq_of_lt hp]
  have hcore : paCore (lsPA s s.curCore off) = s.curCore := by rw [paCore, paDie, lsPA]; omega
  have hoff : paOff (lsPA s s.curCore off) = off := by rw [paOff, lsPA]; omega
  simp [State.place, hclass, hpkg, hcore, hoff]

/-! ## Bytes written and read back -/

/-- The bytes of a row of 256, the unit of repair (R536), lie in successive cells. -/
theorem State.cell_add (s : State) {pa i : Nat} (h : pa % 256 + i < 256) : s.cell (pa + i) = s.cell pa + i := by
  have hclass : paClass (pa + i) = paClass pa := by simp only [paClass]; omega
  have hpkg : s.ownPackage (pa + i) = s.ownPackage pa := by
    have hp : paPackage (pa + i) = paPackage pa := by simp only [paPackage]; omega
    rw [State.ownPackage, State.ownPackage, hp]
  have hcore : paCore (pa + i) = paCore pa := by
    have hd : paDie (pa + i) = paDie pa := by simp only [paDie]; omega
    rw [paCore, paCore, hd]; omega
  have hbank : paOff (pa + i) / 2 ^ 13 = paOff pa / 2 ^ 13 := by simp only [paOff]; omega
  have hrow : paOff (pa + i) / 256 % 32 = paOff pa / 256 % 32 := by simp only [paOff]; omega
  have hspare (b : BootBlock) : spareRow b (paOff (pa + i)) = spareRow b (paOff pa) := by
    rw [spareRow, spareRow, hbank, hrow]
  have hlow : paOff (pa + i) % 256 = paOff pa % 256 + i := by simp only [paOff]; omega
  simp only [State.cell, hclass, hpkg, hcore, hspare, hbank, hlow]
  split
  · split
    · omega
    · rfl
  · rfl

/-- A write of bytes leaves every cell alone but theirs. -/
theorem State.read_setBytes_ne (s : State) {pa k : Nat} {bs : List Byte} (h : ∀ i < bs.length, k ≠ s.cell (pa + i)) :
    Memory.read (s.setBytes pa bs).mem k = Memory.read s.mem k := by
  induction bs generalizing s pa with
  | nil => rfl
  | cons b r ih =>
    have hr : ∀ i < r.length, k ≠ (s.setByte pa b).cell (pa + 1 + i) := fun i hi => by
      rw [State.cell_setByte, Nat.add_assoc, Nat.add_comm 1]
      exact h (i + 1) (Nat.succ_lt_succ hi)
    rw [State.setBytes, ih _ hr]
    exact Memory.read_write_ne _ _ (h 0 (Nat.succ_pos _))

@[simp] theorem State.cell_setBytes (s : State) (pa : Nat) (bs : List Byte) (a : Nat) :
    (s.setBytes pa bs).cell a = s.cell a := by
  simp [State.cell, State.ownPackage]

/-- With no defective cell, bytes within a row read back as written. -/
theorem State.bytes_setBytes {s : State} (hs : s.stuck = []) {pa : Nat} {bs : List Byte}
    (h : pa % 256 + bs.length ≤ 256) : (s.setBytes pa bs).bytes pa bs.length = bs := by
  induction bs generalizing s pa with
  | nil => rfl
  | cons b r ih =>
    rw [List.length_cons] at h
    have hb : ((s.setByte pa b).setBytes (pa + 1) r).byte pa = b := by
      have hne : ∀ i < r.length, s.cell pa ≠ (s.setByte pa b).cell (pa + 1 + i) := fun i hi => by
        rw [State.cell_setByte, Nat.add_assoc, State.cell_add s (by omega)]
        omega
      rw [State.byte, State.cell_setBytes, State.cell_setByte, State.read_setBytes_ne _ hne]
      simp [State.setByte, hs]
    have hr : ((s.setByte pa b).setBytes (pa + 1) r).bytes (pa + 1) r.length = r := by
      rcases r with _ | ⟨c, r⟩
      · rfl
      · exact ih (s := s.setByte pa b) hs (pa := pa + 1) (by rw [List.length_cons] at h ⊢; omega)
    rw [State.setBytes, List.length_cons, State.bytes, hb, hr]

@[simp] theorem leBytes_length (n v : Nat) : (leBytes n v).length = n := by
  induction n generalizing v with
  | zero => rfl
  | succ n ih => simp [leBytes, ih]

theorem leNat_leBytes (n v : Nat) : leNat (leBytes n v) = v % 2 ^ (8 * n) := by
  induction n generalizing v with
  | zero => simp [leBytes, leNat, Nat.mod_one]
  | succ n ih =>
    have hp : 2 ^ (8 * (n + 1)) = 256 * 2 ^ (8 * n) := by ring
    rw [leBytes, leNat, ih, hp, Nat.mod_mul, BitVec.toNat_ofNat]

theorem State.bytes_congr {s t : State} (hm : t.mem = s.mem) (hh : t.hub = s.hub) (hs : t.stuck = s.stuck) (a n : Nat) :
    t.bytes a n = s.bytes a n := by
  induction n generalizing a with
  | zero => rfl
  | succ n ih => rw [State.bytes, State.bytes, State.byte_congr hm hh hs, ih]

/-! ## Writes of a local store -/

theorem get_map_snd {α : Type} (f : α → α) {d : α} (hd : f d = d) (m : List (Nat × α)) (k : Nat) :
    get d (m.map fun p => (p.1, f p.2)) k = f (get d m k) := by
  induction m with
  | nil => exact hd.symm
  | cons e r ih =>
    simp only [get, List.map_cons, get?] at ih ⊢
    split
    · rfl
    · exact ih

theorem wakeWatch_of_not_waiting {t : Slot} (h : t.wait = .none) (pa n : Nat) : wakeWatch t pa n = t := by
  simp [wakeWatch, h]

@[simp] theorem Core.roused_slots (k : Core) : k.roused.slots = k.slots := by
  rw [Core.roused]; split <;> rfl

@[simp] theorem State.writeLS_hub (s : State) (c off : Nat) (bs : List Byte) : (s.writeLS c off bs).hub = s.hub := by
  simp [State.writeLS]
@[simp] theorem State.writeLS_stuck (s : State) (c off : Nat) (bs : List Byte) : (s.writeLS c off bs).stuck = s.stuck := by
  simp [State.writeLS]
@[simp] theorem State.writeLS_curCore (s : State) (c off : Nat) (bs : List Byte) :
    (s.writeLS c off bs).curCore = s.curCore := by
  simp [State.writeLS]

/-- A write of the own core's local store leaves a thread that waits for nothing as it was. -/
theorem State.cur_writeLS {s : State} (h : s.cur.wait = .none) (off : Nat) (bs : List Byte) :
    (s.writeLS s.curCore off bs).cur = s.cur := by
  have hslots (pa n : Nat) (k : Core) (m : Nat) :
      get {} (k.slots.map fun p => (p.1, wakeWatch p.2 pa n)) m = wakeWatch (get {} k.slots m) pa n :=
    get_map_snd (wakeWatch · pa n) (wakeWatch_of_not_waiting rfl pa n) _ _
  have hcore : (s.setBytes (lsPA s s.curCore off) bs).core s.curCore = s.core s.curCore := by simp [State.core]
  have hcur : (s.writeLS s.curCore off bs).cur = wakeWatch s.cur (lsPA s s.curCore off) bs.length := by
    simp only [State.cur, State.slot, Core.slot, State.writeLS, State.modCore_curCore, State.modCore_curSlot,
      State.setBytes_curCore, State.setBytes_curSlot, State.core_modCore_same, hcore, hslots]
  rw [hcur, wakeWatch_of_not_waiting h]

theorem State.mem_writeLS (s : State) (c off : Nat) (bs : List Byte) :
    (s.writeLS c off bs).mem = (s.setBytes (lsPA s c off) bs).mem := rfl

theorem szBytes_cases (sz : Nat) : szBytes sz = 1 ∨ szBytes sz = 2 ∨ szBytes sz = 4 ∨ szBytes sz = 8 := by
  unfold szBytes
  split <;> simp

/-- A window address is as aligned as its offset. -/
theorem windowVA_mod {c off : Nat} (hc : c < 8192) (ho : off < 2 ^ 18) (sz : Nat) :
    (windowVA c off).toNat % szBytes sz = off % szBytes sz := by
  rw [windowVA_toNat hc ho]
  rcases szBytes_cases sz with h | h | h | h <;> rw [h] <;> omega

theorem State.withPlace_windowVA {s : State} {off : Nat} (hc : coreExists s.curCore = true) (ho : off < 2 ^ 18) (k : Acc)
    (go : Nat → Attr → State → State) :
    s.withPlace (windowVA s.curCore off) k go = go (lsPA s s.curCore off) { window := true } s := by
  rw [State.withPlace, State.translateCur, s.translate_windowVA hc ho]

/-- A plain store of bytes at an address that translates to a place of the own local store. -/
theorem State.store_of_place {s : State} {f : Fld} {a : Word} {bs : List Byte} {fin : State → State} {pa off : Nat}
    {at_ : Attr} (htr : ∀ go, s.withPlace a .write go = go pa at_ s) (hplace : s.place pa = .own off)
    (hmod : a.toNat % bs.length = 0)
    (href : s.curK.lsRefusedN off bs.length s.cur.st.hearth s.cur.st.priv true = false)
    (hbusy : s.ownBusy off bs.length = false) (hstall : s.curK.storesStall = false) (hord : f.ord = 0) :
    s.store f a bs fin = fin (s.coreWrite s.curCore s.curSlot off bs) := by
  simp [State.store, htr, hplace, hmod, href, hbusy, hstall, hord]

/-- A plain store of sz at an own window address that nothing refuses or delays writes its bytes in place (R146, R269). -/
theorem State.store_own {s : State} {f : Fld} {off sz : Nat} {bs : List Byte} {fin : State → State}
    (hbs : bs.length = szBytes sz) (hord : f.ord = 0) (hls : Claims.OwnLS s off (szBytes sz) true)
    (hstall : s.curK.storesStall = false) :
    s.store f (windowVA s.curCore off) bs fin = fin (s.writeLS s.curCore off bs) := by
  obtain ⟨hc, hp, hview, hoff, halign, href, hbusy, -⟩ := hls
  have hpos : 0 < szBytes sz := by rcases szBytes_cases sz with h | h | h | h <;> omega
  have ho : off < 2 ^ 18 := by omega
  have hmod : (windowVA s.curCore off).toNat % szBytes sz = 0 := by rw [windowVA_mod (coreExists_lt hc) ho, halign]
  have hwrite : s.coreWrite s.curCore s.curSlot off bs = s.writeLS s.curCore off bs :=
    if_neg (ne_true_of_eq_false hview)
  rw [← hbs] at href hbusy hmod
  rw [State.store_of_place (State.withPlace_windowVA hc ho .write) (State.place_lsPA hc hp ho) hmod href hbusy hstall hord,
    hwrite]

/-! ## The end of an access -/

/-- What `finish` does to the thread: the next PC, and the wait that wt names (R154, R264). -/
theorem State.cur_finish (s : State) (f : Fld) :
    (s.finish f).cur = { s.cur with pc := s.npc f, wait := Claims.wtWait f s } := by
  unfold State.finish Claims.wtWait
  split <;> simp_all

@[simp] theorem State.finish_mem (s : State) (f : Fld) : (s.finish f).mem = s.mem := by
  unfold State.finish; split <;> rfl
@[simp] theorem State.finish_hub (s : State) (f : Fld) : (s.finish f).hub = s.hub := by
  unfold State.finish; split <;> rfl
@[simp] theorem State.finish_stuck (s : State) (f : Fld) : (s.finish f).stuck = s.stuck := by
  unfold State.finish; split <;> rfl
@[simp] theorem State.finish_curCore (s : State) (f : Fld) : (s.finish f).curCore = s.curCore := by
  unfold State.finish; split <;> rfl

/-- A thread that differs from that of s in the listed registers alone has run, once its access finishes. -/
theorem ran_finish {s u : State} {regs : List Nat} (f : Fld)
    (h : u.cur = { s.cur with
      stk := u.cur.stk
      markW := u.cur.markW
      st := { s.cur.st with live := regs.foldl (fun l n => l ||| (1#16 <<< n)) s.cur.st.live } }) :
    Claims.Ran s (u.finish f) f regs s.cur.rc := by
  have hpc : u.npc f = s.npc f := by rw [State.npc, h]; rfl
  have hwait : Claims.wtWait f u = Claims.wtWait f s := by rw [Claims.wtWait, h]; rfl
  rw [Claims.Ran, State.cur_finish, hpc, hwait]
  conv_lhs => rw [h]

theorem w_finish (s : State) (f : Fld) (n : Nat) : (s.finish f).cur.w n = s.cur.w n := by
  rw [State.cur_finish]; rfl

theorem regs_finish_nil {s u : State} (f : Fld) (h : u.cur = s.cur) : Claims.Regs s (u.finish f) [] := fun n _ => by
  rw [w_finish, h]; rfl

theorem regs_finish_setW {s u : State} (f : Fld) {n : Nat} (hn : n < 16) {v : Word} (h : u.cur = s.cur.setW n v) :
    Claims.Regs s (u.finish f) [(n, v)] := fun m hm => by
  rw [w_finish, h]
  by_cases hnm : m = n
  · subst hnm
    simp
  · simp [Slot.setW_w_ne _ v hn hm hnm, Ne.symm hnm, State.w]

/-! ## The operands of ST and STX -/

theorem limits_eq_none {s : State} {l : List (Bool × Nat)} (h : ∀ p ∈ l, p.1 = false) : limits s l = none := by
  have hl : l.filter (·.1) = [] := List.filter_eq_nil_iff.mpr fun p hp => by simp [h p hp]
  rw [limits, hl]
  rfl

/-- A store with legal fields passes the checks of ST and STX (R261-R263). -/
theorem limits_storeLimits {f : Fld} (h : Claims.StoreForm f) (s : State) : limits s (storeLimits f) = none := by
  obtain ⟨hord, hsc, hidx, hpxr⟩ := h
  apply limits_eq_none
  simp only [storeLimits, storeOrdBad, List.forall_mem_cons]
  refine ⟨?_, ?_, ?_, List.forall_mem_nil _⟩
  · by_cases h0 : f.ord = 0 <;> simp_all
  · by_cases h1 : f.f = 1 <;> simp_all
  · by_cases hp : f.pxr <;> simp_all

theorem shiftLeft_szLog (w : Word) (sz : Nat) : w <<< szLog sz = w * BitVec.ofNat 64 (szBytes sz) := by
  have h : BitVec.ofNat 64 (szBytes sz) = BitVec.twoPow 64 (szLog sz) := by
    unfold szBytes szLog
    split <;> rfl
  rw [h, BitVec.shiftLeft_eq_mul_twoPow]

theorem effAddr_eq_addrOf (f : Fld) (s : State) : effAddr f s.cur = Claims.addrOf f s := by
  simp only [effAddr, Claims.addrOf, index, shiftLeft_szLog, wordI, State.w]

theorem stepOf_eq_stepBy (f : Fld) (s : State) : stepOf f s.cur = Claims.stepBy f s := by
  simp only [stepOf, Claims.stepBy, index, shiftLeft_szLog, word, State.w]
  split <;> rfl

/-! ## ST and STX -/

/-- An aligned access of sz lies in one row of 256 bytes. -/
theorem lsPA_mod_add_le (s : State) (c : Nat) {off sz : Nat} (h : off % szBytes sz = 0) :
    lsPA s c off % 256 + szBytes sz ≤ 256 := by
  have hmod : lsPA s c off % 256 = off % 256 := by rw [lsPA]; omega
  rw [hmod]
  rcases szBytes_cases sz with h' | h' | h' | h' <;> rw [h'] at h ⊢ <;> omega

/-- The state's memory is that of s after a store of the low bytes of v at an offset of the own local store: those bytes read
back as v, and no other cell has changed. -/
theorem stored_of_writeLS {s t : State} {off sz : Nat} {v : Word} (hls : Claims.OwnLS s off (szBytes sz) true)
    (hm : t.mem = (s.writeLS s.curCore off (lowBytes (szBytes sz) v)).mem) (hh : t.hub = s.hub) (hst : t.stuck = s.stuck)
    (hc : t.curCore = s.curCore) :
    Claims.ownNat t off (szBytes sz) = v.toNat % 2 ^ (8 * szBytes sz) ∧
      Claims.MemoryBut s t (lsPA s s.curCore off) (szBytes sz) := by
  obtain ⟨-, -, -, -, halign, -, -, hstuck⟩ := hls
  have hlen : (lowBytes (szBytes sz) v).length = szBytes sz := leBytes_length ..
  rw [State.mem_writeLS] at hm
  constructor
  · have hpa : lsPA t t.curCore off = lsPA s s.curCore off := by simp only [lsPA, hh, hc]
    have hrow : lsPA s s.curCore off % 256 + (lowBytes (szBytes sz) v).length ≤ 256 := by
      rw [hlen]; exact lsPA_mod_add_le s _ halign
    have hbytes := State.bytes_setBytes (hstuck rfl) hrow
    rw [hlen] at hbytes
    rw [Claims.ownNat, State.memNat, hpa, State.bytes_congr hm (by simp [hh]) (by simp [hst]), hbytes,
      lowBytes, leNat_leBytes]
  · intro k hk
    rw [hm]
    exact State.read_setBytes_ne s fun i hi => hk i (hlen ▸ hi)

theorem RR.fld_s_lt (x : RR) : x.fld.s < 16 := by
  rw [RR.fld_s]; exact x.s.isLt

/-- Settles O17: a plain store comes down to `writeLS` (`store_own`), which leaves the thread alone (`cur_writeLS`) and its
bytes in place (`stored_of_writeLS`). -/
theorem localStores : Obligations.LocalStores := by
  refine ⟨fun x s off hr hf hord hwait ha hls hstall => ?_, fun x s off hr hf hord hwait ha hls hstall => ?_⟩
  all_goals
    have hlen : (lowBytes (szBytes x.fld.sz) (s.w x.fld.d)).length = szBytes x.fld.sz := leBytes_length ..
    have hcur := State.cur_writeLS hwait off (lowBytes (szBytes x.fld.sz) (s.w x.fld.d))
  · have hex : exec (.st x) s =
        .next ((s.writeLS s.curCore off (lowBytes (szBytes x.fld.sz) (s.w x.fld.d))).finish x.fld) := by
      change execSt x s = _
      rw [execSt, gate_next _ _ hr (limits_storeLimits hf s), effAddr_eq_addrOf, ha, State.store_own hlen hord hls hstall]
    exact ⟨_, hex, ran_finish x.fld (by rw [hcur]; rfl), regs_finish_nil x.fld hcur,
      stored_of_writeLS hls (by simp) (by simp) (by simp) (by simp)⟩
  · have hex : exec (.stx x) s =
        .next (((s.writeLS s.curCore off (lowBytes (szBytes x.fld.sz) (s.w x.fld.d))).setW x.fld.s
          (s.w x.fld.s + Claims.stepBy x.fld s)).finish x.fld) := by
      change execStx x s = _
      rw [execStx, gate_next _ _ hr (limits_storeLimits hf s)]
      dsimp only
      rw [ha, State.store_own hlen hord hls hstall, stepOf_eq_stepBy]
    have hcur' := (State.cur_setW _ x.fld.s (s.w x.fld.s + Claims.stepBy x.fld s)).trans (congrArg (Slot.setW · _ _) hcur)
    exact ⟨_, hex, ran_finish x.fld (by rw [hcur']; rfl), regs_finish_setW x.fld (RR.fld_s_lt x) hcur',
      stored_of_writeLS hls (by simp) (by simp) (by simp) (by simp)⟩

end Sys2Proof.Machine

/-! # The control and status registers

A write of a register (R372) leaves every other register as it reads: by register for the thread's, the hearth's, the core's and
the cluster's own (`csrWrite_of_setCsr`), where what XBASE, TRBASE and QTBASE write does to the cores' fetched state shows in no
register (`CsrSame`). -/

namespace Sys2Proof.Machine
/-! ## Fields of words -/

/-- Bits above the low ones, put in their place, make the low ones longer. -/
theorem bits_join (v : Word) {hi lo : Nat} (h : lo ≤ hi + 1) :
    v.bits hi lo * 2 ^ lo + v.toNat % 2 ^ lo = v.toNat % 2 ^ (hi + 1) := by
  obtain ⟨n, hn⟩ := Nat.exists_eq_add_of_le h
  rw [Word.bits, natBits, hn, Nat.shiftRight_eq_div_pow, Nat.pow_add, Nat.mod_mul, Nat.add_sub_cancel_left, Nat.mul_comm,
    Nat.add_comm]

theorem bits_lt (v : Word) (hi lo : Nat) : v.bits hi lo < 2 ^ (hi + 1 - lo) := Nat.mod_lt _ (Nat.two_pow_pos _)

theorem ite_bit (v : Word) (k : Nat) : (if decide (v.bits k k = 1) = true then 2 ^ k else 0) = v.bits k k * 2 ^ k := by
  have h := bits_lt v k k
  rw [Nat.add_sub_cancel_left] at h
  by_cases h1 : v.bits k k = 1
  · simp [h1]
  · have h0 : v.bits k k = 0 := by omega
    simp [h0]

/-- STATUS has 58 bits: a word's fields make its low 58. -/
theorem pack_unpack (v : Word) : (Status.unpack v).pack = v &&& 0x03FFFFFFFFFFFFFF := by
  have hm : (v &&& 0x03FFFFFFFFFFFFFF).toNat = v.toNat % 2 ^ 58 := Nat.and_two_pow_sub_one_eq_mod _ 58
  have hlive : v.bits 15 0 = v.toNat % 2 ^ 16 := rfl
  have hmod {hi lo : Nat} (m : Nat) (h : m = 2 ^ (hi + 1 - lo)) : v.bits hi lo % m = v.bits hi lo :=
    Nat.mod_eq_of_lt (h ▸ bits_lt v hi lo)
  have hsum : v.bits 57 57 * 2 ^ 57 + v.bits 56 32 * 2 ^ 32 + v.bits 31 28 * 2 ^ 28 + v.bits 27 25 * 2 ^ 25 +
      v.bits 24 24 * 2 ^ 24 + v.bits 23 23 * 2 ^ 23 + v.bits 22 22 * 2 ^ 22 + v.bits 21 20 * 2 ^ 20 +
      v.bits 19 16 * 2 ^ 16 + v.bits 15 0 = v.toNat % 2 ^ 58 := by
    rw [hlive]
    simp only [Nat.add_assoc]
    rw [bits_join, bits_join, bits_join, bits_join, bits_join, bits_join, bits_join, bits_join, bits_join] <;> decide
  apply BitVec.eq_of_toNat_eq
  rw [hm, Status.pack, Status.unpack]
  simp only [word, BitVec.toNat_ofNat, ite_bit]
  rw [hmod (2 ^ 25) rfl, hmod 16 rfl, hmod 8 rfl, hmod 4 rfl, hmod 16 rfl, hmod (2 ^ 16) rfl, hsum]
  exact Nat.mod_eq_of_lt ((Nat.mod_lt _ (by decide)).trans (by decide))

/-! ## What a change of a part of the state leaves of the parts that registers read -/

@[simp] theorem State.hearth_modCur (s : State) (f : Slot → Slot) (h : Nat) : (s.modCur f).hearth h = s.hearth h := rfl
@[simp] theorem State.cluster_modCur (s : State) (f : Slot → Slot) (c : Nat) : (s.modCur f).cluster c = s.cluster c := rfl
@[simp] theorem State.dutyCap_modCur (s : State) (f : Slot → Slot) (c : Nat) : (s.modCur f).dutyCap c = s.dutyCap c := rfl
@[simp] theorem State.curK_modCur (s : State) (f : Slot → Slot) :
    (s.modCur f).curK = s.curK.setSlot s.curSlot (f s.cur) := by
  simp [State.curK, State.modCur, State.modSlot, State.setSlot, State.cur]

@[simp] theorem State.cur_modHearth (s : State) (h : Nat) (f : Hearth → Hearth) : (s.modHearth h f).cur = s.cur := rfl
@[simp] theorem State.curK_modHearth (s : State) (h : Nat) (f : Hearth → Hearth) : (s.modHearth h f).curK = s.curK := rfl
@[simp] theorem State.cluster_modHearth (s : State) (h : Nat) (f : Hearth → Hearth) (c : Nat) :
    (s.modHearth h f).cluster c = s.cluster c := rfl
@[simp] theorem State.dutyCap_modHearth (s : State) (h : Nat) (f : Hearth → Hearth) (c : Nat) :
    (s.modHearth h f).dutyCap c = s.dutyCap c := rfl

@[simp] theorem State.hearth_modCore (s : State) (c : Nat) (f : Core → Core) (h : Nat) :
    (s.modCore c f).hearth h = s.hearth h := rfl
@[simp] theorem State.cluster_modCore (s : State) (c : Nat) (f : Core → Core) (d : Nat) :
    (s.modCore c f).cluster d = s.cluster d := rfl
@[simp] theorem State.dutyCap_modCore (s : State) (c : Nat) (f : Core → Core) (d : Nat) :
    (s.modCore c f).dutyCap d = s.dutyCap d := rfl
@[simp] theorem State.curK_modCore (s : State) (f : Core → Core) : (s.modCore s.curCore f).curK = f s.curK := by
  simp [State.curK]
theorem State.cur_modCore {s : State} {f : Core → Core} (h : (f s.curK).slots = s.curK.slots) :
    (s.modCore s.curCore f).cur = s.cur := by
  rw [State.cur, State.slot, State.modCore_curCore, State.core_modCore_same, Core.slot]
  exact congrArg (get {} · s.curSlot) h

@[simp] theorem State.cur_modCluster (s : State) (c : Nat) (f : Cluster → Cluster) : (s.modCluster c f).cur = s.cur := rfl
@[simp] theorem State.curK_modCluster (s : State) (c : Nat) (f : Cluster → Cluster) : (s.modCluster c f).curK = s.curK := rfl
@[simp] theorem State.hearth_modCluster (s : State) (c : Nat) (f : Cluster → Cluster) (h : Nat) :
    (s.modCluster c f).hearth h = s.hearth h := rfl
@[simp] theorem State.dutyCap_modCluster (s : State) (c : Nat) (f : Cluster → Cluster) (d : Nat) :
    (s.modCluster c f).dutyCap d = s.dutyCap d := rfl

theorem State.fdutyReg_curCore (s : State) : s.fdutyReg s.curCore =
    word (s.dutyCap s.curCore * 2 ^ 16 + s.curK.pw.fduty.bits 15 15 * 2 ^ 15 + s.curK.pw.fduty.bits 4 0) := rfl

/-! ## Writes -/

/-- u is s with register n reading as v: every other register reads as before, and scalar registers, PC, STATUS and memory are
those of s. -/
def CsrWrite (s u : State) (n : Nat) (v : Word) : Prop :=
  (∀ r ∈ Claims.csrReads, r.2.2 u = if r.1 = n then v else r.2.2 s) ∧
    u.cur.stk = s.cur.stk ∧ u.cur.pc = s.cur.pc ∧ u.cur.st = s.cur.st ∧ u.mem = s.mem

/-- The mask of a register without reserved bits. -/
@[simp] theorem and_ones64 (v : Word) : v &&& 18446744073709551615#64 = v := BitVec.and_allOnes

/-- The thread's own registers. -/
theorem csrWrite_thread (s : State) (v : Word) :
    ∀ p ∈ Claims.csrWrites, p.1 < 0x100 → CsrWrite s (s.setCsr p.1 v) p.1 (v &&& p.2.2) := by
  simp [Claims.csrWrites, CsrWrite, Claims.csrReads, State.setCsr, Core.setSlot, Core.tile, State.fdutyReg_curCore,
    pack_unpack]

/-- The registers of the hearth whose writes do nothing else. -/
theorem csrWrite_hearth (s : State) (v : Word) :
    ∀ p ∈ Claims.csrWrites, 0x104 ≤ p.1 → p.1 < 0x200 → CsrWrite s (s.setCsr p.1 v) p.1 (v &&& p.2.2) := by
  simp [Claims.csrWrites, CsrWrite, Claims.csrReads, State.setCsr, State.fdutyReg_curCore, baseMask, baseLogMask]

theorem aweight_bits (v : Word) : word (v.bits 31 0) = v &&& 0xFFFFFFFF := by
  apply BitVec.eq_of_toNat_eq
  have hm : (v &&& 0xFFFFFFFF).toNat = v.toNat % 2 ^ 32 := Nat.and_two_pow_sub_one_eq_mod _ 32
  have hb : v.bits 31 0 = v.toNat % 2 ^ 32 := rfl
  rw [hm, hb, word, BitVec.toNat_ofNat]
  omega

/-- The registers of the core and of the cluster. -/
theorem csrWrite_core (s : State) (v : Word) :
    ∀ p ∈ Claims.csrWrites, 0x200 ≤ p.1 → CsrWrite s (s.setCsr p.1 v) p.1 (v &&& p.2.2) := by
  simp [Claims.csrWrites, CsrWrite, Claims.csrReads, State.setCsr, State.fdutyReg_curCore, State.cur_modCore, Core.tile,
    aweight_bits]

/-! ## Writes that reach every core -/

/-- u is s but for what the cores have cached and fetched, which no register shows. -/
structure CsrSame (s u : State) : Prop where
  core (c : Nat) : ∃ x p d, u.core c = { s.core c with xcache := x, pulled := p, stopped := d }
  hearths : u.hearths = s.hearths
  clusters : u.clusters = s.clusters
  dies : u.dies = s.dies
  hub : u.hub = s.hub
  curCore : u.curCore = s.curCore
  curSlot : u.curSlot = s.curSlot
  mem : u.mem = s.mem

theorem CsrSame.refl (s : State) : CsrSame s s := ⟨fun _ => ⟨_, _, _, rfl⟩, rfl, rfl, rfl, rfl, rfl, rfl, rfl⟩

theorem CsrSame.trans {s t u : State} (h : CsrSame s t) (h' : CsrSame t u) : CsrSame s u where
  core c := by
    obtain ⟨x, p, d, ht⟩ := h.core c
    obtain ⟨y, q, e, hu⟩ := h'.core c
    exact ⟨y, q, e, by rw [hu, ht]⟩
  hearths := h'.hearths.trans h.hearths
  clusters := h'.clusters.trans h.clusters
  dies := h'.dies.trans h.dies
  hub := h'.hub.trans h.hub
  curCore := h'.curCore.trans h.curCore
  curSlot := h'.curSlot.trans h.curSlot
  mem := h'.mem.trans h.mem

theorem CsrSame.cur {s u : State} (h : CsrSame s u) : u.cur = s.cur := by
  obtain ⟨x, p, d, hk⟩ := h.core s.curCore
  rw [State.cur, State.slot, h.curCore, h.curSlot, hk]
  rfl

theorem CsrSame.hearth {s u : State} (h : CsrSame s u) (n : Nat) : u.hearth n = s.hearth n :=
  congrArg (get ({} : Hearth) · n) h.hearths

theorem CsrSame.reads {s u : State} (h : CsrSame s u) : ∀ r ∈ Claims.csrReads, r.2.2 u = r.2.2 s := by
  obtain ⟨x, p, d, hk⟩ := h.core s.curCore
  have hk' : u.curK = { s.curK with xcache := x, pulled := p, stopped := d } := by rw [State.curK, h.curCore, hk]; rfl
  have hw (c : Nat) : u.cluster c = s.cluster c := congrArg (get ({} : Cluster) · c) h.clusters
  have hd (c : Nat) : u.dutyCap c = s.dutyCap c := by rw [State.dutyCap, State.die, h.dies, h.hub]; rfl
  simp [Claims.csrReads, h.cur, h.hearth, hk', hw, hd, h.curCore, Core.tile, State.fdutyReg, hk]

theorem CsrSame.modCore_xcache (s : State) (c : Nat) (f : Core → List XEntry) :
    CsrSame s (s.modCore c fun k => { k with xcache := f k }) where
  core d := by
    by_cases hd : d = c
    · subst hd
      rw [State.core_modCore_same]
      exact ⟨_, _, _, rfl⟩
    · rw [State.core_modCore_ne s _ hd]
      exact ⟨_, _, _, rfl⟩
  hearths := rfl
  clusters := rfl
  dies := rfl
  hub := rfl
  curCore := rfl
  curSlot := rfl
  mem := rfl

theorem csrSame_sendEntry (s : State) (c : Nat) (e : XEntry) : CsrSame s (s.sendEntry c e).1 := by
  unfold State.sendEntry
  split
  · exact .refl s
  · split
    · exact .refl s
    · exact ⟨fun _ => ⟨_, _, _, rfl⟩, rfl, rfl, rfl, rfl, rfl, rfl, rfl⟩

theorem csrSame_sendEntries (s : State) (c : Nat) (p : XEntry → Bool) (keep : Bool) :
    CsrSame s (s.sendEntries c p keep) := by
  unfold State.sendEntries
  refine List.foldrRecOn _ _ (CsrSame.refl s) fun t ht e _ => ?_
  dsimp only
  split
  · exact (ht.trans (csrSame_sendEntry t c e)).trans (.modCore_xcache _ _ _)
  · exact ht

theorem csrSame_flushSection (s : State) (h : Nat) : CsrSame s (s.flushSection h) := by
  unfold State.flushSection
  refine List.foldlRecOn _ _ (CsrSame.refl s) fun t ht c _ => ?_
  split
  · exact ht.trans (csrSame_sendEntries t c _ _)
  · exact ht

theorem csrSame_restartDispatch (s : State) (h : Nat) : CsrSame s (s.restartDispatch h) where
  core c := ⟨_, _, _, get_map_snd
    (fun k : Core => { k with stopped := k.stopped.filter (· != h), pulled := k.pulled.filter fun p => p.hearth != h }) rfl _ c⟩
  hearths := rfl
  clusters := rfl
  dies := rfl
  hub := rfl
  curCore := rfl
  curSlot := rfl
  mem := rfl

theorem CsrWrite.of_same_left {s t u : State} {n : Nat} {v : Word} (h : CsrSame s t) (hu : CsrWrite t u n v) :
    CsrWrite s u n v := by
  obtain ⟨hr, hstk, hpc, hst, hm⟩ := hu
  rw [h.cur] at hstk hpc hst
  exact ⟨fun r hmem => by rw [hr r hmem, h.reads r hmem], hstk, hpc, hst, hm.trans h.mem⟩

theorem CsrWrite.of_same_right {s t u : State} {n : Nat} {v : Word} (ht : CsrWrite s t n v) (h : CsrSame t u) :
    CsrWrite s u n v := by
  obtain ⟨hr, hstk, hpc, hst, hm⟩ := ht
  rw [← h.cur] at hstk hpc hst
  exact ⟨fun r hmem => by rw [h.reads r hmem, hr r hmem], hstk, hpc, hst, h.mem.trans hm⟩

theorem csrWrite_modHearth_xbase (s : State) (v : Word) :
    CsrWrite s (s.modHearth s.cur.st.hearth fun q => { q with xbase := v }) 0x101 v := by
  simp [CsrWrite, Claims.csrReads, State.fdutyReg_curCore]

/-- XBASE: the section's updates leave the cores first (R188, R197). -/
theorem csrWrite_xbase (s : State) (v : Word) : CsrWrite s (s.setCsr 0x101 v) 0x101 (v &&& 0x01FFFFFFFFFFF03F) := by
  have hsame := csrSame_flushSection s s.cur.st.hearth
  have hset := csrWrite_modHearth_xbase (s.flushSection s.cur.st.hearth) (v &&& 0x01FFFFFFFFFFF03F)
  rw [hsame.cur] at hset
  exact .of_same_left hsame hset

theorem csrWrite_trbase (s : State) (v : Word) : CsrWrite s (s.setCsr 0x102 v) 0x102 (v &&& 0x01FFFFFFFFFFF01F) := by
  refine .of_same_right ?_ (csrSame_restartDispatch _ _)
  simp [CsrWrite, Claims.csrReads, State.fdutyReg_curCore, baseLogMask]

theorem csrWrite_qtbase (s : State) (v : Word) : CsrWrite s (s.setCsr 0x103 v) 0x103 (v &&& 0x01FFFFFFFFFFF000) := by
  refine .of_same_right ?_ (csrSame_restartDispatch _ _)
  simp [CsrWrite, Claims.csrReads, State.fdutyReg_curCore, baseMask]

/-- The registers whose writes reach every core. -/
theorem csrWrite_cores (s : State) (v : Word) :
    ∀ p ∈ Claims.csrWrites, 0x100 ≤ p.1 → p.1 < 0x104 → CsrWrite s (s.setCsr p.1 v) p.1 (v &&& p.2.2) := by
  simpa [Claims.csrWrites] using And.intro (csrWrite_xbase s v) ⟨csrWrite_trbase s v, csrWrite_qtbase s v⟩

/-- A write sets its register, but for the reserved bits, and no other (R8, R371, R372). -/
theorem csrWrite_setCsr (s : State) (v : Word) :
    ∀ p ∈ Claims.csrWrites, CsrWrite s (s.setCsr p.1 v) p.1 (v &&& p.2.2) := by
  intro p hp
  rcases Nat.lt_or_ge p.1 0x100 with hthread | hthread
  · exact csrWrite_thread s v p hp hthread
  rcases Nat.lt_or_ge p.1 0x104 with hcores | hcores
  · exact csrWrite_cores s v p hp hthread hcores
  rcases Nat.lt_or_ge p.1 0x200 with hhearth | hhearth
  · exact csrWrite_hearth s v p hp hcores hhearth
  · exact csrWrite_core s v p hp hhearth

/-! ## The instructions -/

/-- After a write the thread goes on with idv clear, and STATUS alone shows it. -/
theorem reads_clearIdv_advance (s : State) (f : Fld) :
    ∀ r ∈ Claims.csrReads, r.1 ≠ 0 → r.2.2 (s.clearIdv.advance f) = r.2.2 s := by
  simp [Claims.csrReads, State.clearIdv, State.advance, Core.setSlot, Core.tile, State.fdutyReg_curCore]

theorem cur_clearIdv_advance (s : State) (f : Fld) :
    (s.clearIdv.advance f).cur = { s.cur with pc := s.npc f, st := { s.cur.st with idv := false } } := by
  simp [State.clearIdv, State.advance, State.npc]

theorem XA.fld_d_lt (x : XA) : (x.fld 2).d < 16 := by
  have h : (x.fld 2).d = x.d.toNat := by simp only [XA.fld, fldPxr]; split <;> rfl
  rw [h]
  exact x.d.isLt

theorem csr_eq (s : State) : ∀ r ∈ Claims.csrReads, s.csr r.1 = r.2.2 s := by
  simp [Claims.csrReads, State.csr, Log.base, Log.ringSize, word]

theorem csrLevels_reads : ∀ p ∈ Claims.csrReads, p.1 < 4096 ∧ (csrLevels p.1).map (·.1) = some p.2.1 := by
  simp [Claims.csrReads, csrLevels]

theorem csrLevels_writes : ∀ p ∈ Claims.csrWrites, p.1 < 4096 ∧ (csrLevels p.1).bind (·.2) = some p.2.1 := by
  simp [Claims.csrWrites, csrLevels]

theorem csrWrites_ne_zero : ∀ p ∈ Claims.csrWrites, p.1 ≠ 0 := by
  simp [Claims.csrWrites]

/-- Every number that has levels is in the list. -/
theorem csrLevels_unlisted {n : Nat} (h : ∀ p ∈ Claims.csrReads, n ≠ p.1) : csrLevels n = none := by
  have hn : n ∉ Claims.csrReads.map (·.1) := fun hmem => by
    obtain ⟨p, hp, rfl⟩ := List.mem_map.mp hmem
    exact h p hp rfl
  clear h
  rw [show Claims.csrReads.map (·.1) = _ from rfl] at hn
  unfold csrLevels
  split
  case h_40 => rfl
  all_goals exact absurd (by decide) hn

/-- A use below the level does not come to the gate (R500). -/
theorem csrPriv_read (s : State) {p} (hp : p ∈ Claims.csrReads) :
    csrPriv p.1 false s = decide (s.cur.st.priv < p.2.1) := by
  have h := (csrLevels_reads p hp).2
  unfold csrPriv
  split <;> simp_all

theorem csrPriv_write (s : State) {p} (hp : p ∈ Claims.csrWrites) :
    csrPriv p.1 true s = decide (s.cur.st.priv < p.2.1) := by
  have h := (csrLevels_writes p hp).2
  unfold csrPriv
  split
  · simp_all
  · split <;> simp_all

theorem lastBad_false (f : Fld) (s : State) : lastBad f false s = none := limits_eq_none (by simp)

/-- The checks of a legal use of a listed register find nothing. -/
theorem csr_checks_none {f : Fld} (s : State) {bad : Bool} (hbad : bad = false) {n : Nat} (hn : f.immU = n) (hlt : n < 4096)
    (hl : csrLevels n ≠ none) : firstTrap [lastBad f bad s, csrNum f s] = none := by
  have h : csrNum f s = none := by
    simp [csrNum, firstTrap, illfld, trapIf, hn, Nat.not_le.mpr hlt, hl]
  rw [hbad, lastBad_false, h]
  rfl

theorem privGate_of_true {i : Instr} {bad : State → Bool} (chk : State → Option TrapRec) (k : State → State) {s : State}
    (h : bad s = true) : privGate i bad chk k s = .next (s.trap { cause := 0x05 }) := if_pos h
theorem privGate_of_false {i : Instr} {bad : State → Bool} (chk : State → Option TrapRec) (k : State → State) {s : State}
    (h : bad s = false) : privGate i bad chk k s = gate i chk k s := if_neg (ne_true_of_eq_false h)

theorem exec_csrOps : ∀ o ∈ Claims.csrOps, ∀ (x : XA) (s : State), exec (o.1 x) s = csrWrite (o.1 x) (x.fld 2) o.2 s := by
  simp only [Claims.csrOps, List.forall_mem_cons]
  exact ⟨fun _ _ => rfl, fun _ _ => rfl, fun _ _ => rfl, List.forall_mem_nil _⟩

theorem traps_of_csrPriv {o : (XA → Instr) × (Word → Word → Word)} (ho : o ∈ Claims.csrOps) {x : XA} {s : State} {n : Nat}
    (hn : (x.fld 2).immU = n) (h : csrPriv n true s = true) : Traps (o.1 x) s { cause := 0x05 } := by
  rw [Traps, exec_csrOps o ho, csrWrite, privGate_of_true _ _ (hn ▸ h)]

/-- A legal write does what `setCsr` does, clears idv and goes on. -/
theorem exec_csrOps_next {o : (XA → Instr) × (Word → Word → Word)} (ho : o ∈ Claims.csrOps) {x : XA} {s : State} {n : Nat}
    (hr : Ready (o.1 x) s) (hd : (x.fld 2).d = 0) (ht : (x.fld 2).t = 0) (hn : (x.fld 2).immU = n) (hlt : n < 4096)
    (hl : csrLevels n ≠ none) (h : csrPriv n true s = false) :
    exec (o.1 x) s = .next ((s.setCsr n (o.2 (s.csr n) (s.w (x.fld 2).s))).clearIdv.advance (x.fld 2)) := by
  rw [exec_csrOps o ho, csrWrite, privGate_of_false _ _ (hn ▸ h),
    gate_next _ _ hr (csr_checks_none s (by simp [hd, ht]) hn hlt hl), hn]

/-! ## The obligation, part by part -/

/-- CSRR at or above the read level. -/
theorem csrr_writes {x : XA} {s : State} {p : Nat × Nat × (State → Word)} (hp : p ∈ Claims.csrReads) (hr : Ready (.csrr x) s)
    (hs : (x.fld 2).s = 0) (ht : (x.fld 2).t = 0) (hn : (x.fld 2).immU = p.1) (hpriv : p.2.1 ≤ s.cur.st.priv) :
    Writes (.csrr x) s (p.2.2 s) := by
  obtain ⟨hlt, hl⟩ := csrLevels_reads p hp
  have hl' : csrLevels p.1 ≠ none := fun h => by simp [h] at hl
  have hp' : csrPriv p.1 false s = false := by simp [csrPriv_read s hp, Nat.not_lt.mpr hpriv]
  refine writes_of_result (XA.fld_d_lt x) ?_
  change execCsrr x s = _
  rw [execCsrr, privGate_of_false _ _ (hn ▸ hp'),
    gate_next _ _ hr (csr_checks_none s (by simp [hs, ht]) hn hlt hl'), hn, csr_eq s p hp]
  rfl

theorem csrr_priv {x : XA} {s : State} {p : Nat × Nat × (State → Word)} (hp : p ∈ Claims.csrReads) (hn : (x.fld 2).immU = p.1)
    (hpriv : s.cur.st.priv < p.2.1) : Traps (.csrr x) s { cause := 0x05 } := by
  change execCsrr x s = _
  rw [execCsrr, privGate_of_true _ _ (by rw [hn, csrPriv_read s hp, decide_eq_true hpriv])]

/-- CSRR of a number that is not listed. -/
theorem csrr_num {x : XA} {s : State} (hr : Ready (.csrr x) s) (hs : (x.fld 2).s = 0) (ht : (x.fld 2).t = 0)
    (hlt : (x.fld 2).immU < 4096) (hn : ∀ p ∈ Claims.csrReads, (x.fld 2).immU ≠ p.1) :
    Traps (.csrr x) s { cause := 0x15, addr := BitVec.ofNat 64 (x.fld 2).immU } := by
  have hl := csrLevels_unlisted hn
  have hp : csrPriv (x.fld 2).immU false s = false := by rw [csrPriv, hl]
  have hchk : firstTrap [lastBad (x.fld 2) false s, csrNum (x.fld 2) s] =
      some { cause := 0x15, addr := BitVec.ofNat 64 (x.fld 2).immU } := by
    rw [lastBad_false]
    simp [firstTrap, csrNum, illfld, trapIf, hl, Nat.not_le.mpr hlt, word]
  have hbad : ((x.fld 2).s != 0 || (x.fld 2).t != 0) = false := by simp [hs, ht]
  change execCsrr x s = _
  rw [execCsrr, privGate_of_false _ _ hp, gate_trap _ _ hr (by rw [hbad]; exact hchk)]

/-- CSRW, CSRS and CSRC of a register but STATUS at or above its write level. -/
theorem csrOps_next {o : (XA → Instr) × (Word → Word → Word)} (ho : o ∈ Claims.csrOps) {x : XA} {s : State}
    {p : Nat × Nat × Word} (hp : p ∈ Claims.csrWrites) (hr : Ready (o.1 x) s) (hd : (x.fld 2).d = 0) (ht : (x.fld 2).t = 0)
    (hn : (x.fld 2).immU = p.1) (hpriv : p.2.1 ≤ s.cur.st.priv) :
    ∃ t : State, exec (o.1 x) s = .next t ∧
      (∀ r ∈ Claims.csrReads, r.1 = p.1 → r.2.2 t = o.2 (r.2.2 s) (s.w (x.fld 2).s) &&& p.2.2) ∧
      (∀ r ∈ Claims.csrReads, r.1 ≠ p.1 → r.1 ≠ 0 → r.2.2 t = r.2.2 s) ∧ t.cur.stk = s.cur.stk ∧
      t.cur.pc = s.npc (x.fld 2) ∧ t.cur.st = { s.cur.st with idv := false } ∧ t.mem = s.mem := by
  obtain ⟨hlt, hl⟩ := csrLevels_writes p hp
  have hl' : csrLevels p.1 ≠ none := fun h => by simp [h] at hl
  have h0 : p.1 ≠ 0 := csrWrites_ne_zero p hp
  have hp' : csrPriv p.1 true s = false := by simp [csrPriv_write s hp, Nat.not_lt.mpr hpriv]
  obtain ⟨hreads, hstk, hpc, hst, hmem⟩ := csrWrite_setCsr s (o.2 (s.csr p.1) (s.w (x.fld 2).s)) p hp
  refine ⟨_, exec_csrOps_next ho hr hd ht hn hlt hl' hp', fun r hr hrp => ?_, fun r hr hrp hr0 => ?_, ?_, ?_, ?_, hmem⟩
  · rw [reads_clearIdv_advance _ _ r hr (hrp ▸ h0), hreads r hr, if_pos hrp, ← hrp, csr_eq s r hr]
  · rw [reads_clearIdv_advance _ _ r hr hr0, hreads r hr, if_neg hrp]
  · rw [cur_clearIdv_advance, hstk]
  · rw [cur_clearIdv_advance, State.npc, State.npc, hpc]
  · rw [cur_clearIdv_advance, hst]

/-- CSRW of STATUS. -/
theorem csrw_status {x : XA} {s : State} (hr : Ready (.csrw x) s) (hd : (x.fld 2).d = 0) (ht : (x.fld 2).t = 0)
    (hn : (x.fld 2).immU = 0) (hpriv : 1 ≤ s.cur.st.priv) :
    exec (.csrw x) s = .next ((s.modCur fun t => { t with st := t.st.write (s.w (x.fld 2).s) }).clearIdv.advance (x.fld 2)) :=
  exec_csrOps_next (o := (.csrw, fun _ v => v)) (by simp [Claims.csrOps]) hr hd ht hn (by decide) (by decide)
    (decide_eq_false (Nat.not_lt.mpr hpriv))

/-- The registers without a write column (R372). -/
theorem csrPriv_readOnly (s : State) :
    ∀ n ∈ [0x004, 0x005, 0x010, 0x018, 0x019, 0x01A, 0x01B, 0x100, 0x109, 0x200], csrPriv n true s = true := by
  simp [csrPriv, csrLevels]

/-- Settles O41: a write sets its own register and no other (`csrWrite_setCsr`), and a use below the level of a register
(`csrPriv_read`, `csrPriv_write`) does not come to the gate. -/
theorem controlRegisters : Obligations.ControlRegisters := by
  refine ⟨fun p hp x s hr hs ht hn => ⟨csrr_writes hp hr hs ht hn, csrr_priv hp hn⟩,
    fun p hp o ho x s => ?_, fun x s => ?_, fun n hn o ho x s hx => traps_of_csrPriv ho hx (csrPriv_readOnly s n hn),
    fun x s hr hs ht hlt hn => csrr_num hr hs ht hlt hn⟩
  · intro f hd ht hn
    refine ⟨fun hr hpriv => csrOps_next ho hp hr hd ht hn hpriv, fun hpriv => traps_of_csrPriv ho hn ?_⟩
    rw [csrPriv_write s hp, decide_eq_true hpriv]
  · intro f v hr hd ht hn hpriv
    refine ⟨_, csrw_status hr hd ht hn hpriv, ?_, ?_⟩
    · exact OnlyCur.trans (OnlyCur.trans (onlyCur_modCur s _) rfl rfl (onlyCur_modCur _ _)) rfl rfl (onlyCur_modCur _ _)
    · rw [cur_clearIdv_advance, State.cur_modCur, State.npc, State.cur_modCur]
      rfl

end Sys2Proof.Machine

/-! # The register window

CALL and RET move the window over the ring of registers (R39): a register of the caller and one of the callee are the same ring
entry (`entry_callWindow`), and the free values of the new upper frame fall on no entry of either (`cur_freeUpper`). -/

namespace Sys2Proof.Machine
/-! ## What writes of the ring leave alone -/

theorem get_setEntry (t : Slot) (e i : Nat) (v : Word) : get 0 (t.setEntry e v).stk i = if i = e then v else get 0 t.stk i :=
  get_put 0 t.stk e i v

@[simp] theorem cur_free (s : State) : s.free.2.cur = s.cur := rfl
theorem freeCtr_free (s : State) : s.free.2.freeCtr = s.freeCtr + 1 := rfl

@[simp] theorem freeUpper_mem (s : State) (n : Nat) : (freeUpper s n).mem = s.mem := by
  induction n generalizing s with
  | zero => rfl
  | succ n ih => rw [freeUpper, ih]; rfl

theorem freeUpper_freeCtr (s : State) (n : Nat) : (freeUpper s n).freeCtr = s.freeCtr + n := by
  induction n generalizing s with
  | zero => rfl
  | succ n ih =>
    rw [freeUpper, ih, State.modCur_freeCtr, freeCtr_free, Nat.add_assoc, Nat.add_comm 1]

/-- The free values of a new frame change ring entries of its upper half alone, and leave no mark (R39). -/
theorem cur_freeUpper (s : State) (n : Nat) : ∃ stk m, (freeUpper s n).cur = { s.cur with stk := stk, markW := m } ∧
    (∀ e, (∀ i < n, e ≠ s.cur.entry (8 + i)) → get 0 stk e = get 0 s.cur.stk e) ∧ (s.cur.markW = [] → m = []) := by
  induction n generalizing s with
  | zero => exact ⟨_, _, rfl, fun _ _ => rfl, id⟩
  | succ n ih =>
    obtain ⟨stk, m, hcur, hget, hmark⟩ := ih (s.free.2.modCur fun t => t.setEntry (t.entry (8 + n)) s.free.1)
    rw [State.cur_modCur, cur_free] at hcur hget hmark
    refine ⟨stk, m, hcur, fun e he => ?_, fun h => hmark (by simp [Slot.setEntry, h])⟩
    rw [hget e fun i hi => he i (Nat.lt_succ_of_lt hi), get_setEntry, if_neg (he n (Nat.lt_succ_self n))]

/-! ## CALL -/

/-- Register n of the callee is register n + 8 of its caller (R39). -/
theorem entry_callWindow (t : Slot) (n : Nat) : (callWindow t).entry n = t.entry (n + 8) := by
  simp only [Slot.entry, callWindow]
  omega

/-- The thread after a call: the caller's registers below w15 stay in their ring entries, w15, the callee's w7, holds the return
address, and the marks of a thread without any stay none. -/
theorem callTo_window {s : State} (f : Fld) (a : Word) (hr : s.cur.st.resid ≠ 10) :
    ∃ stk m, (s.callTo f a).cur = { (callWindow s.cur) with
        pc := a
        stk := stk
        markW := m
        st := { (callWindow s.cur).st with live := (callWindow s.cur).st.live ||| (1#16 <<< 7) } } ∧
      (∀ n < 15, get 0 stk (s.cur.entry n) = s.cur.w n) ∧ get 0 stk (s.cur.entry 15) = s.npc f ∧
      (s.cur.markW = [] → m = []) ∧ (s.callTo f a).mem = s.mem ∧ (s.callTo f a).freeCtr = s.freeCtr + 8 := by
  obtain ⟨stk, m, hcur, hget, hmark⟩ := cur_freeUpper (s.modCur callWindow) 8
  have hmem := freeUpper_mem (s.modCur callWindow) 8
  have hfree := freeUpper_freeCtr (s.modCur callWindow) 8
  rw [State.callTo, if_neg hr]
  generalize freeUpper (s.modCur callWindow) 8 = u at *
  rw [State.cur_modCur] at hcur hget hmark
  rw [State.modCur_freeCtr] at hfree
  have h7 : (callWindow s.cur).entry 7 = s.cur.entry 15 := entry_callWindow s.cur 7
  refine ⟨put stk (s.cur.entry 15) (s.npc f), m.filter (·.reg != s.cur.entry 15), ?_, fun n hn => ?_, get_put_same ..,
    fun h => ?_, by rw [State.jump_mem, State.setW_mem, hmem, State.modCur_mem], by rw [State.jump_freeCtr, State.setW_freeCtr, hfree]⟩
  · rw [State.cur_jump, State.cur_setW, hcur, Slot.setW, Slot.setEntry, ← h7]
    rfl
  · have hne : s.cur.entry n ≠ s.cur.entry 15 := by simp only [Slot.entry]; omega
    rw [get_put_ne _ _ _ hne, hget _ fun i hi => ?_]
    · rfl
    · rw [entry_callWindow]
      simp only [Slot.entry]
      omega
  · rw [hmark h]
    rfl

/-- A call's effect on the window (R249). -/
theorem called_callTo {s : State} (f : Fld) (a : Word) (hr : s.cur.st.resid ≠ 10) :
    Claims.Called s (s.callTo f a) (s.npc f) a := by
  obtain ⟨stk, m, hcur, hlow, hra, -, hmem, hfree⟩ := callTo_window f a hr
  generalize s.callTo f a = t at *
  have hentry (n : Nat) : t.cur.entry n = s.cur.entry (n + 8) := by
    rw [hcur]; exact entry_callWindow s.cur n
  refine ⟨by simp [hcur], ?_, fun n hn => ?_, by simp [hcur, callWindow], fun n hn => ?_, ?_, hmem, hfree, ?_⟩
  · rw [Slot.w, hentry, hcur]; exact hra
  · rw [Slot.w, hentry, hcur]; exact hlow _ (by omega)
  · rw [hcur]; exact hlow n (by omega)
  · simp [hcur, callWindow, BitVec.or_assoc]
  · simp [hcur, callWindow]

/-- CallTo with ten resident frames traps (R249). -/
theorem callTo_spill {s : State} (f : Fld) (a : Word) (hr : s.cur.st.resid = 10) : s.callTo f a = s.trap { cause := 0x07 } :=
  if_pos hr

theorem exec_call {x : Z9} {s : State} (hr : Ready (.call x) s) :
    exec (.call x) s = .next (s.callTo x.fld (s.cur.pc + BitVec.ofInt 64 (2 * x.fld.immS))) :=
  gate_next (fun _ => none) (fun s => s.callTo x.fld (target s x.fld.immS)) hr rfl

/-! ## Checks of an instruction's limits -/

theorem illfld_eq_none (s : State) {bad : Bool} {n : Nat} (h : bad = false) : illfld s bad n = none := by simp [illfld, h]
theorem illfld_eq_some (s : State) {bad : Bool} {n : Nat} (h : bad = true) : illfld s bad n = some (illfldAt s n) := by
  simp [illfld, illfldAt, h]
@[simp] theorem firstTrap_nil : firstTrap [] = none := rfl
@[simp] theorem firstTrap_none (l : List (Option TrapRec)) : firstTrap (none :: l) = firstTrap l := rfl
@[simp] theorem firstTrap_some (r : TrapRec) (l : List (Option TrapRec)) : firstTrap (some r :: l) = some r := rfl
@[simp] theorem trapIf_false (c : Nat) (a : Word) : trapIf false c a = none := rfl
@[simp] theorem trapIf_true (c : Nat) (a : Word) : trapIf true c a = some { cause := c, addr := a } := rfl

theorem getLsbD_zero_eq (a : Word) : a.getLsbD 0 = decide (a.toNat % 2 = 1) := by
  simp [BitVec.getLsbD, Nat.testBit_zero]

theorem Z9.fld_base (x : Z9) : x.fld.base = x.z.toNat := by
  simp only [Z9.fld, fldPxr]
  split <;> rfl

/-- A thread without marks may run whatever its privilege permits (R454, R487). -/
theorem sourceMark_of_no_marks {t : Slot} (u : Use) (hw : t.markW = []) (hv : t.markV = []) : sourceMark t u = none := by
  simp [sourceMark, hw, hv, leastBy]

/-! ## RET -/

theorem State.modCur_modCur (s : State) (f g : Slot → Slot) : (s.modCur f).modCur g = s.modCur fun t => g (f t) := by
  simp [State.modCur, State.modSlot]

/-- The checks of RET, with its reserved field 0 (R252). -/
theorem retChecks {x : Z9} {s : State} (hz : x.z = 0) : firstTrap [illfld s (x.fld.base != 0) x.fld.last,
      trapIf ((s.w 7).getLsbD 0) 0x04 (s.w 7), trapIf (s.cur.st.resid = 0) 0x08 0] =
    firstTrap [trapIf (decide ((s.w 7).toNat % 2 = 1)) 0x04 (s.w 7), trapIf (s.cur.st.resid = 0) 0x08 0] := by
  rw [illfld_eq_none s (by rw [Z9.fld_base, hz]; rfl), getLsbD_zero_eq, firstTrap_none]

theorem exec_ret_next {x : Z9} {s : State} (hr : Ready (.ret x) s) (hz : x.z = 0) (ha : (s.w 7).toNat % 2 = 0)
    (hres : s.cur.st.resid ≠ 0) : exec (.ret x) s = .next (s.modCur fun t => { retWindow t with pc := s.w 7 }) := by
  change execRet x s = _
  rw [execRet, gate_next _ _ hr (by rw [retChecks hz]; simp [ha, hres])]
  exact congrArg _ (State.modCur_modCur s retWindow _)

theorem ret_odd {x : Z9} {s : State} (hr : Ready (.ret x) s) (hz : x.z = 0) (ha : (s.w 7).toNat % 2 = 1) :
    Traps (.ret x) s { cause := 0x04, addr := s.w 7 } := by
  change execRet x s = _
  rw [execRet, gate_trap (r := { cause := 0x04, addr := s.w 7 }) _ _ hr (by rw [retChecks hz]; simp [ha])]

theorem ret_fill {x : Z9} {s : State} (hr : Ready (.ret x) s) (hz : x.z = 0) (ha : (s.w 7).toNat % 2 = 0)
    (hres : s.cur.st.resid = 0) : Traps (.ret x) s { cause := 0x08 } := by
  change execRet x s = _
  rw [execRet, gate_trap (r := { cause := 0x08 }) _ _ hr (by rw [retChecks hz]; simp [ha, hres])]

theorem ret_illfld {x : Z9} {s : State} (hr : Ready (.ret x) s) (hz : x.z ≠ 0) : Traps (.ret x) s (illfldAt s x.fld.last) := by
  have hbad : (x.fld.base != 0) = true := by
    rw [Z9.fld_base, bne_iff_ne]
    exact fun h => hz (BitVec.eq_of_toNat_eq h)
  change execRet x s = _
  rw [execRet, gate_trap _ _ hr (by rw [illfld_eq_some s hbad, firstTrap_some])]

/-- A return takes the window back to the caller of `callTo` (R39). -/
theorem ret_after_call {s : State} {y : Z9} (f : Fld) (a : Word) (hw : s.cur.wlow < 12) (hr : s.cur.st.resid ≠ 10)
    (hz : y.z = 0) (ha : (s.npc f).toNat % 2 = 0) (hmw : s.cur.markW = []) (hmv : s.cur.markV = []) :
    ∃ u : State, exec (.ret y) (s.callTo f a) = .next u ∧ (∀ n < 15, u.cur.w n = s.cur.w n) ∧ u.cur.wlow = s.cur.wlow ∧
      u.cur.st.resid = s.cur.st.resid ∧ u.cur.pc = s.npc f ∧ u.mem = s.mem := by
  obtain ⟨stk, m, hcur, hlow, hra, hmark, hmem, -⟩ := callTo_window f a hr
  generalize s.callTo f a = t at *
  have h7 : t.w 7 = s.npc f := by
    rw [State.w, Slot.w, hcur]
    exact (congrArg (get 0 stk) (entry_callWindow s.cur 7)).trans hra
  have hready : Ready (.ret y) t :=
    ⟨Nat.zero_le _, sourceMark_of_no_marks _ (by rw [hcur]; exact hmark hmw) (by rw [hcur]; exact hmv)⟩
  have hres : t.cur.st.resid = s.cur.st.resid + 1 := by rw [hcur]; rfl
  have hwlow : ((s.cur.wlow + 1) % 12 + 11) % 12 = s.cur.wlow := by omega
  have hlast : (t.modCur fun q => { retWindow q with pc := t.w 7 }).cur =
      { retWindow { (callWindow s.cur) with
          pc := a, stk := stk, markW := m
          st := { (callWindow s.cur).st with live := (callWindow s.cur).st.live ||| (1#16 <<< 7) } } with pc := s.npc f } := by
    rw [State.cur_modCur, h7, hcur]
  refine ⟨_, exec_ret_next hready hz (h7 ▸ ha) (by omega), fun n hn => ?_, ?_, ?_, ?_, hmem⟩
  · rw [hlast, Slot.w]
    have he : (((s.cur.wlow + 1) % 12 + 11) % 12 * 8 + n) % 96 = s.cur.entry n := by rw [hwlow]; rfl
    exact (congrArg (get 0 stk) he).trans (hlow n hn)
  · rw [hlast]; exact hwlow
  · rw [hlast]; exact Nat.add_sub_cancel ..
  · rw [hlast]

/-- Settles O12: RET undoes what `callTo_window` says of the window. -/
theorem returnRestoresCaller : Obligations.ReturnRestoresCaller := by
  refine ⟨fun x s hr => ⟨fun hz ha hres => ?_, ret_odd hr, ret_fill hr, ret_illfld hr⟩,
    fun x y s t hr hw hres ht hz ha hmw hmv => ?_⟩
  · exact exec_ret_next hr hz ha hres
  · rw [exec_call hr] at ht
    cases ht
    exact ret_after_call x.fld _ hw hres hz ha hmw hmv

/-! ## Translations and fetches

A translation and a fetch change dies and, of the cores, translation and instruction caches. -/

/-- t is s but for the dies, the next number and the cores' TLBs and instruction caches. -/
structure Walked (s t : State) : Prop where
  rest : t = { s with cores := t.cores, dies := t.dies, nextId := t.nextId }
  core (c : Nat) : ∃ tlb ic, t.core c = { s.core c with tlb := tlb, icache := ic }

namespace Walked

variable {s t u : State}

theorem refl (s : State) : Walked s s := ⟨rfl, fun _ => ⟨_, _, rfl⟩⟩

theorem trans (h : Walked s t) (h' : Walked t u) : Walked s u where
  rest := by rw [h'.rest, h.rest]
  core c := by
    obtain ⟨a, b, ht⟩ := h.core c
    obtain ⟨a', b', hu⟩ := h'.core c
    exact ⟨a', b', by rw [hu, ht]⟩

theorem mem (h : Walked s t) : t.mem = s.mem := by rw [h.rest]
theorem hub (h : Walked s t) : t.hub = s.hub := by rw [h.rest]
theorem curCore (h : Walked s t) : t.curCore = s.curCore := by rw [h.rest]
theorem curSlot (h : Walked s t) : t.curSlot = s.curSlot := by rw [h.rest]
theorem latent (h : Walked s t) : t.latent = s.latent := by rw [h.rest]
theorem slot (h : Walked s t) (c n : Nat) : t.slot c n = s.slot c n := by
  obtain ⟨_, _, ht⟩ := h.core c
  rw [State.slot, ht]
  rfl
theorem cur (h : Walked s t) : t.cur = s.cur := by rw [State.cur, h.curCore, h.curSlot, h.slot]; rfl

end Walked

theorem walked_modDie (s : State) (d : Nat) (f : Die → Die) : Walked s (s.modDie d f) := ⟨rfl, fun _ => ⟨_, _, rfl⟩⟩

/-- Changing the caches of one core. -/
theorem walked_modCore (s : State) (c : Nat) {f : Core → Core} (hf : ∀ k, ∃ tlb ic, f k = { k with tlb := tlb, icache := ic }) :
    Walked s (s.modCore c f) where
  rest := rfl
  core d := by
    by_cases hd : d = c
    · rw [hd, State.core_modCore_same]
      exact hf _
    · rw [State.core_modCore_ne s f hd]
      exact ⟨_, _, rfl⟩

theorem walked_addMiss (s : State) (m : Miss) : Walked s (s.addMiss m) := by
  unfold State.addMiss
  split
  · exact walked_modDie ..
  · split
    · exact .refl s
    · exact walked_modDie ..

theorem walked_dropMiss (s : State) (c who h : Nat) (va : Word) : Walked s (s.dropMiss c who h va) := by
  unfold State.dropMiss
  split
  · exact walked_modDie ..
  · exact .refl s

theorem walked_takeAnswer (s : State) (c who h : Nat) (va : Word) : Walked s (s.takeAnswer c who h va) := by
  unfold State.takeAnswer
  split
  · exact .refl s
  · exact walked_dropMiss ..

theorem walked_fillTlb (s : State) (c : Nat) (t : TlbEntry) : Walked s (s.fillTlb c t) :=
  (walked_modCore s c fun _ => ⟨_, _, rfl⟩).trans (walked_modDie ..)

theorem walked_startWalk (s : State) (m : Miss) : Walked s (s.startWalk m) := by
  unfold State.startWalk
  split
  · exact ⟨rfl, fun _ => ⟨_, _, rfl⟩⟩
  · exact .refl s

theorem walked_miss (s : State) (m : Miss) (priv : Nat) (k : Acc) : OnSnd (Walked s) (s.miss m priv k) := by
  unfold State.miss
  split
  · exact .refl s
  split
  · exact walked_addMiss ..
  split
  · exact walked_fillTlb ..
  · split
    · exact (walked_dropMiss ..).trans (walked_addMiss ..)
    · exact walked_dropMiss ..
  · exact (walked_addMiss ..).trans (walked_startWalk ..)

theorem walked_translate (s : State) (c who h priv : Nat) (rc : Clock) (va : Word) (k : Acc) :
    OnSnd (Walked s) (s.translate c who h priv rc va k) := by
  unfold State.translate
  split
  · exact .refl s
  split
  · dsimp only
    split <;> exact .refl s
  dsimp only
  split
  · exact walked_takeAnswer ..
  · exact walked_takeAnswer ..
  split
  · exact walked_dropMiss ..
  split
  · exact (walked_dropMiss ..).trans (walked_modCore _ _ fun _ => ⟨_, _, rfl⟩)
  · exact walked_miss ..

theorem OnSnd.of_trans {α : Type} {s t : State} {p : α × State} (h : OnSnd (Walked t) p) (hst : Walked s t) : OnSnd (Walked s) p :=
  Walked.trans hst h

theorem walked_fetchBlock {s : State} (hl : s.latent = []) (c n h priv : Nat) (rc : Clock) (va : Word) :
    OnSnd (Walked s) (s.fetchBlock c n h priv rc va) := by
  have htr := walked_translate s c n h priv rc va .exec
  unfold State.fetchBlock
  generalize s.translate c n h priv rc va .exec = r at htr ⊢
  obtain ⟨tr, t⟩ := r
  have hlines (r : Record) (pa k : Nat) : t.readLines r pa k = t :=
    if_pos (by rw [Walked.latent htr, hl]; rfl)
  cases tr with
  | fault | wait => exact htr
  | ok pa a =>
    dsimp only
    split
    · exact htr
    rw [hlines]
    split
    · exact Walked.trans htr (walked_modCore _ _ fun _ => ⟨_, _, rfl⟩)
    · exact htr

/-- With no line of DRAM in error a fetch changes nothing else (R155). -/
theorem walked_fetchFrom {s : State} (hl : s.latent = []) (c n h priv : Nat) (rc : Clock) (pc : Word) (ps : List Parcel) (m : Nat) :
    OnSnd (Walked s) (s.fetchFrom c n h priv rc pc ps m) := by
  induction m generalizing s ps with
  | zero => exact .refl s
  | succ m ih =>
    have hb := walked_fetchBlock hl c n h priv rc (pc + word (2 * ps.length))
    unfold State.fetchFrom
    dsimp only
    generalize s.fetchBlock c n h priv rc (pc + word (2 * ps.length)) = r at hb ⊢
    obtain ⟨bs, t⟩ := r
    rcases bs with e | _ | bs
    · exact hb
    · exact hb
    · dsimp only
      split
      · exact hb
      · exact hb
      · exact (ih ((Walked.latent hb).trans hl) _).of_trans hb

/-! ## ICALL -/


/-- What ICALL checks of its operands (R250). -/
theorem exec_icall_illfld {x : RR} {s : State} (hr : Ready (.icall x) s) (h : x.d ≠ 0 ∨ x.f ≠ 0) :
    Traps (.icall x) s (illfldAt s x.fld.last) := by
  have hbad : (x.fld.d != 0 || x.fld.f != 0) = true := by
    rw [RR.fld_d, RR.fld_f, Bool.or_eq_true, bne_iff_ne, bne_iff_ne]
    exact h.imp (fun h e => h (BitVec.eq_of_toNat_eq e)) (fun h e => h (BitVec.eq_of_toNat_eq e))
  change execIcall x s = _
  rw [execIcall, gate_trap _ _ hr (by rw [illfld_eq_some s hbad, firstTrap_some])]

theorem icallChecks {x : RR} (s : State) (hd : x.d = 0) (hf : x.f = 0) :
    firstTrap [illfld s (x.fld.d != 0 || x.fld.f != 0) x.fld.last, trapIf ((s.w x.fld.s).getLsbD 0) 0x04 (s.w x.fld.s)] =
      firstTrap [trapIf (decide ((s.w x.fld.s).toNat % 2 = 1)) 0x04 (s.w x.fld.s)] := by
  rw [illfld_eq_none s (by simp [hd, hf]), getLsbD_zero_eq, firstTrap_none]

theorem exec_icall_odd {x : RR} {s : State} (hr : Ready (.icall x) s) (hd : x.d = 0) (hf : x.f = 0)
    (ha : (s.w x.fld.s).toNat % 2 = 1) : Traps (.icall x) s { cause := 0x04, addr := s.w x.fld.s } := by
  change execIcall x s = _
  rw [execIcall, gate_trap _ _ hr (by rw [icallChecks s hd hf, ha]; rfl)]

/-- ICALL fetches at its even target. -/
abbrev IcallFetches (x : RR) (s : State) (r : Fetched × State) : Prop :=
  Ready (.icall x) s ∧ x.d = 0 ∧ x.f = 0 ∧ (s.w x.fld.s).toNat % 2 = 0 ∧
    s.fetch s.curCore s.curSlot s.cur.st.hearth s.cur.st.priv s.cur.rc (s.w x.fld.s) = r

theorem exec_icall_entry {x : RR} {s s' : State} {z : Z9} {n : Nat} (h : IcallFetches x s (.instr (.entry z) n, s')) :
    exec (.icall x) s = .next (s'.callTo x.fld (s.w x.fld.s)) := by
  obtain ⟨hr, hd, hf, ha, hfetch⟩ := h
  change execIcall x s = _
  rw [execIcall, gate_next _ _ hr (by rw [icallChecks s hd hf, ha]; rfl)]
  simp only [hfetch]

theorem exec_icall_other {x : RR} {s s' : State} {i : Instr} {n : Nat} (h : IcallFetches x s (.instr i n, s'))
    (hi : ∀ z, i ≠ .entry z) : exec (.icall x) s = .next (s'.trap { cause := 0x06, addr := s.w x.fld.s }) := by
  obtain ⟨hr, hd, hf, ha, hfetch⟩ := h
  change execIcall x s = _
  rw [execIcall, gate_next _ _ hr (by rw [icallChecks s hd hf, ha]; rfl)]
  simp only [hfetch]
  split <;> simp_all

theorem exec_icall_undecoded {x : RR} {s s' : State} {c n : Nat} {p : Bool} (h : IcallFetches x s (.trap c n p, s')) :
    exec (.icall x) s = .next (s'.trap { cause := 0x06, addr := s.w x.fld.s }) := by
  obtain ⟨hr, hd, hf, ha, hfetch⟩ := h
  change execIcall x s = _
  rw [execIcall, gate_next _ _ hr (by rw [icallChecks s hd hf, ha]; rfl)]
  simp only [hfetch]

/-- Settles O11: CALL and ICALL come down to `callTo` (`called_callTo`), ICALL after a fetch that leaves the thread and memory as
they were (`walked_fetchFrom`). -/
theorem callsMoveTheWindow : Obligations.CallsMoveTheWindow := by
  refine ⟨fun x s hr _ => ⟨fun hres => ⟨_, exec_call hr, called_callTo _ _ hres⟩, fun hres => ?_⟩, fun x s hr _ hl => ?_⟩
  · exact (exec_call hr).trans (congrArg _ (callTo_spill _ _ hres))
  · refine ⟨exec_icall_illfld hr, exec_icall_odd hr, fun hd hf ha s' i n hfetch => ?_, fun hd hf ha s' c n p hfetch => ?_⟩
    · have hw := walked_fetchFrom hl s.curCore s.curSlot s.cur.st.hearth s.cur.st.priv s.cur.rc (s.w x.fld.s) [] 6
      rw [show s.fetchFrom _ _ _ _ _ _ _ _ = _ from hfetch] at hw
      refine ⟨?_, ?_, fun hi => exec_icall_other ⟨hr, hd, hf, ha, hfetch⟩ hi⟩
      · rintro ⟨z, rfl⟩ hres
        rw [← hw.cur] at hres
        have hcalled := called_callTo x.fld (s.w x.fld.s) hres
        rw [show s'.npc x.fld = s.npc x.fld by rw [State.npc, hw.cur, State.npc]] at hcalled
        exact ⟨_, exec_icall_entry ⟨hr, hd, hf, ha, hfetch⟩, hcalled, hw.cur, hw.mem⟩
      · rintro ⟨z, rfl⟩ hres
        rw [← hw.cur] at hres
        exact (exec_icall_entry ⟨hr, hd, hf, ha, hfetch⟩).trans (congrArg _ (callTo_spill _ _ hres))
    · exact exec_icall_undecoded ⟨hr, hd, hf, ha, hfetch⟩

end Sys2Proof.Machine

/-! # SPILLW and FILLW

The frame that spillp names is 64 bytes at a place that is a multiple of 64 (R40), so it lies within one row of the local store, and what
is written there reads back (`State.bytes_setBytes`). -/

namespace Sys2Proof.Machine
/-! ## The place of a frame -/

theorem spillFrame_eq {p : BitVec 25} {c off : Nat} (h : Claims.SpillFrame p c off) :
    64 * p.toNat / 2 ^ 18 = c ∧ 64 * p.toNat % 2 ^ 18 = off ∧ off % 64 = 0 ∧ off + 64 ≤ 2 ^ 18 := by
  obtain ⟨hc, ho⟩ := h
  omega

theorem lsPA_row (s : State) (c : Nat) {off : Nat} (h : off % 64 = 0) : lsPA s c off % 256 + 64 ≤ 256 := by
  have hmod : lsPA s c off % 256 = off % 256 := by rw [lsPA]; omega
  omega

theorem lsPA_add (s : State) (c : Nat) {off i : Nat} (h : off + i < 2 ^ 18) : lsPA s c (off + i) = lsPA s c off + i := by
  simp only [lsPA]
  omega

/-- The frame lies in a local store that exists and does not refuse it. -/
theorem frameCheck_none {s : State} {p : BitVec 25} {c off : Nat} {write : Bool} (h : Claims.SpillFrame p c off)
    (hc : coreExists c = true) (href : (s.core c).lsRefusedN off 64 s.cur.st.hearth s.cur.st.priv write = false) :
    frameCheck s p.toNat write = none := by
  obtain ⟨hcore, hoff, -⟩ := spillFrame_eq h
  simp only [frameCheck, hcore, hoff, hc, href]
  rfl

/-! ## Words as bytes -/

theorem length_frameBytes (ws : List Word) : (ws.flatMap fun w => leBytes 8 w.toNat).length = 8 * ws.length := by
  induction ws with
  | nil => rfl
  | cons w ws ih => rw [List.flatMap_cons, List.length_append, ih, leBytes_length, List.length_cons]; omega

/-- The bytes of word i among those of a list of words. -/
theorem drop_take_frameBytes {ws : List Word} {i : Nat} (h : i < ws.length) :
    ((ws.flatMap fun w => leBytes 8 w.toNat).drop (8 * i)).take 8 = leBytes 8 ws[i].toNat := by
  induction ws generalizing i with
  | nil => exact absurd h (Nat.not_lt_zero _)
  | cons w ws ih =>
    rw [List.flatMap_cons]
    cases i with
    | zero => exact List.take_left' (leBytes_length ..)
    | succ i =>
      have hdrop : 8 * (i + 1) = (leBytes 8 w.toNat).length + 8 * i := by rw [leBytes_length]; omega
      rw [hdrop, List.drop_length_add_append]
      exact ih (Nat.lt_of_succ_lt_succ h)

theorem State.bytes_drop_take (s : State) (pa n i m : Nat) (h : i + m ≤ n) :
    ((s.bytes pa n).drop i).take m = s.bytes (pa + i) m := by
  induction i generalizing pa n with
  | zero =>
    induction m generalizing pa n with
    | zero => rfl
    | succ m ih =>
      obtain ⟨n, rfl⟩ : ∃ k, n = k + 1 := ⟨n - 1, by omega⟩
      have := ih (pa + 1) n (by omega)
      rw [List.drop_zero] at this ⊢
      rw [State.bytes, List.take_succ_cons, this]
      rfl
  | succ i ih =>
    obtain ⟨n, rfl⟩ : ∃ k, n = k + 1 := ⟨n - 1, by omega⟩
    rw [State.bytes, List.drop_succ_cons, ih (pa + 1) n (by omega), Nat.add_assoc, Nat.add_comm 1]

/-- A word among bytes that read back. -/
theorem memW_of_bytes {s : State} {pa : Nat} {ws : List Word} {i : Nat} (hi : i < ws.length)
    (h : s.bytes pa (8 * ws.length) = ws.flatMap fun w => leBytes 8 w.toNat) : s.memW (pa + 8 * i) = ws[i] := by
  have hb : s.bytes (pa + 8 * i) 8 = leBytes 8 ws[i].toNat := by
    rw [← State.bytes_drop_take s pa (8 * ws.length) (8 * i) 8 (by omega), h, drop_take_frameBytes hi]
  rw [State.memW, State.memNat, hb, leNat_leBytes, Nat.mod_eq_of_lt ws[i].isLt]
  exact BitVec.ofNat_toNat ..

/-! ## Writes by a core of a local store -/

/-- The write of a core's local store wakes no thread that watches nothing. -/
theorem wakeWatch_of_no_watch {t : Slot} (h : ∀ a n, t.wait ≠ .watch a n) (pa n : Nat) : wakeWatch t pa n = t := by
  rw [wakeWatch]
  split
  · next heq => exact absurd heq (h _ _)
  · rfl

/-- A thread that watches nothing is left alone by a write of any core's local store. -/
theorem slot_writeLS {s : State} {c n : Nat} (h : ∀ a m, (s.slot c n).wait ≠ .watch a m) (d off : Nat) (bs : List Byte) :
    (s.writeLS d off bs).slot c n = s.slot c n := by
  have hcore (k : Nat) : (s.setBytes (lsPA s d off) bs).core k = s.core k := by simp [State.core]
  by_cases hd : c = d
  · subst hd
    have hslot : (s.writeLS c off bs).slot c n = wakeWatch (s.slot c n) (lsPA s c off) bs.length := by
      rw [State.slot, State.writeLS, State.core_modCore_same, hcore, Core.slot]
      dsimp only
      exact get_map_snd (wakeWatch · _ _) (wakeWatch_of_not_waiting rfl _ _) _ _
    rw [hslot, wakeWatch_of_no_watch h]
  · rw [State.slot, State.writeLS, State.core_modCore_ne _ _ hd, hcore]
    rfl

@[simp] theorem State.writeLS_curSlot (s : State) (c off : Nat) (bs : List Byte) : (s.writeLS c off bs).curSlot = s.curSlot := by
  simp [State.writeLS]

/-- The view leaves the writing slot alone (R537). -/
theorem slot_setViewByte (k : Core) (n off : Nat) (b : Byte) : (k.setViewByte n off b).slot n = k.slot n := by
  unfold Core.setViewByte
  dsimp only
  split
  · rfl
  · next h =>
    have hne : n ≠ off / 2 ^ 13 := fun e => h (.inr e.symm)
    split
    · exact Core.slot_setSlot_ne _ _ hne
    split
    · exact Core.slot_setSlot_ne _ _ hne
    split
    · exact Core.slot_setSlot_ne _ _ hne
    · rfl

theorem slot_viewWrite (k : Core) (n off j : Nat) (bs : List Byte) :
    (bs.foldl (fun (p : Core × Nat) b => (p.1.setViewByte n (off + p.2) b, p.2 + 1)) (k, j)).1.slot n = k.slot n := by
  induction bs generalizing k j with
  | nil => rfl
  | cons b bs ih => rw [List.foldl_cons, ih, slot_setViewByte]

/-- A write by the executing thread of any core's local store leaves it alone, while it watches nothing. -/
theorem cur_coreWrite {s : State} (h : ∀ a m, s.cur.wait ≠ .watch a m) (c off : Nat) (bs : List Byte) :
    (s.coreWrite c s.curSlot off bs).cur = s.cur := by
  unfold State.coreWrite
  split
  · by_cases hc : s.curCore = c
    · subst hc
      rw [State.cur, State.slot, State.modCore_curCore, State.core_modCore_same]
      exact slot_viewWrite ..
    · rw [State.cur, State.slot, State.modCore_curCore, State.core_modCore_ne _ _ hc]
      rfl
  · rw [State.cur, State.writeLS_curCore, State.writeLS_curSlot]
    exact slot_writeLS h ..

theorem coreWrite_mem_of_view {s : State} {c : Nat} (hv : (s.core c).view = true) (n off : Nat) (bs : List Byte) :
    (s.coreWrite c n off bs).mem = s.mem := by
  rw [State.coreWrite, if_pos hv]
  rfl

/-! ## SPILLW -/

theorem exec_spillw_next {x : Z9} {s : State} {c off : Nat} (hz : x.z = 0) (hr : Ready (.spillw x) s)
    (hres : s.cur.st.resid ≠ 0) (hf : Claims.SpillFrame s.cur.st.spillp c off) (hc : coreExists c = true)
    (href : (s.core c).lsRefusedN off 64 s.cur.st.hearth s.cur.st.priv true = false)
    (hpend : framePending s.cur (oldestFrame s.cur) = false) (hbusy : spillBusy s s.cur.st.spillp.toNat = false) :
    exec (.spillw x) s = .next (((s.coreWrite c s.curSlot off
      ((frameWords s.cur (oldestFrame s.cur)).flatMap fun w => leBytes 8 w.toNat)).modCur fun t =>
        { t with st := { t.st with spillp := t.st.spillp + 1, resid := t.st.resid - 1 } }).advance x.fld) := by
  obtain ⟨hcore, hoff, -⟩ := spillFrame_eq hf
  have hz' : (x.fld.base != 0) = false := by rw [Z9.fld_base, hz]; rfl
  have hres' : decide (s.cur.st.resid = 0) = false := decide_eq_false hres
  change execSpillw x s = _
  rw [execSpillw, gate_next _ _ hr (by rw [illfld_eq_none s hz', hres']; rfl)]
  simp only [frameCheck_none hf hc href, hpend, hbusy, State.putFrame, hcore, hoff]
  rfl

theorem spillw_winstate {x : Z9} {s : State} (hz : x.z = 0) (hr : Ready (.spillw x) s) (hres : s.cur.st.resid = 0) :
    Traps (.spillw x) s { cause := 0x09 } := by
  have hz' : (x.fld.base != 0) = false := by rw [Z9.fld_base, hz]; rfl
  change execSpillw x s = _
  rw [execSpillw, gate_trap (r := { cause := 0x09 }) _ _ hr (by rw [illfld_eq_none s hz', hres]; rfl)]

/-- What SPILLW leaves where no view of the slot files is on: the eight words at the frame's place, and no other change of memory. -/
theorem spilled_frame {s t : State} {c off : Nat} {ws : List Word} (hws : ws.length = 8) (halign : off % 64 = 0)
    (hv : (s.core c).view = false) (hs : s.stuck = [])
    (ht : t.mem = (s.coreWrite c s.curSlot off (ws.flatMap fun w => leBytes 8 w.toNat)).mem) (hh : t.hub = s.hub)
    (hst : t.stuck = s.stuck) :
    (∀ i (h : i < 8), t.memW (lsPA s c off + 8 * i) = ws[i]) ∧ Claims.MemoryBut s t (lsPA s c off) 64 := by
  have hlen := length_frameBytes ws
  rw [hws] at hlen
  rw [State.coreWrite, if_neg (ne_true_of_eq_false hv), State.mem_writeLS] at ht
  have hbytes := State.bytes_setBytes hs (pa := lsPA s c off) (bs := ws.flatMap fun w => leBytes 8 w.toNat)
    (by rw [hlen]; exact lsPA_row s c halign)
  refine ⟨fun i hi => memW_of_bytes (hws.symm ▸ hi) ?_, fun k hk => ?_⟩
  · rw [State.bytes_congr ht (by rw [hh, State.setBytes_hub]) (by rw [hst, State.setBytes_stuck]), hws]
    rwa [hlen] at hbytes
  · rw [ht]
    exact State.read_setBytes_ne s fun i hi => hk i (by rwa [hlen] at hi)

@[simp] theorem State.coreWrite_hub (s : State) (c n off : Nat) (bs : List Byte) : (s.coreWrite c n off bs).hub = s.hub := by
  unfold State.coreWrite; split <;> simp
@[simp] theorem State.coreWrite_stuck (s : State) (c n off : Nat) (bs : List Byte) : (s.coreWrite c n off bs).stuck = s.stuck := by
  unfold State.coreWrite; split <;> simp

@[simp] theorem length_frameWords (t : Slot) (fr : Nat) : (frameWords t fr).length = 8 := by simp [frameWords]

theorem frameWords_getElem (t : Slot) (fr i : Nat) (h : i < (frameWords t fr).length) : (frameWords t fr)[i] = get 0 t.stk (8 * fr + i) := by
  simp [frameWords]

/-! ## FILLW -/

theorem core_modCur_ne {s : State} {f : Slot → Slot} {c : Nat} (h : c ≠ s.curCore) : (s.modCur f).core c = s.core c :=
  State.core_modCore_ne s _ h

/-- The first n words placed in a frame are its first n registers. -/
theorem get_foldl_setEntry (t : Slot) (fr e : Nat) (ws : List Word) {n : Nat} (hn : n ≤ 8) :
    get 0 ((List.range n).foldl (fun t i => t.setEntry (8 * fr + i) (ws.getD i 0)) t).stk e =
      if e / 8 = fr ∧ e % 8 < n then ws.getD (e % 8) 0 else get 0 t.stk e := by
  induction n with
  | zero => simp
  | succ n ih =>
    rw [List.range_succ, List.foldl_append, List.foldl_cons, List.foldl_nil, get_setEntry, ih (Nat.le_of_succ_le hn)]
    by_cases he : e = 8 * fr + n
    · have hdiv : e / 8 = fr ∧ e % 8 = n := by omega
      simp [he ▸ hdiv, he]
    · rw [if_neg he]
      refine if_congr ?_ rfl rfl
      omega

/-- Placing a frame writes its eight registers. -/
theorem get_setFrame (t : Slot) (fr e : Nat) (ws : List Word) :
    get 0 (setFrame t fr ws).stk e = if e / 8 = fr then ws.getD (e % 8) 0 else get 0 t.stk e := by
  rw [setFrame, get_foldl_setEntry t fr e ws (Nat.le_refl 8)]
  exact if_congr (and_iff_left (Nat.mod_lt _ (by decide))) rfl rfl

/-- It changes ring entries and marks alone. -/
theorem setFrame_rest (t : Slot) (fr : Nat) (ws : List Word) :
    setFrame t fr ws = { t with stk := (setFrame t fr ws).stk, markW := (setFrame t fr ws).markW } := by
  unfold setFrame
  generalize List.range 8 = l
  induction l generalizing t with
  | nil => rfl
  | cons i l ih => exact ih (t.setEntry (8 * fr + i) (ws.getD i 0))

theorem frameAt_getD {s : State} {p : BitVec 25} {c off i : Nat} (hf : Claims.SpillFrame p c off) (hv : (s.core c).view = false)
    (hi : i < 8) : (s.frameAt p.toNat).getD i 0 = s.memW (lsPA s c off + 8 * i) := by
  obtain ⟨hcore, hoff, -, hle⟩ := spillFrame_eq hf
  have hlen : i < (s.frameAt p.toNat).length := by simpa [State.frameAt] using hi
  rw [List.getD_eq_getElem _ _ hlen]
  simp only [State.frameAt, List.getElem_map, List.getElem_range, hcore, hoff, State.coreBytes, hv]
  rw [State.memW, State.memNat, ← lsPA_add s c (by omega)]
  rfl

theorem rouseOwner_mem (s : State) (n : Nat) : (s.rouseOwner n).mem = s.mem := by
  unfold State.rouseOwner
  dsimp only
  split <;> rfl

/-- The request to a frame's owner wakes a core that sleeps, and no other (R418). -/
theorem rouseOwner_cases (s : State) {p : BitVec 25} {c off : Nat} (hf : Claims.SpillFrame p c off) :
    (s.rouseOwner p.toNat = s ∧ (c ≠ s.curCore → (s.core c).pw.gated = false ∧ (s.core c).pw.preparing = false)) ∨
      (s.rouseOwner p.toNat = s.modCore c Core.roused ∧ c ≠ s.curCore ∧
        ((s.core c).pw.preparing = true ∨ (s.core c).pw.gated = true)) := by
  obtain ⟨hcore, -⟩ := spillFrame_eq hf
  unfold State.rouseOwner
  simp only [hcore]
  split
  · next h => exact .inl ⟨rfl, fun hne => by simpa [hne, and_comm] using h⟩
  · next h => exact .inr ⟨rfl, by simpa [or_iff_not_imp_left] using h⟩

theorem core_roused_gated (k : Core) (h : k.pw.preparing = true ∨ k.pw.gated = true) : k.roused.pw.gated = false := by
  rw [Core.roused, if_pos (by simpa using h)]

theorem cur_rouseOwner (s : State) {p : BitVec 25} {c off : Nat} (hf : Claims.SpillFrame p c off) :
    (s.rouseOwner p.toNat).cur = s.cur ∧ (s.rouseOwner p.toNat).curCore = s.curCore ∧ (s.rouseOwner p.toNat).curSlot = s.curSlot := by
  rcases rouseOwner_cases s hf with ⟨h, -⟩ | ⟨h, hne, -⟩
  · rw [h]; exact ⟨rfl, rfl, rfl⟩
  · rw [h, State.cur, State.slot, State.modCore_curCore, State.core_modCore_ne _ _ hne.symm]
    exact ⟨rfl, rfl, rfl⟩

/-- The thread after FILLW: the frame's words stand below the oldest frame. -/
def filled (s : State) (p : BitVec 25) (t : Slot) : Slot :=
  setFrame { t with st := { t.st with spillp := t.st.spillp - 1, resid := t.st.resid + 1 } } ((oldestFrame s.cur + 11) % 12)
    (s.frameAt p.toNat)

theorem get_filled (s : State) (p : BitVec 25) (t : Slot) (e : Nat) : get 0 (filled s p t).stk e =
    if e / 8 = (oldestFrame s.cur + 11) % 12 then (s.frameAt p.toNat).getD (e % 8) 0 else get 0 t.stk e := by
  rw [filled, get_setFrame]

theorem exec_fillw_next {x : Z9} {s : State} {c off : Nat} (hz : x.z = 0) (hr : Ready (.fillw x) s)
    (hres : s.cur.st.resid ≠ 10) (hf : Claims.SpillFrame (s.cur.st.spillp - 1) c off) (hc : coreExists c = true)
    (href : (s.core c).lsRefusedN off 64 s.cur.st.hearth s.cur.st.priv false = false)
    (hpend : framePending s.cur ((oldestFrame s.cur + 11) % 12) = false) (hbusy : frameBusy s (s.cur.st.spillp - 1).toNat = false) :
    exec (.fillw x) s = .next (((s.rouseOwner (s.cur.st.spillp - 1).toNat).modCur (filled s (s.cur.st.spillp - 1))).advance x.fld) := by
  have hz' : (x.fld.base != 0) = false := by rw [Z9.fld_base, hz]; rfl
  have hres' : decide (s.cur.st.resid = 10) = false := decide_eq_false hres
  change execFillw x s = _
  rw [execFillw, gate_next _ _ hr (by rw [illfld_eq_none s hz', hres']; rfl)]
  simp only [frameCheck_none hf hc href, hpend, hbusy]
  rfl

theorem fillw_winstate {x : Z9} {s : State} (hz : x.z = 0) (hr : Ready (.fillw x) s) (hres : s.cur.st.resid = 10) :
    Traps (.fillw x) s { cause := 0x09 } := by
  have hz' : (x.fld.base != 0) = false := by rw [Z9.fld_base, hz]; rfl
  change execFillw x s = _
  rw [execFillw, gate_trap (r := { cause := 0x09 }) _ _ hr (by rw [illfld_eq_none s hz', hres]; rfl)]

/-- FILLW completes (R255). -/
theorem fillw_completes {x : Z9} {s : State} {c off : Nat} (hz : x.z = 0) (hr : Ready (.fillw x) s) (hres : s.cur.st.resid ≠ 10)
    (hf : Claims.SpillFrame (s.cur.st.spillp - 1) c off) (hc : coreExists c = true)
    (href : (s.core c).lsRefusedN off 64 s.cur.st.hearth s.cur.st.priv false = false) {fr : Nat}
    (hfr : (oldestFrame s.cur + 11) % 12 = fr) (hpend : framePending s.cur fr = false)
    (hbusy : frameBusy s (s.cur.st.spillp - 1).toNat = false) :
    ∃ t : State, exec (.fillw x) s = .next t ∧ t.mem = s.mem ∧
      (c = s.curCore ∨ (s.core c).pw.gated = false → (s.core c).pw.preparing = false → OnlyCur s t) ∧
      (c ≠ s.curCore → (t.core c).pw.gated = false) ∧
      t.cur.st = { s.cur.st with spillp := s.cur.st.spillp - 1, resid := s.cur.st.resid + 1 } ∧ t.cur.pc = s.npc x.fld ∧
      ((s.core c).view = false → ∀ i < 8, get 0 t.cur.stk (8 * fr + i) = s.memW (lsPA s c off + 8 * i)) ∧
      (∀ e, e / 8 ≠ fr → get 0 t.cur.stk e = get 0 s.cur.stk e) ∧
      t.cur = { s.cur with pc := t.cur.pc, stk := t.cur.stk, markW := t.cur.markW, st := t.cur.st } := by
  obtain ⟨hcur, hcore, hslot⟩ := cur_rouseOwner s hf
  have hex := exec_fillw_next hz hr hres hf hc href (hfr ▸ hpend) hbusy
  have hcases := rouseOwner_cases s hf
  have hmem := rouseOwner_mem s (s.cur.st.spillp - 1).toNat
  generalize s.rouseOwner (s.cur.st.spillp - 1).toNat = u at hcur hcore hslot hex hcases hmem
  have hget (e : Nat) := get_filled s (s.cur.st.spillp - 1) s.cur e
  have hrest : filled s (s.cur.st.spillp - 1) s.cur = _ := setFrame_rest ..
  have hlast : ((u.modCur (filled s (s.cur.st.spillp - 1))).advance x.fld).cur = _ := State.cur_advance ..
  rw [State.npc, State.cur_modCur, hcur] at hlast
  generalize filled s (s.cur.st.spillp - 1) s.cur = w at hget hrest hlast
  rw [hfr] at hget
  have hwpc : w.pc + word (2 * x.fld.len) = s.npc x.fld := by rw [hrest]; rfl
  rw [hwpc] at hlast
  have hcore' (hne : c ≠ s.curCore) : ((u.modCur (filled s (s.cur.st.spillp - 1))).advance x.fld).core c = u.core c := by
    rw [State.advance, core_modCur_ne (by rw [State.modCur_curCore, hcore]; exact hne), core_modCur_ne (by rw [hcore]; exact hne)]
  have honly : OnlyCur u ((u.modCur (filled s (s.cur.st.spillp - 1))).advance x.fld) :=
    (onlyCur_modCur u _).trans rfl rfl (onlyCur_modCur _ _)
  rw [← State.modCur_mem u (filled s (s.cur.st.spillp - 1)), ← State.advance_mem _ x.fld] at hmem
  generalize (u.modCur (filled s (s.cur.st.spillp - 1))).advance x.fld = t at hlast hcore' honly hmem hex
  refine ⟨t, hex, hmem, fun hown hprep => ?_, fun hne => ?_, ?_, by rw [hlast], fun hv i hi => ?_, fun e he => ?_, ?_⟩
  · rcases hcases with ⟨rfl, -⟩ | ⟨-, hne, h⟩
    · exact honly
    · simp [hne, hprep] at hown h
      simp [hown] at h
  · rw [hcore' hne]
    rcases hcases with ⟨rfl, hg⟩ | ⟨rfl, -, hg⟩
    · exact (hg hne).1
    · rw [State.core_modCore_same]
      exact core_roused_gated _ hg
  · rw [hlast, hrest]
  · have hdiv : (8 * fr + i) / 8 = fr := by omega
    have hmod : (8 * fr + i) % 8 = i := by omega
    have hstk := hget (8 * fr + i)
    rw [hdiv, hmod, if_pos rfl] at hstk
    rw [hlast]
    exact hstk.trans (frameAt_getD hf hv hi)
  · rw [hlast]
    exact (hget e).trans (if_neg he)
  · rw [hlast, hrest]

/-- SPILLW completes (R255). -/
theorem spillw_completes {x : Z9} {s : State} {c off : Nat} (hz : x.z = 0) (hr : Ready (.spillw x) s) (hres : s.cur.st.resid ≠ 0)
    (hf : Claims.SpillFrame s.cur.st.spillp c off) (hc : coreExists c = true)
    (href : (s.core c).lsRefusedN off 64 s.cur.st.hearth s.cur.st.priv true = false)
    (hpend : framePending s.cur (oldestFrame s.cur) = false) (hbusy : spillBusy s s.cur.st.spillp.toNat = false)
    (hwait : ∀ a n, s.cur.wait ≠ .watch a n) :
    ∃ t : State, exec (.spillw x) s = .next t ∧
      t.cur = { s.cur with pc := s.npc x.fld, st := { s.cur.st with spillp := s.cur.st.spillp + 1, resid := s.cur.st.resid - 1 } } ∧
      ((s.core c).view = false → s.stuck = [] →
        (∀ i < 8, t.memW (lsPA s c off + 8 * i) = get 0 s.cur.stk (8 * oldestFrame s.cur + i)) ∧
          Claims.MemoryBut s t (lsPA s c off) 64) ∧
      ((s.core c).view = true → t.mem = s.mem) := by
  have hcur := cur_coreWrite hwait c off ((frameWords s.cur (oldestFrame s.cur)).flatMap fun w => leBytes 8 w.toNat)
  refine ⟨_, exec_spillw_next hz hr hres hf hc href hpend hbusy, ?_, fun hv hs => ?_, fun hv => coreWrite_mem_of_view hv ..⟩
  · rw [State.cur_advance, State.npc, State.cur_modCur, hcur]
    rfl
  · obtain ⟨hwords, hbut⟩ := spilled_frame (length_frameWords s.cur (oldestFrame s.cur)) (spillFrame_eq hf).2.2.1 hv hs rfl
      (State.coreWrite_hub ..) (State.coreWrite_stuck ..)
    exact ⟨fun i hi => (hwords i hi).trans (frameWords_getElem ..), hbut⟩

/-- Settles O13: SPILLW stores the oldest frame (`spilled_frame`) and leaves the thread alone (`cur_coreWrite`), FILLW places the words of
one (`get_setFrame`). -/
theorem spillAndFill : Obligations.SpillAndFill :=
  ⟨fun _ _ _ _ hz hr hres hf hc href hpend hbusy hwait => spillw_completes hz hr hres hf hc href hpend hbusy hwait,
    fun _ _ _ _ hz hr hres hf hc href hpend hbusy => fillw_completes hz hr hres hf hc href (Nat.mod_add_mod ..) hpend hbusy,
    fun _ _ hz => ⟨spillw_winstate hz, fillw_winstate hz⟩⟩

end Sys2Proof.Machine

/-! # Mask registers

The mask instructions are one operation behind one check (`maskOp`, R323). -/

namespace Sys2Proof.Machine
/-! ## Fields and checks -/

theorem XA.fld_d (x : XA) (p : Nat) : (x.fld p).d = x.d.toNat := by
  simp only [XA.fld, fldPxr]; split <;> rfl
theorem XA.fld_base (x : XA) (p : Nat) : (x.fld p).base = x.i.toNat := by
  simp only [XA.fld, fldPxr]; split <;> rfl

/-- One limit that is met gives no trap. -/
theorem limits_one_none (s : State) {bad : Bool} (h : bad = false) (n : Nat) : limits s [(bad, n)] = none :=
  limits_eq_none (by simpa using h)
/-- One limit that is not met is ILLFLD at its parcel (R496). -/
theorem limits_one_some (s : State) {bad : Bool} (h : bad = true) (n : Nat) : limits s [(bad, n)] = some (illfldAt s n) := by
  rw [h]
  rfl

theorem maskOp_next {i : Instr} {f : Fld} {bad : Bool} {op : State → State} {s : State} (hr : Ready i s) (hbad : bad = false)
    (hbase : f.base = 0) : maskOp i f bad op s = .next ((op s).advance f) :=
  gate_next _ _ hr (limits_one_none s (by rw [hbad, hbase]; rfl) _)

theorem maskOp_trap {i : Instr} {f : Fld} {bad : Bool} (op : State → State) {s : State} (hr : Ready i s) (hbad : bad = true) :
    maskOp i f bad op s = .next (s.trap (illfldAt s f.last)) :=
  gate_trap _ _ hr (limits_one_some s (by rw [hbad]; rfl) _)

/-! ## The instructions -/

theorem exec_mand (x : XA) (s : State) : exec (.mand x) s = maskOp (.mand x) (x.fld 1) (8 ≤ (x.fld 1).d || 8 ≤ (x.fld 1).s || 8 ≤ (x.fld 1).t)
    (fun s => s.modCur fun t => t.setMask (x.fld 1).d (t.mask (x.fld 1).s &&& t.mask (x.fld 1).t)) s := rfl
theorem exec_mor (x : XA) (s : State) : exec (.mor x) s = maskOp (.mor x) (x.fld 1) (8 ≤ (x.fld 1).d || 8 ≤ (x.fld 1).s || 8 ≤ (x.fld 1).t)
    (fun s => s.modCur fun t => t.setMask (x.fld 1).d (t.mask (x.fld 1).s ||| t.mask (x.fld 1).t)) s := rfl
theorem exec_mnot (x : XA) (s : State) : exec (.mnot x) s = maskOp (.mnot x) (x.fld 1) (8 ≤ (x.fld 1).d || 8 ≤ (x.fld 1).s || (x.fld 1).t != 0)
    (fun s => s.modCur fun t => t.setMask (x.fld 1).d (~~~t.mask (x.fld 1).s)) s := rfl
theorem exec_mpop (x : XA) (s : State) : exec (.mpop x) s = maskOp (.mpop x) (x.fld 1) (8 ≤ (x.fld 1).s || (x.fld 1).t != 0)
    (fun s => s.setW (x.fld 1).d (word (maskCount (s.cur.mask (x.fld 1).s)))) s := rfl
theorem exec_mfirst (x : XA) (s : State) : exec (.mfirst x) s = maskOp (.mfirst x) (x.fld 1) (8 ≤ (x.fld 1).s || (x.fld 1).t != 0)
    (fun s => s.setW (x.fld 1).d (word (((List.range 64).find? (s.cur.mask (x.fld 1).s).getLsbD).getD 64))) s := rfl

/-! ## Writes of a mask register -/

theorem Slot.mask_setMask_same (t : Slot) {n : Nat} (hn : n < 8) (v : Word) : (t.setMask n v).mask n = v := by
  simp [Slot.mask, Slot.setMask, hn]

theorem Slot.mask_setMask_ne (t : Slot) {n j : Nat} (hj : j < 8) (h : j ≠ n) (v : Word) : (t.setMask n v).mask j = t.mask j := by
  have hbit : (1#8 <<< n).getLsbD j = false := by
    simp only [BitVec.getLsbD_shiftLeft, BitVec.getLsbD_one]
    simp [hj]
    omega
  simp [Slot.mask, Slot.setMask, get_put_ne _ _ _ h, hbit]

/-- A mask instruction that writes its result (R323): the register, its liveness and vclean, and the PC. -/
theorem setMask_advance (s : State) (f : Fld) (v : Slot → Word) (hd : f.d < 8) :
    let t := (s.modCur fun t => t.setMask f.d (v t)).advance f
    OnlyCur s t ∧ t.cur.mask f.d = v s.cur ∧ (∀ j < 8, j ≠ f.d → t.cur.mask j = s.cur.mask j) ∧
      t.cur = { s.cur with m := t.cur.m, mlive := s.cur.mlive ||| (1#8 <<< f.d), st := { s.cur.st with vclean := false },
                           pc := s.npc f } := by
  intro t
  have hcur : t.cur = { s.cur.setMask f.d (v s.cur) with pc := s.npc f } := by
    rw [State.cur_advance, State.npc, State.cur_modCur]
    rfl
  have hmask (j : Nat) : t.cur.mask j = (s.cur.setMask f.d (v s.cur)).mask j := by rw [hcur]; rfl
  refine ⟨(onlyCur_modCur s _).trans rfl rfl (onlyCur_modCur _ _), ?_, fun j hj hne => ?_, ?_⟩
  · rw [hmask, Slot.mask_setMask_same _ hd]
  · rw [hmask, Slot.mask_setMask_ne _ hj hne]
  · rw [hcur]
    rfl

/-! ## Counts -/

/-- The first index that satisfies p, or the number of indices. -/
theorem find?_range_getD (p : Nat → Bool) (n : Nat) : ((List.range n).find? p).getD n ≤ n ∧
    (∀ j < ((List.range n).find? p).getD n, p j = false) ∧
    (((List.range n).find? p).getD n < n → p (((List.range n).find? p).getD n) = true) := by
  cases h : (List.range n).find? p with
  | none =>
    refine ⟨Nat.le_refl _, fun j hj => ?_, fun h' => absurd h' (Nat.lt_irrefl _)⟩
    simpa using List.find?_eq_none.mp h j (List.mem_range.mpr hj)
  | some k =>
    obtain ⟨hk, hlt, hbefore⟩ := List.find?_range_eq_some.mp h
    exact ⟨Nat.le_of_lt (List.mem_range.mp hlt), fun j hj => by simpa using hbefore j hj, fun _ => hk⟩

/-! ## VREL -/

theorem exec_vrel {x : XA} {s : State} (hi : x.i = 0) (hd : (x.fld 1).d = 0) (hs : (x.fld 1).s = 0) (ht : (x.fld 1).t = 0)
    (hr : Ready (.vrel x) s) : exec (.vrel x) s = .next (s.modCur fun t =>
      { t with vlive := 0, mlive := 0, pc := s.npc (x.fld 1), st := { t.st with vclean := t.st.vclean ||
        (t.streams.isEmpty && t.replay.isEmpty && !s.curK.tiles.any fun p => p.2.claimed && p.2.slot == s.curSlot) } }) := by
  have hbase : (x.fld 1).base = 0 := by rw [XA.fld_base, hi]; rfl
  change execVrel x s = _
  rw [execVrel, gate_next _ _ hr (limits_one_none s (by simp [hd, hs, ht, hbase]) _)]
  simp only [State.advance, State.modCur_modCur, State.npc, State.cur_modCur]
  rfl

/-- Settles O33: MAND, MOR and MNOT write a mask register (`setMask_advance`), MPOP and MFIRST a scalar result (`result_writes`). -/
theorem masksAndVrel : Obligations.MasksAndVrel := by
  dsimp only [Obligations.MasksAndVrel]
  intro x s hi
  have hbase : (x.fld 1).base = 0 := by rw [XA.fld_base, hi]; rfl
  have hd16 : (x.fld 1).d < 16 := by rw [XA.fld_d]; exact x.d.isLt
  refine ⟨fun hd hs ht => ⟨fun hr => ?_, fun hr => ?_⟩, fun hbad i hmem hr => ?_, fun hd hs ht hr => ?_,
    fun hs ht => ⟨fun hr => ?_, fun hr => ?_⟩, fun hd hs ht hr => exec_vrel hi hd hs ht hr⟩
  · rw [exec_mand, maskOp_next hr (by simp [hd, hs, ht]) hbase]
    exact ⟨_, rfl, setMask_advance s (x.fld 1) (fun t => t.mask (x.fld 1).s &&& t.mask (x.fld 1).t) hd⟩
  · rw [exec_mor, maskOp_next hr (by simp [hd, hs, ht]) hbase]
    exact ⟨_, rfl, setMask_advance s (x.fld 1) (fun t => t.mask (x.fld 1).s ||| t.mask (x.fld 1).t) hd⟩
  · have hbad' : (decide (8 ≤ (x.fld 1).d) || decide (8 ≤ (x.fld 1).s) || decide (8 ≤ (x.fld 1).t)) = true := by simpa [or_assoc] using hbad
    simp only [List.mem_cons, List.not_mem_nil, or_false] at hmem
    rcases hmem with rfl | rfl
    · rw [Traps, exec_mand, maskOp_trap _ hr hbad']
    · rw [Traps, exec_mor, maskOp_trap _ hr hbad']
  · rw [exec_mnot, maskOp_next hr (by simp [hd, hs, ht]) hbase]
    exact ⟨_, rfl, setMask_advance s (x.fld 1) (fun t => ~~~t.mask (x.fld 1).s) hd⟩
  · exact writes_of_result hd16 ((exec_mpop x s).trans (maskOp_next hr (by simp [hs, ht]) hbase))
  · obtain ⟨hle, hbefore, hat⟩ := find?_range_getD (s.cur.mask (x.fld 1).s).getLsbD 64
    exact ⟨_, hle, writes_of_result hd16 ((exec_mfirst x s).trans (maskOp_next hr (by simp [hs, ht]) hbase)), hbefore, hat⟩

end Sys2Proof.Machine

/-! # Loads of DRAM

A load of DRAM that nothing in the core serves leaves as a request (R51): the translation before it changes only what walks change
(`Walked`), and sending the request marks the destination live and pending. -/

namespace Sys2Proof.Machine

/-! ## Updates of the experience section

An update of a slot changes the core's slot cache and the adds in flight, and its translation what walks change (R193, R195). -/

/-- t is s but for the dies, the next number, the adds in flight, and the cores' TLBs, instruction and slot caches. -/
structure Learned (s t : State) : Prop where
  rest : t = { s with cores := t.cores, dies := t.dies, nextId := t.nextId, xadds := t.xadds }
  core (c : Nat) : ∃ tlb ic xc, t.core c = { s.core c with tlb := tlb, icache := ic, xcache := xc }

namespace Learned

variable {s t u : State}

theorem refl (s : State) : Learned s s := ⟨rfl, fun _ => ⟨_, _, _, rfl⟩⟩

theorem trans (h : Learned s t) (h' : Learned t u) : Learned s u where
  rest := by rw [h'.rest, h.rest]
  core c := by
    obtain ⟨a, b, x, ht⟩ := h.core c
    obtain ⟨a', b', x', hu⟩ := h'.core c
    exact ⟨a', b', x', by rw [hu, ht]⟩

theorem of_walked (h : Walked s t) : Learned s t where
  rest := by rw [h.rest]
  core c := by
    obtain ⟨a, b, ht⟩ := h.core c
    exact ⟨a, b, _, ht⟩

theorem mem (h : Learned s t) : t.mem = s.mem := by rw [h.rest]
theorem reqs (h : Learned s t) : t.reqs = s.reqs := by rw [h.rest]
theorem curCore (h : Learned s t) : t.curCore = s.curCore := by rw [h.rest]
theorem curSlot (h : Learned s t) : t.curSlot = s.curSlot := by rw [h.rest]
theorem cur (h : Learned s t) : t.cur = s.cur := by
  obtain ⟨_, _, _, ht⟩ := h.core s.curCore
  rw [State.cur, State.slot, h.curCore, h.curSlot, ht]
  rfl

end Learned

/-- Changing the slot cache of one core. -/
theorem learned_modCore (s : State) (c : Nat) (f : Core → List XEntry) :
    Learned s (s.modCore c fun k => { k with xcache := f k }) where
  rest := rfl
  core d := by
    by_cases hd : d = c
    · rw [hd, State.core_modCore_same]
      exact ⟨_, _, _, rfl⟩
    · rw [State.core_modCore_ne _ _ hd]
      exact ⟨_, _, _, rfl⟩

theorem learned_sendEntry (s : State) (c : Nat) (e : XEntry) : Learned s (s.sendEntry c e).1 := by
  unfold State.sendEntry
  split
  · exact .refl s
  split
  · exact .refl s
  · exact ⟨rfl, fun _ => ⟨_, _, _, rfl⟩⟩

theorem learned_putEntry (s : State) (c : Nat) (e : XEntry) : Learned s (s.putEntry c e) := by
  unfold State.putEntry State.evictEntries
  refine (learned_modCore s c fun k => e :: k.xcache.filter fun x => !x.is e.hearth e.idx e.task).trans ?_
  exact (List.foldlRecOn (motive := Learned _) _ _ (.refl _) fun t ht e _ => ht.trans (learned_sendEntry t c e)).trans
    (learned_modCore _ c _)

theorem learned_updateEntry (s : State) (c : Nat) (e : XEntry) (kind : Nat) (f : XEntry → XEntry) :
    Learned s (s.updateEntry c e kind f) := by
  have hsend : Learned s (if e.kind != 0 && e.kind != kind then s.sendEntry c e else (s, e)).1 := by
    split
    · exact learned_sendEntry ..
    · exact .refl s
  unfold State.updateEntry
  generalize (if e.kind != 0 && e.kind != kind then s.sendEntry c e else (s, e)) = p at hsend ⊢
  obtain ⟨t, e'⟩ := p
  dsimp only
  split
  · exact .refl s
  split
  · exact hsend.trans ((learned_sendEntry ..).trans (learned_putEntry ..))
  · exact hsend.trans (learned_putEntry ..)

/-- An update of a slot neither changes the thread that makes it nor memory (R193). -/
theorem learned_siteUpdate (s : State) (xs kind : Nat) (f : XEntry → XEntry) : Learned s (s.siteUpdate xs kind f) := by
  have htr : OnSnd (Walked s) (s.translateCur (slotVA (s.hearth s.cur.st.hearth) xs) .read) := walked_translate ..
  unfold State.siteUpdate
  dsimp only
  split
  · exact .refl s
  generalize s.translateCur (slotVA (s.hearth s.cur.st.hearth) xs) .read = p at htr ⊢
  obtain ⟨r, t⟩ := p
  have ht : Learned s t := .of_walked htr
  cases r with
  | fault n => exact ht
  | wait => exact ht.trans (learned_updateEntry ..)
  | ok pa a =>
    dsimp only
    split
    · exact ht.trans (learned_updateEntry ..)
    · exact ht

/-! ## LD -/

@[simp] theorem State.finish_reqs (s : State) (f : Fld) : (s.finish f).reqs = s.reqs := by
  unfold State.finish; split <;> rfl

/-- A load with legal fields passes the checks of LD (R261-R263). -/
theorem limits_loadLimits {f : Fld} (h : Claims.LoadForm f) (s : State) : limits s (loadLimits f) = none := by
  obtain ⟨hord, hsc, hidx, hpxr⟩ := h
  apply limits_eq_none
  simp only [loadLimits, loadOrdBad, List.forall_mem_cons]
  refine ⟨?_, ?_, ?_, List.forall_mem_nil _⟩
  · by_cases h0 : f.ord = 0 <;> simp_all
  · by_cases h1 : f.f = 1 <;> simp_all
  · by_cases hp : f.pxr <;> simp_all

/-- A DRAM address of the package lies in DRAM. -/
theorem State.place_dram {s : State} {pa : Nat} (hc : paClass pa = 0) (hp : s.ownPackage pa = true) : s.place pa = .dram pa := by
  have hhub : paHubReg pa = false := by simp [paHubReg, hc]
  simp [State.place, hc, hp, hhub]

theorem State.withPlace_ok {s s' : State} {va : Word} {k : Acc} {pa : Nat} {a : Attr} (h : s.translateCur va k = (.ok pa a, s'))
    (go : Nat → Attr → State → State) : s.withPlace va k go = go pa a s' := by
  simp only [State.withPlace, h]

theorem walked_of_translateCur {s s' : State} {va : Word} {k : Acc} {r : Tr} (h : s.translateCur va k = (r, s')) : Walked s s' :=
  (walked_translate ..).of_eq h

/-- The bit of a window register that `markLive` sets for its ring entry. -/
theorem live_markLive {t : Slot} (hw : t.wlow < 12) {n : Nat} (hn : n < 16) :
    (t.markLive [t.entry n]).st.live.getLsbD n = true := by
  have hback : (t.entry n + 96 - t.wlow * 8) % 96 = n := by simp only [Slot.entry]; omega
  simp [Slot.markLive, hback, hn]

/-- The request of a load of DRAM (R51, R133). -/
def loadReq (s : State) (f : Fld) (va : Word) (pa : Nat) (a : Attr) : Req :=
  { s.newReq va pa (szBytes f.sz) f.sc (.load (f.ord = 1 ∨ f.ord = 3)) (.w (s.cur.entry f.d) f.sz) with
    fwd := s.fwdOf s.curCore s.cur pa (szBytes f.sz), hold := f.ord = 3 && 2 ≤ f.sc
    fill := policy f a = 0 && !s.cur.st.det && !paHubReg pa, xs := if f.pxx then some f.xs else none }

section
variable (s : State) (f : Fld) (va : Word) (pa : Nat) (a : Attr)

@[simp] theorem loadReq_pa : (loadReq s f va pa a).pa = pa := rfl
@[simp] theorem loadReq_size : (loadReq s f va pa a).size = szBytes f.sz := rfl
@[simp] theorem loadReq_dst : (loadReq s f va pa a).dst = .w (s.cur.entry f.d) f.sz := rfl
@[simp] theorem loadReq_rc : (loadReq s f va pa a).rc = s.cur.rc := rfl
@[simp] theorem loadReq_core : (loadReq s f va pa a).core = s.curCore := rfl
@[simp] theorem loadReq_slot : (loadReq s f va pa a).slot = s.curSlot := rfl

variable {f}

theorem loadReq_op (h : f.ord ≠ 3) : (loadReq s f va pa a).op = .load (f.ord = 1) := by simp [loadReq, State.newReq, h]
theorem loadReq_hold (h : f.ord ≠ 3) : (loadReq s f va pa a).hold = false := by simp [loadReq, h]

end

/-- A plain or acquire load that nothing delays or serves sends its request and finishes. -/
theorem State.load_sends {s s' : State} {f : Fld} {va : Word} {pa : Nat} {a : Attr} {fin : State → State} (hord : f.ord ≠ 3)
    (hmod : va.toNat % szBytes f.sz = 0) (hto : Claims.ToDram s s' va .read pa a) (hun : s'.unstamped s'.curCore s'.curSlot = false)
    (hfull : s'.reqFull s'.curCore = false)
    (hpost : s'.curK.bootTest = true → s'.postedOver s'.curCore s'.curSlot pa (szBytes f.sz) = false)
    (hserved : s'.served (f.ord = 1) (policy f a) pa (szBytes f.sz) = none) :
    s.load f va f.d fin = fin (s'.sendReq (loadReq s' f va pa a) true) := by
  obtain ⟨htr, hclass, hpkg⟩ := hto
  have hacq : decide (f.ord = 1 ∨ f.ord = 3) = decide (f.ord = 1) := by simp [hord]
  have hstall : (s'.unstamped s'.curCore s'.curSlot || (s'.curK.bootTest && s'.postedOver s'.curCore s'.curSlot pa (szBytes f.sz))) = false := by
    rw [hun, Bool.false_or, Bool.and_eq_false_imp]
    exact hpost
  rw [State.load]
  simp only [hmod, ne_eq, not_true_eq_false, if_false]
  rw [State.withPlace_ok htr]
  simp only [State.place_dram hclass hpkg, State.globalLoad, hstall, hacq, hserved, hfull]
  simp [loadReq, hord]

/-- What completes a load changes the PC, the wait of wt and the experience section (R192, R264). -/
theorem loadFin_frame (s : State) (f : Fld) : (loadFin f s).cur = { s.cur with pc := s.npc f, wait := Claims.wtWait f s } ∧
    (loadFin f s).mem = s.mem ∧ (loadFin f s).reqs = s.reqs := by
  have hlearned : Learned s (if f.pxx then s.loadUpdate f.xs else s) := by
    split
    · exact learned_siteUpdate ..
    · exact .refl s
  rw [loadFin]
  generalize (if f.pxx then s.loadUpdate f.xs else s) = t at hlearned
  refine ⟨?_, ?_, ?_⟩
  · rw [State.cur_finish, State.npc, Claims.wtWait, hlearned.cur]
    rfl
  · rw [State.finish_mem, hlearned.mem]
  · rw [State.finish_reqs, hlearned.reqs]

/-- What sending a load leaves of the thread (R39, R153). -/
theorem cur_sendReq_load (s : State) (r : Req) {e sz : Nat} (hd : r.dst = .w e sz) :
    (s.sendReq r true).cur = { s.cur.markLive [e] with loads := s.cur.loads + 1, pendW := e :: s.cur.pendW } := by
  rw [State.sendReq, State.cur_modCur]
  simp only [hd]
  rfl

/-- Settles O18. -/
theorem globalLoadsLeaveAsRequests : Obligations.GlobalLoadsLeaveAsRequests := by
  intro x s s' pa a hr hf hord hw hmod hto hun hfull hpost hserved
  have hwalk := walked_of_translateCur hto.1
  have hboot : s'.curK.bootTest = s.curK.bootTest := by
    obtain ⟨_, _, hk⟩ := hwalk.core s.curCore
    rw [State.curK, hwalk.curCore, hk]
    rfl
  rw [← hwalk.curCore] at hun hfull hpost
  rw [← hwalk.curSlot] at hun hpost
  rw [← hboot] at hpost
  have hex : exec (.ld x) s = .next (loadFin x.fld (s'.sendReq (loadReq s' x.fld (Claims.addrOf x.fld s) pa a) true)) := by
    change execLd x s = _
    rw [execLd, gate_next _ _ hr (limits_loadLimits hf s), effAddr_eq_addrOf, State.load_sends hord hmod hto hun hfull hpost hserved]
  have hop := loadReq_op s' (Claims.addrOf x.fld s) pa a hord
  have hhold := loadReq_hold s' (Claims.addrOf x.fld s) pa a hord
  have hdst := loadReq_dst s' x.fld (Claims.addrOf x.fld s) pa a
  rw [hwalk.cur] at hdst
  obtain ⟨hcur, hmem, hreqs⟩ := loadFin_frame (s'.sendReq (loadReq s' x.fld (Claims.addrOf x.fld s) pa a) true) x.fld
  have hsent := cur_sendReq_load s' _ hdst
  rw [hwalk.cur] at hsent
  have hpc : (s'.sendReq (loadReq s' x.fld (Claims.addrOf x.fld s) pa a) true).npc x.fld = s.npc x.fld := by
    rw [State.npc, hsent]
    rfl
  have hlive := live_markLive hw (RR.fld_d x ▸ x.d.isLt : x.fld.d < 16)
  rw [hpc] at hcur
  refine ⟨_, loadReq s' x.fld (Claims.addrOf x.fld s) pa a, hex, hreqs, loadReq_pa .., loadReq_size .., hop, hdst, ?_, hhold, ?_, ?_,
    ?_, ?_, ?_, ?_, by rw [hcur], hmem.trans hwalk.mem⟩
  · rw [loadReq_rc, hwalk.cur]
  · rw [loadReq_core, hwalk.curCore]
  · rw [loadReq_slot, hwalk.curSlot]
  · rw [hcur, hsent]
  · rw [hcur, hsent]
    exact List.mem_cons_self
  · rw [hcur, hsent]
    exact hlive
  · rw [hcur, hsent]
    rfl

end Sys2Proof.Machine

/-! # Releases

Closing a log segment writes its mark and may end idempotent regions (R129, R373); of the threads nothing else changes (`Closed`). So
a release leaves the thread that makes it as it was, but for its count of stores and idv (`cur_release`). -/

namespace Sys2Proof.Machine
/-! ## Closing a segment -/

/-- t is s but for memory, and for cores whose threads differ in idv alone. -/
structure Closed (s t : State) : Prop where
  rest : t = { s with mem := t.mem, cores := t.cores }
  slot (c n : Nat) : ∃ b, t.slot c n = { s.slot c n with st := { (s.slot c n).st with idv := b } }

namespace Closed

variable {s t u : State}

theorem refl (s : State) : Closed s s := ⟨rfl, fun _ _ => ⟨_, rfl⟩⟩

theorem trans (h : Closed s t) (h' : Closed t u) : Closed s u where
  rest := by rw [h'.rest, h.rest]
  slot c n := by
    obtain ⟨b, ht⟩ := h.slot c n
    obtain ⟨b', hu⟩ := h'.slot c n
    exact ⟨b', by rw [hu, ht]⟩

theorem curCore (h : Closed s t) : t.curCore = s.curCore := by rw [h.rest]
theorem curSlot (h : Closed s t) : t.curSlot = s.curSlot := by rw [h.rest]
theorem cur (h : Closed s t) : ∃ b, t.cur = { s.cur with st := { s.cur.st with idv := b } } := by
  rw [State.cur, h.curCore, h.curSlot]
  exact h.slot ..

end Closed

theorem get_map_key {α : Type} (f : Nat → α → α) {d : α} {k : Nat} (hd : f k d = d) (m : List (Nat × α)) :
    get d (m.map fun p => (p.1, f p.1 p.2)) k = f k (get d m k) := by
  induction m with
  | nil => exact hd.symm
  | cons e r ih =>
    simp only [get, List.map_cons, get?] at ih ⊢
    split
    · next h => rw [h]; rfl
    · exact ih

theorem endRegions_eq (es : List LogEntry) (n : Nat) (t : Slot) : ∃ b, endRegions es n t = { t with st := { t.st with idv := b } } := by
  unfold endRegions
  split
  · exact ⟨_, rfl⟩
  · exact ⟨_, rfl⟩

/-- A change of one core whose threads change in idv alone. -/
theorem closed_modCore (s : State) (c : Nat) {f : Core → Core}
    (hf : ∀ k n, ∃ b, (f k).slot n = { k.slot n with st := { (k.slot n).st with idv := b } }) : Closed s (s.modCore c f) where
  rest := rfl
  slot d n := by
    by_cases hd : d = c
    · rw [hd, State.slot, State.core_modCore_same]
      exact hf _ n
    · rw [State.slot, State.core_modCore_ne s f hd]
      exact ⟨_, rfl⟩

theorem closed_setBytes (s : State) (pa : Nat) (bs : List Byte) : Closed s (s.setBytes pa bs) := by
  induction bs generalizing s pa with
  | nil => exact .refl s
  | cons b r ih => exact Closed.trans (t := s.setByte pa b) ⟨rfl, fun _ _ => ⟨_, rfl⟩⟩ (ih ..)

theorem closed_ringSet (s : State) (c pos : Nat) (w0 w1 : Word) : Closed s (s.ringSet c pos w0 w1) := by
  unfold State.ringSet
  dsimp only
  split
  · exact .refl s
  · exact closed_setBytes ..

theorem closed_closeLog (s : State) (c : Nat) (x : Closing) : Closed s (s.closeLog c x) := by
  unfold State.closeLog
  refine (closed_ringSet ..).trans (closed_modCore _ _ fun k n => ?_)
  rw [Core.slot, get_map_key _ rfl]
  exact endRegions_eq ..

theorem closed_switchHearth (s : State) (c h : Nat) : Closed s (s.switchHearth c h) := by
  unfold State.switchHearth
  dsimp only
  split
  · exact .refl s
  · refine Closed.trans ?_ (closed_modCore _ _ fun _ _ => ⟨_, rfl⟩)
    split
    · exact .refl s
    · exact closed_closeLog ..

/-! ## A release of the executing thread -/

/-- The state in which a release has closed the open segment. -/
def releaseClosed (s : State) (sc : Nat) (follow : List Nat) : State :=
  (s.switchHearth s.curCore s.cur.st.hearth).closeLog s.curCore
    { sc := sc, slot := some s.curSlot, rc := s.cur.rc, counted := 5 ≤ sc, wb := 2 ≤ sc, follow := follow }

theorem closed_releaseClosed (s : State) (sc : Nat) (follow : List Nat) : Closed s (releaseClosed s sc follow) :=
  (closed_switchHearth ..).trans (closed_closeLog ..)

theorem release_eq (s : State) (sc : Nat) (follow : List Nat) : s.release s.curCore s.curSlot sc follow =
    (releaseClosed s sc follow).modCur fun t =>
      { t with stores := t.stores + (if 5 ≤ sc then 1 else 0), st := { t.st with idv := false } } := by
  have h := closed_releaseClosed s sc follow
  rw [State.modCur, h.curCore, h.curSlot]
  rfl

/-- A release counts as a store at pod and sys, and clears idv (R132, R373). -/
theorem cur_release (s : State) (sc : Nat) (follow : List Nat) : (s.release s.curCore s.curSlot sc follow).cur =
    { s.cur with stores := s.cur.stores + (if 5 ≤ sc then 1 else 0), st := { s.cur.st with idv := false } } := by
  obtain ⟨b, hcur⟩ := (closed_releaseClosed s sc follow).cur
  rw [release_eq, State.cur_modCur, hcur]

/-- What differs in memory and cores alone still does after a change of the executing slot. -/
theorem modCur_rest {s u : State} (h : u = { s with mem := u.mem, cores := u.cores }) (f : Slot → Slot) :
    u.modCur f = { s with mem := (u.modCur f).mem, cores := (u.modCur f).cores } :=
  congrArg (fun v : State => { v with cores := (u.modCur f).cores }) h

/-- Of the package a release changes memory, where the ring lies, and cores. -/
theorem release_rest (s : State) (sc : Nat) (follow : List Nat) :
    s.release s.curCore s.curSlot sc follow = { s with
      mem := (s.release s.curCore s.curSlot sc follow).mem
      cores := (s.release s.curCore s.curSlot sc follow).cores } := by
  rw [release_eq]
  exact modCur_rest (closed_releaseClosed s sc follow).rest _

/-! ## MIG -/

theorem get?_eq_none {α : Type} {m : List (Nat × α)} {k : Nat} (h : get? m k = none) : ∀ e ∈ m, e.1 ≠ k := by
  induction m with
  | nil => exact fun _ he => absurd he List.not_mem_nil
  | cons e r ih =>
    by_cases hk : e.1 = k
    · simp [get?, hk] at h
    · exact List.forall_mem_cons.mpr ⟨hk, ih (by simpa [get?, hk] using h)⟩

/-- The adds of a task leave its core, and nothing but the experience section changes (R201). -/
theorem learned_sendTask (s : State) (c n : Nat) : Learned s (s.sendTask c n) := by
  unfold State.sendTask
  dsimp only
  split
  · refine List.foldrRecOn (motive := Learned s) _ _ (.refl s) fun t ht e _ => ?_
    dsimp only
    split
    · exact ht.trans ((learned_sendEntry t c e).trans (learned_modCore ..))
    · exact ht
  · exact .refl s

theorem window_core {c off : Nat} (hc : coreExists c = true) (ho : off < 2 ^ 18) : ((windowVA c off).toNat - lswin) / 2 ^ 18 = c := by
  rw [windowVA_toNat (coreExists_lt hc) ho, lswin]
  omega

theorem slot_freeSlot (s : State) (c n : Nat) : (s.freeSlot c n).slot c n = {} := State.slot_setSlot_same ..

theorem freeSlot_frames (s : State) (c n : Nat) : (s.freeSlot c n).frames = s.frames := by
  rw [State.freeSlot, State.setSlot_frames, State.dropMisses]
  split <;> rfl

/-- What MIG to another core does with a migratable thread that has nothing under way (R52, R466). -/
theorem exec_mig_next {x : RR} {s : State} {c off : Nat} (hr : Ready (.mig x) s) (hd : x.d = 0) (hf : x.f = 0)
    (ha : s.w x.fld.s = windowVA c off) (ho : off < 2 ^ 18) (hc : coreExists c = true) (hne : c ≠ s.curCore)
    (hmig : migratable s.cur = true) : exec (.mig x) s = .next (s.migrate c) := by
  have hcore := window_core hc ho
  have hwin := inWindow_windowVA (coreExists_lt hc) ho
  change execMig x s = _
  rw [execMig, gate_next _ _ hr]
  · simp only [ha, hcore, hmig, hne]
    rfl
  · simp only [ha, hcore, hwin, hc]
    rw [limits_one_none s (by simp [hd, hf])]
    rfl

/-- The flight in which MIG sends the executing thread to core c (R45). -/
def migFlight (u : State) (c : Nat) : Flight :=
  { frame := u.frameOfSlot u.curCore u.curSlot 1 c (u.handle u.curCore), src := u.curCore, kept := u.cur.kept, id := u.nextId }

/-- With no frame resident, to spill every frame is to change nothing of the thread. -/
theorem cur_spillAll {s : State} (h : s.cur.st.resid = 0) :
    ∃ t, s.spillAll = (none, t) ∧ t.cur = s.cur ∧ t.curCore = s.curCore ∧ t.curSlot = s.curSlot ∧ t.frames = s.frames := by
  have hs : s.spillAll =
      (none, s.modCur fun t => { t with st := { t.st with spillp := t.st.spillp + BitVec.ofNat 25 t.st.resid, resid := 0 } }) := by
    rw [State.spillAll, h]
    rfl
  refine ⟨_, hs, ?_, rfl, rfl, rfl⟩
  rw [State.cur_modCur, h, BitVec.add_zero]
  exact congrArg (fun r => { s.cur with st := { s.cur.st with resid := r } }) h.symm

/-- A thread with no frame resident migrates at once: it releases, the adds of its task leave, and its frame is sent. -/
theorem migrate_eq {s : State} (c : Nat) (hl : s.cur.loads = 0) (hs : s.cur.stores = 0) (hdef : s.cur.deferred = [])
    (hres : s.cur.st.resid = 0) (hdep : get? s.curK.departing s.cur.st.hearth = none) :
    ∃ u : State, u.cur = { s.cur with st := { s.cur.st with idv := false } } ∧ u.frames = s.frames ∧ u.curCore = s.curCore ∧
      u.curSlot = s.curSlot ∧
      s.migrate c = ({ u with nextId := u.nextId + 1, frames := u.frames ++ [migFlight u c] } : State).freeSlot u.curCore u.curSlot := by
  have hfault : s.cur.firstFault (·.count < 2) = none := by rw [Slot.firstFault, hdef]; rfl
  have hheld : s.departureHeld = false := by
    simpa [State.departureHeld] using get?_eq_none hdep
  have hgo : ¬ (s.cur.loads ≠ 0 ∨ s.cur.stores ≠ 0 ∨ s.departureHeld = true) := by simp [hl, hs, hheld]
  have hsc : ¬ 5 ≤ (if dieOf c = dieOf s.curCore then 3 else 4) := by split <;> decide
  have hcur := cur_release s (if dieOf c = dieOf s.curCore then 3 else 4) []
  have hrest := release_rest s (if dieOf c = dieOf s.curCore then 3 else 4) []
  rw [if_neg hsc] at hcur
  simp only [State.migrate, hfault, if_neg hgo]
  generalize s.release s.curCore s.curSlot _ [] = r at hcur hrest ⊢
  obtain ⟨t, ht, htcur, htc, hts, htf⟩ := cur_spillAll (s := r) (by rw [hcur]; exact hres)
  have hu := learned_sendTask t s.curCore s.curSlot
  rw [ht]
  generalize hu' : t.sendTask s.curCore s.curSlot = u at hu
  have huc : u.curCore = s.curCore := by rw [hu.curCore, htc, hrest]
  have hus : u.curSlot = s.curSlot := by rw [hu.curSlot, hts, hrest]
  refine ⟨u, ?_, ?_, huc, hus, ?_⟩
  · rw [hu.cur, htcur, hcur]; rfl
  · rw [hu.rest, htf, hrest]
  · dsimp only
    rw [hu', ← huc, ← hus]
    rfl

/-- Settles O25: the frame is built of the slot that the release left, in which idv alone changed, and the slot is freed. -/
theorem migrationMovesTheThread : Obligations.MigrationMovesTheThread := by
  intro x s c off hr hd hf ha ho hc hne hpin hpriv hvc hcop htil hl hs hdef hres hdep hwait
  have hmig : migratable s.cur = true := by simp [migratable, hpin, hpriv, hvc, hcop, htil]
  obtain ⟨u, hcur, hfr, huc, hus, hu⟩ := migrate_eq c hl hs hdef hres hdep
  have hslot : u.slot u.curCore u.curSlot = { s.cur with st := { s.cur.st with idv := false } } := hcur
  have hpc : Slot.resumePC { s.cur with st := { s.cur.st with idv := false } } = s.cur.pc := by
    unfold Slot.resumePC
    split
    · next m npc hw => exact absurd hw (hwait m npc)
    · rfl
  refine ⟨_, migFlight u c, by rw [exec_mig_next hr hd hf ha ho hc hne hmig, hu], ?_, ?_, rfl, rfl, ?_⟩
  · rw [freeSlot_frames, hfr]
  · rw [huc, hus, slot_freeSlot]
  · dsimp only [migFlight, State.frameOfSlot]
    rw [hslot]
    exact ⟨rfl, rfl, rfl, hpc, rfl, rfl, rfl, rfl⟩

end Sys2Proof.Machine

/-! # Barriers

A release of a quiet core with its drain changes of each thread at most RC, the count of stores and idv (`Released`), and the end of a
phase leaves a thread alone that waits for nothing (`Woken`). So what an arrival does to its object and its thread is that of `arrive`. -/

namespace Sys2Proof.Machine

/-! ## A release and its drain -/

/-- u is t but for RC, the count of stores and idv. -/
def Slot.Aged (t u : Slot) : Prop := ∃ rc k b, u = { t with rc := rc, stores := k, st := { t.st with idv := b } }

theorem Slot.Aged.refl (t : Slot) : t.Aged t := ⟨_, _, _, rfl⟩
theorem Slot.Aged.trans {t u v : Slot} (h : t.Aged u) (h' : u.Aged v) : t.Aged v := by
  obtain ⟨_, _, _, rfl⟩ := h
  obtain ⟨rc, k, b, rfl⟩ := h'
  exact ⟨rc, k, b, rfl⟩

/-- t is s after stamps and releases without pieces. -/
structure Released (s t : State) : Prop where
  rest : t = { s with mem := t.mem, cores := t.cores, dies := t.dies, nextId := t.nextId, reqs := t.reqs, releases := t.releases }
  slot (c n : Nat) : (s.slot c n).Aged (t.slot c n)

namespace Released

variable {s t u : State}

theorem refl (s : State) : Released s s := ⟨rfl, fun _ _ => .refl _⟩

theorem trans (h : Released s t) (h' : Released t u) : Released s u where
  rest := by rw [h'.rest, h.rest]
  slot c n := (h.slot c n).trans (h'.slot c n)

theorem of_closed (h : Closed s t) : Released s t where
  rest := by
    have hd : t.dies = s.dies := by rw [h.rest]
    have hn : t.nextId = s.nextId := by rw [h.rest]
    have hq : t.reqs = s.reqs := by rw [h.rest]
    have hr : t.releases = s.releases := by rw [h.rest]
    rw [hd, hn, hq, hr]
    exact h.rest
  slot c n := by
    obtain ⟨b, ht⟩ := h.slot c n
    exact ⟨_, _, b, ht⟩

theorem curCore (h : Released s t) : t.curCore = s.curCore := by rw [h.rest]
theorem curSlot (h : Released s t) : t.curSlot = s.curSlot := by rw [h.rest]
theorem pieces (h : Released s t) : t.pieces = s.pieces := by rw [h.rest]
theorem hub (h : Released s t) : t.hub = s.hub := by rw [h.rest]
theorem cluster (h : Released s t) (c : Nat) : t.cluster c = s.cluster c := by rw [h.rest]; rfl
theorem bar (h : Released s t) (b : BarId) : t.bar b = s.bar b := by rw [h.rest]; rfl

theorem withReqs (h : Released s t) (r : List Req) : Released s { t with reqs := r } :=
  h.trans ⟨rfl, fun _ _ => .refl _⟩

theorem cur (h : Released s t) : s.cur.Aged t.cur := by
  rw [State.cur, State.cur, h.curCore, h.curSlot]
  exact h.slot ..

end Released

/-- A change of one core whose threads change in RC, stores and idv alone. -/
theorem released_modCore (s : State) (c : Nat) {f : Core → Core}
    (hf : ∀ n, ((s.core c).slot n).Aged ((f (s.core c)).slot n)) : Released s (s.modCore c f) where
  rest := rfl
  slot d n := by
    by_cases hd : d = c
    · rw [hd, State.slot, State.slot, State.core_modCore_same]
      exact hf n
    · rw [State.slot, State.slot, State.core_modCore_ne s f hd]
      exact .refl _

/-- A change of one thread in RC, stores and idv alone. -/
theorem released_modSlot (s : State) (c n : Nat) {f : Slot → Slot} (hf : ∀ t : Slot, t.Aged (f t)) : Released s (s.modSlot c n f) :=
  released_modCore s c (f := fun k => k.setSlot n (f (s.slot c n))) fun m => by
    by_cases hm : m = n
    · rw [hm, Core.slot_setSlot_same]
      exact hf _
    · rw [Core.slot_setSlot_ne _ _ hm]
      exact .refl _

theorem released_publish (s : State) (c h tail : Nat) (v : Clock) : Released s (s.publish c h tail v) :=
  released_modCore s c fun n => by
    dsimp only
    split
    · exact .refl _
    · exact .refl _

theorem released_completeRelease (s : State) (r : Release) : Released s (s.completeRelease r) := by
  unfold State.completeRelease
  extract_lets s1 s2 s3
  have h1 : Released s s1 := ⟨rfl, fun _ _ => .refl _⟩
  have h2 : Released s1 s2 := by
    unfold s2
    split
    · exact .refl _
    · exact released_modCore _ _ fun _ => .refl _
  have h3 : Released s2 s3 := by
    unfold s3
    split
    · exact released_publish ..
    · exact .refl _
  refine ((h1.trans h2).trans h3).trans ?_
  split
  · split
    · exact released_modSlot _ _ _ fun _ => ⟨_, _, _, rfl⟩
    · exact .refl _
  · exact .refl _

/-- A release without entries has no pieces, and is complete (R132). -/
theorem released_ship_nil (s : State) (r : Release) (pod : Bool) : Released s (s.ship r pod []) :=
  Released.trans (t := { s with releases := s.releases ++ [r] }) ⟨rfl, fun _ _ => .refl _⟩ (released_completeRelease ..)

/-- The sequencer stamps a segment without entries, of a core whose cluster's unit holds no word. -/
theorem released_stampRelease {s : State} {c : Nat} (hcu : (s.cluster (clusterOf c)).cu = [])
    (hg : ∀ g ∈ (s.core c).log.closed, g.entries = []) : Released s (s.stampRelease c) := by
  unfold State.stampRelease
  split
  · exact .refl s
  next g hnext =>
    have hmem : g ∈ (s.core c).log.closed := by
      unfold State.nextSegment at hnext
      split at hnext
      next g' hfind =>
        split at hnext
        · cases hnext
        · cases hnext
          exact List.mem_of_find?_eq_some hfind
      · cases hnext
    extract_lets cl s1
    have h1 : s1 = s := by simp [s1, cl, hcu]
    clear_value s1
    subst h1
    split
    next v s2 hst =>
    split
    next id s3 hid =>
    extract_lets s4 s5 s6 s7 s8
    have h3 : Released s1 s3 := by
      cases hst
      cases hid
      exact ⟨rfl, fun _ _ => .refl _⟩
    have h4 : Released s3 s4 := released_modCore _ _ fun _ => .refl _
    have h5 : Released s4 s5 := by
      unfold s5
      split
      · exact released_publish ..
      · exact .refl _
    have h6 : Released s5 s6 := by
      unfold s6
      split
      · exact released_modSlot _ _ _ fun _ => ⟨_, _, _, rfl⟩
      · exact .refl _
    have h7 : Released s6 s7 := by
      unfold s7
      split
      · exact released_modCore _ _ fun _ => .refl _
      · exact .refl _
    rw [hg g hmem]
    exact ((h3.trans h4).trans ((h5.trans h6).trans h7)).trans ((Released.refl s7).withReqs _ |>.trans (released_ship_nil ..))

theorem settle_of_no_pieces {s : State} (h : s.pieces = []) : s.settle = s := by
  have hs : { s with pieces := [] } = s := by rw [← h]
  simp [State.settle, h, sortBy, hs]

/-- A core with one closed segment, which is empty, drains: no piece leaves it. -/
theorem released_drain {s : State} {c : Nat} {g : Segment} (hp : s.pieces = []) (hcu : (s.cluster (clusterOf c)).cu = [])
    (hcl : (s.core c).log.closed = [g]) (hg : g.entries = []) : Released s (s.drain c 640) := by
  have h := released_stampRelease (c := c) hcu (by simp [hcl, hg])
  rw [State.drain, settle_of_no_pieces hp, hcl, State.hearAll, if_pos (Nat.le_refl 640), List.length_singleton, State.drainN]
  split
  · rw [settle_of_no_pieces (h.pieces.trans hp)]
    exact h
  · exact .refl s

theorem core_ringSet (s : State) (c pos : Nat) (w0 w1 : Word) (d : Nat) : (s.ringSet c pos w0 w1).core d = s.core d := by
  rw [State.core, State.core]
  unfold State.ringSet
  dsimp only
  split
  · rfl
  · rw [State.setBytes_cores]

theorem log_modCur (s : State) (f : Slot → Slot) : ((s.modCur f).core s.curCore).log = (s.core s.curCore).log :=
  (congrArg Core.log (State.curK_modCur s f) :)

/-- A release of a core whose log holds nothing closes one empty segment. -/
theorem closed_release {s : State} (sc : Nat) (ho : s.curK.log.openEntries = []) (hc : s.curK.log.closed = [])
    (hh : s.curK.log.openHearth = s.cur.st.hearth) :
    ∃ g : Segment, ((s.release s.curCore s.curSlot sc []).core s.curCore).log.closed = [g] ∧ g.entries = [] := by
  have hsw : s.switchHearth s.curCore s.cur.st.hearth = s := if_pos hh
  have hrel := log_modCur (releaseClosed s sc []) fun t =>
    { t with stores := t.stores + (if 5 ≤ sc then 1 else 0), st := { t.st with idv := false } }
  rw [(closed_releaseClosed s sc []).curCore] at hrel
  rw [release_eq, hrel, releaseClosed, hsw, State.closeLog]
  dsimp only
  rw [State.core_modCore_same, core_ringSet]
  rw [State.curK] at hc ho
  simp [ho, hc]

/-- The release of an arrival, of a quiet core (R290): nothing of the thread but RC, its count of stores and idv changes. -/
theorem released_arrival {s : State} (sc : Nat) (hq : Claims.Quiet s) :
    Released s ((s.release s.curCore s.curSlot sc []).drain s.curCore 640) := by
  obtain ⟨hp, -, ho, hc, hh, hcu, -⟩ := hq
  obtain ⟨g, hcl, hg⟩ := closed_release sc ho hc hh
  have hrel : Released s (s.release s.curCore s.curSlot sc []) := by
    rw [release_eq]
    exact (Released.of_closed (closed_releaseClosed ..)).trans (released_modSlot _ _ _ fun _ => ⟨_, _, _, rfl⟩)
  exact hrel.trans (released_drain (hrel.pieces.trans hp) (by rw [hrel.cluster, hcu]) hcl hg)

/-! ## Waking the waiters of an object -/

/-- t is s but for cores and the crossings that wait, and the executing thread is as it was. -/
structure Woken (s t : State) : Prop where
  rest : t = { s with cores := t.cores, crossings := t.crossings }
  cur : t.cur = s.cur

namespace Woken

variable {s t u : State}

theorem refl (s : State) : Woken s s := ⟨rfl, rfl⟩
theorem trans (h : Woken s t) (h' : Woken t u) : Woken s u := ⟨by rw [h'.rest, h.rest], h'.cur.trans h.cur⟩
theorem curCore (h : Woken s t) : t.curCore = s.curCore := by rw [h.rest]
theorem curSlot (h : Woken s t) : t.curSlot = s.curSlot := by rw [h.rest]
theorem bar (h : Woken s t) (b : BarId) : t.bar b = s.bar b := by rw [h.rest]; rfl
theorem mem (h : Woken s t) : t.mem = s.mem := by rw [h.rest]

end Woken

/-- A change of another thread. -/
theorem woken_modSlot {s : State} {c n : Nat} (h : ¬ (c = s.curCore ∧ n = s.curSlot)) (f : Slot → Slot) : Woken s (s.modSlot c n f) where
  rest := rfl
  cur := State.slot_setSlot_ne s _ ((not_and_or.mp h).imp Ne.symm Ne.symm)

/-- A change of a core that leaves its threads alone. -/
theorem woken_modCore (s : State) (c : Nat) {f : Core → Core} (hf : ∀ k, (f k).slots = k.slots) : Woken s (s.modCore c f) where
  rest := rfl
  cur := by
    by_cases hc : c = s.curCore
    · rw [hc]
      exact State.cur_modCore (hf _)
    · exact congrArg (Core.slot · s.curSlot) (State.core_modCore_ne s f (Ne.symm hc))

/-- Waking a slot leaves a thread that waits for nothing alone. -/
theorem woken_wakeBar {s : State} (hw : s.cur.wait = .none) (c n : Nat) (b : BarId) (ok phase : Bool) (clk : Clock) :
    Woken s (s.wakeBar c n b ok phase clk) := by
  by_cases h : c = s.curCore ∧ n = s.curSlot
  · rw [State.cur, ← h.1, ← h.2] at hw
    rw [State.wakeBar, hw]
    exact .refl s
  · unfold State.wakeBar
    split
    · split
      · exact .refl s
      · split
        · exact ⟨rfl, rfl⟩
        · extract_lets s1
          have h1 : Woken s s1 := woken_modSlot h _
          have h' : ¬ (c = s1.curCore ∧ n = s1.curSlot) := by rw [h1.curCore, h1.curSlot]; exact h
          split
          · refine h1.trans ((woken_modSlot h' _).trans (woken_modCore _ _ (f := fun k => { k with rcache := [] }) fun _ => rfl))
          · exact h1
    · exact .refl s

theorem woken_wakeAll {s : State} (hw : s.cur.wait = .none) (b : BarId) (ok : Bool) : Woken s (s.wakeAll b ok) := by
  refine foldl_keeps (P := Woken s) (.refl s) fun t c ht => foldl_keeps (P := Woken s) ht fun u n hu => hu.trans ?_
  exact woken_wakeBar (by rw [hu.cur, hw]) ..

/-! ## Arrivals -/

@[simp] theorem State.bar_setBar (s : State) (b : BarId) (x : Barrier) : (s.setBar b x).bar b = x := by
  rw [State.bar, State.setBar]
  exact get_put_same ..

/-- BARLAST without a record names no arrival (R45). -/
theorem overRecord_zero (x : Barrier) (b : BarId) : overRecord x b 0 = false := by
  simp [overRecord, natBits]

theorem arrive_fail {s : State} {b : BarId} (h : (s.bar b).poison = true) (drop : Bool) (r : BitVec 20) (v : Clock) :
    s.arrive b drop r v = (.fail, s) := by
  simp [State.arrive, h]

theorem arrive_over {s : State} {b : BarId} {drop : Bool} (hw : s.cur.wait = .none) (hp : (s.bar b).poison = false)
    (h : (s.bar b).expected = 0 ∨ (drop = true ∧ (s.bar b).nexp = 0)) (r : BitVec 20) (v : Clock) :
    ∃ t : State, s.arrive b drop r v = (.over, t) ∧ t.bar b = { s.bar b with poison := true } ∧ t.cur = s.cur := by
  have ht := woken_wakeAll (s := s.setBar b { s.bar b with poison := true }) hw b false
  refine ⟨_, ?_, (ht.bar b).trans (State.bar_setBar ..), ht.cur⟩
  have hover : ((s.bar b).expected = 0 || overRecord (s.bar b) b r || (drop && (s.bar b).nexp == 0)) = true := by
    obtain h | ⟨hd, hn⟩ := h
    · simp [h]
    · simp [hd, hn]
  simp only [State.arrive, hp, Bool.false_eq_true, if_false]
  rw [if_pos hover]

/-- What the next phase expects after an arrival: one thread less after a drop (R59). -/
def dropped (drop : Bool) (q : Barrier) : BitVec 24 := if drop then q.nexp - 1 else q.nexp
/-- An object after an arrival with stamp v: the last one expected begins the next phase (R59). -/
def arrivedAt (drop : Bool) (v : Clock) (q : Barrier) : Barrier :=
  if q.arrived + 1 = q.expected then
    { q with nexp := dropped drop q, phase := !q.phase, arrived := 0, expected := dropped drop q, now := {}, last := q.now.max v }
  else { q with nexp := dropped drop q, arrived := q.arrived + 1, now := q.now.max v }

theorem arrive_ok {s : State} {b : BarId} {drop : Bool} (hw : s.cur.wait = .none) (hp : (s.bar b).poison = false)
    (he : (s.bar b).expected ≠ 0) (hd : drop = true → (s.bar b).nexp ≠ 0) (v : Clock) :
    ∃ t : State, s.arrive b drop 0 v = (.ok (s.bar b).phase, t) ∧ t.cur = s.cur ∧ t.curCore = s.curCore ∧ t.curSlot = s.curSlot ∧
      t.bar b = arrivedAt drop v (s.bar b) := by
  have hn : (drop && (s.bar b).nexp == 0) = false := by
    cases drop
    · rfl
    · simpa using hd rfl
  have hover : ¬ ((s.bar b).expected = 0 || overRecord (s.bar b) b 0 || (drop && (s.bar b).nexp == 0)) = true := by
    rw [overRecord_zero, hn]
    simpa using he
  have hpoison : ¬ (s.bar b).poison = true := by simp [hp]
  rw [State.arrive]
  dsimp only
  rw [if_neg hpoison, if_neg hover, arrivedAt]
  by_cases hlast : (s.bar b).arrived + 1 = (s.bar b).expected
  · rw [if_pos hlast, if_pos hlast]
    have ht := fun q => woken_wakeAll (s := s.setBar b q) hw b true
    exact ⟨_, rfl, (ht _).cur, (ht _).curCore, (ht _).curSlot, ((ht _).bar b).trans (State.bar_setBar ..)⟩
  · rw [if_neg hlast, if_neg hlast]
    exact ⟨_, rfl, rfl, rfl, rfl, State.bar_setBar ..⟩

/-! ## An arrival by the executing thread -/

theorem Slot.Aged.w {t u : Slot} (h : t.Aged u) (n : Nat) : u.w n = t.w n := by
  obtain ⟨_, _, _, rfl⟩ := h
  rfl
theorem Slot.Aged.pc {t u : Slot} (h : t.Aged u) : u.pc = t.pc := by
  obtain ⟨_, _, _, rfl⟩ := h
  rfl
theorem Slot.Aged.wait {t u : Slot} (h : t.Aged u) : u.wait = t.wait := by
  obtain ⟨_, _, _, rfl⟩ := h
  rfl
theorem Slot.Aged.barlast {t u : Slot} (h : t.Aged u) : u.barlast = t.barlast := by
  obtain ⟨_, _, _, rfl⟩ := h
  rfl
theorem Slot.Aged.stk {t u : Slot} (h : t.Aged u) : u.stk = t.stk := by
  obtain ⟨_, _, _, rfl⟩ := h
  rfl
theorem Slot.Aged.npc {s t : State} (h : s.cur.Aged t.cur) (f : Fld) : t.npc f = s.npc f := by
  rw [State.npc, State.npc, h.pc]

/-- The cause that TRAPCAUSE names (R447). -/
theorem bits_trapCauseWord (t : Slot) (r : TrapRec) : (trapCauseWord t r).bits 63 56 = r.cause % 256 := by
  have hown : (if 1 ≤ t.st.adepth then 2 ^ 52 + t.taskid.bits 47 0 else 0) < 2 ^ 52 + 2 ^ 48 := by
    have := bits_lt t.taskid 47 0
    split <;> omega
  rw [trapCauseWord, Word.bits, natBits, word, BitVec.toNat_ofNat, Nat.shiftRight_eq_div_pow]
  omega

theorem State.cur_result (s : State) (f : Fld) (n : Nat) (v : Word) :
    (s.result f n v).cur = { s.cur.setW n v with pc := s.npc f } := by
  rw [State.result, State.cur_advance, State.npc, State.cur_setW]
  rfl
@[simp] theorem State.bar_modCur (s : State) (g : Slot → Slot) (b : BarId) : (s.modCur g).bar b = s.bar b := rfl
theorem State.bar_trap (s : State) (r : TrapRec) (b : BarId) : (s.trap r).bar b = s.bar b := rfl
theorem State.bar_result (s : State) (f : Fld) (n : Nat) (v : Word) (b : BarId) : (s.result f n v).bar b = s.bar b := rfl
theorem State.bar_advance (s : State) (f : Fld) (b : BarId) : (s.advance f).bar b = s.bar b := rfl
theorem State.bar_waitFor (s : State) (w : Wait) (b : BarId) : (s.waitFor w).bar b = s.bar b := rfl
theorem State.bar_barAcquire (s : State) (c n : Nat) (b' : BarId) (v : Clock) (b : BarId) :
    (s.barAcquire c n b' v).bar b = s.bar b := rfl
theorem State.cur_barAcquire (s : State) (b : BarId) (v : Clock) :
    (s.barAcquire s.curCore s.curSlot b v).cur = { s.cur with rc := s.cur.rc.max (if b.lev = 5 then {} else v) } := by
  rw [State.barAcquire, State.acquireAt]
  refine (State.cur_modCore (s := s.modCur _) rfl).trans ?_
  rw [State.cur_modCur]

/-- The object that a level and an index name on the executing core (R57). -/
theorem barOn_eq (s : State) {lev : Nat} (h2 : 2 ≤ lev) (h5 : lev ≤ 5) (idx : Nat) :
    s.barOn s.curCore lev idx = Claims.boundTo s lev idx := by
  rw [Claims.boundTo]
  obtain h | h | h | h : lev = 2 ∨ lev = 3 ∨ lev = 4 ∨ lev = 5 := by omega
  · rw [h]; rfl
  · rw [h]; rfl
  · rw [h]; rfl
  · rw [h]; rfl

theorem barOf_eq {f : Fld} (s : State) (h2 : 2 ≤ f.sc) (h5 : f.sc ≤ 5) : s.barOf f = Claims.barrierOf f s := by
  rw [State.barOf, barOn_eq s h2 h5]
  rfl

/-- The index that a level allows (R56). -/
theorem barCount_eq {n : Nat} (h5 : n ≤ 5) : barCount n = [0, 0, 32, 64, 32, 16].getD n 0 := by
  interval_cases n
  all_goals rfl

theorem barLimits_none {f : Fld} (s : State) (h2 : 2 ≤ f.sc) (h5 : f.sc ≤ 5) (hi : f.immU < [0, 0, 32, 64, 32, 16].getD f.sc 0)
    (ho : f.ord = 0) (hw : f.wt = 0) (hc : f.cp = 0) : barLimits f s = none := by
  rw [← barCount_eq h5] at hi
  refine limits_eq_none fun p hp => ?_
  simp only [List.mem_cons, List.not_mem_nil, or_false] at hp
  obtain rfl | rfl := hp
  · simp [ho, hw, hc, h5, Nat.lt_of_succ_le h2]
  · simp [hi]

theorem barChk_none {f : Fld} {s : State} (h : Claims.BarrierForm f s) : barChk f s = none := by
  obtain ⟨h2, h5, hi, ho, hw, hc, hdet, hh⟩ := h
  rw [barChk, barLimits_none s h2 h5 hi ho hw hc, detWait, hdet, barHearth, barOf_eq s h2 h5, hh]
  simp

section

variable {s : State} (f : Fld) (drop wait : Bool)

theorem threadArrive_fail (hq : Claims.Quiet s) (hp : (s.bar (s.barOf f)).poison = true) :
    (s.threadArrive f drop wait).cur.w f.d = -1 ∧ (s.threadArrive f drop wait).cur.pc = s.npc f ∧
      (s.threadArrive f drop wait).bar (s.barOf f) = s.bar (s.barOf f) := by
  have hu := released_arrival f.sc hq
  rw [State.threadArrive]
  dsimp only
  generalize (s.release s.curCore s.curSlot f.sc []).drain s.curCore 640 = u at hu ⊢
  rw [arrive_fail (by rw [hu.bar, hp])]
  dsimp only
  rw [State.cur_result, State.bar_result]
  exact ⟨Slot.setW_w_same .., hu.cur.npc f, hu.bar _⟩

theorem threadArrive_over (hq : Claims.Quiet s) (hp : (s.bar (s.barOf f)).poison = false)
    (h : (s.bar (s.barOf f)).expected = 0 ∨ (drop = true ∧ (s.bar (s.barOf f)).nexp = 0)) :
    (s.threadArrive f drop wait).bar (s.barOf f) = { s.bar (s.barOf f) with poison := true } ∧
      (s.threadArrive f drop wait).cur.trapcause.bits 63 56 = 0x18 ∧ (s.threadArrive f drop wait).cur.trappc = s.cur.pc ∧
      (s.threadArrive f drop wait).cur.stk = s.cur.stk := by
  have hu := released_arrival f.sc hq
  obtain ⟨-, -, -, -, -, -, hwait, -⟩ := hq
  rw [State.threadArrive]
  dsimp only
  generalize (s.release s.curCore s.curSlot f.sc []).drain s.curCore 640 = u at hu ⊢
  obtain ⟨t, ht, htb, htc⟩ := arrive_over (s := u) (b := s.barOf f) (drop := drop) (by rw [hu.cur.wait, hwait]) (by rw [hu.bar, hp])
    (by rw [hu.bar]; exact h) u.cur.barlast u.cur.rc
  rw [ht]
  dsimp only
  refine ⟨by rw [State.bar_trap, htb, hu.bar], ?_, ?_, ?_⟩
  · rw [State.cur_trap]
    exact bits_trapCauseWord ..
  · rw [State.cur_trap, htc]
    exact hu.cur.pc
  · rw [State.cur_trap, htc]
    exact hu.cur.stk

/-- The state in which an arrival has been counted and w<d> written, before BARR waits: t goes on at the instruction of s. -/
structure Counted (s t : State) (f : Fld) (v : Word) : Prop where
  pc : t.cur.pc = s.cur.pc
  wait : t.cur.wait = .none
  w_same : t.cur.w f.d = v
  w_ne : ∀ n < 16, n ≠ f.d → t.cur.w n = s.cur.w n

theorem Counted.npc {t : State} {v : Word} {f : Fld} (h : Counted s t f v) : t.npc f = s.npc f := by
  rw [State.npc, State.npc, h.pc]

/-- The record of an arrival and its result leave the rest of the registers. -/
theorem counted_setW {t : State} {f : Fld} (h : s.cur.Aged t.cur) (hw : s.cur.wait = .none) (hd : f.d < 16) (r : BitVec 20) (v : Word) :
    Counted s ((t.modCur fun t => { t with barlast := r }).setW f.d v) f v := by
  have hcur : ((t.modCur fun t => { t with barlast := r }).setW f.d v).cur = ({ t.cur with barlast := r } : Slot).setW f.d v := by
    rw [State.cur_setW, State.cur_modCur]
  refine ⟨?_, ?_, ?_, ?_⟩
  · rw [hcur]
    exact h.pc
  · rw [hcur]
    exact h.wait.trans hw
  · rw [hcur]
    exact Slot.setW_w_same ..
  · intro n hn hne
    rw [hcur, Slot.setW_w_ne _ _ hd hn hne]
    exact h.w n

/-- An arrival that counts (R59): w<d> is the phase, and BARR waits unless the phase has ended. -/
theorem threadArrive_ok (hq : Claims.Quiet s) (hd16 : f.d < 16) (hlast : s.cur.barlast = 0) (hp : (s.bar (s.barOf f)).poison = false)
    (he : (s.bar (s.barOf f)).expected ≠ 0) (hd : drop = true → (s.bar (s.barOf f)).nexp ≠ 0) :
    ∃ (v : Clock) (x : State), Counted s x f (if (s.bar (s.barOf f)).phase then 1 else 0) ∧
      x.bar (s.barOf f) = arrivedAt drop v (s.bar (s.barOf f)) ∧
      s.threadArrive f drop wait =
        if !wait then x.advance f
        else if (x.bar (s.barOf f)).phase ≠ (s.bar (s.barOf f)).phase then
          (x.barAcquire x.curCore x.curSlot (s.barOf f) (x.bar (s.barOf f)).last).advance f
        else x.waitFor (.barrier (s.barOf f) f.d (s.bar (s.barOf f)).phase true (s.npc f)) := by
  have hu := released_arrival f.sc hq
  obtain ⟨-, -, -, -, -, -, hwait, -⟩ := hq
  rw [State.threadArrive]
  dsimp only
  generalize (s.release s.curCore s.curSlot f.sc []).drain s.curCore 640 = u at hu ⊢
  obtain ⟨t, ht, htc, htk, hts, htb⟩ := arrive_ok (s := u) (b := s.barOf f) (drop := drop) (by rw [hu.cur.wait, hwait])
    (by rw [hu.bar, hp]) (by rw [hu.bar]; exact he) (by rw [hu.bar]; exact hd) u.cur.rc
  rw [hu.cur.barlast, hlast, ht]
  dsimp only
  rw [hu.bar] at htb ⊢
  have hx := counted_setW (f := f) (htc ▸ hu.cur : s.cur.Aged t.cur) hwait hd16
    (barRecord (s.bar (s.barOf f)) (s.barOf f) drop (s.bar (s.barOf f)).phase) (if (s.bar (s.barOf f)).phase then 1 else 0)
  refine ⟨_, _, hx, htb, ?_⟩
  rw [hx.npc, ← hu.curCore, ← hu.curSlot, ← htk, ← hts]
  rfl

/-- What BARR, BARA and BARD leave when they count (R59, R291). -/
theorem threadArrive_counts (hq : Claims.Quiet s) (hd16 : f.d < 16) (hlast : s.cur.barlast = 0)
    (hp : (s.bar (s.barOf f)).poison = false) (he : (s.bar (s.barOf f)).expected ≠ 0)
    (hd : drop = true → (s.bar (s.barOf f)).nexp ≠ 0) :
    ∃ v : Clock, (s.threadArrive f drop wait).cur.w f.d = (if (s.bar (s.barOf f)).phase then 1 else 0) ∧
      (∀ n < 16, n ≠ f.d → (s.threadArrive f drop wait).cur.w n = s.cur.w n) ∧
      (s.threadArrive f drop wait).bar (s.barOf f) = arrivedAt drop v (s.bar (s.barOf f)) ∧
      (if wait = true ∧ (arrivedAt drop v (s.bar (s.barOf f))).phase = (s.bar (s.barOf f)).phase then
        (s.threadArrive f drop wait).cur.wait = .barrier (s.barOf f) f.d (s.bar (s.barOf f)).phase true (s.npc f) ∧
          (s.threadArrive f drop wait).cur.pc = s.cur.pc
      else (s.threadArrive f drop wait).cur.wait = .none ∧ (s.threadArrive f drop wait).cur.pc = s.npc f) := by
  obtain ⟨v, x, hx, hxb, h⟩ := threadArrive_ok f drop wait hq hd16 hlast hp he hd
  rw [hxb] at h
  cases wait with
  | false =>
    rw [if_pos (by rfl)] at h
    rw [h, State.cur_advance]
    refine ⟨v, hx.w_same, hx.w_ne, hxb, ?_⟩
    rw [if_neg (by simp)]
    exact ⟨hx.wait, hx.npc⟩
  | true =>
    rw [if_neg (by simp)] at h
    by_cases hph : (arrivedAt drop v (s.bar (s.barOf f))).phase = (s.bar (s.barOf f)).phase
    · rw [if_neg (not_not.mpr hph)] at h
      rw [h, State.cur_waitFor]
      refine ⟨v, hx.w_same, hx.w_ne, hxb, ?_⟩
      rw [if_pos ⟨rfl, hph⟩]
      exact ⟨rfl, hx.pc⟩
    · rw [if_pos hph] at h
      rw [h, State.cur_advance, State.npc, State.cur_barAcquire]
      refine ⟨v, hx.w_same, hx.w_ne, hxb, ?_⟩
      rw [if_neg fun h => hph h.2]
      exact ⟨hx.wait, hx.npc⟩

end

/-! ## The barrier instructions -/

/-- BARW past the phase of w<d> (R291). -/
theorem barw_acquires (s : State) (f : Fld) (hd : f.d < 16) (b : BarId) (v : Clock) (p : Word) :
    let t := (s.barAcquire s.curCore s.curSlot b v).result f f.d p
    t.cur.w f.d = p ∧ t.cur.pc = s.npc f ∧ t.cur.rc = s.cur.rc.max (if b.lev = 5 then {} else v) ∧ t.curK.rcache = [] ∧
      t.bar b = s.bar b ∧ t.mem = s.mem ∧ ∀ n < 16, n ≠ f.d → t.cur.w n = s.cur.w n := by
  dsimp only
  have hcur := State.cur_barAcquire s b v
  have hrc : (s.barAcquire s.curCore s.curSlot b v).curK.rcache = [] := by
    rw [State.barAcquire, State.acquireAt]
    exact (congrArg Core.rcache (State.curK_modCore (s.modCur _) _) :)
  rw [State.cur_result, State.npc, hcur]
  refine ⟨Slot.setW_w_same .., rfl, rfl, ?_, rfl, rfl, ?_⟩
  · rw [State.result, State.advance, State.curK_modCur, State.setW, State.curK_modCur]
    exact hrc
  · exact fun n hn hne => Slot.setW_w_ne _ _ hd hn hne

theorem exec_barw {x : RI} {s : State} (hr : Ready (.barw x) s) (hf : Claims.BarrierForm x.fld s) :
    let b := Claims.barrierOf x.fld s
    exec (.barw x) s = .next (
      if (s.bar b).poison then s.result x.fld x.fld.d (wordI (-1))
      else if (s.bar b).phase ≠ (s.w x.fld.d).getLsbD 0 then
        (s.barAcquire s.curCore s.curSlot b (s.bar b).last).result x.fld x.fld.d (if (s.bar b).phase then 1 else 0)
      else s.waitFor (.barrier b x.fld.d ((s.w x.fld.d).getLsbD 0) false (s.npc x.fld))) := by
  dsimp only
  rw [← barOf_eq s hf.1 hf.2.1]
  change execBarw x s = _
  rw [execBarw, gate_next _ _ hr (barChk_none hf)]

/-- BARI within its limits at F (R292). -/
theorem exec_bari {x : RI} {s : State} (hr : Ready (.bari x) s) (hl : barLimits x.fld s = none) (hp : s.cur.st.priv = 2)
    (hn : (s.w x.fld.d).toNat < 2 ^ 24) :
    exec (.bari x) s = .next (
      let b := s.barOf x.fld
      let t := s.wakeAll b false
      let n := BitVec.ofNat 24 (t.w x.fld.d).toNat
      (t.setBar b { t.bar b with expected := n, nexp := n, arrived := 0, phase := false, poison := false, hearth := t.cur.st.hearth,
                                 epoch := (t.bar b).epoch + 1, now := {} }).advance x.fld) := by
  change execBari x s = _
  rw [execBari, gate_next _ _ hr]
  rw [decide_eq_false (Nat.not_le.mpr hn), hl]
  simp [hp]

theorem exec_bari_trap {x : RI} {s : State} (hr : Ready (.bari x) s) (hl : barLimits x.fld s = none)
    (hn : 2 ^ 24 ≤ (s.w x.fld.d).toNat) : Traps (.bari x) s { cause := 0x0D, addr := s.w x.fld.d } := by
  change execBari x s = _
  rw [execBari, gate_trap (r := { cause := 0x0D, addr := s.w x.fld.d }) _ _ hr]
  rw [decide_eq_true hn, hl]
  simp

/-- The three arrivals, with what each drops and whether it waits. -/
def arrivals : List ((RI → Instr) × Bool × Bool) := [(Instr.barr, false, true), (.bara, false, false), (.bard, true, false)]

theorem exec_arrival {x : RI} {s : State} {p : (RI → Instr) × Bool × Bool} (hp : p ∈ arrivals) (hr : Ready (p.1 x) s)
    (hf : Claims.BarrierForm x.fld s) : exec (p.1 x) s = .next (s.threadArrive x.fld p.2.1 p.2.2) := by
  simp only [arrivals, List.mem_cons, List.not_mem_nil, or_false] at hp
  obtain rfl | rfl | rfl := hp
  · change execBarr x s = _
    rw [execBarr, gate_next _ _ hr (barChk_none hf)]
  · change execBara x s = _
    rw [execBara, gate_next _ _ hr (barChk_none hf)]
  · change execBard x s = _
    rw [execBard, gate_next _ _ hr (barChk_none hf)]

theorem arrivedAt_of_last {drop : Bool} {v : Clock} {q : Barrier} (h : q.arrived + 1 = q.expected) :
    (arrivedAt drop v q).arrived = 0 ∧ (arrivedAt drop v q).phase = !q.phase ∧ (arrivedAt drop v q).nexp = dropped drop q ∧
      (arrivedAt drop v q).expected = dropped drop q := by
  rw [arrivedAt, if_pos h]
  exact ⟨rfl, rfl, rfl, rfl⟩

theorem arrivedAt_of_more {drop : Bool} {v : Clock} {q : Barrier} (h : q.arrived + 1 ≠ q.expected) :
    (arrivedAt drop v q).arrived = q.arrived + 1 ∧ (arrivedAt drop v q).phase = q.phase ∧ (arrivedAt drop v q).nexp = dropped drop q := by
  rw [arrivedAt, if_neg h]
  exact ⟨rfl, rfl, rfl⟩

theorem RI.fld_d_lt (x : RI) : x.fld.d < 16 := by
  rw [RI.fld_d]
  exact x.d.isLt

/-- Settles O26: an arrival is its release, which leaves object and registers, and the arrival proper. -/
theorem barrierInstructions : Obligations.BarrierInstructions := by
  refine ⟨?_, ?_, ?_⟩
  · intro x s hf hq hlast
    dsimp only
    intro p hp hr
    rw [exec_arrival hp hr hf]
    rw [← barOf_eq s hf.1 hf.2.1]
    refine ⟨fun hpois => ?_, fun hpois h => ?_, fun hpois he hd => ?_⟩
    · exact ⟨_, rfl, threadArrive_fail x.fld p.2.1 p.2.2 hq hpois⟩
    · exact ⟨_, rfl, threadArrive_over x.fld p.2.1 p.2.2 hq hpois h⟩
    · obtain ⟨v, hw, hne, hbar, hend⟩ := threadArrive_counts x.fld p.2.1 p.2.2 hq (RI.fld_d_lt x) hlast hpois he hd
      refine ⟨_, rfl, hw, hne, fun hmore => ?_, fun hlast => ?_⟩
      · obtain ⟨ha, hph, hn⟩ := arrivedAt_of_more (drop := p.2.1) (v := v) hmore
        rw [hph] at hend
        rw [hbar]
        exact ⟨ha, hph, hn, by simpa using hend⟩
      · obtain ⟨ha, hph, hn, hexp⟩ := arrivedAt_of_last (drop := p.2.1) (v := v) hlast
        rw [hph] at hend
        rw [hbar]
        exact ⟨ha, hph, hn, hexp, by simpa using hend⟩
  · intro x s hf hr hwait
    dsimp only
    have h := exec_barw hr hf
    dsimp only at h
    refine ⟨fun hp => ?_, fun hp hph => ?_, fun hp hph => ?_⟩
    · rw [if_pos hp] at h
      exact writes_of_result (RI.fld_d_lt x) h
    · rw [if_neg (by simp [hp]), if_pos hph] at h
      exact ⟨_, h, barw_acquires s x.fld (RI.fld_d_lt x) ..⟩
    · rw [if_neg (by simp [hp]), if_neg (not_not.mpr hph)] at h
      exact h
  · intro x s hr hp hwait
    dsimp only
    intro h2 h5 hi ho hw hc
    have hl := barLimits_none s h2 h5 hi ho hw hc
    refine ⟨fun hn => ?_, exec_bari_trap hr hl⟩
    have hwk := woken_wakeAll (s := s) hwait (s.barOf x.fld) false
    refine ⟨_, exec_bari hr hl hp hn, ?_⟩
    dsimp only
    rw [← barOf_eq s h2 h5, State.bar_advance, State.bar_setBar, State.cur_advance, hwk.bar, State.w, hwk.cur]
    refine ⟨rfl, ?_, hwk.mem⟩
    rw [State.npc]
    exact congrArg (fun t : Slot => { t with pc := t.pc + word (2 * x.fld.len) }) hwk.cur

end Sys2Proof.Machine

/-! # A step

The decoder asks for more until it has an instruction's parcels (`decode_take`), so a fetch reads them block by block, from local store
or from the blocks that it has cached (`Fetching`); and an opportunity goes to the first slot that can issue (`issueFrom_skips`). -/

namespace Sys2Proof.Machine

/-! ## The decoder on the parcels that have been read -/

theorem finish_ok {page op : Nat} {px : List Prefix} {w : Parcel} {i : Instr} {n : Nat} (h : finish page op px w = .ok i n) :
    n = px.length + if page = 0 then 1 else 2 := by
  unfold finish at h
  split at h
  · cases h
  · dsimp only at h
    split at h
    · cases h
    · split at h
      · cases h
      · split at h
        · cases h
        · split at h
          · cases h
          · injection h with _ hn
            exact hn.symm

/-- An instruction has at most five parcels (R204), and the decoder asks for more before it has read them. -/
theorem decodeFrom_take (ps : List Parcel) (px : List Prefix) (i : Instr) (n : Nat) (hpx : px.length ≤ 4)
    (h : decodeFrom px ps = .ok i n) :
    n ≤ px.length + ps.length ∧ n ≤ 5 ∧ ∀ k, px.length + k < n → decodeFrom px (ps.take k) = .more := by
  induction ps generalizing px with
  | nil => simp [decodeFrom] at h
  | cons p rest ih =>
    rw [decodeFrom] at h
    dsimp only at h
    by_cases h1 : (p.extractLsb' 9 7).toNat < 0x78
    · rw [if_pos h1] at h
      have hn := finish_ok h
      rw [if_pos rfl] at hn
      refine ⟨by simp; omega, by omega, fun k hk => ?_⟩
      have : k = 0 := by omega
      rw [this, List.take_zero, decodeFrom]
    rw [if_neg h1] at h
    by_cases h2 : (p.extractLsb' 9 7).toNat = 0x7E ∨ (p.extractLsb' 9 7).toNat = 0x7F
    · rw [if_pos h2] at h
      cases h
    rw [if_neg h2] at h
    by_cases h3 : 4 ≤ px.length
    · rw [if_pos h3] at h
      cases h
    rw [if_neg h3] at h
    by_cases h4 : (p.extractLsb' 9 7).toNat = 0x7B
    · rw [if_pos h4] at h
      split at h
      · cases h
      next hpage =>
        cases rest with
        | nil => cases h
        | cons o r =>
          have hn := finish_ok h
          rw [if_neg (fun h0 => hpage (.inl h0))] at hn
          refine ⟨by simp; omega, by omega, fun k hk => ?_⟩
          have hk2 : k = 0 ∨ k = 1 := by omega
          obtain rfl | rfl := hk2
          · rw [List.take_zero, decodeFrom]
          · rw [List.take_succ_cons, List.take_zero, decodeFrom]
            dsimp only
            rw [if_neg h1, if_neg h2, if_neg h3, if_pos h4, if_neg hpage]
    · rw [if_neg h4] at h
      split at h
      next q hq =>
        obtain ⟨hlen, h5, hmore⟩ := ih (px ++ [q]) (by simp; omega) h
        simp only [List.length_append, List.length_singleton] at hlen hmore
        refine ⟨by simp; omega, h5, fun k hk => ?_⟩
        cases k with
        | zero => rw [List.take_zero, decodeFrom]
        | succ k =>
          rw [List.take_succ_cons, decodeFrom]
          simp only [if_neg h1, if_neg h2, if_neg h3, if_neg h4, hq]
          exact hmore k (by omega)
      · cases h

theorem decode_take {ps : List Parcel} {i : Instr} {n : Nat} (h : decode ps = .ok i n) :
    n ≤ 5 ∧ ∀ k, k < n → decode (ps.take k) = .more := by
  obtain ⟨-, h5, hmore⟩ := decodeFrom_take ps [] i n (Nat.zero_le _) h
  exact ⟨h5, fun k hk => hmore k (by simpa using hk)⟩

/-! ## Fetching from local store -/

theorem paClass_lsPA (s : State) (c off : Nat) : paClass (lsPA s c off) = 1 := by
  rw [paClass, lsPA]
  omega
theorem paCore_lsPA (s : State) {c : Nat} (hc : c < 8192) (off : Nat) : paCore (lsPA s c off) = c := by
  rw [paCore, paDie, lsPA]
  omega
theorem paOff_lsPA (s : State) (c off : Nat) : paOff (lsPA s c off) = off % 2 ^ 18 := by
  rw [paOff, lsPA]
  omega
theorem ownPackage_lsPA {s : State} {c : Nat} (hc : c < 8192) (hp : s.hub.package < 64) (off : Nat) :
    s.ownPackage (lsPA s c off) = true := by
  have hd : lsPA s c off / 2 ^ 50 = s.hub.package := by
    have hdie : c / 2048 < 4 := by omega
    rw [lsPA]
    omega
  rw [State.ownPackage, paPackage, hd, beq_iff_eq, Nat.mod_eq_of_lt hp]
theorem lsPA_block (s : State) (c off : Nat) : lsPA s c off / 8 * 8 = lsPA s c (off / 8 * 8) := by
  rw [lsPA, lsPA]
  omega

theorem windowVA_add {c off k : Nat} : windowVA c off + word k = windowVA c (off + k) := by
  rw [windowVA, windowVA, word, word, word, ← Nat.add_assoc, BitVec.ofNat_add (lswin + c * 2 ^ 18 + off)]

/-- No copy of the package is under way. -/
def NoCopies (s : State) : Prop := ∀ k ∈ s.cores, ∀ e ∈ k.2.tongs, e.2.busy = false ∧ e.2.held = none

theorem lsStalled_false {s : State} (h : NoCopies s) {c : Nat} (hc : (s.core c).pw.paused = false) (off n : Nat) :
    s.lsStalled c off n = false := by
  have hany : (s.cores.any fun q => q.2.tongs.any fun e => some (q.1, e.1) != none && s.chanCovers e.2 (lsPA s c off) n) = false := by
    rw [List.any_eq_false]
    intro k hk
    rw [List.any_eq_true]
    rintro ⟨e, he, hcov⟩
    obtain ⟨hb, hh⟩ := h k hk e he
    simp [State.chanCovers, hb, hh] at hcov
  rw [State.lsStalled, State.lsStalledBut, State.clockStopped, hc, hany]
  rfl

theorem mem_of_get {α : Type} {d : α} (m : List (Nat × α)) (k : Nat) : get d m k = d ∨ (k, get d m k) ∈ m := by
  induction m with
  | nil => exact .inl rfl
  | cons e r ih =>
    rw [get, get?]
    by_cases hk : e.1 = k
    · rw [if_pos hk, ← hk]
      exact .inr List.mem_cons_self
    · rw [if_neg hk]
      exact ih.imp id fun h => List.mem_cons_of_mem _ h

theorem mem_put {α : Type} {m : List (Nat × α)} {k : Nat} {v : α} {e : Nat × α} (h : e ∈ put m k v) : e = (k, v) ∨ e ∈ m :=
  (mem_place h).imp_right fun h => (mem_del h).1

theorem NoCopies.modCore {s : State} (h : NoCopies s) (c : Nat) {f : Core → Core} (hf : ∀ k, (f k).tongs = k.tongs) :
    NoCopies (s.modCore c f) := by
  intro k hk e he
  obtain rfl | hk := mem_put hk
  · rw [hf] at he
    obtain hd | hm := mem_of_get (d := ({} : Core)) s.cores c
    · rw [State.core, hd] at he
      cases he
    · exact h _ hm e he
  · exact h k hk e he

/-- t is s but for the blocks of core c's local store that its instruction cache holds. -/
structure Fetching (s : State) (c : Nat) (t : State) : Prop where
  rest : t = { s with cores := t.cores }
  core : t.core c = { s.core c with icache := (t.core c).icache }
  other : ∀ k, k ≠ c → t.core k = s.core k
  copies : NoCopies t
  blocks : ∀ b ∈ (t.core c).icache, b.bytes = s.bytes (lsPA s c (b.va - lswin - c * 2 ^ 18)) 8

theorem Fetching.modCore {s t : State} {c : Nat} (h : Fetching s c t) {bs : List CodeBlock}
    (hb : ∀ b ∈ bs, b.bytes = s.bytes (lsPA s c (b.va - lswin - c * 2 ^ 18)) 8) :
    Fetching s c (t.modCore c fun k => { k with icache := bs }) where
  rest := congrArg (fun v : State => { v with cores := (t.modCore c fun k => { k with icache := bs }).cores }) h.rest
  core := by
    rw [State.core_modCore_same]
    exact congrArg (fun k : Core => { k with icache := bs }) h.core
  other k hk := by rw [State.core_modCore_ne _ _ hk, h.other k hk]
  copies := h.copies.modCore c fun _ => rfl
  blocks := by
    rw [State.core_modCore_same]
    exact hb

/-- What a fetch from core c's local store takes for granted: no copy, no line in error, and the banks that the code lies in open. -/
structure CodeHere (s : State) (c h priv lo hi : Nat) : Prop where
  exists_ : coreExists c = true
  package : s.hub.package < 64
  view : (s.core c).view = false
  runs : (s.core c).pw.paused = false
  latent : s.latent = []
  hi_le : hi ≤ 2 ^ 18
  open_ : ∀ j, lo ≤ j → j < hi → (s.core c).lsRefused j h priv false = false

theorem codeBlock_here {s t : State} {c h priv lo hi : Nat} (hs : CodeHere s c h priv lo hi) (ht : Fetching s c t) {o : Nat}
    (hlo : lo ≤ o) (hhi : o + 8 ≤ hi) (rc : Clock) :
    t.codeBlock h priv rc (lsPA s c o) = .ok (some (s.bytes (lsPA s c o) 8)) := by
  have hlt := coreExists_lt hs.exists_
  have hi18 := hs.hi_le
  have hhub : t.hub = s.hub := by rw [ht.rest]
  have hclass := paClass_lsPA s c o
  have hoff : paOff (lsPA s c o) = o := by rw [paOff_lsPA, Nat.mod_eq_of_lt (by omega)]
  have hown : t.ownPackage (lsPA s c o) = true := by
    rw [State.ownPackage, hhub]
    exact ownPackage_lsPA hlt hs.package o
  have hhr : paHubReg (lsPA s c o) = false := by rw [paHubReg, hclass]; rfl
  have hopen : (t.core c).lsRefusedN o 8 h priv false = false := by
    rw [Core.lsRefusedN, List.any_eq_false]
    intro i hi'
    have hi8 := List.mem_range.mp hi'
    rw [ht.core]
    exact Bool.eq_false_iff.mp (hs.open_ (o + i) (by omega) (by omega))
  have hst : t.lsStalled c o 8 = false := lsStalled_false ht.copies (by rw [ht.core]; exact hs.runs) o 8
  have hview : (t.core c).view = false := by rw [ht.core]; exact hs.view
  have hpa : lsPA t c o = lsPA s c o := by rw [lsPA, lsPA, hhub]
  have hbytes : t.bytes (lsPA s c o) 8 = s.bytes (lsPA s c o) 8 :=
    State.bytes_congr (by rw [ht.rest]) hhub (by rw [ht.rest]) _ _
  rw [State.codeBlock, hhr, if_neg Bool.false_ne_true, if_pos ⟨hclass, hown⟩, paCore_lsPA s hlt, hoff, hopen, hst,
    if_neg Bool.false_ne_true, if_neg Bool.false_ne_true, State.coreBytes, hview, if_neg Bool.false_ne_true, State.readLS, hpa, hbytes]

/-- The cache serves a block of code. -/
theorem fetchBlock_cached {s t : State} {c n h priv pa : Nat} {rc : Clock} {va : Word} {a : Attr} {b : CodeBlock}
    (htr : s.translate c n h priv rc va .exec = (.ok pa a, t))
    (hb : ((t.core c).icache.find? fun b => b.hearth == h && b.asid == (t.hearth h).aspace.bits 63 56 && b.va == va.toNat / 8 * 8) = some b) :
    s.fetchBlock c n h priv rc va = (.ok (some b.bytes), t) := by
  unfold State.fetchBlock
  simp only [htr, hb]

/-- A block that is not cached is read at its place, and cached. -/
theorem fetchBlock_read {s t : State} {c n h priv pa : Nat} {rc : Clock} {va : Word} {a : Attr} {bs : List Byte}
    (htr : s.translate c n h priv rc va .exec = (.ok pa a, t)) (hl : t.latent = [])
    (hb : ((t.core c).icache.find? fun b => b.hearth == h && b.asid == (t.hearth h).aspace.bits 63 56 && b.va == va.toNat / 8 * 8) = none)
    (hc : t.codeBlock h priv rc (pa / 8 * 8) = .ok (some bs)) :
    s.fetchBlock c n h priv rc va = (.ok (some bs), t.modCore c fun k =>
      { k with icache := (⟨h, (t.hearth h).aspace.bits 63 56, va.toNat / 8 * 8, bs⟩ :: k.icache).take 4096 }) := by
  have hlines (r : Record) (pa k : Nat) : t.readLines r pa k = t := if_pos (by rw [hl]; rfl)
  unfold State.fetchBlock
  simp only [htr, hb, hlines, hc]

/-- A block of the local store is fetched, from its place or from the cache. -/
theorem fetchBlock_here {s t : State} {c h priv lo hi : Nat} (hs : CodeHere s c h priv lo hi) (ht : Fetching s c t) {o : Nat}
    (hlo : lo ≤ o / 8 * 8) (hhi : o / 8 * 8 + 8 ≤ hi) (slot : Nat) (rc : Clock) :
    ∃ u, t.fetchBlock c slot h priv rc (windowVA c o) = (.ok (some (s.bytes (lsPA s c (o / 8 * 8)) 8)), u) ∧ Fetching s c u := by
  have hlt := coreExists_lt hs.exists_
  have hi18 := hs.hi_le
  have ho : o < 2 ^ 18 := by omega
  have hpa : lsPA t c o / 8 * 8 = lsPA s c (o / 8 * 8) := by rw [lsPA_block, lsPA, lsPA, ht.rest]
  have hva : (windowVA c o).toNat / 8 * 8 - lswin - c * 2 ^ 18 = o / 8 * 8 := by
    rw [windowVA_toNat hlt ho, lswin]
    omega
  have htr := t.translate_windowVA hs.exists_ ho c slot h priv rc .exec
  have hcode := codeBlock_here hs ht hlo hhi rc
  generalize windowVA c o = va at htr hva ⊢
  cases hb : (t.core c).icache.find? fun b => b.hearth == h && b.asid == (t.hearth h).aspace.bits 63 56 && b.va == va.toNat / 8 * 8 with
  | some b =>
    have hblk : b.va = va.toNat / 8 * 8 := by
      have := List.find?_some hb
      simp only [Bool.and_eq_true, beq_iff_eq] at this
      exact this.2
    refine ⟨t, ?_, ht⟩
    rw [fetchBlock_cached htr hb, ht.blocks b (List.mem_of_find?_eq_some hb), hblk, hva]
  | none =>
    refine ⟨_, fetchBlock_read htr (by rw [ht.rest]; exact hs.latent) hb (by rw [hpa]; exact hcode), ht.modCore fun b hb => ?_⟩
    obtain rfl | hb := List.mem_cons.mp (List.mem_of_mem_take hb)
    · dsimp only
      rw [hva]
    · exact ht.blocks b hb

/-! ## Parcels in bytes -/

theorem getD_bytes (s : State) {i n : Nat} (h : i < n) (pa : Nat) : (s.bytes pa n).getD i 0 = s.byte (pa + i) := by
  induction n generalizing pa i with
  | zero => omega
  | succ n ih =>
    cases i with
    | zero => rfl
    | succ i => rw [State.bytes, List.getD_cons_succ, ih (by omega), Nat.add_assoc, Nat.add_comm 1]

theorem blockParcel_bytes (s : State) (c : Nat) {o : Nat} (ho : o < 2 ^ 18) (he : o % 2 = 0) :
    blockParcel (s.bytes (lsPA s c (o / 8 * 8)) 8) (o % 8) = BitVec.ofNat 16 (s.memNat (lsPA s c o) 2) := by
  have hadd (i : Nat) (hi : i < 8) : lsPA s c (o / 8 * 8) + i = lsPA s c (o / 8 * 8 + i) := (lsPA_add s c (by omega)).symm
  have h0 : o / 8 * 8 + o % 8 = o := by omega
  have h1 : o / 8 * 8 + (o % 8 + 1) = o + 1 := by omega
  rw [blockParcel, getD_bytes s (by omega), getD_bytes s (by omega), hadd _ (by omega), hadd _ (by omega), h0, h1, lsPA_add s c (by omega),
    State.memNat, State.bytes, State.bytes, State.bytes, leNat, leNat, leNat]
  generalize s.byte (lsPA s c o) = x
  generalize s.byte (lsPA s c o + 1) = y
  apply BitVec.eq_of_toNat_eq
  rw [BitVec.toNat_append, BitVec.toNat_ofNat, Nat.shiftLeft_eq, Nat.or_comm, ← Nat.shiftLeft_eq, Nat.or_comm,
    ← Nat.shiftLeft_add_eq_or_of_lt x.isLt, Nat.shiftLeft_eq]
  omega

/-! ## The fetch -/

/-- A fetch goes on parcel by parcel while the decoder asks for more. -/
theorem fetchFrom_here {s t : State} {c slot h priv off n m k : Nat} {rc : Clock} {i : Instr}
    (hs : CodeHere s c h priv (off / 8 * 8) ((off + 2 * n + 7) / 8 * 8)) (he : off % 2 = 0)
    (hdec : decode ((List.range n).map (Claims.parcelAt s c off)) = .ok i n) (hkn : k < n) (hm : n ≤ k + m) (ht : Fetching s c t) :
    ∃ u, t.fetchFrom c slot h priv rc (windowVA c off) ((List.range k).map (Claims.parcelAt s c off)) m = (.instr i n, u) ∧
      Fetching s c u := by
  induction m generalizing k t with
  | zero => omega
  | succ m ih =>
    have hi18 := hs.hi_le
    obtain ⟨u, hu, hfu⟩ := fetchBlock_here hs ht (o := off + 2 * k) (by omega) (by omega) slot rc
    have hpar : blockParcel (s.bytes (lsPA s c ((off + 2 * k) / 8 * 8)) 8) ((off + 2 * k) % 8) = Claims.parcelAt s c off k :=
      blockParcel_bytes s c (by omega) (by omega)
    have hmod : (windowVA c (off + 2 * k)).toNat % 8 = (off + 2 * k) % 8 := by
      rw [windowVA_toNat (coreExists_lt hs.exists_) (by omega)]
      omega
    have hsucc : (List.range k).map (Claims.parcelAt s c off) ++ [Claims.parcelAt s c off k] =
        (List.range (k + 1)).map (Claims.parcelAt s c off) := by
      rw [List.range_succ, List.map_append, List.map_singleton]
    rw [State.fetchFrom, List.length_map, List.length_range, windowVA_add]
    dsimp only
    rw [hu]
    dsimp only
    rw [hmod, hpar, hsucc]
    obtain hlast | hmore : k + 1 = n ∨ k + 1 < n := by omega
    · rw [hlast, hdec]
      exact ⟨u, rfl, hfu⟩
    · have htake : (List.range (k + 1)).map (Claims.parcelAt s c off) =
          ((List.range n).map (Claims.parcelAt s c off)).take (k + 1) := by
        rw [← List.map_take, List.take_range, Nat.min_eq_left (by omega)]
      have := (decode_take hdec).2 (k + 1) hmore
      rw [← htake] at this
      rw [this]
      exact ih hmore (by omega) hfu

/-- A fetch at an even offset of a core's own local store gives the instruction that the parcels there decode to (R203, R214). -/
theorem fetch_here {s : State} {c slot h priv off n : Nat} {rc : Clock} {i : Instr}
    (hs : CodeHere s c h priv (off / 8 * 8) ((off + 2 * n + 7) / 8 * 8)) (hic : (s.core c).icache = []) (hcopies : NoCopies s)
    (he : off % 2 = 0) (hdec : decode ((List.range n).map (Claims.parcelAt s c off)) = .ok i n) :
    ∃ u, s.fetch c slot h priv rc (windowVA c off) = (.instr i n, u) ∧ Fetching s c u := by
  have hn : 0 < n := by
    rcases n with _ | n
    · cases hdec
    · exact Nat.succ_pos n
  have h5 := (decode_take hdec).1
  have hstart : Fetching s c s := ⟨rfl, rfl, fun _ _ => rfl, hcopies, by simp [hic]⟩
  exact fetchFrom_here hs he hdec hn (by omega) hstart

end Sys2Proof.Machine

/-! # Writes of memory and records

A write at a unit answers the watches on its words (R148, R286): of the cores it changes threads that wait, the read caches of those that it
wakes and the gating of a core that it rouses (`Written`). A record is such writes, and a line for the housekeeping processor. -/

namespace Sys2Proof.Machine

/-- t is s after writes of memory. -/
structure Written (s t : State) : Prop where
  rest : t = { s with mem := t.mem, poison := t.poison, homes := t.homes, cores := t.cores, crossings := t.crossings }
  core (c : Nat) : ∃ slots rcache wake gated,
    t.core c = { s.core c with slots := slots, rcache := rcache, pw := { (s.core c).pw with wake := wake, gated := gated } }
  slot (c n : Nat) : (s.slot c n).wait = .none → t.slot c n = s.slot c n

namespace Written

variable {s t u : State}

theorem refl (s : State) : Written s s := ⟨rfl, fun _ => ⟨_, _, _, _, rfl⟩, fun _ _ _ => rfl⟩

theorem trans (h : Written s t) (h' : Written t u) : Written s u where
  rest := by rw [h'.rest, h.rest]
  core c := by
    obtain ⟨_, _, _, _, ht⟩ := h.core c
    obtain ⟨sl, rc, w, g, hu⟩ := h'.core c
    exact ⟨sl, rc, w, g, by rw [hu, ht]⟩
  slot c n hw := by
    have ht := h.slot c n hw
    rw [h'.slot c n (by rw [ht, hw]), ht]

theorem hub (h : Written s t) : t.hub = s.hub := by rw [h.rest]

end Written

/-- A change of memory, poison, homes and crossings alone. -/
theorem written_of_cores {s t : State} (h : t = { s with mem := t.mem, poison := t.poison, homes := t.homes, crossings := t.crossings }) :
    Written s t := by
  have hc : t.cores = s.cores := by rw [h]
  have hcore (c : Nat) : t.core c = s.core c := by rw [State.core, hc, State.core]
  refine ⟨?_, fun c => ⟨_, _, _, _, hcore c⟩, fun c n _ => by rw [State.slot, hcore, State.slot]⟩
  rw [hc]
  exact h

/-- A change of a core that leaves its threads alone, but for its read cache and the gating. -/
theorem written_modCore (s : State) (c : Nat) {f : Core → Core}
    (hf : ∀ k, ∃ rcache wake gated, f k = { k with rcache := rcache, pw := { k.pw with wake := wake, gated := gated } }) :
    Written s (s.modCore c f) where
  rest := rfl
  core d := by
    by_cases hd : d = c
    · obtain ⟨rc, w, g, hk⟩ := hf (s.core c)
      exact ⟨_, rc, w, g, by rw [hd, State.core_modCore_same, hk]⟩
    · exact ⟨_, _, _, _, State.core_modCore_ne s f hd⟩
  slot d n _ := by
    by_cases hd : d = c
    · obtain ⟨rc, w, g, hk⟩ := hf (s.core c)
      rw [State.slot, State.slot, hd, State.core_modCore_same, hk]
      rfl
    · rw [State.slot, State.core_modCore_ne s f hd, State.slot]

/-- A change of a thread that waits. -/
theorem written_modSlot {s : State} {c n : Nat} (h : (s.slot c n).wait ≠ .none) (f : Slot → Slot) : Written s (s.modSlot c n f) where
  rest := rfl
  core d := by
    by_cases hd : d = c
    · exact ⟨_, _, _, _, by rw [hd]; exact State.core_modCore_same ..⟩
    · exact ⟨_, _, _, _, State.core_modCore_ne s _ hd⟩
  slot d m hw := State.slot_setSlot_ne s _ (by
    by_contra hne
    obtain ⟨rfl, rfl⟩ := not_or.mp hne |>.imp not_not.mp not_not.mp
    exact h hw)

theorem written_setBytes (s : State) (pa : Nat) (bs : List Byte) : Written s (s.setBytes pa bs) := by
  induction bs generalizing s pa with
  | nil => exact .refl s
  | cons b r ih => exact (written_of_cores (t := s.setByte pa b) rfl).trans (ih ..)

theorem written_acquireAt {s : State} {c n : Nat} (h : (s.slot c n).wait ≠ .none) (v : Clock) : Written s (s.acquireAt c n v) :=
  (written_modSlot h _).trans (written_modCore _ _ fun _ => ⟨_, _, _, rfl⟩)

theorem slot_modCore (s : State) (c : Nat) {f : Core → Core} (hf : ∀ k, (f k).slots = k.slots) (d n : Nat) :
    (s.modCore c f).slot d n = s.slot d n := by
  by_cases hd : d = c
  · rw [State.slot, State.slot, hd, State.core_modCore_same]
    exact congrArg (get {} · n) (hf _)
  · rw [State.slot, State.core_modCore_ne s f hd, State.slot]

theorem slot_acquireAt (s : State) (c n : Nat) (v : Clock) :
    (s.acquireAt c n v).slot c n = { s.slot c n with rc := (s.slot c n).rc.max v } :=
  (slot_modCore _ c (f := fun k => { k with rcache := [] }) (fun _ => rfl) c n).trans (State.slot_modSlot_same ..)

theorem wait_acquireAt (s : State) (c n : Nat) (v : Clock) : ((s.acquireAt c n v).slot c n).wait = (s.slot c n).wait := by
  rw [slot_acquireAt]

theorem written_fireWatch (s : State) (v : Clock) (w : Watch) : Written s (s.fireWatch v w) := by
  unfold State.fireWatch
  split
  next hw =>
    refine (written_acquireAt (by rw [hw]; exact Wait.noConfusion) v).trans (written_modSlot ?_ _)
    rw [wait_acquireAt, hw]
    exact Wait.noConfusion
  next hw => exact written_modSlot (by rw [hw]; exact Wait.noConfusion) _
  · exact .refl s

theorem written_wakeHome (s : State) (pa n : Nat) : Written s (s.wakeHome pa n) := by
  unfold State.wakeHome
  dsimp only
  split
  · exact .refl s
  · refine foldl_keeps (P := Written s) (written_of_cores rfl) fun t w ht => ?_
    split
    · exact ht.trans (written_of_cores rfl)
    · exact ht.trans (written_fireWatch ..)

theorem written_unpoison (s : State) (pa n : Nat) : Written s (s.unpoison pa n) := by
  unfold State.unpoison
  split
  · exact .refl s
  · exact written_of_cores rfl

/-- A write wakes the threads of a core that watch what it touches. -/
theorem written_wakeWatch (s : State) (c pa n : Nat) :
    Written s (s.modCore c fun k => { k.roused with slots := k.slots.map fun p => (p.1, wakeWatch p.2 pa n) }) where
  rest := rfl
  core d := by
    by_cases hd : d = c
    · have hr (k : Core) : ∃ w g, k.roused = { k with pw := { k.pw with wake := w, gated := g } } := by
        rw [Core.roused]
        split
        · exact ⟨_, _, rfl⟩
        · exact ⟨_, _, rfl⟩
      obtain ⟨w, g, hk⟩ := hr (s.core c)
      exact ⟨_, _, w, g, by rw [hd, State.core_modCore_same, hk]⟩
    · exact ⟨_, _, _, _, State.core_modCore_ne s _ hd⟩
  slot d m hw := by
    by_cases hd : d = c
    · subst hd
      rw [State.slot, State.core_modCore_same, Core.slot]
      dsimp only
      rw [get_map_snd (wakeWatch · pa n) (wakeWatch_of_not_waiting rfl _ _)]
      exact wakeWatch_of_not_waiting hw pa n
    · rw [State.slot, State.core_modCore_ne s _ hd, State.slot]

theorem written_writeLS (s : State) (c off : Nat) (bs : List Byte) : Written s (s.writeLS c off bs) :=
  (written_setBytes ..).trans (written_wakeWatch ..)

theorem written_writeAt (s : State) (pa : Nat) (bs : List Byte) : Written s (s.writeAt pa bs) := by
  unfold State.writeAt
  split
  · exact written_writeLS ..
  · split
    · exact ((written_setBytes ..).trans (written_unpoison ..)).trans (written_wakeHome ..)
    · exact written_setBytes ..

theorem written_hwWrite (s : State) (h : Nat) (va : Word) (bs : List Byte) : OnOk (Written s) (s.hwWrite h va bs) := by
  unfold State.hwWrite
  split
  · exact .error
  · split
    · exact .error
    · exact .ok (written_writeAt ..)

theorem written_hwWords (s : State) (h : Nat) (va : Word) (l : List Word) : OnOk (Written s) (s.hwWords h va l) := by
  induction l generalizing s va with
  | nil => exact .ok (.refl s)
  | cons w r ih =>
    unfold State.hwWords
    split
    · exact .error
    next t ht =>
      have h1 := (written_hwWrite s h va (leBytes 8 w.toNat)).of_eq ht
      cases hr : t.hwWords h (va + 8) r with
      | error e => exact .error
      | ok u => exact .ok (h1.trans ((ih t (va + 8)).of_eq hr))

/-- The words of a record are written through `hwWords`, which stands as an opaque function: the kernel would evaluate the accesses. -/
theorem written_ringWrite (s : State) (r : Record) : OnSnd (OnSnd (Written s)) (s.ringWrite r) := by
  have step {u v : State} {h : Nat} {va : Word} {l : List Word} (hu : Written s u) (e : u.hwWords h va l = .ok v) : Written s v :=
    hu.trans ((written_hwWords u h va l).of_eq e)
  conv => arg 2; fun; fun; delta State.ringWrite
  obtain ⟨W, hW⟩ := exists_eq' (a' := State.hwWords)
  rw [hW] at step ⊢
  extract_lets ring
  split
  · exact .refl s
  extract_lets wr rd lost seq at_
  split
  · exact .refl s
  next u hu =>
    have h1 := step (.refl s) hu
    split
    · split
      · exact h1
      next v hv => exact step h1 hv
    · split
      · exact h1
      next v hv =>
        have h2 := step h1 hv
        split
        · exact h2
        next w hw => exact step h2 hw

/-- The line that a record leaves for the housekeeping processor (R451). -/
def State.logged (s : State) (r : Record) : State :=
  { s with hub := { s.hub with ras := s.hub.ras ++ [[r.hdr, r.task, r.pc, r.addr]] } }

/-- A record of class 2 is written, and the housekeeping processor told; one of a mismatch counts at its core (R451, R463). -/
theorem report_class2 (s : State) {r : Record} (h : r.cls = 2) : ∃ u, Written s u ∧ s.report r =
    if r.cause = 0x82 ∧ r.core ≠ 0x1FFF then (u.logged r).modCore r.core fun k => { k with softErrs := k.softErrs + 1 } else u.logged r := by
  have hw := written_ringWrite s r
  conv => enter [1, u, 2, 1]; fun; fun; delta State.report
  generalize s.ringWrite r = p at hw ⊢
  obtain ⟨a, seq, u⟩ := p
  refine ⟨u, hw, ?_⟩
  simp only [h, true_or, if_true, true_and]
  rfl

end Sys2Proof.Machine

/-! # An opportunity

An opportunity goes to the first slot that can issue (`issueFrom_skips`), which runs the instruction that its fetch gives
(`trySlot_instr`). -/

namespace Sys2Proof.Machine

/-! ## The record of a mismatch -/

/-- The cause that HDR names (R448). -/
theorem bits_hdr (r : Record) : r.hdr.bits 63 56 = r.cause % 256 := by
  have hown : (if r.owner.isSome = true then 2 ^ 52 else 0) ≤ 2 ^ 52 := by split <;> omega
  rw [Record.hdr, Word.bits, natBits, word, BitVec.toNat_ofNat, Nat.shiftRight_eq_div_pow]
  omega

/-- The thread, the reports and the mark of a mismatch are in t as they are in s. -/
structure SameRun (c n : Nat) (s t : State) : Prop where
  hub : t.hub = s.hub
  mismatch : (t.core c).mismatch = (s.core c).mismatch
  slot : t.slot c n = s.slot c n

theorem SameRun.trans {c n : Nat} {s t u : State} (h : SameRun c n s t) (h' : SameRun c n t u) : SameRun c n s u :=
  ⟨h'.hub.trans h.hub, h'.mismatch.trans h.mismatch, h'.slot.trans h.slot⟩

theorem sameRun_modCore (s : State) (c n : Nat) {f : Core → Core} (hs : ∀ k, (f k).slots = k.slots) (hm : ∀ k, (f k).mismatch = k.mismatch) :
    SameRun c n s (s.modCore c f) where
  hub := rfl
  mismatch := by rw [State.core_modCore_same, hm]
  slot := slot_modCore s c hs c n

/-- Below the limit of soft errors the count at most starts anew (R464). -/
theorem softLimit_below {s : State} {c : Nat} (h : (s.core c).softErrs < (s.core c).softBase + 64) (n : Nat) :
    SameRun c n s (s.softLimit c n) := by
  have hsame : SameRun c n s { s with freeCtr := s.freeCtr + 1 } := ⟨rfl, rfl, rfl⟩
  have hcore : ({ s with freeCtr := s.freeCtr + 1 } : State).core c = s.core c := rfl
  rw [State.softLimit, State.free]
  dsimp only
  generalize ({ s with freeCtr := s.freeCtr + 1 } : State) = u at hsame hcore ⊢
  split
  · rw [State.core_modCore_same, if_neg (by dsimp only; omega)]
    exact hsame.trans (sameRun_modCore u c n (f := fun k => { k with softBase := k.softErrs - 1 }) (fun _ => rfl) fun _ => rfl)
  · rw [hcore, if_neg (Nat.not_le.mpr h)]
    exact hsame

theorem hub_dropMisses (s : State) (c n : Nat) : (s.dropMisses c n).hub = s.hub := by
  rw [State.dropMisses]
  split
  · rfl
  · rfl
theorem cores_dropMisses (s : State) (c n : Nat) : (s.dropMisses c n).cores = s.cores := by
  rw [State.dropMisses]
  split
  · rfl
  · rfl
theorem core_dropMisses (s : State) (c n d : Nat) : (s.dropMisses c n).core d = s.core d := by
  rw [State.core, cores_dropMisses, State.core]
theorem slot_dropMisses (s : State) (c n d m : Nat) : (s.dropMisses c n).slot d m = s.slot d m := by
  rw [State.slot, core_dropMisses, State.slot]

/-- What the end of an opportunity that slot n has used leaves: its PC and the reports. -/
theorem issued_tick (s : State) (c n pipe : Nat) :
    ((s.issued c n pipe).tick c).hub = s.hub ∧ (((s.issued c n pipe).tick c).core c).mismatch = (s.core c).mismatch ∧
      (((s.issued c n pipe).tick c).slot c n).pc = (s.slot c n).pc := by
  have hpow : SameRun c n s (s.modPower c fun p => { p with issued := p.issued + 1 }) :=
    sameRun_modCore s c n (fun _ => rfl) fun _ => rfl
  have hptr (k : State) : SameRun c n k (k.modCore c fun k => if pipe = 0 then { k with ptrS := n, issuedS := some n } else { k with ptrV := n }) :=
    sameRun_modCore k c n (fun _ => by split <;> rfl) fun _ => by split <;> rfl
  have htick (k : State) : SameRun c n k (k.tick c) :=
    sameRun_modCore k c n (fun _ => by split <;> rfl) fun _ => by split <;> rfl
  rw [(htick _).hub, (htick _).mismatch, (htick _).slot, State.issued, State.tookTurn]
  generalize (s.modPower c fun p => { p with issued := p.issued + 1 }) = u at hpow ⊢
  have hu := hptr u
  generalize (u.modCore c fun k => if pipe = 0 then { k with ptrS := n, issuedS := some n } else { k with ptrV := n }) = v at hu ⊢
  rw [State.slot_modSlot_same]
  refine ⟨hu.hub.trans hpow.hub, ?_, ?_⟩
  · rw [← hpow.mismatch, ← hu.mismatch, State.modSlot, State.setSlot, State.core_modCore_same]
    rfl
  · rw [← hpow.slot, ← hu.slot]

/-! ## The slots before -/

theorem trySlot_not_live (ex : Instr → State → Out) {s : State} {c n : Nat} (h : s.slotLive c n = false) :
    ∃ mem, s.trySlot ex c n = .skip mem s := by
  rw [State.trySlot, h]
  exact ⟨_, rfl⟩

/-- An opportunity passes the slots that cannot issue (R31). -/
theorem issueFrom_skips (ex : Instr → State → Out) {s : State} {c : Nat} (l r : List Nat) (h : ∀ j ∈ l, s.slotLive c j = false) (mem : Bool) :
    ∃ mem', issueFrom ex c mem (l ++ r) s = issueFrom ex c mem' r s := by
  induction l generalizing mem with
  | nil => exact ⟨mem, rfl⟩
  | cons j l ih =>
    obtain ⟨m, hj⟩ := trySlot_not_live ex (h j List.mem_cons_self)
    obtain ⟨mem', hl⟩ := ih (fun k hk => h k (List.mem_cons_of_mem j hk)) (mem || m)
    refine ⟨mem', ?_⟩
    rw [List.cons_append, issueFrom, hj]
    exact hl

theorem issueFrom_used {ex : Instr → State → Out} {s t : State} {c n : Nat} (h : s.trySlot ex c n = .used (.next t)) (r : List Nat)
    (mem : Bool) : issueFrom ex c mem (n :: r) s = .next (t.tick c) := by
  rw [issueFrom, h]

/-- A live slot at whose boundary nothing is due tries the instruction that its fetch gives. -/
theorem trySlot_instr {ex : Instr → State → Out} {s s' : State} {c n m : Nat} {i : Instr} (hl : s.slotLive c n = true)
    (hb : s.boundary c n = none)
    (hf : (({ s with curCore := c, curSlot := n } : State).modSlot c n endWait).fetchSlot c n = (.instr i m, s')) :
    s.trySlot ex c n = s'.tryInstr ex c n i := by
  rw [State.trySlot, hl, hb]
  simp only [Bool.not_true, Bool.false_eq_true, if_false, Option.getD_none, hf]

/-- An instruction that the pipe, the scoreboard and the streams permit runs, and has ended when it does not wait. -/
theorem tryInstr_runs {ex : Instr → State → Out} {s t : State} {c n : Nat} {i : Instr} (hsb : scoreboardOk (s.slot c n) (useOf i (fldOf i)) = true)
    (hst : streamsOk (s.slot c n) (useOf i (fldOf i)) = true) (hp : (s.core c).takesPage (i.page != 0) = true)
    (hex : ex i (({ s with curCore := c, curSlot := n } : State).modCur fun t => { t with atVector := false }) = .next t)
    (hw : stillWaits (s.slot c n) (t.slot c n) = false) (hb : (s.slot c n).begun = false) :
    s.tryInstr ex c n i = .used (.next ((t.ended s c n).issued c n (s.core c).pipe)) := by
  rw [State.tryInstr]
  simp only [hsb, hst, hp, hex, hw, hb, Bool.not_true, Bool.false_eq_true, if_false]

/-- The end of an instruction that began in no earlier attempt drops its translations. -/
theorem ended_eq {s before : State} {c n : Nat} (h : ((s.checked before c n).slot c n).begun = false) :
    s.ended before c n = (s.checked before c n).dropMisses c n := by
  rw [State.ended, if_neg (by rw [slot_dropMisses, h]; exact Bool.false_ne_true)]

/-- A mismatch that the checker has found leaves a record, below the limit of soft errors no more (R463). -/
theorem checked_mismatch {s before : State} {c n : Nat} (hm : (before.core c).mismatch = true) (hv : (s.slot c n).atVector = false)
    (hw : (s.slot c n).wait = .none) (hl : (s.core c).softErrs + 1 < (s.core c).softBase + 64) :
    Claims.Recorded s (s.checked before c n) 0x82 ∧ ((s.checked before c n).core c).mismatch = false ∧
      (s.checked before c n).slot c n = s.slot c n := by
  generalize hr : { before.threadRecord c n 0x82 2 with addr := (before.slot c n).pc } = r
  have hchk : s.checked before c n = ((s.modCore c fun k => { k with mismatch := false }).report r).softLimit c n := by
    rw [State.checked, if_neg (by rw [hm, hv]; exact Bool.false_ne_true), hr]
  have hcls : r.cls = 2 := by rw [← hr]; rfl
  have hcause : r.cause = 0x82 := by rw [← hr]; rfl
  have hcore : r.core = c := by rw [← hr]; rfl
  obtain ⟨u, hu, hrep⟩ := report_class2 (s.modCore c fun k => { k with mismatch := false }) hcls
  obtain ⟨sl, rc, wk, g, hk⟩ := hu.core c
  rw [State.core_modCore_same] at hk
  have hslot : u.slot c n = s.slot c n := by
    rw [hu.slot c n (by rw [slot_modCore]; exacts [hw, fun _ => rfl]), slot_modCore]
    exact fun _ => rfl
  have hsr : SameRun c n (u.logged r) (((s.modCore c fun k => { k with mismatch := false }).report r).softLimit c n) := by
    rw [hrep, hcore]
    by_cases hc : r.cause = 0x82 ∧ c ≠ 0x1FFF
    · rw [if_pos hc]
      refine (sameRun_modCore (u.logged r) c n (f := fun k => { k with softErrs := k.softErrs + 1 }) (fun _ => rfl) fun _ => rfl).trans
        (softLimit_below ?_ n)
      rw [State.core_modCore_same]
      change (u.core c).softErrs + 1 < (u.core c).softBase + 64
      rw [hk]
      exact hl
    · rw [if_neg hc]
      refine softLimit_below ?_ n
      change (u.core c).softErrs < (u.core c).softBase + 64
      rw [hk]
      exact Nat.lt_of_succ_lt hl
  rw [hchk]
  refine ⟨⟨[r.hdr, r.task, r.pc, r.addr], ?_, ?_⟩, ?_, ?_⟩
  · rw [hsr.hub, State.logged, hu.hub]
    rfl
  · exact (bits_hdr r).trans (by rw [hcause])
  · rw [hsr.mismatch]
    change (u.core c).mismatch = false
    rw [hk]
  · rw [hsr.slot]
    exact hslot

theorem checked_match {before : State} {c : Nat} (hm : (before.core c).mismatch = false) (s : State) (n : Nat) :
    s.checked before c n = s := by
  rw [State.checked, if_pos (by rw [hm]; rfl)]

/-- A core that runs and may fetch offers its opportunity to its slots in the order of the pipe. -/
theorem issue_runs {ex : Instr → State → Out} {s : State} {c : Nat} (hr : s.coreRuns c = true) (hf : s.fetchEnabled c = true)
    (hu : (s.core c).upset = false) : issue ex c s = issueFrom ex c false (s.core c).order s := by
  have hsc : s.scrubbed c = s := by rw [State.scrubbed, if_neg (by rw [hu]; exact Bool.false_ne_true)]
  rw [issue, if_pos hr, hsc, hr, hf]
  rfl

/-- Settles O58: the first slot that can issue is offered the opportunity and runs what its fetch gives; the fetch reads parcels until
the decoder has an instruction. -/
theorem stepRunsTheInstruction : Obligations.StepRunsTheInstruction := by
  refine ⟨?_, ?_, ?_⟩
  · intro s i rest h
    rw [step, h]
  · intro s s' t n m l r i
    dsimp only
    intro hag hruns hfe hord hskip hlive hbd hfetch hpage hsb hst hex hwait hup hbeg hbeg'
    have htry := (trySlot_instr hlive hbd hfetch).trans (tryInstr_runs hsb hst hpage hex hwait hbeg)
    obtain ⟨mem, hiss⟩ := issueFrom_skips exec l (n :: r) hskip false
    have hstep : step s = .next (((t.ended s' s.focus n).issued s.focus n (s'.core s.focus).pipe).tick s.focus) := by
      rw [step, hag]
      dsimp only
      rw [issue_runs hruns hfe hup, hord, hiss, issueFrom_used htry]
    refine ⟨fun hm => ?_, fun hm hv hw hl => ?_⟩
    · have hchk := checked_match hm t n
      rw [hstep, ended_eq (by rw [hchk]; exact hbeg'), hchk]
    · obtain ⟨⟨rec, hras, hcause⟩, hmis, hslot⟩ := checked_mismatch hm hv hw hl
      rw [ended_eq (by rw [hslot]; exact hbeg')] at hstep
      obtain ⟨hhub, hmm, hpc⟩ := issued_tick ((t.checked s' s.focus n).dropMisses s.focus n) s.focus n (s'.core s.focus).pipe
      refine ⟨_, hstep, ⟨rec, ?_, hcause⟩, ?_, ?_⟩
      · rw [hhub, hub_dropMisses, hras]
      · rw [hmm, core_dropMisses, hmis]
      · rw [hpc, slot_dropMisses, hslot]
  · intro s c slot h priv off n rc i hc hp hview hic hpause hlat he hcop hhi hopen hdec
    have hs : CodeHere s c h priv (off / 8 * 8) ((off + 2 * n + 7) / 8 * 8) := ⟨hc, hp, hview, hpause, hlat, by omega, hopen⟩
    obtain ⟨u, hu, hfu⟩ := fetch_here (slot := slot) (rc := rc) hs hic hcop he hdec
    exact ⟨u, hu, by rw [hfu.rest], hfu.core, hfu.other⟩

end Sys2Proof.Machine

/-! # Tiles

The commands of the anvil pass `anvGate` and are queued by `State.queueCmd`, which touches the queue and the thread (`queues_of_exec`);
TCFG and GSET write a tile and a gain of the core. -/

namespace Sys2Proof.Machine

/-! ## What the end of an instruction does -/

/-- Two changes of the executing slot that agree on it are one. -/
theorem modCur_congr {s : State} {g g' : Slot → Slot} (h : g s.cur = g' s.cur) : s.modCur g = s.modCur g' :=
  congrArg (s.setSlot s.curCore s.curSlot) h

theorem finish_eq_modCur (s : State) (f : Fld) :
    s.finish f = s.modCur fun t => { t with pc := s.npc f, wait := Claims.wtWait f s } := by
  unfold State.finish Claims.wtWait
  dsimp only
  split
  next h => rw [State.waitFor, State.advance, State.modCur_modCur]; simp [h]
  next h => rw [State.waitFor, State.advance, State.modCur_modCur]; simp [h]
  next h => rw [State.waitFor, State.advance, State.modCur_modCur]; simp [h]
  next h1 h2 h3 =>
    rw [if_neg h1, if_neg h2, if_neg h3]
    exact modCur_congr rfl

theorem cur_modCurK (s : State) {g : Core → Core} (h : (g s.curK).slots = s.curK.slots) : (s.modCurK g).cur = s.cur :=
  State.cur_modCore h

/-! ## Queueing a command -/

/-- The state in which a command has been queued and counted. -/
def State.queued (s : State) (tile : Nat) (op : AnvOp) (bind : Option BarId) : State :=
  ((s.modCurK fun q => { q with anvq := q.anvq ++ [Claims.cmdOf s tile op bind] }).modCur fun t =>
    { t with tiles := t.tiles + 1 }).clearIdv

theorem cur_queued (s : State) (tile : Nat) (op : AnvOp) (bind : Option BarId) :
    (s.queued tile op bind).cur = { s.cur with tiles := s.cur.tiles + 1, st := { s.cur.st with idv := false } } := by
  rw [State.queued, State.clearIdv, State.cur_modCur, State.cur_modCur, cur_modCurK s rfl]

theorem curK_queued (s : State) (tile : Nat) (op : AnvOp) (bind : Option BarId) : ∃ t,
    (s.queued tile op bind).curK = ({ s.curK with anvq := s.curK.anvq ++ [Claims.cmdOf s tile op bind] } : Core).setSlot s.curSlot t := by
  rw [State.queued, State.clearIdv, State.modCur_modCur, State.curK_modCur, State.curK_modCurK]
  exact ⟨_, rfl⟩

/-- The queue takes a command behind those that it holds, the thread counts it and goes on (R343). -/
theorem queueCmd_eq (s : State) (f : Fld) (tile : Nat) (op : AnvOp) (bind : Option BarId) :
    s.queueCmd f tile op bind = (s.queued tile op bind).finish f := rfl

theorem cur_queueCmd (s : State) (f : Fld) (tile : Nat) (op : AnvOp) (bind : Option BarId) :
    (s.queueCmd f tile op bind).cur =
      { s.cur with tiles := s.cur.tiles + 1, st := { s.cur.st with idv := false }, pc := s.npc f, wait := Claims.wtWait f s } := by
  have h := cur_queued s tile op bind
  have hwait : Claims.wtWait f (s.queued tile op bind) = Claims.wtWait f s := by rw [Claims.wtWait, h, Claims.wtWait]
  have hnpc : (s.queued tile op bind).npc f = s.npc f := by rw [State.npc, h, State.npc]
  rw [queueCmd_eq, State.cur_finish, hwait, hnpc, h]

theorem curK_queueCmd (s : State) (f : Fld) (tile : Nat) (op : AnvOp) (bind : Option BarId) : ∃ t u,
    (s.queueCmd f tile op bind).curK =
      (({ s.curK with anvq := s.curK.anvq ++ [Claims.cmdOf s tile op bind] } : Core).setSlot s.curSlot t).setSlot s.curSlot u := by
  obtain ⟨t, h⟩ := curK_queued s tile op bind
  rw [queueCmd_eq, finish_eq_modCur, State.curK_modCur, h]
  exact ⟨t, _, rfl⟩

theorem queues_of_exec {i : Instr} {s : State} {f : Fld} {tile : Nat} {op : AnvOp} {bind : Option BarId}
    (h : exec i s = .next (s.queueCmd f tile op bind)) : Claims.Queues i s f (Claims.cmdOf s tile op bind) := by
  obtain ⟨t, u, hk⟩ := curK_queueCmd s f tile op bind
  refine ⟨_, h, ?_, ?_, ?_, ?_, cur_queueCmd ..⟩
  · rw [hk]
    rfl
  · rw [hk]
    rfl
  · rw [hk]
    rfl
  · rw [State.queueCmd, State.finish_mem]
    rfl

/-! ## The gate of the commands -/

section

variable {i : Instr} {s : State} (chk : State → Option TrapRec) (k : State → State)

theorem anvGate_next (hr : Ready i s) (hq : s.curK.anvq.length < 8) (hu : s.unstamped s.curCore s.curSlot = false) (hc : chk s = none) :
    anvGate i chk k s = .next (k s) := by
  have hfull : s.anvFull = false := decide_eq_false (Nat.not_le.mpr hq)
  rw [anvGate, gate_next _ _ hr]
  · rw [hfull, hu]
    rfl
  · rw [hfull]
    exact hc

/-- Without a permit a command waits, whatever its operands (R33). -/
theorem anvGate_waits (hr : Ready i s) (hq : 8 ≤ s.curK.anvq.length) : anvGate i chk k s = .next (s.waitFor .retry) := by
  have hfull : s.anvFull = true := decide_eq_true hq
  rw [anvGate, gate_next _ _ hr]
  · rw [hfull]
    rfl
  · rw [hfull]
    rfl

end

theorem tileChk_none {s : State} {n : Nat} (h : Claims.OwnTile s n) : tileChk s n = none := by
  obtain ⟨h4, hc, hs, hr⟩ := h
  have hbad : (!(s.curK.tile n).claimed || (s.curK.tile n).slot != s.curSlot || (s.curK.tile n).rows == 0) = false := by
    rw [hc, hs]
    simpa using hr
  rw [tileChk, decide_eq_false (Nat.not_le.mpr h4), hbad]
  rfl

theorem lastBad_none (f : Fld) {bad : Bool} (s : State) (h : bad = false) : lastBad f bad s = none := limits_one_none s h _

theorem alignTrap_none {a : Word} {n : Nat} (h : a.toNat % n = 0) : alignTrap a n = none := by
  rw [alignTrap, h]
  rfl

/-! ## The commands -/

theorem tileEtOk_eq (exact load : Bool) (et : Nat) : tileEtOk exact load et = true ↔ et ∈ Claims.tileTypes exact load := by
  cases exact with
  | false =>
    cases load with
    | false => simp [tileEtOk, Claims.tileTypes]; omega
    | true => simp [tileEtOk, Claims.tileTypes]; omega
  | true =>
    cases load with
    | false => simp [tileEtOk, Claims.tileTypes]
    | true => simp [tileEtOk, Claims.tileTypes, or_assoc]

theorem tileAlign_none {f : Fld} {s : State}
    (h : ∀ r < (s.curK.tile f.d).rows, (s.w f.s + BitVec.ofNat 64 r * s.w f.t).toNat % etBytes f.et = 0) : tileAlign f s = none := by
  have hnone : ((List.range (s.curK.tile f.d).rows).map fun r => ({ l := 0, va := s.w f.s + word r * s.w f.t } : Elem)).filter
      (fun e => e.va.toNat % etBytes f.et != 0) = [] := by
    rw [List.filter_eq_nil_iff]
    intro e he
    obtain ⟨r, hr, rfl⟩ := List.mem_map.mp he
    simpa [word] using h r (List.mem_range.mp hr)
  rw [tileAlign, elemAlign, hnone]
  rfl

/-- TLD and TST pass their checks (R347): the order fits the direction, the type the tile, and every row is aligned. -/
theorem tileMemChk_none {f : Fld} {s : State} {load : Bool} (hord : f.ord = 0 ∨ f.ord = if load then 1 else 2) (hsc : f.ord = 0 ↔ f.sc = 0)
    (hbase : f.base = 0) (hm : f.m = 0) (hmm : f.mm = 0) (het : f.et ∈ Claims.tileTypes (s.curK.tile f.d).exact load)
    (ht : Claims.OwnTile s f.d)
    (hal : ∀ r < (s.curK.tile f.d).rows, (s.w f.s + BitVec.ofNat 64 r * s.w f.t).toNat % etBytes f.et = 0) :
    tileMemChk f load s = none := by
  have hordOk : (if load then 2 ≤ f.ord || loadOrdBad f else f.ord == 3 || storeOrdBad f) = false := by
    cases load with
    | false =>
      obtain h | h := hord
      · simp [storeOrdBad, h, hsc.mp h]
      · have : f.sc ≠ 0 := fun h0 => absurd (hsc.mpr h0) (by rw [h]; decide)
        simp [storeOrdBad, h, this]
    | true =>
      obtain h | h := hord
      · simp [loadOrdBad, h, hsc.mp h]
      · have : f.sc ≠ 0 := fun h0 => absurd (hsc.mpr h0) (by rw [h]; decide)
        simp [loadOrdBad, h, this]
  have hlim (l : List (Bool × Nat)) (h : ∀ p ∈ l, p.1 = false) : limits s l = none := limits_eq_none h
  rw [tileMemChk, hlim, tileChk_none ht, tileAlign_none hal]
  · rfl
  · simp only [List.forall_mem_cons, List.not_mem_nil, false_implies, implies_true, and_true]
    exact ⟨hordOk, by simp [hm, hmm, (tileEtOk_eq ..).mpr het], by simp [hbase]⟩

section

variable {x : XA} {s : State} (hq : s.curK.anvq.length < 8) (hu : s.unstamped s.curCore s.curSlot = false)
include hq hu

theorem queues_tzero (hr : Ready (.tzero x) s) (hb : (x.fld 2).base < 2) (hs : (x.fld 2).s = 0) (ht : (x.fld 2).t = 0)
    (ho : Claims.OwnTile s (x.fld 2).d) :
    Claims.Queues (.tzero x) s (x.fld 2) (Claims.cmdOf s (x.fld 2).d (.zero ((x.fld 2).base == 1)) none) := by
  refine queues_of_exec ?_
  change execTzero x s = _
  rw [execTzero, anvGate_next _ _ hr hq hu]
  rw [lastBad_none _ s (by simp [hs, ht, hb]), tileChk_none ho]
  rfl

theorem queues_tld (hr : Ready (.tld x) s) (hchk : tileMemChk (x.fld 2) true s = none) :
    Claims.Queues (.tld x) s (x.fld 2) (Claims.cmdOf s (x.fld 2).d
      (.load (s.w (x.fld 2).s) (s.w (x.fld 2).t) (x.fld 2).et (x.fld 2).sat ((x.fld 2).ord == 1)) none) := by
  refine queues_of_exec ?_
  change execTld x s = _
  rw [execTld, anvGate_next _ _ hr hq hu hchk]

theorem queues_tst (hr : Ready (.tst x) s) (hchk : tileMemChk (x.fld 2) false s = none) :
    Claims.Queues (.tst x) s (x.fld 2) (Claims.cmdOf s (x.fld 2).d
      (.store (s.w (x.fld 2).s) (s.w (x.fld 2).t) (x.fld 2).et (x.fld 2).sat ((x.fld 2).ord == 2) (x.fld 2).sc (x.fld 2).cp) none) := by
  refine queues_of_exec ?_
  change execTst x s = _
  rw [execTst, anvGate_next _ _ hr hq hu hchk]

theorem queues_tsave (hr : Ready (.tsave x) s) (hp : s.cur.st.priv = 0) (hb : (x.fld 2).base < 2) (ht : (x.fld 2).t = 0)
    (ha : (s.w (x.fld 2).s).toNat % 64 = 0) (ho : Claims.OwnTile s (x.fld 2).d) :
    Claims.Queues (.tsave x) s (x.fld 2) (Claims.cmdOf s (x.fld 2).d
      (.save (s.w (x.fld 2).s) ((x.fld 2).base == 1) (get 0 s.curK.gains (x.fld 2).d)) none) := by
  refine queues_of_exec ?_
  change execTsave x s = _
  rw [execTsave, anvGate_next _ _ hr hq hu]
  dsimp only
  rw [lastBad_none _ s (by simp [ht, hb]), if_pos hp, tileChk_none ho, alignTrap_none ha]
  rfl

theorem queues_trest (hr : Ready (.trest x) s) (hp : s.cur.st.priv = 0) (hb : (x.fld 2).base = 0) (ht : (x.fld 2).t = 0)
    (ha : (s.w (x.fld 2).s).toNat % 64 = 0) (h4 : (x.fld 2).d < 4)
    (ho : (s.curK.tile (x.fld 2).d).claimed = true → (s.curK.tile (x.fld 2).d).slot = s.curSlot) :
    Claims.Queues (.trest x) s (x.fld 2) (Claims.cmdOf s (x.fld 2).d (.restore (s.w (x.fld 2).s) s.curSlot) none) := by
  have hslot : restSlot (x.fld 2) s = s.curSlot := by rw [restSlot, if_pos hp]
  have hown : ((s.curK.tile (x.fld 2).d).claimed && (s.curK.tile (x.fld 2).d).slot != s.curSlot) = false := by
    cases hc : (s.curK.tile (x.fld 2).d).claimed with
    | false => rfl
    | true => simp [ho hc]
  refine queues_of_exec ?_
  change execTrest x s = _
  rw [execTrest, anvGate_next _ _ hr hq hu]
  · rw [hslot]
  · dsimp only
    rw [lastBad_none _ s (by simp [ht, hb]), hslot, hown, alignTrap_none ha, hp, decide_eq_false (Nat.not_le.mpr h4)]
    rfl

/-! ## MMA and MMAX -/

omit hq hu in
/-- A record in the own local store is read whole (R325). -/
theorem withRecord_own {a : Word} {off n : Nat} (h : Claims.RecordAt s a off n) (h0 : 0 < n) (go : Nat → List Word → State → State) :
    s.withRecord a n go = go off (Claims.recWords s off n) s := by
  obtain ⟨ha, hc, hp, hv, hlen, href, hbusy⟩ := h
  have ho : off < 2 ^ 18 := by omega
  have hwords : ((List.range n).map fun i => word (leNat (s.coreBytes s.curCore s.curSlot (off + 8 * i) 8))) = Claims.recWords s off n := by
    refine List.map_congr_left fun i _ => ?_
    rw [State.coreBytes, show (s.core s.curCore).view = false from hv]
    rfl
  rw [State.withRecord, ha, State.withPlace_windowVA hc ho, State.place_lsPA hc hp ho]
  dsimp only
  rw [href, hbusy, hwords]
  rfl

omit hq hu in
/-- A legal descriptor is not refused (R348, R349, R351). -/
theorem descBad_none {exact : Bool} {d : List Word} {sw : Swage} (h : Claims.DescOk exact d sw) (a : Word) : descBad exact d sw a = none := by
  obtain ⟨h1, h2, h5, h6, h7, hA, hB, hswz, hbind⟩ := h
  have hok {e : Nat} (he : Claims.mmaType exact e) : (if exact then e == 7 || (3 ≤ e && e ≤ 5) else 1 ≤ e && e ≤ 5) = true := by
    cases exact with
    | false => simpa [Claims.mmaType] using he
    | true => simpa [Claims.mmaType] using he
  have hk : (descSwz d && descA d == 5) = false ∧
      (descSwz d && (d.getD 2 0 != 0 || descK d != (sw.kern.bits 2 0 + 1) * (sw.kern.bits 5 3 + 1) * sw.dims.bits 31 16)) = false := by
    by_cases hs : (d.getD 4 0).bits 39 39 = 1
    · obtain ⟨h5', h20, hk⟩ := hswz hs
      exact ⟨Bool.and_eq_false_iff.mpr (.inr (beq_eq_false_iff_ne.mpr h5')), by rw [h20, descK, hk]; simp⟩
    · rw [show descSwz d = false from decide_eq_false hs]
      exact ⟨rfl, rfl⟩
  have hb : ((d.getD 4 0).bits 31 31 == 1 && ((d.getD 4 0).bits 30 28 < 2 || 5 < (d.getD 4 0).bits 30 28 ||
      barCount ((d.getD 4 0).bits 30 28) ≤ (d.getD 4 0).bits 27 22)) = false := by
    by_cases hs : (d.getD 4 0).bits 31 31 = 1
    · obtain ⟨hl, hu, hi⟩ := hbind hs
      rw [← barCount_eq hu] at hi
      rw [decide_eq_false (Nat.not_lt.mpr hl), decide_eq_false (Nat.not_lt.mpr hu), decide_eq_false (Nat.not_le.mpr hi)]
      exact Bool.and_false _
    · rw [beq_eq_false_iff_ne.mpr hs]
      rfl
  have hres : ((d.getD 4 0).bits 38 32 != 0 || (d.getD 4 0).bits 21 0 != 0 || d.getD 5 0 != 0 || d.getD 6 0 != 0 || d.getD 7 0 != 0) = false := by
    rw [h1, h2, h5, h6, h7]
    rfl
  unfold descBad
  dsimp only [Swage.geometry]
  rw [hres, hk.2, hb, hok (e := descA d) hA, hok (e := descB d) hB, hk.1]
  rfl

omit hq hu in
/-- The barrier of a legal descriptor's binding (R57). -/
theorem descBind_eq {exact : Bool} {d : List Word} {sw : Swage} (h : Claims.DescOk exact d sw) :
    s.descBind s.curCore d = Claims.descBinding s d := by
  obtain ⟨-, -, -, -, -, -, -, -, hbind⟩ := h
  rw [State.descBind, Claims.descBinding]
  by_cases hs : (d.getD 4 0).bits 31 31 = 1
  · obtain ⟨hl, hu, -⟩ := hbind hs
    rw [if_pos hs, if_pos hs]
    exact congrArg some (barOn_eq s hl hu _)
  · rw [if_neg hs, if_neg hs]

theorem queues_mma {i : Instr} {f : Fld} {exact : Bool} {off : Nat} (hex : exec i s = mmaInstr i f exact s) (hr : Ready i s)
    (hrec : Claims.RecordAt s (s.w f.s) off 8) (ha : (s.w f.s).toNat % 64 = 0) (hb : f.base = 0) (ho : Claims.OwnTile s f.d)
    (ht : if exact then f.t = 0 else f.t < 4) (he : (s.curK.tile f.d).exact = exact)
    (hd : Claims.DescOk exact (Claims.recWords s off 8) s.curK.swage) :
    Claims.Queues i s f (Claims.cmdOf s f.d
      (.mma (Claims.recWords s off 8) (get 0 s.curK.gains f.t) s.curK.swage exact) (Claims.descBinding s (Claims.recWords s off 8))) := by
  have hfld : (f.base != 0 || (exact && f.t != 0)) = false ∧ (!exact && decide (4 ≤ f.t)) = false := by
    cases exact with
    | false => exact ⟨by simp [hb], by simpa using ht⟩
    | true => exact ⟨by simpa [hb] using ht, rfl⟩
  refine queues_of_exec ?_
  rw [hex, mmaInstr, anvGate_next _ _ hr hq hu]
  · dsimp only
    rw [withRecord_own hrec (by decide), descBad_none hd, descBind_eq hd]
  · rw [lastBad_none _ s hfld.1, hfld.2, tileChk_none ho, he, alignTrap_none ha]
    simp

end

/-! ## TCFG and GSET -/

theorem tile_setTile_same (k : Core) (i : Nat) (t : Tile) : (k.setTile i t).tile i = t := by
  rw [Core.tile, Core.setTile]
  exact get_put_same ..
theorem tile_setTile_ne (k : Core) {i j : Nat} (t : Tile) (h : j ≠ i) : (k.setTile i t).tile j = k.tile j := by
  rw [Core.tile, Core.setTile, Core.tile]
  exact get_put_ne _ _ _ h

/-- t is s but for the executing thread, which is u, tile i, which is x, and the gain of tile i, which is g. -/
structure TileSet (s t : State) (i : Nat) (u : Slot) (x : Tile) (g : BitVec 32) : Prop where
  tile : t.curK.tile i = x
  gain : get 0 t.curK.gains i = g
  other (j : Nat) : j ≠ i → t.curK.tile j = s.curK.tile j ∧ get 0 t.curK.gains j = get 0 s.curK.gains j
  mem : t.mem = s.mem
  cur : t.cur = u

/-- A free tile is claimed with gain 1.0 (R340). -/
theorem tileSet_claim (s : State) (i : Nat) :
    TileSet s ((s.claimTile s.curCore s.curSlot i).modCurK fun k => { k with gains := put k.gains i 0x3F800000 }) i
      { s.cur with st := { s.cur.st with vclean := false } } { s.curK.tile i with claimed := true, slot := s.curSlot } 0x3F800000 := by
  have hclaim : s.claimTile s.curCore s.curSlot i =
      (s.modCurK fun k => k.setTile i { k.tile i with claimed := true, slot := s.curSlot }).modCur fun t =>
        { t with st := { t.st with vclean := false } } := rfl
  rw [hclaim]
  have hk := State.curK_modCur (s.modCurK fun k => k.setTile i { k.tile i with claimed := true, slot := s.curSlot }) fun t =>
    { t with st := { t.st with vclean := false } }
  rw [State.curK_modCurK] at hk
  refine ⟨?_, ?_, fun j hj => ⟨?_, ?_⟩, rfl, ?_⟩
  · rw [State.curK_modCurK, hk]
    exact tile_setTile_same ..
  · rw [State.curK_modCurK]
    exact get_put_same ..
  · rw [State.curK_modCurK, hk]
    exact tile_setTile_ne _ _ hj
  · rw [State.curK_modCurK, hk]
    exact get_put_ne _ _ _ hj
  · rw [cur_modCurK _ rfl, State.cur_modCur, cur_modCurK s rfl]

/-- A tile takes another configuration (R340). -/
theorem TileSet.shape {s t : State} {i : Nat} {u : Slot} {x : Tile} {g : BitVec 32} (h : TileSet s t i u x g) (y : Tile) :
    TileSet s (t.modCurK fun k => k.setTile i y) i u y g := by
  refine ⟨?_, ?_, fun j hj => ⟨?_, ?_⟩, h.mem, ?_⟩
  · rw [State.curK_modCurK]
    exact tile_setTile_same ..
  · rw [State.curK_modCurK]
    exact h.gain
  · rw [State.curK_modCurK, tile_setTile_ne _ _ hj]
    exact (h.other j hj).1
  · rw [State.curK_modCurK]
    exact (h.other j hj).2
  · rw [cur_modCurK t rfl]
    exact h.cur

theorem TileSet.advance {s t : State} {i : Nat} {u : Slot} {x : Tile} {g : BitVec 32} (h : TileSet s t i u x g) (f : Fld) :
    TileSet s (t.advance f) i { u with pc := u.pc + word (2 * f.len) } x g := by
  refine ⟨?_, ?_, fun j hj => ?_, h.mem, ?_⟩
  · rw [State.advance, State.curK_modCur]
    exact h.tile
  · rw [State.advance, State.curK_modCur]
    exact h.gain
  · rw [State.advance, State.curK_modCur]
    exact h.other j hj
  · rw [State.cur_advance, State.npc, h.cur]

section

variable {x : XA} {s : State}

/-- The operands of TCFG that R340 allows. -/
structure TileShape (f : Fld) (s : State) : Prop where
  base : f.base < 2
  unused : f.t = 0
  tile : f.d < 4
  high : (s.w f.s).bits 63 16 = 0
  rows_pos : 1 ≤ (s.w f.s).bits 15 8
  rows_le : (s.w f.s).bits 15 8 ≤ 64
  cols_pos : 1 ≤ (s.w f.s).bits 7 0
  cols_le : (s.w f.s).bits 7 0 ≤ 64
  exact_le : f.base = 1 → (s.w f.s).bits 15 8 * (s.w f.s).bits 7 0 ≤ 1024

/-- TCFG of a legal shape checks the tile alone (R340). -/
theorem tcfgChecks {f : Fld} (h : TileShape f s) (r : Option TrapRec) :
    firstTrap [lastBad f (2 ≤ f.base || f.t != 0) s, trapIf (4 ≤ f.d) 0x0D (word f.d), trapIf ((s.w f.s).bits 63 16 != 0) 0x0D (s.w f.s),
      trapIf ((s.w f.s).bits 15 8 == 0 || (s.w f.s).bits 7 0 == 0 || 64 < (s.w f.s).bits 15 8 || 64 < (s.w f.s).bits 7 0 ||
        (f.base == 1 && 1024 < (s.w f.s).bits 15 8 * (s.w f.s).bits 7 0)) 0x0D (s.w f.s), r] = firstTrap [r] := by
  obtain ⟨hb, ht, hd, hw, hr1, hr2, hc1, hc2, hx⟩ := h
  have hprod : (f.base == 1 && decide (1024 < (s.w f.s).bits 15 8 * (s.w f.s).bits 7 0)) = false := by
    by_cases h1 : f.base = 1
    · rw [decide_eq_false (Nat.not_lt.mpr (hx h1)), Bool.and_false]
    · rw [beq_eq_false_iff_ne.mpr h1, Bool.false_and]
  rw [lastBad_none f s (by simp [ht, hb]), decide_eq_false (Nat.not_le.mpr hd), hw, hprod, decide_eq_false (Nat.not_lt.mpr hr2),
    decide_eq_false (Nat.not_lt.mpr hc2), beq_eq_false_iff_ne.mpr (Nat.one_le_iff_ne_zero.mp hr1),
    beq_eq_false_iff_ne.mpr (Nat.one_le_iff_ne_zero.mp hc1)]
  rfl

/-- The tile as TCFG has claimed it. -/
def tileClaimed (s : State) (i : Nat) : State :=
  if (s.curK.tile i).claimed then s
  else (s.claimTile s.curCore s.curSlot i).modCurK fun k => { k with gains := put k.gains i 0x3F800000 }

theorem exec_tcfg (hr : Ready (.tcfg x) s) (h : TileShape (x.fld 2) s) (hst : (s.cluster (clusterOf s.curCore)).stopped = false)
    (hq : ∀ k ∈ s.curK.anvq, k.tile ≠ (x.fld 2).d)
    (ho : (s.curK.tile (x.fld 2).d).claimed = true → (s.curK.tile (x.fld 2).d).slot = s.curSlot) :
    exec (.tcfg x) s = .next (
      let f := x.fld 2
      let r := (s.w f.s).bits 15 8
      let q := (s.w f.s).bits 7 0
      let t := tileClaimed s f.d
      let o := t.curK.tile f.d
      (if o.rows = r ∧ o.cols = q ∧ o.exact = (f.base == 1) then t
        else t.modCurK fun k => k.setTile f.d { { o with rows := r, cols := q, exact := f.base == 1 }.zeroed with live := false }).advance f) := by
  have hbusy : (s.curK.anvq.any (·.tile == (x.fld 2).d)) = false := by
    rw [List.any_eq_false]
    exact fun k hk => by simpa using hq k hk
  have hown : ((s.curK.tile (x.fld 2).d).claimed && (s.curK.tile (x.fld 2).d).slot != s.curSlot) = false := by
    cases hc : (s.curK.tile (x.fld 2).d).claimed with
    | false => rfl
    | true => simp [ho hc]
  change execTcfg x s = _
  rw [execTcfg, gate_next _ _ hr]
  · dsimp only
    rw [if_neg (by rw [hbusy]; exact Bool.false_ne_true)]
    rfl
  · dsimp only
    rw [tcfgChecks h, hst, hbusy, Bool.not_false, Bool.true_and, hown]
    rfl

theorem exec_tcfg_stopped (hr : Ready (.tcfg x) s) (h : TileShape (x.fld 2) s) (hst : (s.cluster (clusterOf s.curCore)).stopped = true) :
    Traps (.tcfg x) s { cause := 0x11 } := by
  change execTcfg x s = _
  rw [execTcfg, gate_trap (r := { cause := 0x11 }) _ _ hr]
  dsimp only
  rw [tcfgChecks h, hst]
  rfl

theorem exec_tcfg_waits (hr : Ready (.tcfg x) s) (h : TileShape (x.fld 2) s) (hst : (s.cluster (clusterOf s.curCore)).stopped = false)
    (hq : ∃ k ∈ s.curK.anvq, k.tile = (x.fld 2).d) : exec (.tcfg x) s = .next (s.waitFor .retry) := by
  have hbusy : (s.curK.anvq.any (·.tile == (x.fld 2).d)) = true := by
    rw [List.any_eq_true]
    exact hq.imp fun k hk => ⟨hk.1, by simpa using hk.2⟩
  change execTcfg x s = _
  rw [execTcfg, gate_next _ _ hr]
  · dsimp only
    rw [if_pos hbusy]
  · dsimp only
    rw [tcfgChecks h, hst, hbusy]
    rfl

/-- A tile that a slot claims, claimed at once where it is free (R340). -/
theorem tileSet_claimed (s : State) (i : Nat) (ho : (s.curK.tile i).claimed = true → (s.curK.tile i).slot = s.curSlot) :
    TileSet s (tileClaimed s i) i { s.cur with st := { s.cur.st with vclean := (s.curK.tile i).claimed && s.cur.st.vclean } }
      { s.curK.tile i with claimed := true, slot := s.curSlot }
      (if (s.curK.tile i).claimed then get 0 s.curK.gains i else 0x3F800000) := by
  unfold tileClaimed
  cases hc : (s.curK.tile i).claimed with
  | false => exact tileSet_claim s i
  | true =>
    rw [if_pos rfl]
    exact ⟨congrArg₂ (fun c n => { s.curK.tile i with claimed := c, slot := n }) hc (ho hc), rfl, fun _ _ => ⟨rfl, rfl⟩, rfl, rfl⟩

/-- What TCFG makes of a free or own tile (R340). -/
theorem tileSet_tcfg (s : State) (f : Fld) (r q : Nat) (ho : (s.curK.tile f.d).claimed = true → (s.curK.tile f.d).slot = s.curSlot) :
    let o := s.curK.tile f.d
    let t := tileClaimed s f.d
    let y := t.curK.tile f.d
    TileSet s (if y.rows = r ∧ y.cols = q ∧ y.exact = (f.base == 1) then t
        else t.modCurK fun k => k.setTile f.d { { y with rows := r, cols := q, exact := f.base == 1 }.zeroed with live := false }) f.d
      { s.cur with st := { s.cur.st with vclean := o.claimed && s.cur.st.vclean } }
      (if o.rows = r ∧ o.cols = q ∧ o.exact = (f.base == 1) then { o with claimed := true, slot := s.curSlot }
        else { claimed := true, slot := s.curSlot, exact := f.base == 1, rows := r, cols := q,
               fp := if f.base = 1 then [] else List.replicate (r * q) 0, ex := if f.base = 1 then List.replicate (r * q) {} else [] })
      (if o.claimed then get 0 s.curK.gains f.d else 0x3F800000) := by
  have h := tileSet_claimed s f.d ho
  dsimp only
  rw [h.tile]
  dsimp only
  split
  · exact h
  · have hz := h.shape { ({ claimed := true, slot := s.curSlot, rows := r, cols := q, exact := f.base == 1 } : Tile).zeroed with live := false }
    simp only [Tile.zeroed, beq_iff_eq] at hz ⊢
    exact hz

theorem exec_gset (hr : Ready (.gset x) s) (hb : (x.fld 2).base = 0) (ht : (x.fld 2).t = 0) (ho : Claims.OwnTile s (x.fld 2).d) :
    exec (.gset x) s = .next ((s.modCurK fun k =>
      { k with gains := put k.gains (x.fld 2).d ((s.w (x.fld 2).s).setWidth 32) }).advance (x.fld 2)) := by
  change execGset x s = _
  rw [execGset, gate_next _ _ hr]
  rw [lastBad_none _ s (by simp [hb, ht]), tileChk_none ho]
  rfl

end

/-- Settles O38: the commands pass their gate and are queued; TCFG claims a tile, and shapes it anew where the shape differs. -/
theorem tileCommands : Obligations.TileCommands := by
  refine ⟨?_, ?_, ?_, ?_⟩
  · intro x s
    dsimp only
    intro hr hb ht hd hw hr1 hr2 hc1 hc2 hx
    have h : TileShape (x.fld 2) s := ⟨hb, ht, hd, hw, hr1, hr2, hc1, hc2, hx⟩
    refine ⟨exec_tcfg_stopped hr h, fun hq hst => exec_tcfg_waits hr h hst hq, fun hq ho hst => ?_⟩
    have hset := (tileSet_tcfg s (x.fld 2) ((s.w (x.fld 2).s).bits 15 8) ((s.w (x.fld 2).s).bits 7 0) ho).advance (x.fld 2)
    exact ⟨_, exec_tcfg hr h hst hq ho, hset.tile, hset.other, hset.gain, hset.mem, hset.cur⟩
  · intro x s hq hu
    dsimp only
    refine ⟨queues_tzero hq hu, ?_, ?_, ?_, queues_tsave hq hu, queues_trest hq hu⟩
    · intro hr hb hm hmm ho2 hsc het ho hal
      exact queues_tld hq hu hr (tileMemChk_none (by rw [if_pos rfl]; omega) hsc hb hm hmm het ho hal)
    · intro hr hb hm hmm hord hsc het ho hal
      exact queues_tst hq hu hr (tileMemChk_none (by simpa using hord) hsc hb hm hmm het ho hal)
    · intro off hrec ha hb ho
      exact ⟨fun hr ht he hd => queues_mma hq hu rfl hr hrec ha hb ho ht he hd,
        fun hr ht he hd => queues_mma hq hu rfl hr hrec ha hb ho ht he hd⟩
  · intro i hi x s hr hq
    simp only [List.mem_cons, List.not_mem_nil, or_false] at hi
    obtain rfl | rfl | rfl | rfl | rfl | rfl | rfl := hi
    · change execTzero x s = _
      exact anvGate_waits _ _ hr hq
    · change execTld x s = _
      exact anvGate_waits _ _ hr hq
    · change execTst x s = _
      exact anvGate_waits _ _ hr hq
    · change mmaInstr (.mma x) (x.fld 2) false s = _
      exact anvGate_waits _ _ hr hq
    · change mmaInstr (.mmax x) (x.fld 2) true s = _
      exact anvGate_waits _ _ hr hq
    · change execTsave x s = _
      exact anvGate_waits _ _ hr hq
    · change execTrest x s = _
      exact anvGate_waits _ _ hr hq
  · intro x s
    dsimp only
    intro hr hb ht ho
    refine ⟨_, exec_gset hr hb ht ho, ?_, fun i hi => ?_, ?_, ?_, ?_, rfl⟩
    · rw [State.advance, State.curK_modCur, State.curK_modCurK]
      exact get_put_same ..
    · rw [State.advance, State.curK_modCur, State.curK_modCurK]
      exact get_put_ne _ _ _ hi
    · rw [State.advance, State.curK_modCur, State.curK_modCurK]
      rfl
    · rw [State.advance, State.curK_modCur, State.curK_modCurK]
      rfl
    · rw [State.cur_advance, State.npc, cur_modCurK s rfl, State.npc]

end Sys2Proof.Machine

/-! # Core events: an experience add whose slot reaches into a local store (O48) -/
namespace Sys2Proof.Machine

/-- A branch add of one count to a slot at the last 4 bytes of a die's DRAM class: the bytes of its counts are the first ones of the
local store of core 0. Nothing in O48 asks for the alignment that R189 gives a slot. -/
def straddlingAdd : XAdd :=
  { id := 0, hearth := 0, idx := 0, pa := 2 ^ 46 - 4, core := 0, task := none, clear := false, kind := 1, c1 := 1, c2 := 0, k := 0,
    hist := 0, lead := none, frozen := false }

/-- The slot is that of a branch without counts, and the cell of its lowest count bit is stuck at 0 (R538). -/
def stuckSlot : State :=
  { xadds := [straddlingAdd], stuck := [(2 ^ 46 + 1, 0, false)], mem := [(2 ^ 46 - 4, 0x10#8)] }

theorem stuckSlot_memW : stuckSlot.memW straddlingAdd.pa = 0x10#64 := by decide

/-- The add is made, and the slot reads as before it. -/
theorem experienceAdd_stuckSlot :
    ∃ u : State, exec (.experienceAdd straddlingAdd.id) stuckSlot = .next u ∧ u.memW straddlingAdd.pa = 0x10#64 :=
  ⟨_, rfl, by decide⟩

/-- Refutes O48: the clause of EXPERIENCE_ADD lets the slot's 8 bytes begin in DRAM and end in a local store. A defective cell there
keeps the count from rising. -/
theorem not_coreEvents : ¬ Obligations.CoreEvents := by
  unfold Obligations.CoreEvents
  rintro ⟨-, -, hadd, -⟩
  have hw := stuckSlot_memW
  obtain ⟨t, ht, -, hcount, -⟩ := hadd stuckSlot straddlingAdd rfl rfl rfl rfl rfl ⟨rfl, rfl⟩ rfl rfl (by decide) rfl
    (by rw [hw]; decide) (by rw [hw]; decide) (by rw [hw]; decide) (by rw [hw]; decide)
  obtain ⟨u, hu, hsame⟩ := experienceAdd_stuckSlot
  obtain rfl : t = u := by simpa [ht] using hu
  rw [hsame, hw] at hcount
  exact absurd hcount (by decide)

end Sys2Proof.Machine

/-! # What a write of a bank or of DRAM leaves

The bytes of a bank lie in cells of their own, in a spare row too (`cell_lsPA_inj`), and those of DRAM in theirs. So a range that is
written reads back (`State.bytes_setBytes_of`), as does what an atomic leaves there (`amoFn_eq`). -/

namespace Sys2Proof.Machine

/-! ## Bytes and their cells -/

/-- Within a bank one row at most is spared (R536). -/
theorem row_eq_of_spareRow {b : BootBlock} {o p : Nat} (ho : spareRow b o = true) (hp : spareRow b p = true)
    (hb : o / 2 ^ 13 = p / 2 ^ 13) : o / 256 % 32 = p / 256 % 32 := by
  unfold spareRow at ho hp
  rw [← hb] at hp
  split at ho
  · exact absurd ho Bool.false_ne_true
  · next n hn =>
    rw [hn] at hp
    exact (of_decide_eq_true ho).symm.trans (of_decide_eq_true hp)

/-- Two bytes of one local store have two cells. -/
theorem cell_lsPA_inj {s : State} {c o p : Nat} (hc : c < 8192) (hpk : s.hub.package < 64) (ho : o < 2 ^ 18) (hp : p < 2 ^ 18)
    (h : s.cell (lsPA s c o) = s.cell (lsPA s c p)) : o = p := by
  have hlt (x : Nat) : lsPA s c x < 2 ^ 56 := by
    have hdie : c / 2048 < 4 := by omega
    rw [lsPA]
    omega
  have hne : lsPA s c o = lsPA s c p → o = p := fun h => by
    rw [lsPA, lsPA] at h
    omega
  have hlo := hlt o
  have hlp := hlt p
  simp only [State.cell, paClass_lsPA, ownPackage_lsPA hc hpk, paCore_lsPA s hc, paOff_lsPA, Nat.mod_eq_of_lt ho, Nat.mod_eq_of_lt hp,
    true_and, and_true] at h
  split at h
  · split at h
    next hso =>
      split at h
      next hsp =>
        have hbank : o / 2 ^ 13 = p / 2 ^ 13 := by omega
        have hrow := row_eq_of_spareRow hso hsp hbank
        omega
      next => omega
    next =>
      split at h
      next => omega
      next => exact hne h
  · exact hne h

/-- n bytes from a PA on lie in n cells, which are sound or no local store's. -/
structure Plain (s : State) (pa n : Nat) : Prop where
  inj : ∀ i j, i < j → j < n → s.cell (pa + i) ≠ s.cell (pa + j)
  sound : ∀ i < n, s.stuck = [] ∨ paClass (pa + i) ≠ 1

theorem Plain.setByte {s : State} {pa n : Nat} (h : Plain s pa (n + 1)) (b : Byte) : Plain (s.setByte pa b) (pa + 1) n where
  inj i j hi hj := by
    rw [State.cell_setByte, State.cell_setByte, Nat.add_assoc, Nat.add_comm 1, Nat.add_assoc, Nat.add_comm 1]
    exact h.inj _ _ (Nat.succ_lt_succ hi) (Nat.succ_lt_succ hj)
  sound i hi := by
    rw [State.setByte_stuck, Nat.add_assoc, Nat.add_comm 1]
    exact h.sound _ (Nat.succ_lt_succ hi)

theorem plain_lsPA {s : State} {c off n : Nat} (hc : c < 8192) (hp : s.hub.package < 64) (hn : off + n ≤ 2 ^ 18) (hs : s.stuck = []) :
    Plain s (lsPA s c off) n where
  inj i j hi hj h := by
    rw [← lsPA_add s c (by omega), ← lsPA_add s c (by omega)] at h
    have := cell_lsPA_inj hc hp (by omega) (by omega) h
    omega
  sound _ _ := .inl hs

theorem cell_of_dram (s : State) {pa : Nat} (h : paClass pa ≠ 1) : s.cell pa = pa := if_neg fun hc => h hc.1

theorem plain_dram {s : State} {pa n : Nat} (h : ∀ i < n, paClass (pa + i) = 0) : Plain s pa n where
  inj i j hi hj hc := by
    rw [cell_of_dram s (by rw [h i (by omega)]; decide), cell_of_dram s (by rw [h j hj]; decide)] at hc
    omega
  sound i hi := .inr (by rw [h i hi]; decide)

/-- Bytes in cells of their own read back as written. -/
theorem State.bytes_setBytes_of {s : State} {pa : Nat} {bs : List Byte} (h : Plain s pa bs.length) :
    (s.setBytes pa bs).bytes pa bs.length = bs := by
  induction bs generalizing s pa with
  | nil => rfl
  | cons b r ih =>
    have hb : ((s.setByte pa b).setBytes (pa + 1) r).byte pa = b := by
      have hne : ∀ i < r.length, s.cell pa ≠ (s.setByte pa b).cell (pa + 1 + i) := fun i hi => by
        rw [State.cell_setByte, Nat.add_assoc, Nat.add_comm 1]
        exact h.inj 0 (i + 1) (Nat.succ_pos _) (Nat.succ_lt_succ hi)
      have hs := State.byte_setByte_sound pa b (h.sound 0 (Nat.succ_pos _))
      rw [State.byte, State.cell_setByte] at hs
      rw [State.byte, State.cell_setBytes, State.cell_setByte, State.read_setBytes_ne _ hne, State.setBytes_stuck]
      exact hs
    rw [State.setBytes, List.length_cons, State.bytes, hb, ih (h.setByte b)]

theorem State.memNat_setBytes {s : State} {pa n v : Nat} (h : Plain s pa n) :
    (s.setBytes pa (leBytes n v)).memNat pa n = v % 2 ^ (8 * n) := by
  have hb : (s.setBytes pa (leBytes n v)).bytes pa n = leBytes n v := by
    have := State.bytes_setBytes_of (s := s) (pa := pa) (bs := leBytes n v) (by rwa [leBytes_length])
    rwa [leBytes_length] at this
  rw [State.memNat, hb, leNat_leBytes]

theorem leNat_lt (bs : List Byte) : leNat bs < 2 ^ (8 * bs.length) := by
  induction bs with
  | nil => exact Nat.one_pos
  | cons b r ih =>
    have hp : 2 ^ (8 * (r.length + 1)) = 256 * 2 ^ (8 * r.length) := by ring
    have hb := b.isLt
    rw [List.length_cons, leNat, hp]
    omega

@[simp] theorem State.bytes_length (s : State) (pa n : Nat) : (s.bytes pa n).length = n := by
  induction n generalizing pa with
  | zero => rfl
  | succ n ih => rw [State.bytes, List.length_cons, ih]

theorem State.memNat_lt (s : State) (pa n : Nat) : s.memNat pa n < 2 ^ (8 * n) := by
  have := leNat_lt (s.bytes pa n)
  rwa [State.bytes_length] at this

end Sys2Proof.Machine

namespace Sys2Proof.Machine

/-! ## What an AMO leaves -/

/-- The two formats of AMO's floating-point codes, for 4 and 8 bytes. -/
def IsAmoFmt (f : Fmt) (n : Nat) : Prop := (f = fp32 ∧ n = 4) ∨ (f = fp64 ∧ n = 8)

theorem isAmoFmt {n : Nat} (h : n = 4 ∨ n = 8) : IsAmoFmt (if n = 4 then fp32 else fp64) n := by
  rcases h with rfl | rfl
  · exact .inl ⟨rfl, rfl⟩
  · exact .inr ⟨rfl, rfl⟩

section
variable {f : Fmt} {n : Nat} (hf : IsAmoFmt f n)
include hf

theorem nan_lt : f.nan < 2 ^ (8 * n) := by
  rcases hf with ⟨rfl, rfl⟩ | ⟨rfl, rfl⟩ <;> decide

theorem top_le : f.top ≤ 2 ^ (8 * n - 1) - 1 := by
  rcases hf with ⟨rfl, rfl⟩ | ⟨rfl, rfl⟩ <;> decide

theorem signBit_le (neg : Bool) : f.signBit neg ≤ 2 ^ (8 * n - 1) := by
  rcases hf with ⟨rfl, rfl⟩ | ⟨rfl, rfl⟩ <;> cases neg <;> decide

theorem signed_code_lt {c : Nat} (h : c ≤ f.top) (neg : Bool) : f.signBit neg + c < 2 ^ (8 * n) := by
  have h1 := top_le hf
  have h2 := signBit_le hf neg
  rcases hf with ⟨rfl, rfl⟩ | ⟨rfl, rfl⟩
  · have : (2 : Nat) ^ (8 * 4) = 2 * 2 ^ (8 * 4 - 1) := rfl
    omega
  · have : (2 : Nat) ^ (8 * 8) = 2 * 2 ^ (8 * 8 - 1) := rfl
    omega

/-- A rounded result is a code of the format. -/
theorem round_lt (x : Num) : f.round 0 0 0 0 x < 2 ^ (8 * n) := by
  have hieee : f.ieee = true := by rcases hf with ⟨rfl, -⟩ | ⟨rfl, -⟩ <;> rfl
  have hcode {c : Nat} (h : c ≤ f.top) (neg : Bool) := signed_code_lt hf h neg
  cases x with
  | nan => exact nan_lt hf
  | inf neg =>
    simp only [Fmt.round, hieee]
    exact hcode le_rfl neg
  | fin neg m e =>
    simp only [Fmt.round, hieee, Fmt.overflow]
    split
    · exact hcode (Nat.zero_le _) neg
    · split
      · simpa using hcode le_rfl neg
      next h =>
        simpa using hcode (Nat.le_of_lt (Nat.not_le.mp h)) neg

theorem fmt_min_lt {a b : Nat} (ha : a < 2 ^ (8 * n)) (hb : b < 2 ^ (8 * n)) : f.min a b < 2 ^ (8 * n) := by
  have hn := nan_lt hf
  unfold Fmt.min
  dsimp only
  repeat' split
  all_goals assumption

theorem fmt_max_lt {a b : Nat} (ha : a < 2 ^ (8 * n)) (hb : b < 2 ^ (8 * n)) : f.max a b < 2 ^ (8 * n) := by
  have hn := nan_lt hf
  unfold Fmt.max
  dsimp only
  repeat' split
  all_goals assumption

end

theorem signed_eq_toInt {w v : Nat} (hw : 0 < w) (hv : v < 2 ^ w) : signed w v = (BitVec.ofNat w v).toInt := by
  have hp : 2 ^ w = 2 * 2 ^ (w - 1) := by
    rw [← pow_succ', Nat.sub_add_cancel hw]
  rw [signed, if_neg hw.ne', BitVec.toInt_eq_toNat_cond, BitVec.toNat_ofNat, Nat.mod_eq_of_lt hv]
  simp only [hp, Nat.mul_lt_mul_left (Nat.two_pos)]
  split
  · rfl
  · push_cast
    rw [← pow_succ', Nat.sub_add_cancel hw]

/-- What the unit of an AMO computes is what O15 and O47 name. -/
theorem amoFn_eq {op n m v : Nat} (hop : op ≤ 10) (hn : n = 4 ∨ n = 8) (hm : m < 2 ^ (8 * n)) :
    amoFn op n m v = Claims.amoNew op n m (v % 2 ^ (8 * n)) := by
  have hw : 0 < 8 * n := by omega
  have hv : v % 2 ^ (8 * n) < 2 ^ (8 * n) := Nat.mod_lt _ (Nat.two_pow_pos _)
  unfold amoFn Claims.amoNew
  simp only [Nat.mod_eq_of_lt hm, ← signed_eq_toInt hw hm, ← signed_eq_toInt hw hv]
  interval_cases op <;> rfl

theorem amoFn_lt {op n m v : Nat} (hop : op ≤ 10) (hn : n = 4 ∨ n = 8) : amoFn op n m v < 2 ^ (8 * n) := by
  have hf := isAmoFmt hn
  have hm : m % 2 ^ (8 * n) < 2 ^ (8 * n) := Nat.mod_lt _ (Nat.two_pow_pos _)
  have hv : v % 2 ^ (8 * n) < 2 ^ (8 * n) := Nat.mod_lt _ (Nat.two_pow_pos _)
  unfold amoFn
  interval_cases op
  · exact Nat.mod_lt _ (Nat.two_pow_pos _)
  · exact Nat.and_lt_two_pow _ hv
  · exact Nat.or_lt_two_pow hm hv
  · exact Nat.xor_lt_two_pow hm hv
  · simp only []
    split <;> assumption
  · simp only []
    split <;> assumption
  · exact lt_of_le_of_lt (Nat.min_le_left ..) hm
  · exact max_lt hm hv
  · exact round_lt hf _
  · exact fmt_min_lt hf hm hv
  · exact fmt_max_lt hf hm hv

end Sys2Proof.Machine

/-! # Requests at their units and their replies (O47)

A request that stands alone is the next at its bank, and nothing is posted before it. Its answer takes it out of flight and puts a reply
there (`answered_answer`); the bank's queues are all that serving it changes besides (`Queued`). -/

namespace Sys2Proof.Machine

/-! ## Requests that stand alone -/

theorem req_alone {s : State} {r : Req} (h : s.reqs = [r]) : s.req? r.id = some r := by
  simp [State.req?, h]

theorem answered_answer {s : State} {r : Req} (hr : s.reqs = [r]) (hp : s.replies = []) (v : Nat) (clk : Clock) :
    Claims.AnsweredWith (s.answer r v clk 0) r v :=
  ⟨by simp [State.answer, State.dropReq, hr], clk, by simp [State.answer, State.dropReq, hp]⟩

theorem answered_congr {s t : State} {r : Req} {v : Nat} (h : Claims.AnsweredWith s r v) (hr : t.reqs = s.reqs)
    (hp : t.replies = s.replies) : Claims.AnsweredWith t r v := by
  rw [Claims.AnsweredWith, hr, hp]
  exact h

/-! ## The queues of the DRAM banks -/

/-- t is s but for the queues of homes. -/
structure Queued (s t : State) : Prop where
  rest : t = { s with homes := t.homes }
  home (h : Nat) : ∃ q w l, t.home h = { s.home h with queue := q, waiting := w, lastSrc := l }

namespace Queued

variable {s t u : State}

theorem refl (s : State) : Queued s s := ⟨rfl, fun _ => ⟨_, _, _, rfl⟩⟩

theorem trans (h : Queued s t) (h' : Queued t u) : Queued s u where
  rest := by rw [h'.rest, h.rest]
  home a := by
    obtain ⟨_, _, _, ht⟩ := h.home a
    obtain ⟨q, w, l, hu⟩ := h'.home a
    exact ⟨q, w, l, by rw [hu, ht]⟩

theorem mem (h : Queued s t) : t.mem = s.mem := by rw [h.rest]
theorem reqs (h : Queued s t) : t.reqs = s.reqs := by rw [h.rest]
theorem replies (h : Queued s t) : t.replies = s.replies := by rw [h.rest]

theorem watches (h : Queued s t) (a : Nat) : (t.home a).watches = (s.home a).watches := by
  obtain ⟨_, _, _, ht⟩ := h.home a
  rw [ht]

theorem answered (h : Queued s t) {r : Req} {v : Nat} (ha : Claims.AnsweredWith s r v) : Claims.AnsweredWith t r v :=
  answered_congr ha h.reqs h.replies

end Queued

theorem State.home_modHome_ne (s : State) {h j : Nat} (f : Home → Home) (hj : j ≠ h) : (s.modHome h f).home j = s.home j := by
  simp [State.home, State.modHome, get_put_ne _ _ _ hj]

theorem queued_modHome (s : State) (h : Nat) {f : Home → Home}
    (hf : ∀ q, ∃ a b l, f q = { q with queue := a, waiting := b, lastSrc := l }) : Queued s (s.modHome h f) where
  rest := rfl
  home j := by
    by_cases hj : j = h
    · obtain ⟨a, b, l, hq⟩ := hf (s.home h)
      exact ⟨a, b, l, by rw [hj, State.home_modHome_same, hq]⟩
    · exact ⟨_, _, _, State.home_modHome_ne s f hj⟩

theorem queued_bankServed (s : State) (r : Req) : Queued s (s.bankServed r) := by
  unfold State.bankServed
  extract_lets hm gone t
  have ht : Queued s t := queued_modHome s _ fun _ => ⟨_, _, _, rfl⟩
  split
  · exact .refl s
  · split
    · exact ht
    · split
      · exact ht
      · exact ht.trans (queued_modHome t _ fun _ => ⟨_, _, _, rfl⟩)

/-- A request that stands alone is the next at its bank. -/
theorem bankTurn_alone {s : State} {r : Req} (h : s.reqs = [r]) : s.bankTurn r = (true, s) := by
  unfold State.bankTurn
  dsimp only
  split
  · rfl
  · split
    · rfl
    next i l hq =>
      have hi : i ∈ s.bankQueue (homeOf r.pa) r.bank := by rw [hq]; exact List.mem_cons_self ..
      obtain ⟨e, he, rfl⟩ := List.mem_map.mp hi
      have hs := (List.mem_filter.mp he).2
      have hid : e.2 = r.id := by
        by_contra hne
        simp [State.req?, h, Ne.symm hne] at hs
      exact if_pos hid

/-! ## Loads and watches at a home -/

theorem readLines_sound {s : State} (h : Claims.Sound s) (r : Record) (pa n : Nat) : s.readLines r pa n = s := by
  simp [State.readLines, h.2]

theorem sound_eq {s : State} (h : Claims.Sound s) : s.sound = true := by
  simp [State.sound, h.1, h.2]

theorem poisoned_sound {s : State} (h : Claims.Sound s) (pa n : Nat) : s.poisoned pa n = false := by
  simp [State.poisoned, sound_eq h]

theorem overlay_nil (bs : List Byte) : overlay [] bs = bs := by
  refine List.ext_getElem (by simp [overlay]) fun i h₁ h₂ => ?_
  simp [overlay, get, get?, h₂]

section
variable {s : State} {r : Req} (ha : Claims.Alone s r) (hh : Claims.HomeServes s r.rc r.pa)
include ha hh

theorem homeAccess_load {a : Bool} (hop : r.op = .load a) (hdet : r.det = false) (hfwd : r.fwd = []) :
    exec (.homeAccess r.id) s =
      .next ((s.answer r (s.memNat r.pa r.size) (s.appliedClock (homeOf r.pa)) 0).bankServed r) := by
  obtain ⟨hr, -, hhold, -⟩ := ha
  obtain ⟨hcls, hown, hs, hready⟩ := hh
  have hatb : s.atBank r = true := by simp [State.atBank, hcls, hown]
  have hload : s.unitLoad r = s.answer r (s.memNat r.pa r.size) (s.appliedClock (homeOf r.pa)) 0 := by
    simp [State.unitLoad, hcls, hown, hready, readLines_sound hs, State.poisonPast, sound_eq hs, hdet, hfwd, overlay_nil, State.memNat]
  change execHomeAccess r.id s = _
  simp [execHomeAccess, req_alone hr, hhold, hop, hcls, hatb, bankTurn_alone hr, hready, hload]

theorem homeAccess_watch {v npc : Word} (hop : r.op = .watch v npc) :
    exec (.homeAccess r.id) s = .next ((s.homeWatch r v).bankServed r) := by
  obtain ⟨hr, -, hhold, -⟩ := ha
  obtain ⟨hcls, hown, -, hready⟩ := hh
  have hatb : s.atBank r = true := by simp [State.atBank, hcls, hown]
  change execHomeAccess r.id s = _
  simp [execHomeAccess, req_alone hr, hhold, hop, hatb, bankTurn_alone hr, hready]

/-- A WATCH is answered where the word differs or the table is full, and kept otherwise. -/
theorem homeWatch_eq (v : Word) : s.homeWatch r v =
    if s.memW r.pa ≠ v ∨ 256 ≤ (s.home (homeOf r.pa)).watches.length then s.answer r 0 (s.appliedClock (homeOf r.pa)) 0
    else (s.dropReq r.id).modHome (homeOf r.pa) fun q =>
      { q with watches := q.watches ++ [{ pa := r.pa, core := r.core, slot := r.slot, task := r.task }] } := by
  obtain ⟨-, -, -, hslot⟩ := ha
  obtain ⟨-, -, hs, hready⟩ := hh
  have h16 : r.slot ≠ 16 := by omega
  simp [State.homeWatch, hready, readLines_sound hs, poisoned_sound hs, h16]

theorem homeAccess_loads {a : Bool} (hop : r.op = .load a) (hdet : r.det = false) (hfwd : r.fwd = []) :
    ∃ t : State, exec (.homeAccess r.id) s = .next t ∧ Claims.AnsweredWith t r (s.memNat r.pa r.size) ∧ t.mem = s.mem := by
  have hq := queued_bankServed (s.answer r (s.memNat r.pa r.size) (s.appliedClock (homeOf r.pa)) 0) r
  exact ⟨_, homeAccess_load ha hh hop hdet hfwd, hq.answered (answered_answer ha.1 ha.2.1 _ _), hq.mem⟩

theorem homeAccess_watches {v npc : Word} (hop : r.op = .watch v npc) :
    ∃ t : State, exec (.homeAccess r.id) s = .next t ∧ t.mem = s.mem ∧
      (s.memW r.pa ≠ v ∨ 256 ≤ (s.home (homeOf r.pa)).watches.length → Claims.AnsweredWith t r 0) ∧
      (s.memW r.pa = v → (s.home (homeOf r.pa)).watches.length < 256 → t.reqs = [] ∧ t.replies = [] ∧
        (t.home (homeOf r.pa)).watches =
          (s.home (homeOf r.pa)).watches ++ [{ pa := r.pa, core := r.core, slot := r.slot, task := r.task }]) := by
  have hq := queued_bankServed (s.homeWatch r v) r
  have hw := homeWatch_eq ha hh v
  refine ⟨_, homeAccess_watch ha hh hop, ?_, fun h => ?_, fun he hl => ?_⟩
  · rw [hq.mem, hw]
    split
    · rfl
    · rfl
  · rw [if_pos h] at hw
    rw [hw] at hq ⊢
    exact hq.answered (answered_answer ha.1 ha.2.1 _ _)
  · rw [if_neg (by simp [he, hl])] at hw
    rw [hq.reqs, hq.replies, hq.watches, hw]
    exact ⟨by simp [State.dropReq, ha.1], ha.2.1, by rw [State.home_modHome_same]; rfl⟩

end

end Sys2Proof.Machine

namespace Sys2Proof.Machine

/-! ## Stores, AMOs and PUTs at another core's bank -/

/-- t has the memory of s after bytes have been written at a PA. -/
structure Wrote (s t : State) (pa : Nat) (bs : List Byte) : Prop where
  mem : t.mem = (s.setBytes pa bs).mem
  hub : t.hub = s.hub
  stuck : t.stuck = s.stuck

namespace Wrote

variable {s t u : State} {pa : Nat} {bs : List Byte}

theorem congr (h : Wrote s t pa bs) (hm : u.mem = t.mem) (hh : u.hub = t.hub) (hs : u.stuck = t.stuck) : Wrote s u pa bs :=
  ⟨hm.trans h.mem, hh.trans h.hub, hs.trans h.stuck⟩

theorem bytes_eq (h : Wrote s t pa bs) (a n : Nat) : t.bytes a n = (s.setBytes pa bs).bytes a n :=
  State.bytes_congr h.mem (by rw [h.hub, State.setBytes_hub]) (by rw [h.stuck, State.setBytes_stuck]) a n

theorem bytes (h : Wrote s t pa bs) (hp : Plain s pa bs.length) : t.bytes pa bs.length = bs := by
  rw [h.bytes_eq, State.bytes_setBytes_of hp]

theorem memNat {n v : Nat} (h : Wrote s t pa (leBytes n v)) (hp : Plain s pa n) : t.memNat pa n = v % 2 ^ (8 * n) := by
  rw [State.memNat, h.bytes_eq, ← State.memNat, State.memNat_setBytes hp]

theorem memoryBut (h : Wrote s t pa bs) : Claims.MemoryBut s t pa bs.length := fun k hk => by
  rw [h.mem]
  exact State.read_setBytes_ne s hk

end Wrote

theorem lsPA_mod (s : State) (c off : Nat) : lsPA s c (off % 2 ^ 18) = lsPA s c off := by
  rw [lsPA, lsPA, Nat.mod_mod]

/-- A wake event of a request's target changes no memory and nothing in flight. -/
theorem reached_rest (s : State) (pa : Nat) : s.reached pa = { s with cores := (s.reached pa).cores } := by
  unfold State.reached
  dsimp only
  split
  · rfl
  · rfl

theorem wrote_reached {s t : State} {pa : Nat} {bs : List Byte} (h : Wrote s t pa bs) (p : Nat) : Wrote s (t.reached p) pa bs :=
  h.congr (by rw [reached_rest]) (by rw [reached_rest]) (by rw [reached_rest])

theorem answered_reached {s : State} {r : Req} {v : Nat} (h : Claims.AnsweredWith s r v) (p : Nat) :
    Claims.AnsweredWith (s.reached p) r v :=
  answered_congr h (by rw [reached_rest]) (by rw [reached_rest])

theorem ownPackage_congr {s t : State} (h : t.hub = s.hub) (pa : Nat) : t.ownPackage pa = s.ownPackage pa := by
  rw [State.ownPackage, h, State.ownPackage]

theorem farDone_own {s : State} {pa : Nat} (h : s.ownPackage pa = true) : s.farDone pa = s := if_pos h

/-- Where no thread of a core waits for a counter, testing the waiters changes nothing. -/
theorem testMail_idle {s : State} {c : Nat} (h : ∀ n < 16, ∀ i m npc, (s.slot c n).wait ≠ .mail i m npc) (hr tag : Nat) :
    s.testMail c hr tag = s := by
  unfold State.testMail
  have hl : ∀ n ∈ List.range 16, ∀ i m npc, (s.slot c n).wait ≠ .mail i m npc := fun n hn => h n (List.mem_range.mp hn)
  generalize List.range 16 = l at hl
  induction l with
  | nil => rfl
  | cons n l ih =>
    rw [List.foldl_cons]
    split
    next i m npc hw => exact absurd hw (hl n (List.mem_cons_self ..) i m npc)
    next => exact ih fun m hm => hl m (List.mem_cons_of_mem _ hm)

/-- A write wakes no waiter on a counter, and makes none. -/
theorem wait_writeLS {s : State} {c n : Nat} (h : ∀ i m npc, (s.slot c n).wait ≠ .mail i m npc) (d off : Nat) (bs : List Byte)
    (i m : Nat) (npc : Word) : ((s.writeLS d off bs).slot c n).wait ≠ .mail i m npc := by
  by_cases hc : c = d
  · subst hc
    have hslot : (s.writeLS c off bs).slot c n = wakeWatch (s.slot c n) (lsPA s c off) bs.length := by
      rw [State.slot, State.writeLS, State.core_modCore_same, Core.slot]
      dsimp only
      rw [get_map_snd (wakeWatch · (lsPA s c off) bs.length) (wakeWatch_of_not_waiting rfl _ _), State.core, State.setBytes_cores]
      rfl
    rw [hslot, wakeWatch]
    split
    next hw =>
      split
      · exact Wait.noConfusion
      · rw [hw]
        exact Wait.noConfusion
    · exact h i m npc
  · rw [State.slot, State.writeLS, State.core_modCore_ne _ _ hc, State.core, State.setBytes_cores]
    exact h i m npc

/-- A mailbox counter of a core rises (R283). -/
def State.mailRaised (s : State) (c i : Nat) : State :=
  s.modCore c fun k => { k with mail := put k.mail i ((get {} k.mail i).raised none) }

theorem slot_mailRaised (s : State) (c i n : Nat) : (s.mailRaised c i).slot c n = s.slot c n := by
  rw [State.mailRaised, slot_modCore]
  exact fun _ => rfl

theorem mail_mailRaised (s : State) (c i : Nat) :
    (get {} ((s.mailRaised c i).core c).mail i).value =
      if (get {} (s.core c).mail i).value = 0xFFFFFFFF then (get {} (s.core c).mail i).value
      else (get {} (s.core c).mail i).value + 1 := by
  rw [State.mailRaised, State.core_modCore_same, get_put_same, Mailbox.raised]

section
variable {s : State} {r : Req} (ha : Claims.Alone s r) (hb : Claims.BankTakes s r)
include ha hb

theorem bankState_takes : s.bankState r true = some true := by
  obtain ⟨hr, -, hhold, -⟩ := ha
  obtain ⟨-, hown, -, hcore, hpower, hboot, href, hstall, -, hframes⟩ := hb
  have hpost : s.postedBefore r = false := by simp [State.postedBefore, hr, hframes]
  simp [State.bankState, hhold, hpost, hown, hpower, hboot, href, hstall]

omit ha in
theorem bankWrite_other (bs : List Byte) : s.bankWrite r bs = s.writeLS (paCore r.pa) (paOff r.pa) bs := by
  obtain ⟨-, hown, -, hcore, -⟩ := hb
  simp [State.bankWrite, hown, hcore]

theorem remoteStore {bs : List Byte} (hst : r.stamp = none) (hop : r.op = .store bs) :
    exec (.remoteStoreArrival r.id) s = .next ((s.writeLS (paCore r.pa) (paOff r.pa) bs).answer r 0 {} 0) := by
  have hcls := hb.1
  have hown : ((s.writeLS (paCore r.pa) (paOff r.pa) bs).answer r 0 {} 0).ownPackage r.pa = true :=
    (ownPackage_congr (State.writeLS_hub ..) _).trans hb.2.1
  change execRemoteStoreArrival r.id s = _
  simp only [execRemoteStoreArrival, req_alone ha.1, hcls, ne_eq, not_true_eq_false, if_false, hop, bankState_takes ha hb,
    bankWrite_other hb, State.bankStamp, hst, farDone_own hown]

/-- What the bank of an AMO is left as. -/
def State.amoed (s : State) (r : Req) (op : Nat) (v : Word) : State :=
  s.writeLS (paCore r.pa) (paOff r.pa) (leBytes r.size (amoFn op r.size (leNat (s.bankRead r)) v.toNat))

theorem remoteAmo {op : Nat} {v : Word} (hst : r.stamp = none) (hop : r.op = .amo op v) :
    exec (.remoteStoreArrival r.id) s = .next
      ((((s.amoed r op v).answer r (leNat (s.bankRead r)) ((s.amoed r op v).bankClock r) 0).reached r.pa).farDone r.pa) := by
  have hcls := hb.1
  change execRemoteStoreArrival r.id s = _
  simp only [execRemoteStoreArrival, req_alone ha.1, hcls, ne_eq, not_true_eq_false, if_false, hop, bankState_takes ha hb]
  simp only [State.bankAtomic, hop, atomicNew, bankWrite_other hb, State.bankStamp, hst, State.amoed]

theorem putLanding_eq {bs : List Byte} {tag : Nat} (hst : r.stamp = none) (hop : r.op = .put bs tag) :
    exec (.putLanding r.id) s = .next
      ((((s.writeLS (paCore r.pa) (paOff r.pa) bs).mailRaised (paCore r.pa) (mailIdx r.hearth tag)).answer r 0 {} 0).testMail
        (paCore r.pa) r.hearth tag) := by
  change execPutLanding r.id s = _
  simp only [execPutLanding, req_alone ha.1, hop, bankState_takes ha hb, bankWrite_other hb, State.bankStamp, hst,
    State.mailRaised]

end

section
variable {s : State} {r : Req} {c off : Nat} (ha : Claims.Alone s r) (hb : Claims.BankTakes s r) (hpa : r.pa = lsPA s c off)
  (hc : coreExists c = true) (hp : s.hub.package < 64)
include hpa hc

theorem lsPA_of_pa : lsPA s (paCore r.pa) (paOff r.pa) = r.pa := by
  rw [hpa, paCore_lsPA s (coreExists_lt hc), paOff_lsPA, lsPA_mod]

theorem wrote_bank (bs : List Byte) : Wrote s (s.writeLS (paCore r.pa) (paOff r.pa) bs) r.pa bs where
  mem := by rw [State.mem_writeLS, lsPA_of_pa hpa hc]
  hub := State.writeLS_hub ..
  stuck := State.writeLS_stuck ..

include hb in
theorem leNat_bankRead : leNat (s.bankRead r) = s.memNat r.pa r.size := by
  obtain ⟨-, hown, -, hcore, -⟩ := hb
  simp [State.bankRead, hown, hcore, State.readLS, lsPA_of_pa hpa hc, State.memNat]

include ha in
omit hpa hc in
theorem answered_writeLS (d o : Nat) (bs : List Byte) (v : Nat) (clk : Clock) :
    Claims.AnsweredWith ((s.writeLS d o bs).answer r v clk 0) r v :=
  answered_answer (by simp [State.writeLS, ha.1]) (by simp [State.writeLS, ha.2.1]) v clk

variable (hn : off + r.size ≤ 2 ^ 18) (hst : r.stamp = none)

include hb hp hn in
theorem plain_bank : Plain s r.pa r.size := by
  obtain ⟨-, -, -, -, -, -, -, -, hstuck, -⟩ := hb
  rw [hpa]
  exact plain_lsPA (coreExists_lt hc) hp hn hstuck

include ha hb hp hn hst

theorem remoteStore_lands {bs : List Byte} (hop : r.op = .store bs) (hlen : bs.length = r.size) :
    ∃ t : State, exec (.remoteStoreArrival r.id) s = .next t ∧ t.bytes r.pa r.size = bs ∧ Claims.MemoryBut s t r.pa r.size ∧
      Claims.AnsweredWith t r 0 := by
  have hw : Wrote s ((s.writeLS (paCore r.pa) (paOff r.pa) bs).answer r 0 {} 0) r.pa bs :=
    (wrote_bank hpa hc bs).congr rfl rfl rfl
  have hplain := plain_bank hb hpa hc hp hn
  refine ⟨_, remoteStore ha hb hst hop, ?_, ?_, answered_writeLS ha ..⟩
  · rw [← hlen] at hplain ⊢
    exact hw.bytes hplain
  · rw [← hlen]
    exact hw.memoryBut

theorem remoteAmo_lands {op : Nat} {v : Word} (hop : r.op = .amo op v) (hle : op ≤ 10) (hsz : r.size = 4 ∨ r.size = 8) :
    ∃ t : State, exec (.remoteStoreArrival r.id) s = .next t ∧
      t.memNat r.pa r.size = Claims.amoNew op r.size (s.memNat r.pa r.size) (v.toNat % 2 ^ (8 * r.size)) ∧
      Claims.MemoryBut s t r.pa r.size ∧ Claims.AnsweredWith t r (s.memNat r.pa r.size) := by
  have hex := remoteAmo ha hb hst hop
  rw [leNat_bankRead hb hpa hc] at hex
  have hans : Claims.AnsweredWith ((s.amoed r op v).answer r (s.memNat r.pa r.size) ((s.amoed r op v).bankClock r) 0) r
      (s.memNat r.pa r.size) := answered_writeLS ha ..
  have hw : Wrote s ((s.amoed r op v).answer r (s.memNat r.pa r.size) ((s.amoed r op v).bankClock r) 0) r.pa
      (leBytes r.size (amoFn op r.size (s.memNat r.pa r.size) v.toNat)) := by
    rw [State.amoed, leNat_bankRead hb hpa hc]
    exact (wrote_bank hpa hc _).congr rfl rfl rfl
  generalize (s.amoed r op v).answer r (s.memNat r.pa r.size) ((s.amoed r op v).bankClock r) 0 = u at hex hans hw
  have hr := wrote_reached hw r.pa
  rw [farDone_own ((ownPackage_congr hr.hub r.pa).trans hb.2.1)] at hex
  refine ⟨_, hex, ?_, ?_, answered_reached hans r.pa⟩
  · rw [hr.memNat (plain_bank hb hpa hc hp hn), Nat.mod_eq_of_lt (amoFn_lt hle hsz), amoFn_eq hle hsz (State.memNat_lt ..)]
  · have hbut := hr.memoryBut
    rwa [leBytes_length] at hbut

theorem put_lands {bs : List Byte} {tag : Nat} (hop : r.op = .put bs tag) (hlen : bs.length = r.size)
    (hidle : ∀ n < 16, ∀ i m npc, (s.slot c n).wait ≠ .mail i m npc) :
    ∃ t : State, exec (.putLanding r.id) s = .next t ∧ t.bytes r.pa r.size = bs ∧ Claims.MemoryBut s t r.pa r.size ∧
      Claims.AnsweredWith t r 0 ∧
      let old := (get {} (s.core c).mail (16 * r.hearth + tag)).value
      (get {} (t.core c).mail (16 * r.hearth + tag)).value = if old = 0xFFFFFFFF then old else old + 1 := by
  have hex := putLanding_eq ha hb hst hop
  have hw := wrote_bank hpa hc bs
  have hplain := plain_bank hb hpa hc hp hn
  have hcore : paCore r.pa = c := by rw [hpa, paCore_lsPA s (coreExists_lt hc)]
  rw [hcore] at hex hw
  have hmail : ((s.writeLS c (paOff r.pa) bs).core c).mail = (s.core c).mail := by
    obtain ⟨_, _, _, _, h⟩ := (written_writeLS s c (paOff r.pa) bs).core c
    rw [h]
  have hraised := mail_mailRaised (s.writeLS c (paOff r.pa) bs) c (mailIdx r.hearth tag)
  have hwait (n : Nat) (hl : n < 16) (i m : Nat) (npc : Word) :
      (((s.writeLS c (paOff r.pa) bs).mailRaised c (mailIdx r.hearth tag)).slot c n).wait ≠ .mail i m npc := by
    rw [slot_mailRaised]
    exact wait_writeLS (hidle n hl) c _ bs i m npc
  have hans : Claims.AnsweredWith (((s.writeLS c (paOff r.pa) bs).mailRaised c (mailIdx r.hearth tag)).answer r 0 {} 0) r 0 :=
    answered_answer (by simp [State.mailRaised, State.writeLS, ha.1]) (by simp [State.mailRaised, State.writeLS, ha.2.1]) _ _
  replace hw : Wrote s ((s.writeLS c (paOff r.pa) bs).mailRaised c (mailIdx r.hearth tag)) r.pa bs := hw.congr rfl rfl rfl
  rw [hmail] at hraised
  generalize (s.writeLS c (paOff r.pa) bs).mailRaised c (mailIdx r.hearth tag) = u at hex hw hraised hwait hans
  rw [testMail_idle (s := u.answer r 0 {} 0) hwait] at hex
  replace hw : Wrote s (u.answer r 0 {} 0) r.pa bs := hw.congr rfl rfl rfl
  rw [← hlen] at hplain ⊢
  exact ⟨_, hex, hw.bytes hplain, hw.memoryBut, hans, hraised⟩

end

end Sys2Proof.Machine

namespace Sys2Proof.Machine

/-! ## Atomics at a home -/

theorem fireWatch_mem (s : State) (clk : Clock) (w : Watch) : (s.fireWatch clk w).mem = s.mem := by
  unfold State.fireWatch
  split
  · rfl
  · rfl
  · rfl

theorem wakeHome_mem (s : State) (pa n : Nat) : (s.wakeHome pa n).mem = s.mem := by
  unfold State.wakeHome
  dsimp only
  split
  · rfl
  · refine foldl_keeps (P := fun t : State => t.mem = s.mem) rfl fun t w ht => ?_
    split
    · exact ht
    · rw [fireWatch_mem, ht]

theorem unpoison_mem (s : State) (pa n : Nat) : (s.unpoison pa n).mem = s.mem := by
  unfold State.unpoison
  split
  · rfl
  · rfl

theorem wrote_of_written {s t : State} {pa : Nat} {bs : List Byte} (h : Written s t) (hm : t.mem = (s.setBytes pa bs).mem) :
    Wrote s t pa bs :=
  ⟨hm, by rw [h.rest], by rw [h.rest]⟩

theorem wrote_writeAt_dram {s : State} {pa : Nat} (hc : paClass pa = 0) (bs : List Byte) : Wrote s (s.writeAt pa bs) pa bs := by
  refine wrote_of_written (written_writeAt ..) ?_
  have h1 : ¬(paClass pa = 1 ∧ s.ownPackage pa = true) := fun h => by omega
  rw [State.writeAt, if_neg h1]
  split
  · rw [wakeHome_mem, unpoison_mem]
  · rfl

theorem dramBut_of_wrote {s t : State} {pa : Nat} {bs : List Byte} (h : Wrote s t pa bs) (hc : ∀ i < bs.length, paClass (pa + i) = 0) :
    Claims.DramBut s t [(pa, bs.length)] := fun p _ hp hout => by
  have hcell (u : State) {q : Nat} (hq : paClass q = 0) : u.cell q = q := cell_of_dram u (by rw [hq]; decide)
  have hout := hout (pa, bs.length) (List.mem_singleton_self _)
  have hread := h.memoryBut p fun i hi hpi => by
    rw [hcell s (hc i hi)] at hpi
    omega
  simp only [State.byte, hcell t hp, hcell s hp, hp, hread]
  simp

/-- An aligned place of 4 or 8 bytes in DRAM lies there with all its bytes. -/
theorem paClass_aligned {pa n : Nat} (hc : paClass pa = 0) (hn : n = 4 ∨ n = 8) (ha : pa % n = 0) : ∀ i < n, paClass (pa + i) = 0 := by
  intro i hi
  unfold paClass at hc ⊢
  rcases hn with rfl | rfl
  · omega
  · omega

section
variable {s : State} {r : Req} {op : Nat} {v : Word} (ha : Claims.Alone s r) (hh : Claims.HomeServes s r.rc r.pa) (hp : s.pieces = [])
  (hop : r.op = .amo op v)
include hh hp

theorem atomicReady_alone : s.atomicReady r = true := by
  obtain ⟨hcls, hown, -, hready⟩ := hh
  have hcls8 : paClass (8 * (r.pa / 8)) = 0 := by
    unfold paClass at hcls ⊢
    omega
  have hpkg : s.ownPackage (8 * (r.pa / 8)) = true := by
    rw [← hown, State.ownPackage, State.ownPackage, paPackage, paPackage]
    congr 1
    omega
  have hhome : homeOf (8 * (r.pa / 8)) = homeOf r.pa := by
    simp only [homeOf, paDie]
    omega
  simp [State.atomicReady, State.pieceHome, hcls8, hpkg, hhome, hready, hp]

include ha hop

theorem atomicExecute_home (hsc : 3 ≤ r.sc) (hdet : r.det = false) :
    exec (.atomicExecute r.id) s = .next ((((s.writeAt r.pa (leBytes r.size (amoFn op r.size (s.memNat r.pa r.size) v.toNat))).wakeHome
      r.pa r.size).answer r (s.memNat r.pa r.size) (((s.writeAt r.pa (leBytes r.size (amoFn op r.size (s.memNat r.pa r.size)
        v.toNat))).wakeHome r.pa r.size).appliedClock (homeOf r.pa)) 0).bankServed r) := by
  have hready := atomicReady_alone hh hp
  obtain ⟨hr, -, hhold, -⟩ := ha
  obtain ⟨hcls, hown, hs, -⟩ := hh
  have hatb : s.atBank r = true := by simp [State.atBank, hcls, hown]
  have hdu : s.detUpdate r = false := by simp [State.detUpdate, hdet]
  have hhost : paHost r.pa = false := by simp [paHost, hcls]
  have hsc2 : r.sc ≠ 2 := by omega
  have hsc2' : ¬ r.sc < 2 := by omega
  have hhome : s.homeAtomic r = ((s.writeAt r.pa (leBytes r.size (amoFn op r.size (s.memNat r.pa r.size) v.toNat))).wakeHome
      r.pa r.size).answer r (s.memNat r.pa r.size) (((s.writeAt r.pa (leBytes r.size (amoFn op r.size (s.memNat r.pa r.size)
        v.toNat))).wakeHome r.pa r.size).appliedClock (homeOf r.pa)) 0 := by
    simp only [State.homeAtomic, hop, atomicNew, hcls, hown, decide_true, Bool.and_self, if_true]
  change execAtomicExecute r.id s = _
  simp [execAtomicExecute, req_alone hr, hop, ReqOp.isAtomic, hhold, hdu, hready, hsc2, hsc2', hhost, hatb, bankTurn_alone hr,
    readLines_sound hs, poisoned_sound hs, hhome]

theorem atomicExecute_answers (hle : op ≤ 10) (hsz : r.size = 4 ∨ r.size = 8) (hal : r.pa % r.size = 0) (hsc : 3 ≤ r.sc)
    (hdet : r.det = false) : ∃ t : State, exec (.atomicExecute r.id) s = .next t ∧
      t.memNat r.pa r.size = Claims.amoNew op r.size (s.memNat r.pa r.size) (v.toNat % 2 ^ (8 * r.size)) ∧
      Claims.DramBut s t [(r.pa, r.size)] ∧ Claims.AnsweredWith t r (s.memNat r.pa r.size) := by
  have hex := atomicExecute_home ha hh hp hop hsc hdet
  have hcls := paClass_aligned hh.1 hsz hal
  have hwr := wrote_writeAt_dram (s := s) hh.1 (leBytes r.size (amoFn op r.size (s.memNat r.pa r.size) v.toNat))
  have hwake := (written_writeAt s r.pa (leBytes r.size (amoFn op r.size (s.memNat r.pa r.size) v.toNat))).trans
    (written_wakeHome _ r.pa r.size)
  have hmem := (wakeHome_mem (s.writeAt r.pa (leBytes r.size (amoFn op r.size (s.memNat r.pa r.size) v.toNat))) r.pa r.size).trans hwr.mem
  generalize (s.writeAt r.pa (leBytes r.size (amoFn op r.size (s.memNat r.pa r.size) v.toNat))).wakeHome r.pa r.size = u at *
  have hu : Wrote s u r.pa (leBytes r.size (amoFn op r.size (s.memNat r.pa r.size) v.toNat)) := wrote_of_written hwake hmem
  have hq := queued_bankServed (u.answer r (s.memNat r.pa r.size) (u.appliedClock (homeOf r.pa)) 0) r
  have hans := hq.answered (answered_answer (by rw [hwake.rest]; exact ha.1) (by rw [hwake.rest]; exact ha.2.1) (s.memNat r.pa r.size)
    (u.appliedClock (homeOf r.pa)))
  generalize (u.answer r (s.memNat r.pa r.size) (u.appliedClock (homeOf r.pa)) 0).bankServed r = t at hex hq hans
  have ht := hu.congr (u := t) hq.mem (by rw [hq.rest]; rfl) (by rw [hq.rest]; rfl)
  refine ⟨t, hex, ?_, ?_, hans⟩
  · rw [ht.memNat (plain_dram hcls), Nat.mod_eq_of_lt (amoFn_lt hle hsz), amoFn_eq hle hsz (State.memNat_lt ..)]
  · have hbut := dramBut_of_wrote ht (by rwa [leBytes_length])
    rwa [leBytes_length] at hbut

end

/-! ## Updates of a deterministic phase -/

theorem home_answer (s : State) (r : Req) (v : Nat) (clk : Clock) (c h : Nat) : (s.answer r v clk c).home h = s.home h := rfl
theorem hearth_answer (s : State) (r : Req) (v : Nat) (clk : Clock) (c h : Nat) : (s.answer r v clk c).hearth h = s.hearth h := rfl

theorem insertUpd_eq (u : DetUpd) (l : List DetUpd) :
    insertUpd u l = l.takeWhile (·.before u) ++ u :: l.dropWhile (·.before u) := by
  induction l with
  | nil => rfl
  | cons x l ih =>
    rw [insertUpd]
    split
    next h => simp [ih, h]
    next h => simp [h]

/-- Where the phase has no deferred store, an update meets no conflict (R158). -/
theorem checkMerge_none {s : State} {h : Nat} (hp : (s.hearth h).det.pieces = []) (t : Word) (l : List Nat) :
    s.checkMerge h t l true = s := by
  have hl : (l.filterMap fun pa => (s.otherWriter h t pa true).map fun o => (pa, t, o)) = [] :=
    List.filterMap_eq_nil_iff.mpr fun pa _ => by simp [State.otherWriter, hp]
  rw [State.checkMerge, hl]
  rfl

section
variable {s : State} {r : Req} {u : DetUpd} (ha : Claims.Alone s r) (hh : Claims.HomeServes s r.rc r.pa) (hp : s.pieces = [])
  (hu : r.detUpd = some u) (hpa : u.pa = r.pa) (hsc : 2 ≤ r.sc) (hdet : r.det = true) (hdst : r.dst = .none)
  (hon : (s.hearth r.hearth).det.on = true) (hdp : (s.hearth r.hearth).det.pieces = [])
  (hl : (s.home (homeOf r.pa)).holding.length < 16)
include ha hh hp hu hpa hsc hdet hdst hon hdp hl

theorem detUpdate_eq :
    exec (.detUpdateArrival r.id) s = .next (
      if 8 ≤ u.op then
        (s.modHome (homeOf r.pa) fun q => { q with holding := insertUpd u q.holding }).answer r 0
          ((s.modHome (homeOf r.pa) fun q => { q with holding := insertUpd u q.holding }).appliedClock (homeOf r.pa)) 0
      else
        (s.modHearth r.hearth fun q => { q with det := { q.det with accs := q.det.accs ++ [u] } }).answer r 0
          ((s.modHearth r.hearth fun q => { q with det := { q.det with accs := q.det.accs ++ [u] } }).appliedClock (homeOf r.pa)) 0) := by
  have hready := atomicReady_alone hh hp
  obtain ⟨hr, -, hhold, -⟩ := ha
  have hdu : s.detUpdate r = true := by simp [State.detUpdate, hdet, hdst, hon]
  have hsc2 : ¬ r.sc < 2 := by omega
  change execDetUpdateArrival r.id s = _
  simp only [execDetUpdateArrival, req_alone hr, hu, hhold, hdu, hready, hsc2, checkMerge_none hdp]
  by_cases h8 : 8 ≤ u.op
  · simp [h8, State.holdUpdate, hpa, hl]
  · simp [h8]

theorem detUpdate_keeps : ∃ t : State, exec (.detUpdateArrival r.id) s = .next t ∧ Claims.AnsweredWith t r 0 ∧ t.mem = s.mem ∧
    (u.op < 8 → (t.hearth r.hearth).det.accs = (s.hearth r.hearth).det.accs ++ [u]) ∧
    (8 ≤ u.op → (t.home (homeOf r.pa)).holding = (s.home (homeOf r.pa)).holding.takeWhile (·.before u) ++
      u :: (s.home (homeOf r.pa)).holding.dropWhile (·.before u)) := by
  have hex := detUpdate_eq ha hh hp hu hpa hsc hdet hdst hon hdp hl
  by_cases h8 : 8 ≤ u.op
  · rw [if_pos h8] at hex
    refine ⟨_, hex, answered_answer ha.1 ha.2.1 _ _, rfl, fun h => absurd h8 (Nat.not_le.mpr h), fun _ => ?_⟩
    rw [← insertUpd_eq, home_answer, State.home_modHome_same]
  · rw [if_neg h8] at hex
    refine ⟨_, hex, answered_answer ha.1 ha.2.1 _ _, rfl, fun _ => ?_, fun h => absurd h h8⟩
    rw [hearth_answer, State.hearth_modHearth_same]

end

end Sys2Proof.Machine

namespace Sys2Proof.Machine

/-! ## Replies at their threads -/

/-- t is s but for its cores, and of a thread RC and the vector registers that are pending. -/
structure Settled (s t : State) (c n : Nat) : Prop where
  rest : t = { s with cores := t.cores }
  slot : ∃ rc pv, t.slot c n = { s.slot c n with rc := rc, pendV := pv }

namespace Settled

variable {s t u : State} {c n : Nat}

theorem refl (s : State) (c n : Nat) : Settled s s c n := ⟨rfl, _, _, rfl⟩

theorem trans (h : Settled s t c n) (h' : Settled t u c n) : Settled s u c n where
  rest := by rw [h'.rest, h.rest]
  slot := by
    obtain ⟨_, _, ht⟩ := h.slot
    obtain ⟨rc, pv, hu⟩ := h'.slot
    exact ⟨rc, pv, by rw [hu, ht]⟩

end Settled

theorem slot_settleV (s : State) (c n : Nat) : ∃ pv, (s.settleV c n).slot c n = { s.slot c n with pendV := pv } :=
  ⟨_, State.slot_modSlot_same ..⟩

theorem settled_settleV (s : State) (c n : Nat) : Settled s (s.settleV c n) c n where
  rest := rfl
  slot := ⟨_, _, State.slot_modSlot_same ..⟩

theorem settled_acquireAt (s : State) (c n : Nat) (clk : Clock) : Settled s (s.acquireAt c n clk) c n where
  rest := rfl
  slot := ⟨_, _, slot_acquireAt ..⟩

theorem settled_fillRead (s : State) (c n w : Nat) : Settled s (s.fillRead c w) c n where
  rest := rfl
  slot := ⟨_, _, by
    rw [State.fillRead, slot_modCore]
    exact fun _ => rfl⟩

/-- The thread has the value of a reply (R51), and a component of RC that lags may be raised (R135). -/
def State.received (s : State) (p : Reply) (t : Slot) : Slot :=
  { t.receive p.req.dst p.value with rc := (t.receive p.req.dst p.value).rc.keepUp p.clk fun e => (s.die e).vc.comp e }

section
variable {s : State} {p : Reply} (ha : Claims.Answered s p)
include ha

theorem reply_answered : s.reply? p.req.id = some p := by
  simp [State.reply?, ha.2.1]

theorem dropReply_answered : s.dropReply p.req.id = { s with replies := [] } := by
  simp [State.dropReply, ha.2.1]

omit ha in
/-- Where no other request or reply of the instruction is in flight, the count of loads falls (R153). -/
theorem loadDone_last {u : State} {r : Req} (hr : u.reqs = []) (hp : u.replies = []) (hx : r.xs = none) :
    u.loadDone r = u.modSlot r.core r.slot fun t => { t with loads := t.loads - 1 } := by
  simp [State.loadDone, State.loadPended, State.repliesLeft, hr, hp, hx]

omit ha in
/-- The thread may acquire, and the core's read cache take the word, once the value is in its register. -/
theorem loadValue_eq (s : State) (p : Reply) : ∃ u : State,
    Settled ((s.dropReply p.req.id).modSlot p.req.core p.req.slot (s.received p)) u p.req.core p.req.slot ∧
      s.loadValue p = u.loadDone p.req := by
  unfold State.loadValue
  extract_lets r s0 s1 s2 s3
  have h1 : Settled (s0.modSlot r.core r.slot (s.received p)) s1 r.core r.slot := settled_settleV ..
  have h2 : Settled s1 s2 r.core r.slot := by
    unfold s2
    split
    · exact settled_acquireAt ..
    · exact .refl ..
  have h3 : Settled s2 s3 r.core r.slot := by
    unfold s3
    split
    · exact settled_fillRead ..
    · exact .refl ..
  exact ⟨s3, (h1.trans h2).trans h3, rfl⟩

theorem loadValue_slot {e sz : Nat} (hd : p.req.dst = .w e sz) (hx : p.req.xs = none) :
    (s.loadValue p).replies = [] ∧ (s.loadValue p).mem = s.mem ∧ ∃ rc pv,
      (s.loadValue p).slot p.req.core p.req.slot =
        { (s.slot p.req.core p.req.slot).setEntry e (extend sz p.value) with
          pendW := (s.slot p.req.core p.req.slot).pendW.erase e
          loads := (s.slot p.req.core p.req.slot).loads - 1
          rc := rc
          pendV := pv } := by
  obtain ⟨u, hu, h⟩ := loadValue_eq s p
  rw [dropReply_answered ha] at hu
  obtain ⟨rc, pv, hs⟩ := hu.slot
  rw [State.slot_modSlot_same] at hs
  rw [h, loadDone_last (by rw [hu.rest]; exact ha.1) (by rw [hu.rest]; rfl) hx]
  refine ⟨by rw [hu.rest]; rfl, by rw [hu.rest]; rfl, rc, pv, ?_⟩
  rw [State.slot_modSlot_same, hs, State.received, hd]
  rfl

theorem loadReply_eq {a : Bool} {e sz : Nat} (hc : p.cause = 0) (hop : p.req.op = .load a) (hd : p.req.dst = .w e sz) :
    exec (.loadReply p.req.id) s = .next (s.loadValue p) := by
  have h16 : p.req.slot ≠ 16 := by have := ha.2.2.1; omega
  have hclk : s.clockStopped p.req.core = false := ha.2.2.2
  change execLoadReply p.req.id s = _
  simp [execLoadReply, reply_answered ha, hop, hd, hclk, h16, hc]

omit ha in
/-- The failing reply of an instruction without a register leaves its deferred fault (R454). -/
theorem failGroup_slot (hr : s.replies = [p]) (hc : p.cause ≠ 0) (hx : p.req.xs = none) (hd : p.req.dst = .none) :
    (s.failGroup p 1).replies = [] ∧ (s.failGroup p 1).mem = s.mem ∧ ∃ pv,
      (s.failGroup p 1).slot p.req.core p.req.slot =
        { s.slot p.req.core p.req.slot with
          deferred := (s.slot p.req.core p.req.slot).deferred ++
            [{ count := 1, cause := p.cause, addr := p.faultAddr, issued := p.req.issued }]
          pendV := pv } := by
  have hg : groupFault p [p] 1 = { count := 1, cause := p.cause, addr := p.faultAddr, issued := p.req.issued } := by
    simp [groupFault, leastBy, hc]
  have hl : (s.failGroup p 1) = (({ s with replies := [] } : State).modSlot p.req.core p.req.slot fun t =>
      { t with deferred := t.deferred ++ [{ count := 1, cause := p.cause, addr := p.faultAddr, issued := p.req.issued }] }).settleV
        p.req.core p.req.slot := by
    simp [State.failGroup, State.loadPended, hr, hx, hd, hg, Dest.entries, Dest.vregs, failMarks]
  rw [hl]
  obtain ⟨pv, hs⟩ := slot_settleV (({ s with replies := [] } : State).modSlot p.req.core p.req.slot fun t =>
    { t with deferred := t.deferred ++ [{ count := 1, cause := p.cause, addr := p.faultAddr, issued := p.req.issued }] })
      p.req.core p.req.slot
  rw [State.slot_modSlot_same] at hs
  exact ⟨rfl, rfl, pv, hs⟩

theorem storeAck_ok (hc : p.cause = 0) (hd : p.req.dst = .none) (hop : ∀ v npc, p.req.op ≠ .watch v npc) :
    exec (.storeAck p.req.id) s = .next (({ s with replies := [] } : State).modSlot p.req.core p.req.slot fun t =>
      { t with stores := t.stores - 1 }) := by
  have h16 : p.req.slot ≠ 16 := by have := ha.2.2.1; omega
  have hclk : s.clockStopped p.req.core = false := ha.2.2.2
  change execStoreAck p.req.id s = _
  simp [execStoreAck, reply_answered ha, hd, hclk, h16, hc, dropReply_answered ha, State.repliesLeft, ha.1]

theorem storeAck_fails (hc : p.cause ≠ 0) (hd : p.req.dst = .none) (hop : ∀ v npc, p.req.op ≠ .watch v npc) :
    exec (.storeAck p.req.id) s = .next (s.failGroup p 1) := by
  have h16 : p.req.slot ≠ 16 := by have := ha.2.2.1; omega
  have hclk : s.clockStopped p.req.core = false := ha.2.2.2
  have hw : s.groupWaits p.req = false := by simp [State.groupWaits, ha.1, ha.2.1, hc]
  change execStoreAck p.req.id s = _
  simp [execStoreAck, reply_answered ha, hd, hclk, h16, hc, hw]

end

/-- What a load leaves in its register (R209, R267). -/
theorem extend_eq (sz v : Nat) : extend sz v =
    if 4 ≤ sz then (BitVec.ofNat (8 * szBytes sz) v).signExtend 64 else (BitVec.ofNat (8 * szBytes sz) v).setWidth 64 := by
  have hpos : 0 < 8 * szBytes sz := by rcases szBytes_cases sz with h | h | h | h <;> omega
  have hlt : v % 2 ^ (8 * szBytes sz) < 2 ^ (8 * szBytes sz) := Nat.mod_lt _ (Nat.two_pow_pos _)
  have hmod : BitVec.ofNat (8 * szBytes sz) (v % 2 ^ (8 * szBytes sz)) = BitVec.ofNat (8 * szBytes sz) v :=
    BitVec.eq_of_toNat_eq (by simp)
  unfold extend
  dsimp only
  split
  · rw [signed_eq_toInt hpos hlt, hmod]
    rfl
  · exact BitVec.eq_of_toNat_eq (by simp [word])

/-- Settles O47: requests at a home (`homeAccess_loads`, `homeAccess_watches`, `atomicExecute_answers`, `detUpdate_keeps`), at
another core's bank (`remoteStore_lands`, `remoteAmo_lands`, `put_lands`) and replies at their threads (`loadValue_slot`,
`failGroup_slot`). -/
theorem requestEvents : Obligations.RequestEvents := by
  unfold Obligations.RequestEvents
  refine ⟨fun s r ha hh => ⟨?_, ?_⟩, fun s r c off ha hb hpa hc hp hn hst => ⟨?_, ?_, ?_⟩, fun s r op v ha hh hp hop hle hsz hal _ => ⟨?_, ?_⟩,
    fun s p e sz a ha hc hop hd hx => ?_, fun s p ha hd hop hx => ?_⟩
  · exact fun a hop hdet hfwd => homeAccess_loads ha hh hop hdet hfwd
  · exact fun v npc hop => homeAccess_watches ha hh hop
  · exact fun bs hop hlen => remoteStore_lands ha hb hpa hc hp hn hst hop hlen
  · exact fun op v hop hle hsz => remoteAmo_lands ha hb hpa hc hp hn hst hop hle hsz
  · exact fun bs tag hop hlen hidle => put_lands ha hb hpa hc hp hn hst hop hlen hidle
  · exact fun hsc hdet => atomicExecute_answers ha hh hp hop hle hsz hal hsc hdet
  · intro hsc hdet hdst hon hdp u hm hl
    have hu : r.detUpd = some u := by simp only [Req.detUpd, hop, u]
    exact detUpdate_keeps ha hh hp hu rfl hsc hdet hdst hon hdp hl
  · obtain ⟨hr, hm, rc, pv, hs⟩ := loadValue_slot ha hd hx
    refine ⟨_, loadReply_eq ha hc hop hd, hr, hm, ?_⟩
    rw [hs]
    refine ⟨?_, fun i hi => get_put_ne _ _ _ hi, rfl, rfl, rfl⟩
    rw [← extend_eq]
    exact get_put_same ..
  · by_cases hc : p.cause = 0
    · refine ⟨_, storeAck_ok ha hc hd hop, rfl, rfl, ?_⟩
      rw [State.slot_modSlot_same]
      exact ⟨rfl, rfl, fun _ => ⟨rfl, rfl⟩, fun h => absurd hc h⟩
    · obtain ⟨hr, hm, pv, hs⟩ := failGroup_slot ha.2.1 hc hx hd
      refine ⟨_, storeAck_fails ha hc hd hop, hr, hm, ?_⟩
      rw [hs]
      exact ⟨rfl, rfl, fun h => absurd h hc, fun _ => ⟨rfl, rfl⟩⟩

end Sys2Proof.Machine

/-! # Events of the scheduler (O49): frames, messages, footprints, the governor and pre-emption -/

namespace Sys2Proof.Machine

theorem dropNth_eq {α : Type} (l : List α) (n : Nat) : dropNth l n = l.take n ++ l.drop (n + 1) := by
  induction l generalizing n with
  | nil => simp [dropNth]
  | cons a l ih =>
    cases n with
    | zero => simp [dropNth]
    | succ n => simp [dropNth, ih]

/-! ## Refused frames (R54) -/

theorem get?_map_key {α : Type} (f : α → α) (m : List (Nat × α)) (k : Nat) :
    get? (m.map fun e => if e.1 = k then (e.1, f e.2) else e) k = (get? m k).map f := by
  induction m with
  | nil => rfl
  | cons e r ih =>
    obtain ⟨i, a⟩ := e
    by_cases h : i = k
    · simp [get?, h]
    · simp [get?, h, ih]

section
variable {i : Nat} {s : State} {x : Flight} (hx : s.refused[i]? = some x) (hd : x.dead = false) (hp : (s.core x.src).pw.paused = false)
include hx hd hp

/-- A refused frame finds the departure buffer of its hearth empty. -/
theorem frameRefused_enters (hr : x.resent = false) (hn : get? (s.core x.src).departing x.frame.hearth = none) :
    ∃ t : State, exec (.frameRefused i) s = .next t ∧ get? (t.core x.src).departing x.frame.hearth = some (x.frame, x.kept, false) ∧
      Claims.Without s.refused t.refused i ∧ t.mem = s.mem := by
  have hclk : s.clockStopped x.src = false := hp
  refine ⟨({ s with refused := dropNth s.refused i } : State).modCore x.src fun k =>
    { k with departing := put k.departing x.frame.hearth (x.frame, x.kept, false) }, ?_, ?_, dropNth_eq .., rfl⟩
  · change execFrameRefused i s = _
    simp [execFrameRefused, hx, hclk, hd, hr, hn]
  · rw [State.core_modCore_same]
    exact get?_put_same ..

/-- A frame that was sent again is back in its buffer. -/
theorem frameRefused_returns {f : Frame} {q : Kept} (hr : x.resent = true)
    (hn : get? (s.core x.src).departing x.frame.hearth = some (f, q, true)) :
    ∃ t : State, exec (.frameRefused i) s = .next t ∧ get? (t.core x.src).departing x.frame.hearth = some (f, q, false) ∧
      Claims.Without s.refused t.refused i ∧ t.mem = s.mem := by
  have hclk : s.clockStopped x.src = false := hp
  refine ⟨({ s with refused := dropNth s.refused i } : State).modCore x.src fun k =>
    { k with departing := k.departing.map fun e => if e.1 = x.frame.hearth then (e.1, e.2.1, e.2.2.1, false) else e }, ?_, ?_,
    dropNth_eq .., rfl⟩
  · change execFrameRefused i s = _
    simp [execFrameRefused, hx, hclk, hd, hr, State.resentBack]
  · rw [State.core_modCore_same]
    have h := get?_map_key (fun e : Frame × Kept × Bool => (e.1, e.2.1, false)) (s.core x.src).departing x.frame.hearth
    rw [hn] at h
    exact h

end

theorem departureResend_sends {c h : Nat} {s : State} {x : Frame} {q : Kept} (hd : get? (s.core c).departing h = some (x, q, false))
    (hp : (s.core c).pw.paused = false) : ∃ t : State, exec (.departureResend c h) s = .next t ∧
      t.frames = s.frames ++ [{ frame := x, src := c, kept := q, resent := true }] ∧
      get? (t.core c).departing h = some (x, q, true) ∧ t.mem = s.mem := by
  have hclk : s.clockStopped c = false := hp
  refine ⟨({ s with frames := s.frames ++ [{ frame := x, src := c, kept := q, resent := true }] } : State).modCore c fun k =>
    { k with departing := put k.departing h (x, q, true) }, ?_, rfl, ?_, rfl⟩
  · change execDepartureResend c h s = _
    rw [execDepartureResend, hclk, hd]
    rfl
  · rw [State.core_modCore_same]
    exact get?_put_same ..

/-! ## Waiters that leave (R65) -/

theorem freeSlot_homes (s : State) (c n : Nat) : (s.freeSlot c n).homes = s.homes := by
  rw [State.freeSlot, State.setSlot_homes, State.dropMisses]
  split
  · rfl
  · rfl

theorem evictWaiter_frees {c n : Nat} {s v b u : State} (he : evictable (s.slot c n) = true) (hp : (s.core c).pw.paused = false)
    (hs : s.spillSlot c n = (none, v))
    (hc : (v.leave c n).casThread c ((v.leave c n).slot c n).st.hearth ((v.leave c n).slot c n).taskid 2 4 = .ok b)
    (hr : b.runAppend c (b.frameOfSlot c n 2 c 0) ((v.leave c n).slot c n).kept = .ok u) :
    ∃ t : State, exec (.evictWaiter c n) s = .next t ∧ t.slot c n = {} ∧ ∀ e ∈ t.homes, ∀ w ∈ e.2.watches, w.core ≠ c ∨ w.slot ≠ n := by
  have hclk : s.clockStopped c = false := hp
  refine ⟨({ u with homes := u.homes.map fun (e : Nat × Home) =>
    (e.1, { e.2 with watches := e.2.watches.filter fun w => !(w.core == c && w.slot == n) }) } : State).freeSlot c n, ?_, slot_freeSlot .., ?_⟩
  · change execEvictWaiter c n s = _
    have hgo : ¬ (!evictable (s.slot c n) || s.clockStopped c) = true := by simp [he, hclk]
    rw [execEvictWaiter, if_neg hgo, hs]
    dsimp only
    rw [hc]
    dsimp only [Except.bind]
    rw [hr]
  · rw [freeSlot_homes]
    intro e he w hw
    obtain ⟨d, -, rfl⟩ := List.mem_map.mp he
    have := (List.mem_filter.mp hw).2
    by_contra hne
    obtain ⟨h1, h2⟩ := not_or.mp hne
    simp [not_not.mp h1, not_not.mp h2] at this

/-! ## Footprints (R75) -/

theorem footprintLanded_pins {c n : Nat} {s u : State} {r : Range} (hw : (s.slot c n).wait = .footprint)
    (hp : (s.core c).pw.paused = false) (hf : (s.slot c n).fetch = [r]) (hpin : r.pinned (s.core c) = false)
    (hu : ({ s with curCore := c } : State).fetchRange c (s.slot c n).st.hearth r = .ok u) :
    ∃ t : State, exec (.footprintLanded c n) s = .next t ∧ t.mem = u.mem ∧ (t.slot c n).wait = .none ∧
      { hearth := (s.slot c n).st.hearth, task := (s.slot c n).taskid, lo := r.off, len := r.len : Pin } ∈ (t.core c).pins := by
  have hclk : s.clockStopped c = false := hp
  refine ⟨(u.pinRanges c (s.slot c n).st.hearth (s.slot c n).taskid [r]).modSlot c n fun t => { t with fetch := [], wait := .none },
    ?_, rfl, ?_, ?_⟩
  · change execFootprintLanded c n s = _
    simp [execFootprintLanded, hw, hclk, hf, hpin, State.fetchRanges, hu]
  · rw [State.slot_modSlot_same]
  · have hpins (w : State) (f : Slot → Slot) : ((w.modSlot c n f).core c).pins = (w.core c).pins := by
      rw [State.modSlot, State.setSlot, State.core_modCore_same]
      rfl
    rw [hpins, State.pinRanges, State.core_modCore_same]
    simp

/-! ## Messages and continuations (R78, R79, R366) -/

theorem msgs_modSlot (s : State) (c n : Nat) (f : Slot → Slot) (d : Nat) : ((s.modSlot c n f).core d).msgs = (s.core d).msgs := by
  by_cases hd : d = c
  · rw [hd, State.modSlot, State.setSlot, State.core_modCore_same]
    rfl
  · rw [State.modSlot, State.setSlot, State.core_modCore_ne _ _ hd]

theorem roused_msgs (k : Core) : k.roused.msgs = k.msgs := by
  rw [Core.roused]
  split
  · rfl
  · rfl

section
variable {i c n : Nat} {s : State} {m : Msg} (hm : s.messages[i]? = some m) (hsrc : m.src = some (c, n)) (hdeaf : s.deaf m.core = false)
  (hp : (s.core c).pw.paused = false)
include hm hsrc hdeaf hp

theorem messageArrival_queues (hv : (get 0 (s.core m.core).chans m.chan).bits 63 63 = 1)
    (hh : (get 0 (s.core m.core).chans m.chan).bits 59 56 = m.hearth) (hl : (s.core m.core).msgs.length < 32) :
    ∃ t : State, exec (.messageArrival i) s = .next t ∧ (t.core m.core).msgs = (s.core m.core).msgs ++ [m] ∧
      Claims.Without s.messages t.messages i ∧ (t.slot c n).stores = (s.slot c n).stores - 1 ∧ t.mem = s.mem := by
  have hclk : s.clockStopped c = false := hp
  have hl' : ¬ 32 ≤ (s.core m.core).msgs.length := by omega
  refine ⟨(({ s with messages := dropNth s.messages i } : State).modCore m.core fun k => { k.roused with msgs := k.msgs ++ [m] }).modSlot c n
    fun t => { t with stores := t.stores - 1 }, ?_, ?_, dropNth_eq .., ?_, rfl⟩
  · change execMessageArrival i s = _
    rw [execMessageArrival, hm]
    dsimp only
    rw [if_neg (by simp [hdeaf, hsrc, hclk]), if_neg (by rw [hv, hh]; simp), if_neg hl', State.msgAck, hsrc]
    rfl
  · rw [msgs_modSlot, State.core_modCore_same]
    rfl
  · rw [State.slot_modSlot_same, slot_modCore]
    · rfl
    · exact Core.roused_slots

theorem messageArrival_drops
    (hv : (get 0 (s.core m.core).chans m.chan).bits 63 63 = 0 ∨ (get 0 (s.core m.core).chans m.chan).bits 59 56 ≠ m.hearth) :
    ∃ t : State, exec (.messageArrival i) s = .next t ∧ (t.core m.core).msgs = (s.core m.core).msgs ∧
      Claims.Without s.messages t.messages i ∧ (t.slot c n).stores = (s.slot c n).stores ∧ t.mem = s.mem ∧
      (t.slot c n).deferred = (s.slot c n).deferred ++
        [{ count := 1, cause := 0x12, addr := BitVec.ofNat 64 (m.core + m.chan * 2 ^ 13), issued := m.issued }] := by
  have hclk : s.clockStopped c = false := hp
  have hslot : (({ s with messages := dropNth s.messages i } : State).modCore m.core Core.roused).slot c n = s.slot c n :=
    slot_modCore _ _ Core.roused_slots ..
  refine ⟨(({ s with messages := dropNth s.messages i } : State).modCore m.core Core.roused).modSlot c n fun t =>
    { t with deferred := t.deferred ++
      [{ count := 1, cause := 0x12, addr := word (m.core + m.chan * 2 ^ 13), issued := m.issued }] }, ?_, ?_, dropNth_eq .., ?_, rfl, ?_⟩
  · change execMessageArrival i s = _
    rw [execMessageArrival, hm]
    dsimp only
    rw [if_neg (by simp [hdeaf, hsrc, hclk]), if_pos hv, State.msgAck, hsrc]
    rfl
  · rw [msgs_modSlot, State.core_modCore_same, roused_msgs]
    rfl
  · rw [State.slot_modSlot_same, hslot]
  · rw [State.slot_modSlot_same, hslot]
    rfl

end

theorem continuationResume_hands {i : Nat} {s : State} {w : ContWait} (hw : s.conts[i]? = some w)
    (hq : (s.core w.core).quarantined = false) (hdeaf : s.deaf w.core = false) :
    ∃ t : State, exec (.continuationResume i) s = .next t ∧ Claims.Without s.conts t.conts i ∧ t.mem = s.mem ∧
      ∃ a, (t.core w.core).conts = (s.core w.core).conts ++ [(a * 16 + w.hearth, w.record, w.stamp)] := by
  refine ⟨(({ s with conts := dropNth s.conts i } : State).modCore w.core fun k =>
    { k.roused with conts := k.conts ++ [(k.arr.toNat * 16 + w.hearth, w.record, w.stamp)] }).nextArr w.core, ?_, dropNth_eq .., rfl,
    (s.core w.core).arr.toNat, ?_⟩
  · change execContinuationResume i s = _
    simp [execContinuationResume, hw, hq, hdeaf]
  · rw [State.nextArr, State.core_modCore_same, State.core_modCore_same]
    rfl

end Sys2Proof.Machine

namespace Sys2Proof.Machine

/-! ## The stage governor (R81) -/

theorem get_foldl_put {α : Type} (d a : α) (l : List Nat) (m : List (Nat × α)) (k : Nat) :
    get d (l.foldl (fun m j => put m j a) m) k = if k ∈ l then a else get d m k := by
  induction l generalizing m with
  | nil => simp
  | cons j l ih =>
    rw [List.foldl_cons, ih, get_put]
    by_cases hl : k ∈ l
    · simp [hl]
    · by_cases hj : k = j
      · simp [hj]
      · simp [hl, hj]

/-- The cores of a cluster that serve a stage. -/
def Governor.serving (g : Governor) (j : Nat) : List Nat := (List.range 8).filter fun k => get 0 g.assign k == j

/-- The stage of more occupancy takes g cores of the other. -/
theorem move_two {g : Governor} {i j x y : Nat} (hij : i ≠ j) (hyx : y < x) (hx : x ≤ 64) (hs : g.g + 1 ≤ (g.serving j).length) :
    g.move [(i, x), (j, y)] =
      { g with hiRun := [], loRun := [], assign := ((g.serving j).take g.g).foldl (fun m k => put m k i) g.assign } := by
  have hdonor : leastBy (·.2) [(i, x), (j, y)] = some (j, y) := by simp [leastBy, Nat.not_le.mpr hyx]
  have htaker : leastBy (fun e : Nat × Nat => 2 ^ 64 - e.2) [(i, x), (j, y)] = some (i, x) := by
    have : 2 ^ 64 - x ≤ 2 ^ 64 - y := by omega
    exact if_pos this
  unfold Governor.move
  dsimp only
  rw [hdonor, htaker]
  exact if_pos ⟨hij.symm, hs⟩

/-- A governor after it has counted the occupancies of two rings. -/
def Governor.checked (g : Governor) (i j x y hi hi' lo lo' : Nat) : Governor :=
  { g with hiRun := [(i, runCount g.hiRun i (hi ≤ x)), (j, runCount g.hiRun j (hi' ≤ y))],
           loRun := [(i, runCount g.loRun i (x ≤ lo)), (j, runCount g.loRun j (y ≤ lo'))] }

theorem governorCheck_eq {cl i j x y hi hi' lo lo' : Nat} {a b : Word} {s : State} (he : (s.cluster cl).gov.enabled = true)
    (hr : (s.cluster cl).gov.rings = [(i, a), (j, b)])
    (ha : ({ s with curCore := 8 * cl } : State).occupancy (s.cluster cl).gov.hearth a = some (x, hi, lo))
    (hb : ({ s with curCore := 8 * cl } : State).occupancy (s.cluster cl).gov.hearth b = some (y, hi', lo'))
    (hhi : hi ≤ x) (hrun : get 0 (s.cluster cl).gov.hiRun i = 3) :
    exec (.governorCheck cl) s = .next (({ s with curCore := 8 * cl } : State).modCluster cl fun q =>
      { q with gov := ((s.cluster cl).gov.checked i j x y hi hi' lo lo').move [(i, x), (j, y)] }) := by
  change execGovernorCheck cl s = _
  have hobs : (s.cluster cl).gov.rings.filterMap (fun e => (({ s with curCore := 8 * cl } : State).occupancy
      (s.cluster cl).gov.hearth e.2).map fun o => (e.1, o)) = [(i, x, hi, lo), (j, y, hi', lo')] := by
    rw [hr]
    simp [ha, hb]
  have h4 : ((((s.cluster cl).gov.checked i j x y hi hi' lo lo').hiRun ++ ((s.cluster cl).gov.checked i j x y hi hi' lo lo').loRun).any
      fun e => 4 ≤ e.2) = true := by
    simp [Governor.checked, runCount, hhi, hrun]
  unfold execGovernorCheck
  dsimp only
  rw [if_neg (by simp [he]), hobs]
  exact congrArg (fun g => Host.Outcome.next (({ s with curCore := 8 * cl } : State).modCluster cl fun q => { q with gov := g })) (if_pos h4)

theorem governorCheck_moves {cl i j x y hi hi' lo lo' : Nat} {a b : Word} {s : State} (he : (s.cluster cl).gov.enabled = true)
    (hr : (s.cluster cl).gov.rings = [(i, a), (j, b)]) (hij : i ≠ j)
    (ha : ({ s with curCore := 8 * cl } : State).occupancy (s.cluster cl).gov.hearth a = some (x, hi, lo))
    (hb : ({ s with curCore := 8 * cl } : State).occupancy (s.cluster cl).gov.hearth b = some (y, hi', lo'))
    (hhi : hi ≤ x) (hyx : y < x) (hx : x ≤ 64) (hrun : get 0 (s.cluster cl).gov.hiRun i = 3)
    (hs : (s.cluster cl).gov.g + 1 ≤ ((s.cluster cl).gov.serving j).length) :
    ∃ t : State, exec (.governorCheck cl) s = .next t ∧ t.mem = s.mem ∧ (t.cluster cl).gov.hiRun = [] ∧
      ∀ k < 8, get 0 (t.cluster cl).gov.assign k =
        if k ∈ ((s.cluster cl).gov.serving j).take (s.cluster cl).gov.g then i else get 0 (s.cluster cl).gov.assign k := by
  have hmove : ((s.cluster cl).gov.checked i j x y hi hi' lo lo').move [(i, x), (j, y)] = _ := move_two hij hyx hx hs
  refine ⟨_, governorCheck_eq he hr ha hb hhi hrun, rfl, ?_, fun k _ => ?_⟩
  · rw [State.cluster_modCluster_same, hmove]
  · rw [State.cluster_modCluster_same, hmove]
    exact get_foldl_put ..

/-! ## Pre-emption (R91) -/

/-- Where a thread has left, its slot is empty. -/
def Frees (c n : Nat) (p : Bool × State) : Prop := p.1 = true → p.2.slot c n = {}

theorem frees_false {c n : Nat} {s : State} : Frees c n (false, s) := fun h => absurd h Bool.false_ne_true
theorem frees_saveStop (s : State) (c n : Nat) (e : Nat × Word) : Frees c n (s.saveStop c n e) := frees_false
theorem frees_freeSlot (s : State) (c n : Nat) : Frees c n (true, s.freeSlot c n) := fun _ => slot_freeSlot ..

theorem frees_taking (s : State) {c n : Nat} {go : State → Bool × State} (h : ∀ u, Frees c n (go u)) : Frees c n (s.taking c n go) := by
  unfold State.taking
  split
  · exact frees_false
  · exact frees_false
  · exact h _

theorem frees_saveThread (s : State) (c n : Nat) : Frees c n (s.saveThread c n) := by
  refine frees_taking s fun u => ?_
  dsimp only
  split
  · exact frees_false
  · split
    · exact frees_saveStop _ c n _
    · split
      · exact frees_saveStop _ c n _
      · split
        · exact frees_saveStop _ c n _
        · split
          · exact frees_saveStop _ c n _
          · exact frees_freeSlot _ c n

theorem frees_parkThread (s : State) (c n : Nat) (tr : Word) : Frees c n (s.parkThread c n tr) := by
  refine frees_taking s fun u => ?_
  dsimp only
  split
  · exact frees_saveStop _ c n _
  · split
    · exact frees_saveStop _ c n _
    · split
      · exact frees_saveStop _ c n _
      · split
        · exact frees_saveStop _ c n _
        · exact frees_saveThread _ c n
        · split
          · exact frees_saveStop _ c n _
          · exact frees_freeSlot _ c n

theorem frees_takeThread (s : State) (c n : Nat) : Frees c n (s.takeThread c n) := by
  unfold State.takeThread
  split
  · exact frees_false
  · split
    · exact frees_parkThread _ c n _
    · exact frees_saveThread _ c n

theorem takeable_thread {s : State} {c n : Nat} (h : s.takeable c n = true) :
    (s.slot c n).busy = true ∧ (s.slot c n).deferred = [] := by
  simp only [State.takeable, Bool.and_eq_true, List.isEmpty_iff] at h
  tauto

theorem preempt_frees {c n : Nat} {s : State} (hp : (s.core c).pw.paused = false) (hq : (s.core c).seqr = none)
    (ht : s.takeable c n = true) (hk : (({ s with curCore := c, curSlot := n } : State).takeThread c n).1 = true) :
    ∃ t : State, exec (.preempt c n) s = .next t ∧ t.slot c n = {} := by
  obtain ⟨hbusy, hdef⟩ := takeable_thread ht
  have hclk : s.clockStopped c = false := hp
  have hstop : s.stopSequence c n = s := by rw [State.stopSequence, hq]
  have hwait : s.sequenceWaits c n = false := by simp [State.sequenceWaits, hq]
  have hfault : (({ s with curCore := c, curSlot := n } : State).slot c n).firstFault (fun _ => true) = none := by
    change leastBy _ ((s.slot c n).deferred.filter _) = none
    rw [hdef]
    rfl
  have hex : s.preempt c n = (({ s with curCore := c, curSlot := n } : State).takeThread c n).2 := by
    unfold State.preempt
    dsimp only
    rw [hstop]
    have hgo : ¬ (!(s.slot c n).busy || s.sequenceWaits c n) = true := by simp [hbusy, hwait]
    refine (if_neg hgo).trans ?_
    rw [hfault]
    exact if_pos ht
  refine ⟨_, congrArg Host.Outcome.next (if_neg (by simp [hclk])), ?_⟩
  rw [hex]
  exact frees_takeThread _ c n hk

end Sys2Proof.Machine

namespace Sys2Proof.Machine

/-! ## Dispatch of a message (R74, R76, R78) -/

theorem findSome?_unique {α β : Type} {f : α → Option β} {l : List α} {a : α} {b : β} (ha : a ∈ l) (hb : f a = some b)
    (hn : ∀ x, x ≠ a → f x = none) : l.findSome? f = some b := by
  induction l with
  | nil => exact absurd ha List.not_mem_nil
  | cons x l ih =>
    by_cases hx : x = a
    · rw [List.findSome?_cons, hx, hb]
    · rw [List.findSome?_cons, hn x hx]
      exact ih ((List.mem_cons.mp ha).resolve_left (Ne.symm hx))

theorem find?_range {p : Nat → Bool} {n m : Nat} (hn : n < m) (hp : p n = true) (h : ∀ i < n, p i = false) :
    (List.range m).find? p = some n := by
  rw [List.find?_range_eq_some]
  exact ⟨hp, List.mem_range.mpr hn, fun i hi => by simp [h i hi]⟩

theorem freeSlot?_of_lowest {s : State} {c n : Nat} (h : Claims.LowestFree s c n) : (s.core c).freeSlot? = some n := by
  obtain ⟨hn, hfree, hbusy⟩ := h
  exact find?_range hn (congrArg (!·) hfree) fun i hi => congrArg (!·) (hbusy i hi)

theorem runArea_none {s : State} (h : Claims.NoRunQueue s) (c i : Nat) : runArea (s.hearth i) c = none := if_pos (h i)

theorem runHeads_nil {s : State} (h : Claims.NoRunQueue s) (c : Nat) : s.runHeads c = [] := by
  refine List.filterMap_eq_nil_iff.mpr fun i _ => ?_
  split
  · rfl
  · rw [State.runHead, runArea_none h]
    rfl

theorem runHeld_false {s : State} (h : Claims.NoRunQueue s) (c i : Nat) : s.runHeld c i = false := by
  rw [State.runHeld, runArea_none h, Bool.and_false]

theorem mem_hearthOrder (k : Core) {h : Nat} (hh : h < 16) : h ∈ k.hearthOrder := by
  refine List.mem_map.mpr ⟨(h + 15 - k.lastHearth % 16) % 16, List.mem_range.mpr (Nat.mod_lt _ (by decide)), ?_⟩
  omega

theorem chooseLevel_single (k : Core) (h p : Nat) :
    k.chooseLevel h [p] = some (p, { k with starve := put k.starve (4 * h + p) 0 }) := by
  unfold Core.chooseLevel
  by_cases hs : 64 ≤ k.starved h p
  · simp [hs]
  · simp [hs]

/-- The one message of a queue competes at its channel's level alone. -/
theorem levelMsg_single {s : State} {c : Nat} {m : Msg} (hm : (s.core c).msgs = [m]) (h p : Nat) :
    s.levelMsg c h p = if m.hearth = h ∧ openEntry (get 0 (s.core c).chans m.chan) h = true ∧
      (get 0 (s.core c).chans m.chan).bits 61 60 = p then some 0 else none := by
  rw [State.levelMsg, hm]
  dsimp only
  rw [List.findIdx?_cons]
  generalize get 0 (s.core c).chans m.chan = e
  by_cases h1 : m.hearth = h
  · by_cases h2 : openEntry e h = true
    · by_cases h3 : e.bits 61 60 = p
      · simp [h1, h2, h3]
      · simp [h1, h2, h3]
    · simp [h1, h2]
  · simp [h1]

/-- The message of a queue of one starts in a slot. -/
theorem startMsg_single {s : State} {c n : Nat} {m : Msg} (hm : (s.core c).msgs = [m]) :
    s.startMsg c n 0 = (s.setSlot c n { msgSlot (s.hearth m.hearth) (get 0 (s.core c).chans m.chan) m with
      rc := (s.core c).resume.max m.rc, readyAt := ((s.core c).slot n).readyAt }).modCore c fun k =>
        { k with msgs := dropNth k.msgs 0, rcache := [] } := by
  rw [State.startMsg, hm]
  rfl

section
variable {c n p : Nat} {s : State} {m : Msg} (hm : (s.core c).msgs = [m]) (hq : ∀ h, (s.hearth h).qtbase = 0)
include hm hq

/-- A hearth without a task binds no queue, and where the message is another's it has no work. -/
theorem dispatchHearth_none {h : Nat} (hh : h ≠ m.hearth) : s.dispatchHearth c n h = none := by
  have hl (p : Nat) : s.levelMsg c h p = none := by
    rw [levelMsg_single hm, if_neg fun hc => hh hc.1.symm]
  have hidle : ((s.core c).stopped.contains h || (s.hearth h).qtbase == 0) = true := by rw [hq h]; simp
  unfold State.dispatchHearth
  dsimp only
  by_cases hs : (s.hearth h).suspended = true
  · rw [if_pos hs]
  · rw [if_neg hs, if_pos hidle, if_pos hidle]
    simp [hl, Core.chooseLevel, get]

theorem dispatchHearth_some (hs : (s.hearth m.hearth).suspended = false)
    (ho : openEntry (get 0 (s.core c).chans m.chan) m.hearth = true) (hp : (get 0 (s.core c).chans m.chan).bits 61 60 = p) :
    s.dispatchHearth c n m.hearth = some (((s.setCore c { s.core c with starve := put (s.core c).starve (4 * m.hearth + p) 0 }).startMsg
      c n 0).modCore c fun k => { k with msgTurn := put k.msgTurn (4 * m.hearth + p) true, lastHearth := m.hearth }) := by
  have hl (q : Nat) : s.levelMsg c m.hearth q = if p = q then some 0 else none := by
    rw [levelMsg_single hm, hp, ho]
    simp
  have hidle : ((s.core c).stopped.contains m.hearth || (s.hearth m.hearth).qtbase == 0) = true := by rw [hq]; simp
  have hp4 : p < 4 := by
    have := bits_lt (get 0 (s.core c).chans m.chan) 61 60
    omega
  have hcand : (List.range 4).filter (fun q => (if p = q then some 0 else none : Option Nat).isSome) = [p] := by
    interval_cases p
    all_goals rfl
  have hkeep (st : List (Nat × Nat)) (q : Nat) :
      (s.setCore c { s.core c with starve := st }).levelMsg c m.hearth q = s.levelMsg c m.hearth q := by
    simp [State.levelMsg]
  unfold State.dispatchHearth
  dsimp only
  rw [if_neg (by simp [hs]), if_pos hidle, if_pos hidle]
  simp [hl, get, get?, hcand, chooseLevel_single, hkeep]

end

theorem resumeOldest_none {s : State} {c : Nat} (hr : Claims.NoRunQueue s) (hc : (s.core c).conts = []) (n : Nat) :
    s.resumeOldest c n = none := by
  rw [State.resumeOldest, runHeads_nil hr, hc]
  rfl

section
variable {c n p : Nat} {s : State} {m : Msg} (hs : s.coreServes c = true) (hl : Claims.LowestFree s c n) (hr : Claims.NoRunQueue s)
  (hpc : s.pieces = []) (hct : (s.core c).conts = []) (hq : ∀ h, (s.hearth h).qtbase = 0) (hm : (s.core c).msgs = [m])
  (hh : m.hearth < 16) (hsus : (s.hearth m.hearth).suspended = false)
  (ho : openEntry (get 0 (s.core c).chans m.chan) m.hearth = true) (hp : (get 0 (s.core c).chans m.chan).bits 61 60 = p)
include hs hl hr hpc hct hq hm hh hsus ho hp

theorem dispatch_eq : exec (.dispatch c) s = .next ((((({ s with curCore := c } : State).setCore c
    { s.core c with starve := put (s.core c).starve (4 * m.hearth + p) 0 }).startMsg c n 0)).modCore c fun k =>
      { k with msgTurn := put k.msgTurn (4 * m.hearth + p) true, lastHearth := m.hearth }) := by
  have hheld : (List.range 16).any (({ s with curCore := c } : State).runHeld c) = false :=
    List.any_eq_false.mpr fun i _ => ne_true_of_eq_false (runHeld_false (s := { s with curCore := c }) hr c i)
  have hfind : (({ s with curCore := c } : State).core c).hearthOrder.findSome? (({ s with curCore := c } : State).dispatchHearth c n) = _ :=
    findSome?_unique (mem_hearthOrder _ hh) (dispatchHearth_some (s := { s with curCore := c }) hm hq hsus ho hp) fun x hx =>
      dispatchHearth_none (s := { s with curCore := c }) hm hq hx
  change execDispatch c s = _
  rw [execDispatch, if_neg (by simp [hs]), freeSlot?_of_lowest hl]
  dsimp only
  rw [settle_of_no_pieces hpc, resumeOldest_none (s := { s with curCore := c }) hr hct]
  dsimp only
  rw [hheld, hfind]
  rfl

theorem dispatch_starts (hirq : m.irq = false) : ∃ t : State, exec (.dispatch c) s = .next t ∧ (t.core c).msgs = [] ∧ t.mem = s.mem ∧
    let x := t.slot c n
    x.busy = true ∧ x.pc = (BitVec.ofNat 57 ((get 0 (s.core c).chans m.chan).bits 55 0 * 2)).signExtend 64 ∧ x.st.hearth = m.hearth ∧
      x.st.priv = 0 ∧ x.st.live = 0x000F ∧ (∀ i < 4, x.w i = m.payload.getD i 0) ∧ x.taskid = 0x0000FFFFFFFFFFFF ∧
      x.rc = (s.core c).resume.max m.rc := by
  refine ⟨_, dispatch_eq hs hl hr hpc hct hq hm hh hsus ho hp, ?_⟩
  have hm' : ((({ s with curCore := c } : State).setCore c { s.core c with starve := put (s.core c).starve (4 * m.hearth + p) 0 }).core
      c).msgs = [m] := by
    rw [State.core_setCore_same]
    exact hm
  rw [startMsg_single hm', State.core_setCore_same]
  refine ⟨?_, rfl, ?_⟩
  · rw [State.core_modCore_same, State.core_modCore_same]
    dsimp only
    rw [State.setSlot, State.core_modCore_same, State.core_setCore_same]
    change dropNth (s.core c).msgs 0 = []
    rw [hm]
    rfl
  · rw [slot_modCore _ _ (by exact fun _ => rfl), slot_modCore _ _ (by exact fun _ => rfl), State.slot_setSlot_same]
    refine ⟨rfl, ?_, rfl, ?_, rfl, fun i hi => ?_, rfl, rfl⟩
    · simp [msgSlot, hirq, va57]
    · simp [msgSlot, hirq]
    · interval_cases i
      all_goals rfl

end

end Sys2Proof.Machine

/-! # Arrival of an evicted frame (O49)

Hardware's accesses for the arrival, its record among them, leave a thread alone that waits for nothing (`Beside`). -/

namespace Sys2Proof.Machine

/-- t has the frames of s, and its threads that wait for nothing. -/
structure Beside (s t : State) : Prop where
  frames : t.frames = s.frames
  slot (c n : Nat) : (s.slot c n).wait = .none → t.slot c n = s.slot c n

namespace Beside

variable {s t u : State}

theorem refl (s : State) : Beside s s := ⟨rfl, fun _ _ _ => rfl⟩

theorem trans (h : Beside s t) (h' : Beside t u) : Beside s u where
  frames := h'.frames.trans h.frames
  slot c n hw := by
    have ht := h.slot c n hw
    rw [h'.slot c n (by rw [ht, hw]), ht]

theorem of_written (h : Written s t) : Beside s t := ⟨by rw [h.rest], h.slot⟩

end Beside

theorem beside_of_cores {s t : State} (hf : t.frames = s.frames) (hc : t.cores = s.cores) : Beside s t where
  frames := hf
  slot c n _ := by rw [State.slot, State.core, hc]; rfl

theorem beside_modCore (s : State) (c : Nat) {f : Core → Core} (hf : ∀ k, (f k).slots = k.slots) : Beside s (s.modCore c f) where
  frames := rfl
  slot d n _ := slot_modCore s c hf d n

/-- Unfolded in place, so that the kernel does not evaluate `ringWrite`. -/
theorem beside_report (s : State) (r : Record) : Beside s (s.report r) := by
  conv => arg 2; fun; fun; delta State.report
  split
  next a seq u e =>
    have h0 : Beside s u := .of_written (((written_ringWrite s r).of_eq e).of_eq rfl)
    extract_lets s1 ras s2 s3
    have h1 : Beside u s1 := by
      unfold s1
      split
      · exact .refl u
      · split
        · exact .refl u
        · exact beside_of_cores rfl rfl
    have h2 : Beside s1 s2 := by
      unfold s2
      split
      · exact beside_of_cores rfl rfl
      · exact .refl s1
    have h3 : Beside s2 s3 := by
      unfold s3
      split
      · exact beside_of_cores rfl rfl
      · exact .refl s2
    refine ((h0.trans h1).trans (h2.trans h3)).trans ?_
    split
    · exact beside_modCore _ _ fun _ => rfl
    · exact .refl s3

theorem beside_stopDispatch (s : State) (c h : Nat) : Beside s (s.stopDispatch c h) := by
  unfold State.stopDispatch
  exact beside_modCore _ _ fun _ => rfl

theorem beside_lookup (s : State) (c h : Nat) (id : Word) : OnSnd (Beside s) (s.lookup c h id) := by
  unfold State.lookup
  split
  · exact (beside_report ..).trans (beside_stopDispatch ..)
  · exact .refl s

theorem beside_casTask (s : State) (h : Nat) (tr : Word) (old new : Nat) : OnOk (OnSnd (Beside s)) (s.casTask h tr old new) := by
  unfold State.casTask
  split
  · exact .error
  · dsimp only
    split
    · exact .ok (.refl s)
    · split
      next e => exact .ok (.of_written ((written_hwWrite ..).of_eq e))
      · exact .error

theorem beside_casThread (s : State) (c h : Nat) (id : Word) (old new : Nat) : OnOk (Beside s) (s.casThread c h id old new) := by
  have hl := beside_lookup s c h id
  unfold State.casThread
  split
  next e => exact .map (beside_casTask ..) fun _ h => (hl.of_eq e).trans h
  · exact .error
  next e => exact .ok (hl.of_eq e)

/-! ## The thread of a frame -/

theorem get_foldl_live (live : BitVec 16) (w : List Word) (l : List Nat) (m : List (Nat × Word)) (k : Nat) :
    get 0 (l.foldl (fun m i => if live.getLsbD i then put m i (w.getD i 0) else m) m) k =
      if k ∈ l ∧ live.getLsbD k = true then w.getD k 0 else get 0 m k := by
  induction l generalizing m with
  | nil => simp
  | cons j l ih =>
    rw [List.foldl_cons, ih]
    by_cases hk : k = j
    · subst hk
      by_cases hl : live.getLsbD k = true
      · simp [hl]
      · simp [hl]
    · by_cases hl : live.getLsbD j = true
      · simp [hk, hl, get_put_ne _ _ _ hk]
      · simp [hk, hl]

/-- A register of a thread that a billet brings (R47). -/
theorem w_slotOfBillet (b : Billet) {i : Nat} (hi : i < 16) :
    (slotOfBillet b).w i = if b.status.getLsbD i then b.w.getD i 0 else 0 := by
  have hlive : (Status.unpack b.status).live.getLsbD i = b.status.getLsbD i := by
    have hmod := Nat.testBit_mod_two_pow b.status.toNat 16 i
    rw [decide_eq_true hi, Bool.true_and] at hmod
    simpa [Status.unpack, Word.bits, natBits, BitVec.getLsbD] using hmod
  have hentry : (slotOfBillet b).entry i = i := Nat.mod_eq_of_lt (by change 0 * 8 + i < 96; omega) |>.trans (by change 0 * 8 + i = i; omega)
  rw [Slot.w, hentry]
  refine (get_foldl_live ..).trans ?_
  rw [hlive]
  simp [hi]

/-- The thread of a frame as it stands in its slot. -/
def frameThread (x : Frame) (q : Kept) (log : Word) (rc : Clock) (ready : Nat) : Slot :=
  let t := (slotOfFrame x).withKept q
  let t := if t.st.idv then { t with idemlog := log } else t
  { t with rc := rc, readyAt := ready, st := { t.st with hearth := x.hearth } }

theorem frameThread_eq (x : Frame) (q : Kept) (log : Word) (rc : Clock) (ready : Nat) : ∃ il, frameThread x q log rc ready =
    { (slotOfFrame x).withKept q with
      idemlog := il, rc := rc, readyAt := ready, st := { (slotOfFrame x).st with hearth := x.hearth } } := by
  unfold frameThread
  dsimp only
  split
  · exact ⟨_, rfl⟩
  · exact ⟨_, rfl⟩

theorem holdsFrame_frameThread (x : Frame) (q : Kept) (log : Word) (rc : Clock) (ready : Nat) :
    Claims.HoldsFrame (frameThread x q log rc ready) x := by
  obtain ⟨il, h⟩ := frameThread_eq x q log rc ready
  rw [h]
  exact ⟨rfl, rfl, rfl, rfl, rfl, rfl, rfl, rfl, rfl, rfl, rfl, fun i hi => w_slotOfBillet x.billet hi⟩

theorem wait_frameThread (x : Frame) (q : Kept) (log : Word) (rc : Clock) (ready : Nat) :
    (frameThread x q log rc ready).wait = .none := by
  obtain ⟨il, h⟩ := frameThread_eq x q log rc ready
  rw [h]
  rfl

/-- A frame's thread takes its slot, and keeps it while its task's state changes (R71). -/
theorem placeFrame_slot (s : State) (c n : Nat) (x : Frame) (q : Kept) (clk : Clock) :
    (s.placeFrame c n x q clk).slot c n = frameThread x q (word (s.core c).log.tail.toNat) ((s.core c).resume.max clk) ((s.core c).slot n).readyAt ∧
      (s.placeFrame c n x q clk).frames = s.frames := by
  unfold State.placeFrame
  extract_lets t k t' st s1 s2
  have hslot : s2.slot c n = frameThread x q (word (s.core c).log.tail.toNat) ((s.core c).resume.max clk) ((s.core c).slot n).readyAt := by
    unfold s2
    rw [slot_modCore]
    · exact State.slot_setSlot_same ..
    · exact fun _ => rfl
  have hb {u : State} (h : Beside s2 u) : u.slot c n = _ ∧ u.frames = s.frames :=
    ⟨(h.slot c n (by rw [hslot, wait_frameThread])).trans hslot, h.frames⟩
  split
  · exact hb (.refl s2)
  · split
    next e => exact hb ((beside_casThread ..).of_eq e)
    · split
      · exact hb (.refl s2)
      · exact hb (beside_report ..)

/-! ## The arrival -/

theorem frames_resentBack (s : State) (x : Flight) (left : Bool) : (s.resentBack x left).frames = s.frames := by
  unfold State.resentBack
  split
  · rfl
  · rfl

theorem slot_resentBack (s : State) (x : Flight) (left : Bool) (c n : Nat) : (s.resentBack x left).slot c n = s.slot c n := by
  unfold State.resentBack
  split
  · rfl
  · rw [slot_modCore]
    exact fun _ => rfl

section
variable {i n : Nat} {s : State} {x : Flight} (hx : s.frames[i]? = some x) (hk : x.frame.kind = 2) (hd : x.dead = false)
  (hs : s.coreServes x.frame.target = true) (hq : s.reqs = []) (hl : Claims.LowestFree s x.frame.target n) (hr : Claims.NoRunQueue s)
  (hsus : (s.hearth x.frame.hearth).suspended = false)
include hs

/-- A core that serves takes what comes. -/
theorem serves_hears : s.deaf x.frame.target = false ∧ (s.core x.frame.target).quarantined = false ∧ s.coreTakes x.frame.target = true ∧
    (s.core x.frame.target).roused = s.core x.frame.target := by
  have htakes : s.coreTakes x.frame.target = true := (Bool.and_eq_true_iff.mp hs).1
  simp only [State.coreServes, State.coreTakes, Bool.and_eq_true, Bool.not_eq_true'] at hs
  obtain ⟨⟨⟨⟨⟨⟨⟨⟨⟨⟨-, hboot⟩, hbad⟩, hquar⟩, -⟩, hgated⟩, hpaused⟩, -⟩, -⟩, hpower⟩, hprep⟩ := hs
  exact ⟨by simp [State.deaf, State.clockStopped, hpaused, hpower, hboot, hbad], hquar, htakes, by simp [Core.roused, hprep, hgated]⟩

include hx hk hd hq hl hr hsus

theorem frameArrival_eq : exec (.frameArrival i) s =
    .next (((({ s with frames := dropNth s.frames i, curCore := x.frame.target } : State).modCore x.frame.target Core.roused).placeFrame
      x.frame.target n x.frame x.kept {}).resentBack x true) := by
  obtain ⟨hdeaf, hquar, htakes, hrous⟩ := serves_hears hs
  have hbehind : s.framesBehind x = false := by simp [State.framesBehind, hq]
  have hcore : (({ s with frames := dropNth s.frames i, curCore := x.frame.target } : State).modCore x.frame.target Core.roused).core
      x.frame.target = s.core x.frame.target := (State.core_modCore_same ..).trans hrous
  change execFrameArrival i s = _
  rw [execFrameArrival, hx]
  dsimp only
  rw [if_neg (by simp [hdeaf, hbehind]), if_neg (by simp [hquar]), if_neg (by simp [hd]), State.handleClock, if_pos (by rw [hk]; decide)]
  dsimp only
  rw [if_neg ?_]
  · rw [hcore, freeSlot?_of_lowest hl]
  · generalize hu : ({ s with frames := dropNth s.frames i, curCore := x.frame.target } : State).modCore x.frame.target Core.roused = u
    have hheads : u.runHeads x.frame.target = [] := by
      refine runHeads_nil ?_ _
      rw [← hu]
      exact hr
    have hcore' : u.core x.frame.target = s.core x.frame.target := hu ▸ hcore
    have htakes' : u.coreTakes x.frame.target = true := by
      rw [State.coreTakes, hcore', ← hu]
      exact htakes
    have hsus' : (u.hearth x.frame.hearth).suspended = false := hu ▸ hsus
    simp [hheads, htakes', hsus']

theorem frameArrival_places : ∃ t : State, exec (.frameArrival i) s = .next t ∧
    Claims.HoldsFrame (t.slot x.frame.target n) x.frame ∧ Claims.Without s.frames t.frames i := by
  refine ⟨_, frameArrival_eq hx hk hd hs hq hl hr hsus, ?_, ?_⟩
  · rw [slot_resentBack, (placeFrame_slot ..).1]
    exact holdsFrame_frameThread ..
  · rw [Claims.Without, frames_resentBack, (placeFrame_slot ..).2]
    exact dropNth_eq ..

end

end Sys2Proof.Machine

/-! # A quarantined core stays quarantined (O49)

No operation that the disposal of a core's threads comes to (R464, R481) takes a core out of quarantine. For each there is one lemma, in
the order of the model's parts: a core that is out before it is out after it (`Quar`). -/

namespace Sys2Proof.Machine

/-- Core q is quarantined. -/
def Quar (q : Nat) (s : State) : Prop := (s.core q).quarantined = true

section
variable {q : Nat} {s : State}

/-! ## Cores, slots and what lies beside them -/

theorem quar_same {t : State} (hs : Quar q s) (hc : t.cores = s.cores := by rfl) : Quar q t := by
  rw [Quar, State.core, hc]
  exact hs

theorem quar_modCore {c : Nat} {f : Core → Core} (hs : Quar q s)
    (hf : ∀ k, k.quarantined = true → (f k).quarantined = true := by exact fun _ h => h) : Quar q (s.modCore c f) := by
  by_cases hq : q = c
  · subst hq
    rw [Quar, State.core_modCore_same]
    exact hf _ hs
  · rw [Quar, State.core_modCore_ne s f hq]
    exact hs

theorem quar_of_written {t : State} (h : Written s t) (hs : Quar q s) : Quar q t := by
  obtain ⟨_, _, _, _, hc⟩ := h.core q
  rw [Quar, hc]
  exact hs

theorem onOk_quar {ε : Type} {x : Except ε State} (h : OnOk (Written s) x) (hs : Quar q s) : OnOk (Quar q) x := by
  cases h with
  | ok h => exact .ok (quar_of_written h hs)
  | error => exact .error

theorem quar_setSlot {c n : Nat} {t : Slot} (hs : Quar q s) : Quar q (s.setSlot c n t) :=
  quar_modCore hs

theorem quar_modSlot {c n : Nat} {f : Slot → Slot} (hs : Quar q s) : Quar q (s.modSlot c n f) :=
  quar_setSlot hs

theorem quar_modCur {f : Slot → Slot} (hs : Quar q s) : Quar q (s.modCur f) :=
  quar_modSlot hs

theorem quar_modHearth {h : Nat} {f : Hearth → Hearth} (hs : Quar q s) : Quar q (s.modHearth h f) :=
  hs

theorem quar_modCluster {c : Nat} {f : Cluster → Cluster} (hs : Quar q s) :
    Quar q (s.modCluster c f) :=
  hs

theorem quar_modDie {d : Nat} {f : Die → Die} (hs : Quar q s) : Quar q (s.modDie d f) :=
  hs

theorem quar_modHome {h : Nat} {f : Home → Home} (hs : Quar q s) : Quar q (s.modHome h f) :=
  hs

theorem quar_fresh (hs : Quar q s) : OnSnd (Quar q) s.fresh := hs

theorem quar_free (hs : Quar q s) : OnSnd (Quar q) s.free := hs

theorem quar_setPoison {w : Nat} (hs : Quar q s) : Quar q (s.setPoison w) := by
  unfold State.setPoison
  split <;> exact hs

theorem quar_trapAt {pc : Word} {r : TrapRec} (hs : Quar q s) : Quar q (s.trapAt pc r) :=
  quar_modCur hs

theorem quar_trap {r : TrapRec} (hs : Quar q s) : Quar q (s.trap r) :=
  quar_trapAt hs

theorem quar_keep {h : Nat} {va : Word} {x : Kept} (hs : Quar q s) : Quar q (s.keep h va x) :=
  quar_modHearth hs

theorem quar_unkeep {h : Nat} {va : Word} (hs : Quar q s) : Quar q (s.unkeep h va) := by
  unfold State.unkeep
  split
  · exact quar_modHearth hs
  · exact hs

theorem quar_clearIdv (hs : Quar q s) : Quar q s.clearIdv := quar_modCur hs

theorem quar_dropMisses {c who : Nat} (hs : Quar q s) : Quar q (s.dropMisses c who) := by
  unfold State.dropMisses
  split
  · exact quar_modDie hs
  · exact hs

theorem quar_acquireAt {c n : Nat} {clk : Clock} (hs : Quar q s) : Quar q (s.acquireAt c n clk) :=
  quar_modCore (quar_modSlot hs)

theorem quar_setBytes {pa : Nat} {bs : List Byte} (hs : Quar q s) : Quar q (s.setBytes pa bs) :=
  quar_of_written (written_setBytes ..) hs

theorem quar_setMemW {pa : Nat} {v : Word} (hs : Quar q s) : Quar q (s.setMemW pa v) :=
  quar_setBytes hs

theorem quar_writeLS {c off : Nat} {bs : List Byte} (hs : Quar q s) : Quar q (s.writeLS c off bs) :=
  quar_of_written (written_writeLS ..) hs

theorem quar_writeAt {pa : Nat} {bs : List Byte} (hs : Quar q s) : Quar q (s.writeAt pa bs) :=
  quar_of_written (written_writeAt ..) hs

theorem quar_hwWrite {h : Nat} {va : Word} {bs : List Byte} (hs : Quar q s) : OnOk (Quar q) (s.hwWrite h va bs) :=
  onOk_quar (written_hwWrite ..) hs

theorem quar_hwWords {h : Nat} {va : Word} {l : List Word} (hs : Quar q s) : OnOk (Quar q) (s.hwWords h va l) :=
  onOk_quar (written_hwWords ..) hs

theorem quar_ringWrite {r : Record} (hs : Quar q s) : OnSnd (OnSnd (Quar q)) (s.ringWrite r) :=
  quar_of_written (written_ringWrite ..) hs

theorem quarantined_setViewByte (k : Core) (n off : Nat) (x : Byte) : (k.setViewByte n off x).quarantined = k.quarantined := by
  unfold Core.setViewByte
  dsimp only
  split
  · rfl
  · split
    · rfl
    · split
      · rfl
      · split
        · rfl
        · rfl

theorem quar_coreWrite {c slot off : Nat} {bs : List Byte} (hs : Quar q s) : Quar q (s.coreWrite c slot off bs) := by
  unfold State.coreWrite
  split
  · refine quar_modCore hs fun k hk => ?_
    refine foldl_keeps (P := fun p : Core × Nat => p.1.quarantined = true) hk fun p b hp => ?_
    rw [quarantined_setViewByte, hp]
  · exact quar_writeLS hs

theorem quar_setJournal {h : Nat} {seq : Word} {e : BitVec 256} (hs : Quar q s) :
    Quar q (s.setJournal h seq e) :=
  quar_modHearth hs

theorem quar_errorJournal {h cause : Nat} (hs : Quar q s) : Quar q (s.errorJournal h cause) :=
  quar_setJournal (quar_modHearth hs)

theorem quar_report {r : Record} (hs : Quar q s) : Quar q (s.report r) := by
  conv => arg 2; fun; fun; delta State.report
  split
  next e =>
    have h0 := ((quar_ringWrite hs).of_eq e).of_eq rfl
    extract_lets s1 ras s2 s3
    have h1 : Quar q s1 := by
      change Quar q (if _ then _ else _)
      split
      · exact h0
      · split
        · exact h0
        · exact quar_same h0
    have h2 : Quar q s2 := by
      change Quar q (if _ then _ else _)
      split
      · exact quar_same h1
      · exact h1
    have h3 : Quar q s3 := by
      change Quar q (if _ then _ else _)
      split
      · exact quar_errorJournal h2
      · exact h2
    clear_value s3
    split
    · exact quar_modCore h3
    · exact h3

theorem quar_lineFixed {r : Record} {line errors erasures : Nat} {syms : List Nat} (hs : Quar q s) :
    Quar q (s.lineFixed r line errors erasures syms) := by
  unfold State.lineFixed
  dsimp only
  split
  · split
    · exact quar_free (quar_modHome hs)
    · exact quar_report (quar_modHome (quar_free (quar_modHome hs)))
  · split
    · exact quar_modHome hs
    · exact quar_report (quar_modHome (quar_modHome hs))

theorem quar_readLine {r : Record} {line : Nat} (hs : Quar q s) : Quar q (s.readLine r line) := by
  unfold State.readLine
  split
  · exact hs
  · dsimp only
    split
    · exact hs
    · split
      · exact quar_lineFixed hs
      · split
        · exact quar_lineFixed (foldl_keeps (quar_free hs) (fun _ _ h1 => quar_setMemW
            (quar_free h1)))
        · exact quar_report (quar_modHome (foldl_keeps (quar_free hs) (fun _ _ =>
            quar_setPoison)))

theorem quar_readLines {r : Record} {pa n : Nat} (hs : Quar q s) : Quar q (s.readLines r pa n) := by
  unfold State.readLines
  split
  · exact hs
  · exact foldl_keeps hs (fun _ _ => quar_readLine)

theorem quar_sendEntry {c : Nat} {e : XEntry} (hs : Quar q s) :
    OnFst (Quar q) (s.sendEntry c e) := by
  unfold State.sendEntry
  split
  · exact hs
  · split <;> exact hs

theorem quar_evictEntries {c : Nat} (hs : Quar q s) : Quar q (s.evictEntries c) :=
  quar_modCore (foldl_keeps hs (fun _ _ => quar_sendEntry))

theorem quar_putEntry {c : Nat} {e : XEntry} (hs : Quar q s) : Quar q (s.putEntry c e) :=
  quar_evictEntries (quar_modCore hs)

theorem quar_updateEntry {c : Nat} {e : XEntry} {kind : Nat} {f : XEntry → XEntry} (hs : Quar q s) :
    Quar q (s.updateEntry c e kind f) := by
  unfold State.updateEntry
  dsimp only
  split
  · exact hs
  · split
    · split
      · exact quar_putEntry (quar_sendEntry (quar_sendEntry hs))
      · exact quar_putEntry (quar_sendEntry hs)
    · split
      · exact quar_putEntry (quar_sendEntry hs)
      · exact quar_putEntry hs

theorem quar_loadWaited {c n priv xs : Nat} (hs : Quar q s) : Quar q (s.loadWaited c n priv xs) := by
  unfold State.loadWaited
  dsimp only
  split
  · exact hs
  · split
    · exact quar_updateEntry hs
    · exact hs

theorem quar_sendEntries {c : Nat} {p : XEntry → Bool} {keep : Bool} (hs : Quar q s) :
    Quar q (s.sendEntries c p keep) := by
  unfold State.sendEntries
  refine List.foldrRecOn _ _ hs fun t ht e _ => ?_
  split
  · exact quar_modCore (quar_sendEntry ht)
  · exact ht

theorem quar_sendTask {c n : Nat} (hs : Quar q s) : Quar q (s.sendTask c n) := by
  unfold State.sendTask
  dsimp only
  split
  · exact quar_sendEntries hs
  · exact hs

theorem quar_discardedWaits {c n : Nat} (hs : Quar q s) : Quar q (s.discardedWaits c n) := by
  unfold State.discardedWaits
  refine foldl_keeps (P := OnFst (Quar q)) hs (fun _ _ h1 => ?_)
  split
  · exact h1
  · exact quar_loadWaited h1

theorem quar_restartRegion {cause : Nat} {addr : Word} (hs : Quar q s) :
    Quar q (s.restartRegion cause addr) := by
  unfold State.restartRegion
  extract_lets c n t r s1 s2 s3
  split
  · exact quar_trap (quar_clearIdv hs)
  · have h1 : Quar q s1 := quar_discardedWaits (quar_report hs)
    have h2 : Quar q s2 := quar_modCore h1
    have h3 : Quar q s3 := quar_same h2
    exact quar_modCur h3

theorem quar_regionRestart {addr : Word} (hs : Quar q s) : Quar q (s.regionRestart addr) :=
  quar_restartRegion hs

theorem quar_consumePoison {addr : Word} (hs : Quar q s) : Quar q (s.consumePoison addr) := by
  unfold State.consumePoison
  split
  · exact quar_regionRestart hs
  · exact quar_trap hs

theorem quar_consume {d : Deferred} (hs : Quar q s) : Quar q (s.consume d) := by
  unfold State.consume
  dsimp only
  split
  · exact quar_consumePoison (quar_modCur hs)
  · exact quar_trap (quar_modCur hs)

theorem quar_boundary {c n : Nat} (hs : Quar q s) : OnSome (Quar q) (s.boundary c n) := by
  unfold State.boundary
  dsimp only
  split
  · exact .none
  · split
    · exact .some (quar_trap (quar_modCur (quar_dropMisses hs)))
    · split
      · exact .map_of_forall fun _ => quar_trap (quar_modCur hs)
      · split
        · exact .map_of_forall fun _ => quar_consume hs
        · exact .none

theorem quar_putFrame {frame : Nat} {ws : List Word} (hs : Quar q s) :
    Quar q (s.putFrame frame ws) :=
  quar_coreWrite hs

theorem quar_setPlimit {v : Word} (hs : Quar q s) : Quar q (s.setPlimit v) := by
  unfold State.setPlimit
  split
  · dsimp only
    exact hs
  · exact hs

theorem quar_modBoot {c : Nat} {f : BootBlock → BootBlock} (hs : Quar q s) :
    Quar q (s.modBoot c f) :=
  hs

theorem quar_setBctl {c : Nat} {v : Word} (hs : Quar q s) : Quar q (s.setBctl c v) := by
  unfold State.setBctl
  split
  · exact hs
  · split <;> exact quar_modCore (quar_modBoot hs)

theorem quar_setBstat {c : Nat} {v : Word} (hs : Quar q s) : Quar q (s.setBstat c v) :=
  quar_modBoot hs

theorem quar_setLsrep {c n : Nat} {v : Word} (hs : Quar q s) : Quar q (s.setLsrep c n v) :=
  quar_modBoot hs

theorem quar_setReduction {h j : Nat} {x : Reduction} (hs : Quar q s) :
    Quar q (s.setReduction h j x) :=
  quar_modHearth hs

theorem quar_endRound {h j : Nat} {last : Option Nat} (hs : Quar q s) :
    Quar q (s.endRound h j last) := by
  unfold State.endRound
  dsimp only
  split
  · exact hs
  · split
    · exact quar_setReduction hs
    · exact quar_setReduction (quar_same (quar_free (quar_free hs)))

theorem quar_contribute {h j pkg : Nat} {v : Word} (hs : Quar q s) :
    Quar q (s.contribute h j pkg v) := by
  unfold State.contribute
  dsimp only
  split
  · exact quar_setReduction hs
  · exact quar_endRound (quar_setReduction hs)

theorem quar_setRedCtl {h j : Nat} {v : Word} (hs : Quar q s) : Quar q (s.setRedCtl h j v) := by
  unfold State.setRedCtl
  dsimp only
  split
  · exact hs
  · split <;> exact quar_setReduction hs

theorem quar_clearRedGen {h j : Nat} {v : Word} (hs : Quar q s) : Quar q (s.clearRedGen h j v) := by
  unfold State.clearRedGen
  dsimp only
  split
  · exact quar_setReduction hs
  · exact hs

theorem quar_setReductionReg {h j r : Nat} {v : Word} {pod : Bool} (hs : Quar q s) :
    Quar q (s.setReductionReg h j r v pod) := by
  unfold State.setReductionReg
  dsimp only
  split
  · exact quar_setRedCtl hs
  · split
    · exact quar_contribute (quar_setReduction hs)
    · exact quar_setReduction hs
  · exact quar_clearRedGen hs
  · split
    · exact hs
    · exact quar_endRound (quar_setReduction hs)
  · exact hs

theorem quar_hubWrite {r : HubReg} {v : Word} {pod : Bool} (hs : Quar q s) :
    Quar q (s.hubWrite r v pod) := by
  unfold State.hubWrite
  split
  · exact quar_setPlimit hs
  · exact quar_modHearth hs
  · exact quar_modHearth hs
  · exact quar_modHearth hs
  · exact quar_setReductionReg hs
  · exact quar_setBctl hs
  · exact quar_setBstat hs
  · exact quar_setLsrep hs
  · exact hs

theorem quar_hubSetBytes {pa : Nat} {bs : List Byte} {pod : Bool} (hs : Quar q s) :
    Quar q (s.hubSetBytes pa bs pod) := by
  unfold State.hubSetBytes
  split
  · dsimp only
    exact quar_hubWrite hs
  · exact hs

theorem quar_failPhase {h unit : Nat} {r : Record} (hs : Quar q s) :
    Quar q (s.failPhase h unit r) := by
  unfold State.failPhase
  dsimp only
  split
  · exact quar_modHearth hs
  · exact quar_report (quar_modHearth (quar_modHearth hs))

theorem quar_mergeFail {h : Nat} {cs : List (Nat × Word × Word)} (hs : Quar q s) :
    Quar q (s.mergeFail h cs) := by
  unfold State.mergeFail
  split
  · exact hs
  · split
    · split
      · exact quar_failPhase hs

theorem quar_deferPiece {p : Piece} {es : List LogEntry} (hs : Quar q s) :
    Quar q (s.deferPiece p es) :=
  quar_modHearth (quar_mergeFail hs)

theorem quar_ringSet {c pos : Nat} {w0 w1 : Word} (hs : Quar q s) :
    Quar q (s.ringSet c pos w0 w1) := by
  unfold State.ringSet
  dsimp only
  split
  · exact hs
  · exact quar_setBytes hs


end

end Sys2Proof.Machine

/-! # Quarantine through the log and the releases (O49) -/

namespace Sys2Proof.Machine

section
variable {q : Nat} {s : State}

theorem quar_closeLog {c : Nat} {x : Closing} (hs : Quar q s) : Quar q (s.closeLog c x) :=
  quar_modCore (quar_ringSet hs)

theorem quar_switchHearth {c h : Nat} (hs : Quar q s) : Quar q (s.switchHearth c h) := by
  unfold State.switchHearth
  dsimp only
  split
  · exact hs
  · refine quar_modCore ?_
    split
    · exact hs
    · exact quar_closeLog hs

theorem quar_release {c n sc : Nat} {follow : List Nat} (hs : Quar q s) :
    Quar q (s.release c n sc follow) := by
  unfold State.release
  exact quar_modSlot (quar_closeLog (quar_switchHearth hs))

theorem quar_stamp {d : Nat} {rc : Clock} (hs : Quar q s) : OnSnd (Quar q) (s.stamp d rc) :=
  quar_modDie hs

theorem quar_publish {c h tail : Nat} {v : Clock} (hs : Quar q s) : Quar q (s.publish c h tail v) :=
  quar_modCore hs fun k hk => by
    split
    · exact hk
    · exact hk

theorem quar_completeRelease {r : Release} (hs : Quar q s) : Quar q (s.completeRelease r) := by
  unfold State.completeRelease
  extract_lets s1 s2 s3
  have h1 : Quar q s1 := hs
  have h2 : Quar q s2 := by
    unfold s2
    split
    · exact h1
    · exact quar_modCore h1
  have h3 : Quar q s3 := by
    unfold s3
    split
    · exact quar_publish h2
    · exact h2
  split
  · split
    · exact quar_modSlot h3
    · exact h3
  · exact h3

theorem quar_ship {r : Release} {pod : Bool} {es : List LogEntry} (hs : Quar q s) :
    Quar q (s.ship r pod es) := by
  unfold State.ship
  dsimp only
  split
  · exact quar_completeRelease (foldl_keeps hs (fun _ _ h1 => quar_same (quar_fresh h1)))
  · exact foldl_keeps hs (fun _ _ h1 => quar_same (quar_fresh h1))

theorem quar_cuWriteback {cl w : Nat} (hs : Quar q s) : Quar q (s.cuWriteback cl w) := by
  unfold State.cuWriteback
  split
  · exact hs
  · dsimp only
    exact quar_ship (quar_fresh (quar_stamp (quar_modCluster hs)))

theorem quar_stampRelease {c : Nat} (hs : Quar q s) : Quar q (s.stampRelease c) := by
  unfold State.stampRelease
  split
  · exact hs
  · extract_lets cl s1
    have h1 : Quar q s1 := by
      unfold s1
      split
      · exact foldl_keeps hs fun _ _ => quar_cuWriteback
      · exact hs
    clear_value s1
    split
    next v s2 e2 =>
    split
    next id s3 e3 =>
    extract_lets s4 s5 s6 s7 s8
    have h3 : Quar q s3 := (quar_fresh ((quar_stamp h1).of_eq e2)).of_eq e3
    have h4 : Quar q s4 := quar_modCore h3
    have h5 : Quar q s5 := by
      unfold s5
      split
      · exact quar_publish h4
      · exact h4
    have h6 : Quar q s6 := by
      unfold s6
      split
      · exact quar_modSlot h5
      · exact h5
    have h7 : Quar q s7 := by
      unfold s7
      split
      · exact quar_modCore h6
      · exact h6
    exact quar_ship (s := s8) h7

theorem quar_applyEntry {h : Nat} {pod : Bool} {e : LogEntry} (hs : Quar q s) :
    Quar q (s.applyEntry h pod e) := by
  unfold State.applyEntry
  split
  · split
    · exact hs
    · split
      · exact hs
      · exact quar_hubSetBytes hs
  · split
    · exact quar_writeAt hs
    · exact foldl_keeps (quar_readLines hs) (fun _ _ => quar_writeAt)

theorem quar_applyPiece {p : Piece} (hs : Quar q s) : Quar q (s.applyPiece p) := by
  unfold State.applyPiece
  dsimp only
  split
  · exact foldl_keeps hs (fun _ _ => quar_applyEntry)
  · exact foldl_keeps (quar_deferPiece hs) (fun _ _ => quar_applyEntry)

theorem quar_ackPiece {p : Piece} (hs : Quar q s) : Quar q (s.ackPiece p) := by
  unfold State.ackPiece
  extract_lets s1 ws s2 s3
  have h1 : Quar q s1 := hs
  have h2 : Quar q s2 := by
    unfold s2
    split
    · exact h1
    · exact quar_modCore h1
  have h3 : Quar q s3 := h2
  split
  · exact h3
  · split
    · exact quar_completeRelease h3
    · exact h3

theorem quar_hearAll {hm : Nat} (hs : Quar q s) : Quar q (s.hearAll hm) := by
  unfold State.hearAll
  split
  · exact hs
  · exact quar_modHome hs

theorem quar_settle (hs : Quar q s) : Quar q s.settle := by
  unfold State.settle
  refine foldl_keeps (foldl_keeps (foldl_keeps hs (fun _ _ h1 => ?_)) (fun _ _ => quar_hearAll)) (fun _ _ =>
      quar_ackPiece)
  split
  · exact h1
  · exact quar_applyPiece h1

theorem quar_drainN {c l : Nat} (hs : Quar q s) : Quar q (s.drainN c l) := by
  induction l generalizing s c with
  | zero => exact hs
  | succ n ih =>
    unfold State.drainN
    split
    · exact ih (quar_settle (quar_stampRelease hs))
    · exact hs

theorem quar_drain {c hm : Nat} (hs : Quar q s) : Quar q (s.drain c hm) :=
  quar_hearAll (quar_drainN (quar_settle hs))

end

end Sys2Proof.Machine

/-! # Quarantine through the disposal of threads (O49) -/

namespace Sys2Proof.Machine

section
variable {q : Nat} {s : State}

/-- A change of the table of cores that keeps each entry's number and quarantine. -/
theorem quar_map {t : State} {g : Nat × Core → Nat × Core} (hs : Quar q s) (ht : t.cores = s.cores.map g)
    (hk : ∀ e, (g e).1 = e.1) (hg : ∀ e, (g e).2.quarantined = e.2.quarantined) : Quar q t := by
  have h : ∀ m : List (Nat × Core), (get {} (m.map g) q).quarantined = (get {} m q).quarantined := by
    intro m
    induction m with
    | nil => rfl
    | cons e r ih =>
      simp only [get, List.map_cons, get?, hk] at ih ⊢
      split
      · exact hg e
      · exact ih
  rw [Quar, State.core, ht, h]
  exact hs

theorem quar_orphan {c n : Nat} (hs : Quar q s) : Quar q (s.orphan c n) := by
  unfold State.orphan
  refine quar_map hs rfl (fun e => ?_) fun e => ?_
  · dsimp only
    split
    next h => exact (beq_iff_eq.mp h).symm
    · rfl
  · dsimp only
    split
    · rfl
    · rfl

theorem quar_freeSlot {c n : Nat} (hs : Quar q s) : Quar q (s.freeSlot c n) :=
  quar_setSlot (quar_dropMisses (quar_orphan hs))

theorem quar_spillFrom {i l : Nat} (hs : Quar q s) : OnSnd (Quar q) (s.spillFrom i l) := by
  induction l generalizing s i with
  | zero => exact hs
  | succ n ih =>
    unfold State.spillFrom
    dsimp only
    split
    · exact hs
    · split
      · exact hs
      · exact ih (quar_putFrame hs)

theorem quar_spillAll (hs : Quar q s) : OnSnd (Quar q) s.spillAll := by
  unfold State.spillAll
  split
  next e1 => exact quar_modCur ((quar_spillFrom hs).of_eq e1)
  · exact quar_spillFrom hs

theorem quar_leave {c n : Nat} (hs : Quar q s) : Quar q (s.leave c n) := by
  unfold State.leave
  exact quar_modCore (quar_drainN (quar_settle (quar_release (quar_sendTask hs))))

theorem quar_setBar {b : BarId} {x : Barrier} (hs : Quar q s) : Quar q (s.setBar b x) :=
  hs

theorem quar_barAcquire {c n : Nat} {b : BarId} {clk : Clock} (hs : Quar q s) :
    Quar q (s.barAcquire c n b clk) :=
  quar_acquireAt hs

theorem quar_wakeBar {c n : Nat} {b : BarId} {ok phase : Bool} {clk : Clock} (hs : Quar q s) :
    Quar q (s.wakeBar c n b ok phase clk) := by
  unfold State.wakeBar
  split
  · split
    · exact hs
    · split
      · exact hs
      · dsimp only
        split
        · exact quar_barAcquire (quar_modSlot hs)
        · exact quar_modSlot hs
  · exact hs

theorem quar_wakeAll {b : BarId} {ok : Bool} (hs : Quar q s) : Quar q (s.wakeAll b ok) :=
  foldl_keeps hs (fun _ _ h1 => foldl_keeps h1 (fun _ _ => quar_wakeBar))

theorem quar_poisonArrive {b : BarId} {hearth : Nat} (hs : Quar q s) :
    Quar q (s.poisonArrive b hearth) := by
  unfold State.poisonArrive
  dsimp only
  split
  · exact hs
  · exact quar_wakeAll (quar_setBar hs)

theorem quar_setChan {c ch : Nat} {x : Channel} (hs : Quar q s) : Quar q (s.setChan c ch x) :=
  quar_modCore hs

theorem quar_modOwner {x : Channel} {inSlot : Slot → Slot} {beside : Kept → Kept} (hs : Quar q s) :
    Quar q (s.modOwner x inSlot beside) := by
  unfold State.modOwner
  split
  · exact quar_modSlot hs
  · exact quar_keep hs

theorem quar_uncount {c ch : Nat} (hs : Quar q s) : Quar q (s.uncount c ch) :=
  quar_modOwner hs

theorem quar_cancelHeld {c ch : Nat} (hs : Quar q s) : Quar q (s.cancelHeld c ch) := by
  unfold State.cancelHeld
  dsimp only
  split
  · exact quar_poisonArrive (quar_uncount (quar_setChan hs))
  · exact quar_uncount (quar_setChan hs)

theorem quar_cancelAll {c n : Nat} (hs : Quar q s) : Quar q (s.cancelAll c n) := by
  unfold State.cancelAll
  refine foldl_keeps hs (fun _ _ h1 => foldl_keeps h1 (fun _ _ h2 => ?_))
  dsimp only
  split
  · exact quar_cancelHeld h2
  · exact h2

theorem quar_stopDispatch {c h : Nat} (hs : Quar q s) : Quar q (s.stopDispatch c h) :=
  quar_modCore hs

theorem quar_lookup {c h : Nat} {id : Word} (hs : Quar q s) :
    OnSnd (Quar q) (s.lookup c h id) := by
  unfold State.lookup
  split
  · exact quar_stopDispatch (quar_report hs)
  · exact hs

theorem quar_casTask {h : Nat} {tr : Word} {old new : Nat} (hs : Quar q s) :
    OnOk (OnSnd (Quar q)) (s.casTask h tr old new) := by
  unfold State.casTask
  split
  · exact .error
  · dsimp only
    split
    · exact .ok hs
    · split
      next e1 => exact .ok ((quar_hwWrite hs).of_eq e1)
      · exact .error

theorem quar_casNoted {c h : Nat} {id tr : Word} {old new : Nat} (hs : Quar q s) :
    Quar q (s.casNoted c h id tr old new) := by
  unfold State.casNoted
  split
  next e1 => exact (OnOk.of_eq (quar_casTask hs) e1 :)
  · split
    · exact hs
    · exact quar_report hs

theorem quar_unpin {h : Nat} {task : Word} (hs : Quar q s) : Quar q (s.unpin h task) := by
  unfold State.unpin
  exact quar_map hs rfl (fun _ => rfl) fun _ => rfl

theorem quar_setFuture {c pa st : Nat} {v : Word} (hs : Quar q s) : Quar q (s.setFuture c pa st v) := by
  unfold State.setFuture
  extract_lets o s1 p
  have h1 : Quar q s1 := quar_writeAt hs
  exact h1

theorem quar_tryFuture {c pa st : Nat} {v : Word} (hs : Quar q s) :
    Quar q (s.tryFuture c pa st v) := by
  unfold State.tryFuture
  split
  · exact quar_setFuture hs
  · exact hs

theorem quar_endUnits {c n : Nat} (hs : Quar q s) : Quar q (s.endUnits c n) :=
  quar_modCore (quar_modSlot hs)

theorem quar_chansBack {c n h : Nat} {va : Word} (hs : Quar q s) : Quar q (s.chansBack c n h va) := by
  unfold State.chansBack
  extract_lets hit
  refine quar_map hs rfl (fun e => ?_) fun e => ?_
  · dsimp only
    split
    · rfl
    · rfl
  · dsimp only
    split
    · rfl
    · rfl

theorem quar_takeKept {c n h : Nat} {va : Word} (hs : Quar q s) : Quar q (s.takeKept c n h va) :=
  quar_chansBack (quar_unkeep (quar_modSlot hs))

theorem quar_resumeHelper {c n : Nat} {link : Word} {rc : Clock} {h : Nat} (hs : Quar q s) :
    Quar q (s.resumeHelper c n link rc h) := by
  unfold State.resumeHelper
  dsimp only
  split
  · exact quar_takeKept (quar_setSlot (quar_dropMisses (quar_orphan (quar_casNoted
      hs))))
  · exact quar_freeSlot (quar_report hs)
  · exact quar_freeSlot (quar_report hs)

theorem quar_unchain {c n : Nat} (hs : Quar q s) : Quar q (s.unchain c n) := by
  unfold State.unchain
  dsimp only
  split
  · exact quar_resumeHelper hs
  · exact quar_freeSlot hs

theorem quar_detExit {h : Nat} {task : Word} (hs : Quar q s) : Quar q (s.detExit h task) :=
  quar_modHearth hs

theorem quar_taskDone {c n h : Nat} {tr : Word} (hs : Quar q s) : Quar q (s.taskDone c n h tr) := by
  unfold State.taskDone
  dsimp only
  split
  · exact quar_detExit (quar_unpin (quar_casNoted hs))
  · exact quar_unpin (quar_casNoted hs)

theorem quar_resultFuture {c n : Nat} {tr : Word} {st : Nat} {v : Word} (hs : Quar q s) :
    Quar q (s.resultFuture c n tr st v) := by
  unfold State.resultFuture
  dsimp only
  split
  · exact hs
  · split
    · split
      · exact quar_modHearth hs
      · exact quar_tryFuture hs
    · exact hs

theorem quar_unclaimOwner {c n : Nat} (hs : Quar q s) : Quar q (s.unclaimOwner c n) := by
  unfold State.unclaimOwner
  split
  · exact hs
  · exact quar_modSlot (quar_casNoted hs)

theorem quar_abortNow {c n cause : Nat} (hs : Quar q s) : Quar q (s.abortNow c n cause) := by
  unfold State.abortNow
  refine quar_unchain (quar_report ?_)
  split
  next e1 =>
    refine quar_taskDone (quar_resultFuture ?_)
    split
    · exact (quar_lookup (quar_sendTask (quar_endUnits (quar_unclaimOwner hs)))).of_eq e1
    · exact quar_drain (quar_release ((quar_lookup (quar_sendTask (quar_endUnits
        (quar_unclaimOwner hs)))).of_eq e1))
  next e1 =>
    exact (quar_lookup (quar_sendTask (quar_endUnits (quar_unclaimOwner hs)))).of_eq e1

theorem quar_taskAbort {c n cause : Nat} (hs : Quar q s) : Quar q (s.taskAbort c n cause) := by
  unfold State.taskAbort
  dsimp only
  split
  · exact quar_abortNow hs
  · exact quar_modSlot hs

theorem quar_discardCmds {c n : Nat} (hs : Quar q s) : Quar q (s.discardCmds c n) := by
  unfold State.discardCmds
  refine foldl_keeps (quar_modCluster (quar_modSlot (quar_modCore hs))) (fun _ _ h1 => ?_)
  split
  · exact quar_poisonArrive h1
  · exact h1

theorem quar_killTask {c n cause : Nat} (hs : Quar q s) : Quar q (s.killTask c n cause) :=
  quar_taskAbort (quar_discardCmds (quar_cancelAll hs))

theorem quar_spillSlot {c n : Nat} (hs : Quar q s) : OnSnd (Quar q) (s.spillSlot c n) :=
  quar_spillAll hs

theorem quar_unhand {c n : Nat} (hs : Quar q s) : Quar q (s.unhand c n) := by
  unfold State.unhand
  split
  · exact hs
  · dsimp only
    split
    · split
      · exact quar_discardCmds (quar_cancelAll (quar_unclaimOwner hs))
      · exact quar_cancelAll (quar_unclaimOwner hs)
    · split
      · exact quar_discardCmds (quar_cancelAll (OnSome.getD (quar_boundary
          (quar_unclaimOwner hs)) (quar_unclaimOwner hs)))
      · exact quar_cancelAll (OnSome.getD (quar_boundary (quar_unclaimOwner hs))
          (quar_unclaimOwner hs))

theorem quar_restartSlot {c n : Nat} (hs : Quar q s) : Quar q (s.restartSlot c n) :=
  quar_restartRegion hs

theorem quar_disposeSlot {c n : Nat} (hs : Quar q s) : OnFst (Quar q) (s.disposeSlot c n) := by
  unfold State.disposeSlot
  split
  · exact quar_killTask hs
  · split
    next e1 => exact quar_killTask ((quar_spillSlot hs).of_eq e1)
    next s1 e1 =>
      have h1 : Quar q s1 := (quar_spillSlot hs).of_eq e1
      extract_lets s2
      have h2 : Quar q s2 := by
        unfold s2
        split
        · exact quar_modCore h1
        · exact quar_leave h1
      clear_value s2
      exact quar_freeSlot (quar_same (quar_fresh h2))

theorem quar_forwardRun {c h l : Nat} (hs : Quar q s) : OnFst (Quar q) (s.forwardRun c h l) := by
  induction l generalizing s c h with
  | zero => exact hs
  | succ n ih =>
    unfold State.forwardRun
    dsimp only
    split
    · exact hs
    · split
      · exact quar_fresh hs
      next e1 =>
        exact ih (quar_same (quar_unkeep ((quar_hwWords (quar_fresh hs)).of_eq e1)))

theorem quar_closeQuarantined {c : Nat} (hs : Quar q s) : Quar q (s.closeQuarantined c) := by
  unfold State.closeQuarantined
  dsimp only
  split
  · exact hs
  · exact quar_closeLog hs

theorem quar_dispose {c n : Nat} (hs : Quar q s) : Quar q (s.dispose c n) := by
  unfold State.dispose
  extract_lets who ts s1
  have h1 : Quar q s1 := quar_closeQuarantined (foldl_keeps hs fun _ _ h => quar_restartSlot h)
  clear_value s1
  split
  next s2 ab fr e =>
    have h2 : OnFst (Quar q) (s2, ab, fr) := by
      rw [← e]
      exact foldl_keeps (P := OnFst (Quar q)) h1 fun r n h => quar_disposeSlot h
    split
    next s3 fr e =>
      have h3 : OnFst (Quar q) (s3, fr) := by
        rw [← e]
        exact foldl_keeps (P := OnFst (Quar q)) h2 fun r h hr => quar_forwardRun hr
      exact quar_report h3

theorem quar_disposal {c : Nat} (hs : Quar q s) : Quar q (s.disposal c) := by
  unfold State.disposal
  dsimp only
  split
  · exact quar_dispose (quar_same (foldl_keeps hs (fun _ _ => quar_unhand)))
  · exact quar_same (foldl_keeps hs (fun _ _ => quar_unhand))

end

end Sys2Proof.Machine

/-! # Quarantine and the scheduler's events (O49) -/

namespace Sys2Proof.Machine

theorem quar_quarantine {c : Nat} (hc : coreExists c = true) (k : Nat) (s : State) : Quar c (s.quarantine c k) := by
  unfold State.quarantine
  split
  next h => exact h.resolve_left (by simp [hc])
  next h =>
    refine quar_disposal ?_
    rw [Quar, State.core_modCore_same]

theorem dispatch_of_quar {c : Nat} {s : State} (h : Quar c s) : exec (.dispatch c) s = .next s := by
  have hs : s.coreServes c = false := by
    rw [Quar] at h
    simp [State.coreServes, State.coreTakes, h]
  exact if_pos (by rw [hs]; rfl)

theorem openEntry_of_bits {e : Word} {h : Nat} (hv : e.bits 63 63 = 1) (hb : e.bits 62 62 = 0) (hh : e.bits 59 56 = h) :
    openEntry e h = true := by
  simp [openEntry, hv, hb, hh]

/-- Settles O49: each event's handler is taken along the path that the clause's premises leave open. A dispatch finds the one message
(`dispatch_starts`), a frame or a refused frame its slot or buffer, a waiter or a pre-empted thread is freed last of all, and the
disposal of a quarantined core's threads does not take the core out of quarantine (`quar_disposal`), so that it no longer serves. -/
theorem schedulerEvents : Obligations.SchedulerEvents := by
  unfold Obligations.SchedulerEvents
  refine ⟨?dispatch, ?frame, ?refused, ?resend, ?evict, ?footprint, ?message, ?cont, ?governor, ?preempt, ?quarantine⟩
  case dispatch =>
    intro c n p s m hs hl hr hpc hct hq hm hh hirq hsus e hv hb he hp
    exact dispatch_starts hs hl hr hpc hct hq hm hh hsus (openEntry_of_bits hv hb he) hp hirq
  case frame =>
    intro i n s x hx hk hd hs hq hl hr hsus
    exact frameArrival_places hx hk hd hs hq hl hr hsus
  case refused =>
    intro i s x hx hd hp
    exact ⟨frameRefused_enters hx hd hp, fun f q => frameRefused_returns hx hd hp⟩
  case resend =>
    intro c h s x q hd hp
    exact departureResend_sends hd hp
  case evict =>
    intro c n s v b u a he hp hs hc hr
    unfold a at hc hr
    exact evictWaiter_frees he hp hs hc hr
  case footprint =>
    intro c n s u r t q hw hp hf hpin hu
    exact footprintLanded_pins hw hp hf hpin hu
  case message =>
    intro i c n s m hm hsrc hdeaf hp e
    exact ⟨messageArrival_queues hm hsrc hdeaf hp, messageArrival_drops hm hsrc hdeaf hp⟩
  case cont =>
    intro i s w hw hq hdeaf
    exact continuationResume_hands hw hq hdeaf
  case governor =>
    intro cl i j x y hi hi' lo lo' a b s g o serving he hr hij ha hb hhi hyx hx hrun hs
    exact governorCheck_moves he hr hij ha hb hhi hyx hx hrun hs
  case preempt =>
    intro c n s hp hq ht hk
    exact preempt_frees hp hq ht hk
  case quarantine =>
    intro c k s hc
    have hq := quar_quarantine hc k s
    exact ⟨s.quarantine c k, rfl, hq, dispatch_of_quar hq⟩

end Sys2Proof.Machine

/-! # Commands: RESET waits where the fault ring cannot be reached (O54) -/
namespace Sys2Proof.Machine

open Sys2Proof.Tests

/-- RESET of hearth 0 while die 0, whose homes hold the hearth's page table, has no power (R522). -/
def unpowered : State := commanded { State.reset with dies := [(0, { powerLost := true })] } (command 9 0 0 [])

/-- The write of the fault ring's SEQ waits for the table's home, and the command runs on (log 118). -/
theorem reset_unpowered : exec (.reset 0) unpowered = .next unpowered := rfl

/-- Refutes O54: its clause of RESET has no premise under which the hearth's fault ring can be reached. Where the walk to it must wait, RESET
leaves the hearth as it is, its command among the rest. -/
theorem not_hostCommands : ¬ Obligations.HostCommands := by
  unfold Obligations.HostCommands
  rintro ⟨-, -, -, -, -, -, -, -, -, hsusp⟩
  obtain ⟨-, -, hreset⟩ := hsusp 0 unpowered (command 9 0 0 [])
  obtain ⟨t, ht, hregs, -⟩ := hreset (by decide)
  obtain rfl : unpowered = t := by simpa [reset_unpowered] using ht
  have hcmds : (unpowered.hearth 0).commands = [] := by rw [hregs]
  exact absurd hcmds (by decide)

end Sys2Proof.Machine

/-! # GOVCFG: a thread that watches the word which it writes (O45) -/
namespace Sys2Proof.Machine

open Sys2Proof.Tests

/-- A supervisor at a GOVCFG of stage 3 for the descriptor 0x10040, whose slot still waits on a WATCH of that descriptor's SCTL. -/
def watchingSctl : State :=
  let s := (dram 1 [(1, 0x10040)]).modCur fun t => { t with wait := .watch 0x10048 0x200 }
  { s with homes := [(homeOf 0x10048, { watches := [{ pa := 0x10048, core := 0, slot := 0, task := 0 }] })] }

/-- GOVCFG 3, W[1]. -/
def govcfg3 : XA := ⟨[], 0, 1, 0, 3⟩

/-- The state that its write of SCTL leaves. -/
def sctlWritten : State := watchingSctl.writeAt 0x10048 (leBytes 8 0x300)

theorem hwWords_watchingSctl : watchingSctl.hwWords 0 0x10048 [0x300] = .ok sctlWritten := rfl

/-- The write completes the WATCH (R286), so that GOVCFG goes on behind that. -/
theorem govcfg_watchingSctl : ∃ u : State, exec (.govcfg govcfg3) watchingSctl = .next u ∧ u.cur.pc = 0x204 :=
  ⟨_, rfl, by decide⟩

/-- Refutes O45: its clause of GOVCFG 0 to 3 does not ask that the thread waits for nothing. A WATCH of the word that GOVCFG writes moves the
PC on. -/
theorem not_messagesAndChannels : ¬ Obligations.MessagesAndChannels := by
  unfold Obligations.MessagesAndChannels
  rintro ⟨-, -, -, hgov⟩
  obtain ⟨-, hidle⟩ := hgov govcfg3 watchingSctl (by decide) (by decide) (by decide) (by decide)
  obtain ⟨-, -, hring⟩ := hidle (.inl (by decide))
  obtain ⟨t, ht, -, hpc, -⟩ := hring 0x10048 0 sctlWritten (by decide) (by decide) (by decide) (by decide) hwWords_watchingSctl
  obtain ⟨u, hu, hupc⟩ := govcfg_watchingSctl
  obtain rfl : u = t := by simpa [hu] using ht
  rw [hupc] at hpc
  exact absurd hpc (by decide)

end Sys2Proof.Machine

/-! # Accesses between a core and its homes

An operation on an object has the core's releases applied, the home heard of them and the thread acquire the home's clock. `Near` says what such
steps leave alone, and `Access` that a quiet core is quiet again after them; so the place of an object and the words of DRAM that are not written
are the same at each of them (`Near.objAt`, `Near.memW`). -/

namespace Sys2Proof.Machine

/-! ## What an access leaves -/

/-- t is s but for the DRAM of the ranges l, what local stores hold, what clocks, logs, homes and continuations record, threads that watch a
word, and RC, the count of stores and idv of the executing thread. -/
structure Near (l : List (Nat × Nat)) (s t : State) : Prop where
  rest : t = { s with
    mem := t.mem, cores := t.cores, dies := t.dies, homes := t.homes, nextId := t.nextId, reqs := t.reqs, releases := t.releases
    crossings := t.crossings, contWaits := t.contWaits, conts := t.conts }
  core (c : Nat) : ∃ slots rcache pw log resume,
    t.core c = { s.core c with slots := slots, rcache := rcache, pw := pw, log := log, resume := resume }
  die (d : Nat) : ∃ vc, t.die d = { s.die d with vc := vc }
  cur : s.cur.Aged t.cur
  dram : Claims.DramBut s t l

namespace Near

variable {l m : List (Nat × Nat)} {s t u : State}

theorem refl (s : State) : Near [] s s := ⟨rfl, fun _ => ⟨_, _, _, _, _, rfl⟩, fun _ => ⟨_, rfl⟩, .refl _, fun _ _ _ _ => rfl⟩

theorem trans (h : Near l s t) (h' : Near m t u) : Near (l ++ m) s u where
  rest := by rw [h'.rest, h.rest]
  core c := by
    obtain ⟨_, _, _, _, _, ht⟩ := h.core c
    obtain ⟨a, b, d, e, r, hu⟩ := h'.core c
    exact ⟨a, b, d, e, r, by rw [hu, ht]⟩
  die d := by
    obtain ⟨_, ht⟩ := h.die d
    obtain ⟨v, hu⟩ := h'.die d
    exact ⟨v, by rw [hu, ht]⟩
  cur := h.cur.trans h'.cur
  dram p hp hc hout := by
    rw [h'.dram p hp hc fun r hr => hout r (List.mem_append_right _ hr), h.dram p hp hc fun r hr => hout r (List.mem_append_left _ hr)]

/-- Ranges may be named that nothing writes, and in any order. -/
theorem mono (h : Near l s t) (hs : l ⊆ m) : Near m s t :=
  ⟨h.rest, h.core, h.die, h.cur, fun p hp hc hout => h.dram p hp hc fun r hr => hout r (hs hr)⟩

theorem curCore (h : Near l s t) : t.curCore = s.curCore := by rw [h.rest]
theorem curSlot (h : Near l s t) : t.curSlot = s.curSlot := by rw [h.rest]
theorem hub (h : Near l s t) : t.hub = s.hub := by rw [h.rest]
theorem stuck (h : Near l s t) : t.stuck = s.stuck := by rw [h.rest]
theorem poison (h : Near l s t) : t.poison = s.poison := by rw [h.rest]
theorem latent (h : Near l s t) : t.latent = s.latent := by rw [h.rest]
theorem pieces (h : Near l s t) : t.pieces = s.pieces := by rw [h.rest]
theorem hearth (h : Near l s t) (n : Nat) : t.hearth n = s.hearth n := by rw [h.rest]; rfl
theorem cluster (h : Near l s t) (n : Nat) : t.cluster n = s.cluster n := by rw [h.rest]; rfl
theorem ownPackage (h : Near l s t) (pa : Nat) : t.ownPackage pa = s.ownPackage pa := ownPackage_congr h.hub pa
theorem powerLost (h : Near l s t) (d : Nat) : (t.die d).powerLost = (s.die d).powerLost := by
  obtain ⟨_, ht⟩ := h.die d
  rw [ht]
theorem npc (h : Near l s t) (f : Fld) : t.npc f = s.npc f := h.cur.npc f
theorem w (h : Near l s t) (n : Nat) : t.w n = s.w n := h.cur.w n

end Near

/-- A change of one core, of its threads in RC, stores and idv alone. -/
theorem near_modCore {s : State} {c : Nat} {f : Core → Core}
    (hf : ∃ slots rcache pw log resume,
      f (s.core c) = { s.core c with slots := slots, rcache := rcache, pw := pw, log := log, resume := resume })
    (hs : ∀ n, ((s.core c).slot n).Aged ((f (s.core c)).slot n)) : Near [] s (s.modCore c f) where
  rest := rfl
  core d := by
    by_cases hd : d = c
    · rw [hd, State.core_modCore_same]
      exact hf
    · rw [State.core_modCore_ne s f hd]
      exact ⟨_, _, _, _, _, rfl⟩
  die _ := ⟨_, rfl⟩
  cur := (released_modCore s c hs).cur
  dram _ _ _ _ := rfl

theorem near_modLog (s : State) (c : Nat) (f : Log → Log) : Near [] s (s.modCore c fun k => { k with log := f k.log }) :=
  near_modCore ⟨_, _, _, _, _, rfl⟩ fun _ => .refl _

theorem near_modSlot (s : State) (c n : Nat) {f : Slot → Slot} (hf : ∀ t : Slot, t.Aged (f t)) : Near [] s (s.modSlot c n f) where
  rest := rfl
  core d := by
    by_cases hd : d = c
    · rw [hd, State.modSlot, State.setSlot, State.core_modCore_same]
      exact ⟨_, _, _, _, _, rfl⟩
    · rw [State.modSlot, State.setSlot, State.core_modCore_ne s _ hd]
      exact ⟨_, _, _, _, _, rfl⟩
  die _ := ⟨_, rfl⟩
  cur := (released_modSlot s c n hf).cur
  dram _ _ _ _ := rfl

/-- A change outside cores and dies. -/
theorem near_of_cores {l : List (Nat × Nat)} {s t : State}
    (h : t = { s with
      mem := t.mem, homes := t.homes, nextId := t.nextId, reqs := t.reqs, releases := t.releases, crossings := t.crossings
      contWaits := t.contWaits, conts := t.conts }) (hd : Claims.DramBut s t l) : Near l s t := by
  have hc : t.cores = s.cores := by rw [h]
  have hdies : t.dies = s.dies := by rw [h]
  have hcore (c : Nat) : t.core c = s.core c := by rw [State.core, hc, State.core]
  refine ⟨?_, fun c => ⟨_, _, _, _, _, hcore c⟩, fun d => ⟨_, by rw [State.die, hdies]; rfl⟩, ?_, hd⟩
  · rw [hc, hdies]
    exact h
  · have hcur : t.cur = s.cur := by
      rw [State.cur, State.slot, hcore, h]
      rfl
    rw [hcur]
    exact .refl _

/-- A cell of a local store is no byte of DRAM. -/
theorem cell_ne_dram (s : State) {pa p : Nat} (hls : paClass pa = 1) (hp : p < 2 ^ 56) (hc : paClass p = 0) : s.cell p ≠ s.cell pa := by
  rw [cell_of_dram s (by rw [hc]; decide), State.cell]
  have hne : p ≠ pa := fun h => by rw [h] at hc; omega
  split
  · dsimp only
    split
    · omega
    · exact hne
  · exact hne

/-- A write of a local store changes no DRAM. -/
theorem near_setBytes_ls {s : State} {pa : Nat} {bs : List Byte} (hls : ∀ i < bs.length, paClass (pa + i) = 1) :
    Near [] s (s.setBytes pa bs) := by
  refine near_of_cores ?_ fun p hp hc _ => ?_
  · induction bs generalizing s pa with
    | nil => rfl
    | cons b r ih =>
      rw [State.setBytes, ih fun i hi => by rw [Nat.add_assoc, Nat.add_comm 1]; exact hls (i + 1) (Nat.succ_lt_succ hi)]
      rfl
  · have hcell : (s.setBytes pa bs).cell p = s.cell p := State.cell_setBytes ..
    have hread : Memory.read (s.setBytes pa bs).mem (s.cell p) = Memory.read s.mem (s.cell p) :=
      State.read_setBytes_ne s fun i hi => cell_ne_dram s (hls i hi) hp hc
    rw [State.byte, State.byte, hcell, hread, State.setBytes_stuck]

theorem paClass_lsPA_add (s : State) (c off : Nat) {i : Nat} (hi : i < 2 ^ 18) : paClass (lsPA s c off + i) = 1 := by
  rw [paClass, lsPA]
  omega

theorem near_ringSet (s : State) (c pos : Nat) (w0 w1 : Word) : Near [] s (s.ringSet c pos w0 w1) := by
  unfold State.ringSet
  dsimp only
  split
  · exact .refl s
  · refine near_setBytes_ls fun i hi => paClass_lsPA_add _ _ _ ?_
    rw [List.length_append, leBytes_length, leBytes_length] at hi
    omega

/-! ## Releases of a quiet core -/

theorem quiet_openHearth {s : State} (hq : Claims.Quiet s) : s.curK.log.openHearth = s.cur.st.hearth := by
  obtain ⟨-, -, -, -, hh, -⟩ := hq
  exact hh

theorem quiet_wait {s : State} (hq : Claims.Quiet s) : s.cur.wait = .none := by
  obtain ⟨-, -, -, -, -, -, hw, -⟩ := hq
  exact hw

theorem near_publish (s : State) (c h tail : Nat) (v : Clock) : Near [] s (s.publish c h tail v) := by
  refine near_modCore ?_ fun n => ?_
  · split
    · exact ⟨_, _, _, _, _, rfl⟩
    · exact ⟨_, _, _, _, _, rfl⟩
  · dsimp only
    split
    · exact .refl _
    · exact .refl _

theorem near_completeRelease (s : State) (r : Release) : Near [] s (s.completeRelease r) := by
  unfold State.completeRelease
  extract_lets s1 s2 s3
  have h1 : Near [] s s1 := near_of_cores rfl fun _ _ _ _ => rfl
  have h2 : Near [] s1 s2 := by
    unfold s2
    split
    · exact .refl _
    · exact near_modLog s1 r.core (·.freed r.id)
  have h3 : Near [] s2 s3 := by
    unfold s3
    split
    · exact near_publish ..
    · exact .refl _
  refine ((h1.trans h2).trans h3).trans (m := []) ?_
  split
  · split
    · exact near_modSlot _ _ _ fun _ => ⟨_, _, _, rfl⟩
    · exact .refl _
  · exact .refl _

/-- A release without entries has no pieces (R132). -/
theorem near_ship_nil (s : State) (r : Release) (pod : Bool) : Near [] s (s.ship r pod []) :=
  (near_of_cores (l := []) (t := { s with releases := s.releases ++ [r] }) rfl fun _ _ _ _ => rfl).trans (near_completeRelease ..)

/-- What a log holds that has not left it: the open segment, its hearth and the closed segments. -/
def Log.held (l : Log) : Nat × List LogEntry × List Segment := (l.openHearth, l.openEntries, l.closed)

theorem held_modCore (s : State) (c : Nat) {f : Core → Core} (hf : ∀ k, (f k).log.held = k.log.held) (d : Nat) :
    ((s.modCore c f).core d).log.held = (s.core d).log.held := by
  by_cases hd : d = c
  · rw [hd, State.core_modCore_same, hf]
  · rw [State.core_modCore_ne s f hd]

theorem held_modSlot (s : State) (c n : Nat) (f : Slot → Slot) (d : Nat) : ((s.modSlot c n f).core d).log.held = (s.core d).log.held :=
  held_modCore s c (f := (·.setSlot n (f (s.slot c n)))) (fun _ => rfl) d

theorem held_publish (s : State) (c h tail : Nat) (v : Clock) (d : Nat) :
    ((s.publish c h tail v).core d).log.held = (s.core d).log.held := by
  refine held_modCore s c (fun k => ?_) d
  split
  · rfl
  · rfl

theorem held_completeRelease (s : State) (r : Release) (d : Nat) : ((s.completeRelease r).core d).log.held = (s.core d).log.held := by
  unfold State.completeRelease
  extract_lets s1 s2 s3
  have h2 : (s2.core d).log.held = (s1.core d).log.held := by
    unfold s2
    split
    · rfl
    · exact held_modCore s1 r.core (f := fun k => { k with log := k.log.freed r.id }) (fun _ => rfl) d
  have h3 : (s3.core d).log.held = (s2.core d).log.held := by
    unfold s3
    split
    · exact held_publish ..
    · rfl
  have hend : (s3.core d).log.held = (s.core d).log.held := h3.trans h2
  split
  · split
    · rw [held_modSlot, hend]
    · exact hend
  · exact hend

/-- A release that ends leaves no other in flight where there was none. -/
theorem releases_completeRelease (s : State) (r : Release) :
    (s.completeRelease r).releases = s.releases.filter fun q => q.id != r.id := by
  unfold State.completeRelease
  extract_lets s1 s2 s3
  have h2 : s2.releases = s1.releases := by
    unfold s2
    split
    · rfl
    · rfl
  have h3 : s3.releases = s2.releases := by
    unfold s3
    split
    · rfl
    · rfl
  split
  · split
    · exact h3.trans h2
    · exact h3.trans h2
  · exact h3.trans h2

/-- A stamp raises the clock of its die (R130). -/
theorem near_stamp (s : State) (d : Nat) (rc : Clock) : Near [] s (s.stamp d rc).2 where
  rest := rfl
  core _ := ⟨_, _, _, _, _, rfl⟩
  die e := by
    by_cases he : e = d
    · rw [he]
      exact ⟨_, State.die_modDie_same s d _⟩
    · exact ⟨_, get_put_ne _ _ _ he⟩
  cur := .refl _
  dram _ _ _ _ := rfl

/-- What the stamping of the only segment of a core does, where that segment is empty (R130). -/
structure Stamped (s t : State) (c : Nat) : Prop where
  near : Near [] s t
  held : (t.core c).log.held = ((s.core c).log.openHearth, (s.core c).log.openEntries, [])
  releases : s.releases = [] → t.releases = []

theorem stamped_stampRelease {s : State} {c : Nat} {g : Segment} (hcu : (s.cluster (clusterOf c)).cu = [])
    (hcl : (s.core c).log.closed = [g]) (hsc : g.sc ≠ 1) (hafter : g.afterAcks = false) (hg : g.entries = []) (hch : g.chan = none) :
    (s.nextSegment c).isSome = true ∧ Stamped s (s.stampRelease c) c := by
  have hnext : s.nextSegment c = some g := by simp [State.nextSegment, hcl, hsc, hafter]
  refine ⟨by rw [hnext]; rfl, ?_⟩
  unfold State.stampRelease
  split
  next hnone => rw [hnext] at hnone; cases hnone
  next g' hg' =>
  obtain rfl : g = g' := Option.some.inj (hnext.symm.trans hg')
  extract_lets cl s1
  have h1 : s1 = s := by simp [s1, cl, hcu]
  clear_value s1
  subst h1
  split
  next v s2 hst =>
  split
  next id s3 hid =>
  extract_lets s4 s5 s6 s7 s8
  have h3 : Near [] s1 s3 ∧ s3.cores = s1.cores ∧ s3.releases = s1.releases := by
    have hnear := near_stamp s1 (dieOf c) g.rc
    cases hst
    cases hid
    exact ⟨hnear.trans (near_of_cores rfl fun _ _ _ _ => rfl), rfl, rfl⟩
  obtain ⟨hnear3, hcores3, hrel3⟩ := h3
  have hcore3 : s3.core c = s1.core c := by rw [State.core, hcores3, State.core]
  have hnear4 : Near [] s3 s4 := near_modCore ⟨_, _, _, _, _, rfl⟩ fun _ => .refl _
  have hheld4 : (s4.core c).log.held = ((s1.core c).log.openHearth, (s1.core c).log.openEntries, []) := by
    rw [State.core_modCore_same, hcore3, Log.held, hcl, List.erase_cons_head]
  have h5 : Near [] s4 s5 ∧ (s5.core c).log.held = (s4.core c).log.held ∧ s5.releases = s4.releases := by
    unfold s5
    split
    · exact ⟨near_publish .., held_publish .., rfl⟩
    · exact ⟨.refl _, rfl, rfl⟩
  have h6 : Near [] s5 s6 ∧ (s6.core c).log.held = (s5.core c).log.held ∧ s6.releases = s5.releases := by
    unfold s6
    split
    · exact ⟨near_modSlot _ _ _ fun _ => ⟨_, _, _, rfl⟩, held_modSlot .., rfl⟩
    · exact ⟨.refl _, rfl, rfl⟩
  have h7 : s7 = s6 := by
    unfold s7
    rw [hch]
  have h8 : Near [] s6 s8 := by
    rw [← h7]
    exact near_of_cores rfl fun _ _ _ _ => rfl
  obtain ⟨hnear5, hheld5, hrel5⟩ := h5
  obtain ⟨hnear6, hheld6, hrel6⟩ := h6
  rw [hg]
  refine ⟨((((hnear3.trans hnear4).trans hnear5).trans hnear6).trans h8).trans (near_ship_nil ..), ?_, fun hr => ?_⟩
  · rw [State.ship]
    refine (held_completeRelease ..).trans ?_
    change (s7.core c).log.held = _
    rw [h7, hheld6, hheld5, hheld4]
  · rw [State.ship]
    refine (releases_completeRelease ..).trans ?_
    change (s7.releases ++ [_]).filter _ = []
    have hrel7 : s7.releases = [] := by rw [h7, hrel6, hrel5]; exact hrel3.trans hr
    rw [hrel7]
    simp

/-- An access from a quiet core: it is quiet after it. -/
structure Access (l : List (Nat × Nat)) (s t : State) : Prop extends Near l s t where
  quiet : Claims.Quiet s → Claims.Quiet t

namespace Access

variable {l m : List (Nat × Nat)} {s t u : State}

theorem refl (s : State) : Access [] s s := ⟨.refl s, id⟩
theorem trans (h : Access l s t) (h' : Access m t u) : Access (l ++ m) s u :=
  ⟨h.toNear.trans h'.toNear, h'.quiet ∘ h.quiet⟩
theorem mono (h : Access l s t) (hs : l ⊆ m) : Access m s t := ⟨h.toNear.mono hs, h.quiet⟩

/-- What keeps the logs and the releases in flight keeps a quiet core quiet. -/
theorem of_near (h : Near l s t) (hheld : t.curK.log.held = s.curK.log.held) (hrel : s.releases = [] → t.releases = []) :
    Access l s t := by
  refine ⟨h, fun hq => ?_⟩
  obtain ⟨hp, hr, ho, hc, hh, hcu, hw, had, hex, hpk⟩ := hq
  obtain ⟨_, _, _, hcur⟩ := h.cur
  simp only [Log.held, Prod.mk.injEq] at hheld
  obtain ⟨hheldh, hheldo, hheldc⟩ := hheld
  refine ⟨h.pieces.trans hp, hrel hr, hheldo.trans ho, hheldc.trans hc, ?_, ?_, h.cur.wait.trans hw, ?_, ?_, ?_⟩
  · rw [hheldh, hh, hcur]
  · rw [h.cluster, h.curCore, hcu]
  · rw [hcur, had]
  · rw [h.curCore, hex]
  · rw [h.hub]
    exact hpk

end Access

theorem near_closeLog (s : State) (c : Nat) (x : Closing) : Near [] s (s.closeLog c x) := by
  unfold State.closeLog
  refine (near_ringSet ..).trans (m := []) (near_modCore ⟨_, _, _, _, _, rfl⟩ fun n => ?_)
  rw [Core.slot, Core.slot, get_map_key _ rfl]
  obtain ⟨b, h⟩ := endRegions_eq _ n (((s.ringSet c _ _ _).core c).slot n)
  exact ⟨_, _, b, h⟩

/-- A closing of a log that holds nothing leaves one segment, which is empty. -/
theorem closeLog_idle {s : State} {c : Nat} {x : Closing} (ho : (s.core c).log.openEntries = []) (hc : (s.core c).log.closed = []) :
    ∃ g : Segment, ((s.closeLog c x).core c).log.held = ((s.core c).log.openHearth, [], [g]) ∧ g.entries = [] ∧ g.sc = x.sc ∧
      g.afterAcks = x.afterAcks ∧ g.chan = x.chan := by
  rw [State.closeLog]
  dsimp only
  rw [State.core_modCore_same, core_ringSet]
  simp [Log.held, ho, hc]

/-- A release of a quiet core that is drained at once (R129, R130): it closes an empty segment, which is stamped and complete. -/
theorem access_drain {s : State} {x : Closing} {f : Slot → Slot} (hq : Claims.Quiet s) (hsc : x.sc ≠ 1) (hafter : x.afterAcks = false)
    (hch : x.chan = none) (hf : ∀ t : Slot, t.Aged (f t)) :
    Access [] s (((s.closeLog s.curCore x).modSlot s.curCore s.curSlot f).drain s.curCore 640) := by
  obtain ⟨hp, hr, ho, hc, -, hcu, -⟩ := hq
  obtain ⟨g, hheld, hg, hgsc, hgafter, hgch⟩ := closeLog_idle (x := x) ho hc
  have hnear := (near_closeLog s s.curCore x).trans (near_modSlot _ s.curCore s.curSlot hf)
  rw [← held_modSlot _ s.curCore s.curSlot f] at hheld
  have hrel : ((s.closeLog s.curCore x).modSlot s.curCore s.curSlot f).releases = s.releases := by
    rw [(closed_closeLog s s.curCore x).rest]
    rfl
  generalize (s.closeLog s.curCore x).modSlot s.curCore s.curSlot f = u at hheld hnear hrel
  obtain ⟨hheldh, hheldo, hheldc⟩ : u.curK.log.openHearth = s.curK.log.openHearth ∧ (u.core s.curCore).log.openEntries = [] ∧
      (u.core s.curCore).log.closed = [g] := by simpa [Log.held, State.curK, hnear.curCore] using hheld
  have hpu : u.pieces = [] := hnear.pieces.trans hp
  obtain ⟨hnext, hst⟩ := stamped_stampRelease (by rw [hnear.cluster, hcu]) hheldc (hgsc ▸ hsc) (hgafter ▸ hafter) hg (hgch ▸ hch)
  have hdrain : u.drain s.curCore 640 = u.stampRelease s.curCore := by
    rw [State.drain, settle_of_no_pieces hpu, hheldc, State.hearAll, if_pos (Nat.le_refl 640), List.length_singleton, State.drainN,
      if_pos hnext, State.drainN, settle_of_no_pieces (hst.near.pieces.trans hpu)]
  rw [hdrain]
  have hall := hnear.trans hst.near
  refine .of_near hall ?_ fun _ => hst.releases (hrel.trans hr)
  rw [State.curK, hall.curCore, hst.held]
  simp only [Log.held, State.curK, hnear.curCore] at hheldh ho hc ⊢
  rw [hheldh, hheldo, ho, hc]

theorem access_pkgRelease {s : State} (hq : Claims.Quiet s) : Access [] s s.pkgRelease := by
  have hsw : s.switchHearth s.curCore (s.slot s.curCore s.curSlot).st.hearth = s := if_pos (quiet_openHearth hq)
  rw [State.pkgRelease, State.release, hsw]
  exact access_drain hq (Nat.succ_ne_succ_iff.mpr (Nat.succ_ne_zero _)) rfl rfl fun _ => ⟨_, _, _, rfl⟩

theorem access_casRelease {s : State} (hq : Claims.Quiet s) : Access [] s s.casRelease := by
  have hsw : s.switchHearth s.curCore (s.slot s.curCore s.curSlot).st.hearth = s := if_pos (quiet_openHearth hq)
  rw [State.casRelease, State.implicitRelease, hsw]
  exact access_drain hq (Nat.succ_ne_succ_iff.mpr (Nat.succ_ne_zero _)) rfl rfl fun _ => ⟨_, _, _, rfl⟩

/-- A home that has heard of the releases, and the thread that acquires a clock. -/
theorem access_hearAll (s : State) (hm : Nat) : Access [] s (s.hearAll hm) := by
  unfold State.hearAll
  split
  · exact .refl s
  · exact .of_near (near_of_cores rfl fun _ _ _ _ => rfl) rfl id

theorem access_acquireAt (s : State) (v : Clock) : Access [] s (s.acquireAt s.curCore s.curSlot v) := by
  refine .of_near ((near_modSlot s s.curCore s.curSlot fun _ => ⟨_, _, _, rfl⟩).trans (m := []) (near_modCore ⟨_, _, _, _, _, rfl⟩ fun _ => .refl _))
    ?_ id
  exact (held_modCore _ _ (f := fun k => { k with rcache := [] }) (fun _ => rfl) _).trans (held_modSlot ..)

/-- A quiet core has nothing to drain: the home hears. -/
theorem drain_quiet {s : State} (hq : Claims.Quiet s) (hm : Nat) : s.drain s.curCore hm = s.hearAll hm := by
  obtain ⟨hp, -, -, hc, -⟩ := hq
  rw [State.curK] at hc
  rw [State.drain, settle_of_no_pieces hp, hc, List.length_nil, State.drainN]

/-! ## Places and words of objects -/

section
variable {l : List (Nat × Nat)} {s t : State} {a : Word} {k : Acc} {n pa : Nat}

theorem Near.tlbHit (h : Near l s t) (hit : Claims.TlbHit s a k pa) : Claims.TlbHit t a k pa := by
  obtain ⟨_, _, _, hcur⟩ := h.cur
  obtain ⟨_, _, _, _, _, hk⟩ := h.core s.curCore
  obtain ⟨_, hd⟩ := h.die (dieOf s.curCore)
  have htlb : t.curK.tlb = s.curK.tlb := by rw [State.curK, h.curCore, hk]; rfl
  have hmiss : t.missAt t.curCore t.curSlot t.cur.st.hearth a = s.missAt s.curCore s.curSlot s.cur.st.hearth a := by
    rw [State.missAt, State.missAt, h.curCore, h.curSlot, hcur, hd]
  unfold Claims.TlbHit
  rw [hmiss, htlb, h.hearth, hcur]
  exact hit

theorem Near.objAt (h : Near l s t) (ho : Claims.ObjAt s a n k pa) : Claims.ObjAt t a n k pa := by
  obtain ⟨hit, hc, hlt, hal, hown, hpoi, hamod, hlat, hpow⟩ := ho
  exact ⟨h.tlbHit hit, hc, hlt, hal, (h.ownPackage pa).trans hown, h.poison.trans hpoi, hamod, h.latent.trans hlat,
    (h.powerLost _).trans hpow⟩

theorem State.bytes_eq_of_byte (h : ∀ i < n, t.byte (pa + i) = s.byte (pa + i)) : t.bytes pa n = s.bytes pa n := by
  induction n generalizing pa with
  | zero => rfl
  | succ n ih =>
    rw [State.bytes, State.bytes, show t.byte pa = s.byte pa from h 0 (Nat.succ_pos n), ih fun i hi => by
      rw [Nat.add_assoc, Nat.add_comm 1]
      exact h (i + 1) (Nat.succ_lt_succ hi)]

theorem objAt_aligned (ho : Claims.ObjAt s a n k pa) : a.toNat % n = 0 := by
  obtain ⟨-, -, -, -, -, -, hal, -⟩ := ho
  exact hal

/-- An aligned word of DRAM is the same where nothing writes it. -/
theorem Near.memW (h : Near l s t) (hc : paClass pa = 0) (hlt : pa < 2 ^ 56) (ha : pa % 8 = 0)
    (hout : ∀ r ∈ l, pa + 8 ≤ r.1 ∨ r.1 + r.2 ≤ pa) : t.memW pa = s.memW pa := by
  rw [State.memW, State.memW, State.memNat, State.memNat, State.bytes_eq_of_byte fun i hi => ?_]
  refine h.dram _ (by omega) (paClass_aligned hc (.inr rfl) ha i hi) fun r hr => ?_
  have := hout r hr
  omega

end

/-! ## Reaching an object -/

/-- The translation that the core's TLB serves changes nothing (R117). -/
theorem translateCur_hit {s : State} {a : Word} {k : Acc} {pa : Nat} (hit : Claims.TlbHit s a k pa) :
    ∃ at_, s.translateCur a k = (.ok pa at_, s) := by
  obtain ⟨hcan, hwin, hmiss, hfind⟩ := hit
  obtain ⟨e, he, hfin⟩ : ∃ e, s.curK.tlb.find? (fun t : TlbEntry => t.serves s.cur.st.hearth
      ((s.hearth s.cur.st.hearth).aspace.bits 63 56) (a.toNat % 2 ^ 57)) = some e ∧
      (match finishTr e.leaf (a.toNat % 2 ^ 57) s.cur.st.priv k with | .ok p _ => p == pa | _ => false) = true := by
    generalize List.find? _ _ = o at hfind
    cases o with
    | none => cases hfind
    | some e => exact ⟨e, rfl, hfind⟩
  generalize hres : finishTr e.leaf (a.toNat % 2 ^ 57) s.cur.st.priv k = r at hfin
  cases r with
  | fault _ => cases hfin
  | wait => cases hfin
  | ok p at_ =>
    obtain rfl : p = pa := by simpa using hfin
    refine ⟨at_, ?_⟩
    rw [State.curK] at he
    simp [-Nat.reducePow, State.translateCur, State.translate, hcan, hwin, hmiss, asidOf, he, hres, State.dropMiss]

/-- The home of pa has heard of the releases, and the thread has acquired its clock (R134, R137). -/
def State.heard (s : State) (pa : Nat) : State :=
  (s.hearAll (homeOf pa)).acquireAt s.curCore s.curSlot ((s.hearAll (homeOf pa)).appliedClock (homeOf pa))

theorem access_heard (s : State) (pa : Nat) : Access [] s (s.heard pa) := by
  have hhear := access_hearAll s (homeOf pa)
  have hacq := access_acquireAt (s.hearAll (homeOf pa)) ((s.hearAll (homeOf pa)).appliedClock (homeOf pa))
  rw [hhear.curCore, hhear.curSlot] at hacq
  exact hhear.trans hacq

theorem mem_heard (s : State) (pa : Nat) : (s.heard pa).mem = s.mem := by
  rw [State.heard, State.hearAll]
  split
  · rfl
  · rfl

/-- An access to an object that the TLB serves goes on at its place, after what a quiet core has under way there. -/
theorem withObj_heard {s : State} {a : Word} {n : Nat} {k : Acc} {pa : Nat} (hq : Claims.Quiet s) (ho : Claims.ObjAt s a n k pa)
    (go : Nat → State → State) : s.withObj a n k go = go pa (s.heard pa) := by
  obtain ⟨hit, hc, -, -, hown, hpoi, -, hlat, hpow⟩ := ho
  obtain ⟨at_, htr⟩ := translateCur_hit hit
  have hsound : Claims.Sound s := ⟨hpoi, hlat⟩
  have hhear := access_hearAll s (homeOf pa)
  rw [State.withObj, State.withPlace_ok htr]
  simp only [State.place_dram hc hown, hpow, readLines_sound hsound, State.poisonRead, State.poisonPast, sound_eq hsound, drain_quiet hq,
    hhear.curCore, hhear.curSlot]
  rfl

theorem withObj_next {s : State} {a : Word} {n : Nat} {k : Acc} {pa : Nat} (hq : Claims.Quiet s) (ho : Claims.ObjAt s a n k pa) :
    ∃ t, Access [] s t ∧ t.mem = s.mem ∧ ∀ go, s.withObj a n k go = go pa t :=
  ⟨s.heard pa, access_heard s pa, mem_heard s pa, withObj_heard hq ho⟩

/-- A quiet core supplies no byte of a load (R121). -/
theorem objW_quiet {s : State} (hq : Claims.Quiet s) (pa : Nat) : s.objW pa = s.memW pa := by
  obtain ⟨hp, -, ho, hc, -⟩ := hq
  have hfwd : s.fwdOf s.curCore s.cur pa 8 = [] := by
    rw [State.curK] at ho hc
    have hnil : s.forwardable s.curCore s.cur.st.hearth s.cur = [] := by
      simp [State.forwardable, hp, ho, hc]
    simp [State.fwdOf, hnil, forwardBytes]
  rw [State.objW, hfwd, overlay_nil]
  split
  · rfl
  · rfl

/-! ## Writes of DRAM -/

theorem wakeHome_poison (s : State) (pa n : Nat) : (s.wakeHome pa n).poison = s.poison := by
  have hfire (s : State) (v : Clock) (w : Watch) : (s.fireWatch v w).poison = s.poison := by
    unfold State.fireWatch
    split
    · rfl
    · rfl
    · rfl
  unfold State.wakeHome
  dsimp only
  split
  · rfl
  · refine foldl_keeps (P := fun t : State => t.poison = s.poison) rfl fun t w ht => ?_
    split
    · exact ht
    · rw [hfire, ht]

theorem writeAt_poison {s : State} (hp : s.poison = []) (pa : Nat) (bs : List Byte) : (s.writeAt pa bs).poison = [] := by
  unfold State.writeAt
  split
  · exact (State.setBytes_poison s _ bs).trans hp
  · split
    · rw [wakeHome_poison, State.unpoison]
      split
      · exact (State.setBytes_poison s _ bs).trans hp
      next h =>
        rw [State.setBytes_poison, hp] at h
        exact absurd rfl h
    · exact (State.setBytes_poison s _ bs).trans hp

/-- Writes of memory change of the executing thread nothing where it does not wait. -/
theorem access_of_written {l : List (Nat × Nat)} {s t : State} (h : Written s t) (hpoi : t.poison = s.poison)
    (hw : s.cur.wait = .none) (hbut : Claims.DramBut s t l) : Access l s t := by
  obtain ⟨hrest, hcore, hslot⟩ := h
  have hdies : t.dies = s.dies := by rw [hrest]
  have hnext : t.nextId = s.nextId := by rw [hrest]
  have hreqs : t.reqs = s.reqs := by rw [hrest]
  have hrel : t.releases = s.releases := by rw [hrest]
  have hwaits : t.contWaits = s.contWaits := by rw [hrest]
  have hconts : t.conts = s.conts := by rw [hrest]
  have hc : t.curCore = s.curCore := by rw [hrest]
  have hn : t.curSlot = s.curSlot := by rw [hrest]
  have hdie (d : Nat) : t.die d = s.die d := by rw [State.die, hdies, State.die]
  refine .of_near ⟨?_, fun c => ?_, fun d => ⟨_, hdie d⟩, ?_, hbut⟩ ?_ hrel.trans
  · rw [hpoi] at hrest
    rw [hdies, hnext, hreqs, hrel, hwaits, hconts]
    exact hrest
  · obtain ⟨sl, rc, w, g, ht⟩ := hcore c
    exact ⟨sl, rc, _, _, _, ht⟩
  · have hcur : t.cur = s.cur := by
      rw [State.cur, hc, hn]
      exact hslot _ _ hw
    rw [hcur]
    exact .refl _
  · obtain ⟨_, _, _, _, ht⟩ := hcore s.curCore
    rw [State.curK, State.curK, hc, ht]

/-- A write of DRAM. -/
theorem access_writeAt {s : State} {pa : Nat} {bs : List Byte} (hw : s.cur.wait = .none) (hp : s.poison = [])
    (hc : ∀ i < bs.length, paClass (pa + i) = 0) (hpos : 0 < bs.length) : Access [(pa, bs.length)] s (s.writeAt pa bs) := by
  have hc0 : paClass pa = 0 := hc 0 hpos
  exact access_of_written (written_writeAt s pa bs) ((writeAt_poison hp pa bs).trans hp.symm) hw
    (dramBut_of_wrote (wrote_writeAt_dram hc0 bs) hc)

/-- A word written to DRAM, aligned. -/
theorem access_writeWord {s : State} {pa : Nat} (hw : s.cur.wait = .none) (hp : s.poison = []) (hc : paClass pa = 0) (ha : pa % 8 = 0)
    (v : Word) : Access [(pa, 8)] s (s.writeAt pa (leBytes 8 v.toNat)) := by
  have hlen : (leBytes 8 v.toNat).length = 8 := leBytes_length ..
  rw [← hlen]
  refine access_writeAt hw hp ?_ ?_
  · rw [hlen]
    exact paClass_aligned hc (.inr rfl) ha
  · rw [hlen]
    decide

theorem memW_writeWord {s : State} {pa : Nat} (hc : paClass pa = 0) (ha : pa % 8 = 0) (v : Word) :
    (s.writeAt pa (leBytes 8 v.toNat)).memW pa = v := by
  have hplain : Plain s pa 8 := plain_dram (paClass_aligned hc (.inr rfl) ha)
  rw [State.memW, (wrote_writeAt_dram hc _).memNat hplain, Nat.mod_eq_of_lt v.isLt]
  exact BitVec.ofNat_toNat ..

theorem paClass_aligned16 {pa : Nat} (hc : paClass pa = 0) (ha : pa % 16 = 0) : ∀ i < 16, paClass (pa + i) = 0 := by
  intro i hi
  unfold paClass at hc ⊢
  omega

/-- The two words of a future, written at once. -/
theorem access_writeTwo {s : State} {pa : Nat} (hw : s.cur.wait = .none) (hp : s.poison = []) (hcls : ∀ i < 16, paClass (pa + i) = 0)
    (q v : Word) : Access [(pa, 16)] s (s.writeAt pa (leBytes 8 q.toNat ++ leBytes 8 v.toNat)) ∧
      (s.writeAt pa (leBytes 8 q.toNat ++ leBytes 8 v.toNat)).memW pa = q ∧
      (s.writeAt pa (leBytes 8 q.toNat ++ leBytes 8 v.toNat)).memW (pa + 8) = v := by
  have hc : paClass pa = 0 := hcls 0 (by decide)
  have hlen : (leBytes 8 q.toNat ++ leBytes 8 v.toNat).length = 16 := by
    rw [List.length_append, leBytes_length, leBytes_length]
  have hbs : leBytes 8 q.toNat ++ leBytes 8 v.toNat = [q, v].flatMap fun w => leBytes 8 w.toNat := by simp
  have hacc : Access [(pa, 16)] s _ := hlen ▸ access_writeAt hw hp (by rwa [hlen]) (by rw [hlen]; decide)
  have hread := (wrote_writeAt_dram (s := s) hc _).bytes (plain_dram (by rw [hlen]; exact hcls))
  rw [hlen, hbs] at hread
  rw [hbs] at hacc ⊢
  exact ⟨hacc, memW_of_bytes (ws := [q, v]) (i := 0) Nat.zero_lt_two hread, memW_of_bytes (ws := [q, v]) (i := 1) Nat.one_lt_two hread⟩

/-- What SETFUTURE leaves of a future (R82): a state and a value, and the owner as it was. -/
theorem access_setFuture {s : State} {pa : Nat} (hw : s.cur.wait = .none) (hp : s.poison = []) (hcls : ∀ i < 16, paClass (pa + i) = 0)
    (c st : Nat) (v : Word) : Access [(pa, 16)] s (s.setFuture c pa st v) ∧
      (s.setFuture c pa st v).memW pa = futWord st ((s.memW pa).bits 47 0) ∧ (s.setFuture c pa st v).memW (pa + 8) = v := by
  rw [State.setFuture]
  generalize futWord st ((s.memW pa).bits 47 0) = q
  obtain ⟨hacc, hq, hv⟩ := access_writeTwo hw hp hcls q v
  exact ⟨hacc.trans (m := []) (.of_near (near_of_cores rfl fun _ _ _ _ => rfl) rfl id), hq, hv⟩

end Sys2Proof.Machine

/-! # Futures and locks (O27) -/

namespace Sys2Proof.Machine

/-! ## Ends of an instruction on an object -/

theorem access_clearIdv (s : State) : Access [] s s.clearIdv :=
  .of_near (near_modSlot s s.curCore s.curSlot fun _ => ⟨_, _, _, rfl⟩) (held_modSlot ..) id

theorem State.memW_modCur (s : State) (f : Slot → Slot) (pa : Nat) : (s.modCur f).memW pa = s.memW pa :=
  congrArg (fun bs => word (leNat bs)) (State.bytes_congr (t := s.modCur f) rfl rfl rfl pa 8)

theorem memW_clearIdv (s : State) (pa : Nat) : s.clearIdv.memW pa = s.memW pa := State.memW_modCur ..
theorem memW_advance (s : State) (f : Fld) (pa : Nat) : (s.advance f).memW pa = s.memW pa := State.memW_modCur ..

section
variable {l : List (Nat × Nat)} {s t : State}

/-- An instruction goes on behind its accesses: the window and the PC. -/
theorem stk_advance (h : Access l s t) (f : Fld) : (t.advance f).cur.stk = s.cur.stk ∧ (t.advance f).cur.pc = s.npc f := by
  rw [State.cur_advance]
  exact ⟨h.cur.stk, h.npc f⟩

/-- A trap behind accesses names its cause and address, and changes no memory. -/
theorem trap_after (s : State) (r : TrapRec) :
    (s.trap r).cur.trapcause.bits 63 56 = r.cause % 256 ∧ (s.trap r).cur.trapaddr = r.addr := by
  rw [State.cur_trap]
  exact ⟨bits_trapCauseWord .., rfl⟩

theorem detAtom_none {a : Word} (h : s.cur.st.det = false) : detAtom s a = none := by
  rw [detAtom, h]
  rfl

/-- An object's address is aligned, so that the checks of its instruction pass. -/
theorem checks_object {a : Word} {n : Nat} (hdet : s.cur.st.det = false) (ha : a.toNat % n = 0) : firstTrap [detAtom s a, alignTrap a n] = none := by
  simp only [detAtom_none hdet, alignTrap_none ha, firstTrap_none, firstTrap_nil]

theorem RR.fld_t_lt (x : RR) : x.fld.t < 16 := by
  unfold RR.fld fldPxr
  dsimp only
  split
  · exact Nat.zero_lt_succ 15
  next t rc sz h =>
    obtain ⟨p, -, hp⟩ := List.exists_of_findSome?_eq_some h
    split at hp
    next t' _ _ =>
      obtain rfl : t'.toNat = t := congrArg Prod.fst (Option.some.inj hp)
      exact t'.isLt
    · cases hp

theorem orAdopt_quiet (hq : Claims.Quiet s) (go : State → State) : s.orAdopt go = go s := by
  obtain ⟨-, -, -, -, -, -, -, had, -⟩ := hq
  rw [State.orAdopt, had]

end

/-! ## FUTS and FUTP -/

section
variable {x : RR} {s : State} {pa : Nat} (hq : Claims.Quiet s) (hdet : s.cur.st.det = false)
include hq hdet

/-- FUTS with f = 0 fills, behind its release, a future that is not full or poison yet (R296). -/
theorem exec_futs_fill (hr : Ready (.futs x) s) (hf : x.f = 0) (ho : Claims.ObjAt s (s.w x.fld.s) 16 .atomic pa) :
    ∃ r, Access [] s r ∧ exec (.futs x) s = .next (if 2 ≤ futState (r.memW pa) then r.trap { cause := 0x19, addr := s.w x.fld.s }
      else ((r.setFuture r.curCore pa 2 (s.w x.fld.d)).clearIdv).advance x.fld) := by
  obtain ⟨u, hu, -, hgo⟩ := withObj_next hq ho
  obtain ⟨-, -, -, -, -, -, hal, -⟩ := ho
  have hf' : x.fld.f ≠ 1 := by simp [hf]
  refine ⟨u.pkgRelease, hu.trans (access_pkgRelease (hu.quiet hq)), ?_⟩
  change execFuts x s = _
  rw [execFuts, gate_next _ _ hr (checks_object hdet hal), hgo, if_neg hf']

/-- FUTS with f = 1 claims an empty future (R296). -/
theorem exec_futs_claim (hr : Ready (.futs x) s) (hf : x.f = 1) (ho : Claims.ObjAt s (s.w x.fld.s) 16 .atomic pa) :
    ∃ r, Access [] s r ∧ exec (.futs x) s = .next (if futState (r.memW pa) ≠ 0 then r.trap { cause := 0x19, addr := s.w x.fld.s }
      else ((r.writeAt pa (leBytes 8 (futWord 1 ((s.w x.fld.d).bits 47 0)).toNat)).clearIdv).advance x.fld) := by
  obtain ⟨u, hu, -, hgo⟩ := withObj_next hq ho
  obtain ⟨-, -, -, -, -, -, hal, -⟩ := ho
  have hf' : x.fld.f = 1 := by simp [hf]
  refine ⟨u, hu, ?_⟩
  change execFuts x s = _
  rw [execFuts, gate_next _ _ hr (checks_object hdet hal), hgo, if_pos hf']

/-- FUTP poisons, behind its release, a future that is not full, and leaves a poison one (R297). -/
theorem exec_futp (hr : Ready (.futp x) s) (hf : x.f = 0) (ho : Claims.ObjAt s (s.w x.fld.s) 16 .atomic pa) :
    ∃ r, Access [] s r ∧ exec (.futp x) s = .next (if futState (r.memW pa) = 2 then r.trap { cause := 0x19, addr := s.w x.fld.s }
      else ((if futState (r.memW pa) = 3 then r else r.setFuture r.curCore pa 3 (s.w x.fld.d)).clearIdv).advance x.fld) := by
  obtain ⟨u, hu, -, hgo⟩ := withObj_next hq ho
  obtain ⟨-, -, -, -, -, -, hal, -⟩ := ho
  have hlim : limits s [(x.fld.f != 0, x.fld.last)] = none := limits_one_none s (by simp [hf]) _
  refine ⟨u.pkgRelease, hu.trans (access_pkgRelease (hu.quiet hq)), ?_⟩
  change execFutp x s = _
  rw [execFutp, gate_next _ _ hr (by simp only [hlim, firstTrap_none, checks_object hdet hal]), hgo]

end

theorem futWord_owner (st : Nat) (q : Word) : futWord st (q.bits 47 0) = BitVec.ofNat 64 (st * 2 ^ 62 + q.bits 47 0) := by
  rw [futWord, Nat.mod_eq_of_lt (bits_lt q 47 0), word]

section
variable {l : List (Nat × Nat)} {s r : State} {a : Word} {k : Acc} {pa : Nat}

/-- What an access to an object finds there is what stood there at first. -/
theorem Near.memW_object (h : Near [] s r) {n : Nat} (hn : n % 8 = 0) (ho : Claims.ObjAt s a n k pa) : r.memW pa = s.memW pa := by
  obtain ⟨-, hc, hlt, hal, -⟩ := ho
  refine h.memW hc hlt ?_ fun _ hr => absurd hr List.not_mem_nil
  exact Nat.mod_eq_zero_of_dvd ((Nat.dvd_of_mod_eq_zero hn).trans (Nat.dvd_of_mod_eq_zero hal))

/-- A fill or a poisoning of a future completes the instruction (R296, R297). -/
theorem setFuture_done (hq : Claims.Quiet s) (ho : Claims.ObjAt s a 16 k pa) (h : Access [] s r) (c st : Nat) (v : Word) (f : Fld) :
    let t := ((r.setFuture c pa st v).clearIdv).advance f
    t.memW pa = BitVec.ofNat 64 (st * 2 ^ 62 + (s.memW pa).bits 47 0) ∧ t.memW (pa + 8) = v ∧ Claims.DramBut s t [(pa, 16)] ∧
      t.cur.stk = s.cur.stk ∧ t.cur.pc = s.npc f := by
  have hword := h.memW_object rfl ho
  obtain ⟨-, hc, -, hal, -⟩ := h.objAt ho
  obtain ⟨-, -, -, -, -, -, hwait, -⟩ := h.quiet hq
  obtain ⟨-, -, -, -, -, hpoi, -⟩ := h.objAt ho
  obtain ⟨hacc, hw0, hw1⟩ := access_setFuture hwait hpoi (paClass_aligned16 hc hal) c st v
  have hall := (h.trans hacc).trans (access_clearIdv _)
  obtain ⟨hstk, hpc⟩ := stk_advance hall f
  refine ⟨?_, ?_, hall.dram, hstk, hpc⟩
  · rw [memW_advance, memW_clearIdv, hw0, hword, futWord_owner]
  · rw [memW_advance, memW_clearIdv, hw1]

/-- A write of an object's word 0 completes the instruction. -/
theorem writeWord_done (hq : Claims.Quiet s) {n : Nat} (hn : n % 8 = 0) (ho : Claims.ObjAt s a n k pa) (h : Access l s r) (v : Word) :
    Access (l ++ [(pa, 8)]) s (r.writeAt pa (leBytes 8 v.toNat)) ∧ (r.writeAt pa (leBytes 8 v.toNat)).memW pa = v := by
  obtain ⟨-, hc, -, hal, -, hpoi, -⟩ := h.objAt ho
  obtain ⟨-, -, -, -, -, -, hwait, -⟩ := h.quiet hq
  have hal8 : pa % 8 = 0 := Nat.mod_eq_zero_of_dvd ((Nat.dvd_of_mod_eq_zero hn).trans (Nat.dvd_of_mod_eq_zero hal))
  exact ⟨h.trans (access_writeWord hwait hpoi hc hal8 v), memW_writeWord hc hal8 v⟩

end

/-! ## LOCK and UNLOCK -/

section
variable {x : RR} {s : State} {pa : Nat} (hq : Claims.Quiet s) (hdet : s.cur.st.det = false) (hd : x.d = 0) (hf : x.f = 0)
include hdet hd hf

theorem checks_lock {a : Word} (ha : a.toNat % 8 = 0) :
    firstTrap [limits s [(x.fld.d != 0 || x.fld.f != 0, x.fld.last)], detAtom s a, alignTrap a 8] = none := by
  simp only [limits_one_none s (bad := x.fld.d != 0 || x.fld.f != 0) (by simp [hd, hf]), firstTrap_none, checks_object hdet ha]

include hq

/-- LOCK finds the word as it is: one that the task holds traps, a free one is taken behind the implicit release (R298). -/
theorem exec_lock (hr : Ready (.lock x) s) (ho : Claims.ObjAt s (s.w x.fld.s) 8 .atomic pa) :
    (heldBy (s.memW pa) (taskNo s.cur.taskid) = true → ∃ u : State, u.mem = s.mem ∧
      exec (.lock x) s = .next (u.trap { cause := 0x1A, addr := s.w x.fld.s })) ∧
    ((s.memW pa).bits 48 48 = 0 → ∃ r, Access [] s r ∧ exec (.lock x) s = .next ((r.writeAt pa
      (leBytes 8 (lockWord ((s.memW pa).bits 63 63) 1 (taskNo s.cur.taskid)).toNat)).advance x.fld)) := by
  obtain ⟨u, hu, hmem, hgo⟩ := withObj_next hq ho
  have huq := hu.quiet hq
  have hcas := hu.trans (access_casRelease huq)
  have hword := hu.memW_object rfl ho
  have hword' := hcas.memW_object rfl ho
  obtain ⟨_, _, _, hcur⟩ := hu.cur
  have hal := objAt_aligned ho
  have hex : exec (.lock x) s = execLock x s := rfl
  rw [execLock, gate_next _ _ hr (checks_lock hdet hd hf hal), orAdopt_quiet hq, hgo] at hex
  dsimp only at hex
  rw [objW_quiet huq, hword, hword', hcur] at hex
  refine ⟨fun hheld => ⟨u, hmem, ?_⟩, fun hfree => ⟨_, hcas, ?_⟩⟩
  · rw [hex, if_pos hheld]
  · have hnot : heldBy (s.memW pa) (taskNo s.cur.taskid) = false := by simp [heldBy, hfree]
    simp only [hex, hnot, hfree, if_true, Bool.false_eq_true, if_false]

/-- UNLOCK by the holder frees the word behind the release; another task traps (R299). -/
theorem exec_unlock (hr : Ready (.unlock x) s) (ho : Claims.ObjAt s (s.w x.fld.s) 8 .atomic pa) :
    (heldBy (s.memW pa) (taskNo s.cur.taskid) = false → ∃ u : State, u.mem = s.mem ∧
      exec (.unlock x) s = .next (u.trap { cause := 0x1A, addr := s.w x.fld.s })) ∧
    (heldBy (s.memW pa) (taskNo s.cur.taskid) = true → ∃ r, Access [] s r ∧ exec (.unlock x) s = .next (((r.writeAt pa
      (leBytes 8 (lockWord 0 0 (taskNo s.cur.taskid)).toNat)).clearIdv).advance x.fld)) := by
  obtain ⟨u, hu, hmem, hgo⟩ := withObj_next hq ho
  have huq := hu.quiet hq
  have hpkg := hu.trans (access_pkgRelease huq)
  have hword := hu.memW_object rfl ho
  have hword' := hpkg.memW_object rfl ho
  obtain ⟨_, _, _, hcur⟩ := hu.cur
  have hal := objAt_aligned ho
  have hex : exec (.unlock x) s = execUnlock x s := rfl
  rw [execUnlock, gate_next _ _ hr (checks_lock hdet hd hf hal), hgo] at hex
  dsimp only at hex
  rw [objW_quiet huq, hword, hword', hcur] at hex
  refine ⟨fun hnot => ⟨u, hmem, ?_⟩, fun hheld => ⟨_, hpkg, ?_⟩⟩
  · simp only [hex, hnot, Bool.not_false, if_true]
  · simp only [hex, hheld, Bool.not_true, Bool.false_eq_true, if_false]

end

/-! ## FUTW -/

section
variable {x : RR} {s : State} {pa : Nat}

theorem deliver_mem (f : Fld) (v : Word) (status : Nat) : (s.deliver f v status).mem = s.mem := by
  unfold State.deliver
  dsimp only
  split
  · rfl
  · rfl

/-- A value is delivered with a status in the t form. -/
theorem deliver_done (f : Fld) (hd : f.d < 16) (ht : f.t < 16) (hne : f.pxr = true → f.t ≠ f.d) (v : Word) (status : Nat) :
    (s.deliver f v status).cur.w f.d = v ∧ (f.pxr = true → (s.deliver f v status).cur.w f.t = BitVec.ofNat 64 status) ∧
      (s.deliver f v status).cur.pc = s.npc f := by
  unfold State.deliver
  dsimp only
  split
  next hp =>
    have hwd : ((s.cur.setW f.d v).setW f.t (word status)).w f.d = v := by
      rw [Slot.setW_w_ne _ _ ht hd (hne hp).symm, Slot.setW_w_same]
    simp only [State.cur_advance, State.cur_setW]
    refine ⟨hwd, fun _ => Slot.setW_w_same .., ?_⟩
    rw [State.npc, State.cur_setW, State.cur_setW]
    rfl
  next hp =>
    simp only [State.cur_advance, State.cur_setW]
    refine ⟨Slot.setW_w_same .., fun h => absurd h hp, ?_⟩
    rw [State.npc, State.cur_setW]
    rfl

theorem limits_popLimits {f : Fld} (hf : f.f = 0) (hp : f.pxr = true → f.rc = 0 ∧ f.sz = 0) : limits s (popLimits f) = none := by
  refine limits_eq_none ?_
  simp only [popLimits, List.forall_mem_cons]
  refine ⟨?_, by simp [hf], List.forall_mem_nil _⟩
  by_cases h : f.pxr = true
  · simp [(hp h).1, (hp h).2]
  · simp [h]

/-- FUTW reads both words of the future where it stands (R295). -/
theorem exec_futw (hq : Claims.Quiet s) (hr : Ready (.futw x) s) (hf : x.f = 0)
    (hp : x.fld.pxr = true → x.fld.rc = 0 ∧ x.fld.sz = 0) (ho : Claims.ObjAt s (s.w x.fld.s) 16 .read pa) :
    ∃ u : State, Access [] s u ∧ u.mem = s.mem ∧
      (futState (s.memW pa) = 2 → exec (.futw x) s = .next (u.deliver x.fld (s.memW (pa + 8)) 2)) ∧
      (futState (s.memW pa) = 3 → exec (.futw x) s =
        .next (if x.fld.pxr then u.deliver x.fld (s.memW (pa + 8)) 3 else u.trap { cause := 0x1B, addr := s.w x.fld.s })) := by
  obtain ⟨u, hu, hmem, hgo⟩ := withObj_next hq ho
  have hword0 := hu.memW_object rfl ho
  obtain ⟨-, hc, hlt, hmod, -, -, hal, -⟩ := ho
  have hword1 : u.memW (pa + 8) = s.memW (pa + 8) :=
    hu.memW (paClass_aligned16 hc hmod 8 (by decide)) (by omega) (by omega) fun _ h => absurd h List.not_mem_nil
  have hex : exec (.futw x) s = execFutw x s := rfl
  rw [execFutw, gate_next _ _ hr (by
    simp only [limits_popLimits (f := x.fld) (by simp [hf]) hp, alignTrap_none hal, firstTrap_none, firstTrap_nil]),
    orAdopt_quiet hq, hgo] at hex
  dsimp only at hex
  rw [objW_quiet (hu.quiet hq), objW_quiet (hu.quiet hq), hword0, hword1] at hex
  refine ⟨u, hu, hmem, fun h => ?_, fun h => ?_⟩
  · rw [hex, if_pos h]
  · rw [hex, if_neg (by rw [h]; decide), if_pos h]

end

/-- Settles O27: an access to the object leaves it as it stood, and each instruction decides on its state and goes on behind its writes, or
traps. -/
theorem futuresAndLocks : Obligations.FuturesAndLocks := by
  unfold Obligations.FuturesAndLocks
  refine ⟨fun x s pa hq hdet => ⟨fun hr hf ho => ?_, fun hr hf ho => ?_, fun hr hf ho => ?_, fun hr hf hp ho => ?_⟩,
    fun x s pa hq hdet hd hf ho => ⟨fun hr => ?_, fun hr => ?_⟩⟩
  · obtain ⟨r, h, hex⟩ := exec_futs_fill hq hdet hr hf ho
    rw [h.memW_object rfl ho, futState] at hex
    refine ⟨fun hst => ?_, fun hst => ?_⟩
    · rw [if_neg (Nat.not_le.mpr hst)] at hex
      exact ⟨_, hex, setFuture_done hq ho h ..⟩
    · rw [if_pos hst] at hex
      obtain ⟨hcause, haddr⟩ := trap_after r { cause := 0x19, addr := s.w x.fld.s }
      exact ⟨_, hex, hcause, haddr, h.dram⟩
  · obtain ⟨r, h, hex⟩ := exec_futs_claim hq hdet hr hf ho
    rw [h.memW_object rfl ho, futState] at hex
    refine ⟨fun hst => ?_, fun hst => ?_⟩
    · rw [if_neg (not_not.mpr hst)] at hex
      obtain ⟨hacc, hword⟩ := writeWord_done hq rfl ho h (futWord 1 ((s.w x.fld.d).bits 47 0))
      have hall := hacc.trans (access_clearIdv _)
      refine ⟨_, hex, ?_, hall.dram, stk_advance hall x.fld⟩
      rw [memW_advance, memW_clearIdv, hword, futWord_owner, Nat.one_mul]
    · rw [if_pos hst] at hex
      exact ⟨_, hex, (trap_after r _).1, h.dram⟩
  · obtain ⟨r, h, hex⟩ := exec_futp hq hdet hr hf ho
    rw [h.memW_object rfl ho, futState] at hex
    refine ⟨fun hst => ?_, fun hst => ?_, fun hst => ?_⟩
    · rw [if_neg (by omega), if_neg (by omega)] at hex
      exact ⟨_, hex, setFuture_done hq ho h ..⟩
    · rw [if_neg (by omega), if_pos hst] at hex
      have hall := h.trans (access_clearIdv _)
      exact ⟨_, hex, hall.dram, (stk_advance hall x.fld).2⟩
    · rw [if_pos hst] at hex
      exact ⟨_, hex, (trap_after r _).1, h.dram⟩
  · obtain ⟨u, hu, hmem, hfull, hpoison⟩ := exec_futw hq hr hf (fun h => ⟨(hp h).1, (hp h).2.1⟩) ho
    rw [futState] at hfull hpoison
    have hdone := deliver_done (s := u) x.fld (RR.fld_d x ▸ x.d.isLt) (RR.fld_t_lt x) (fun h => (hp h).2.2) (s.memW (pa + 8))
    have hlt := bits_lt (s.memW pa) 63 62
    refine ⟨fun hst hor => ?_, fun hst hpxr => ?_⟩
    · have hex : exec (.futw x) s = .next (u.deliver x.fld (s.memW (pa + 8)) ((s.memW pa).bits 63 62)) := by
        rcases Nat.lt_or_ge ((s.memW pa).bits 63 62) 3 with h | h
        · have h2 : (s.memW pa).bits 63 62 = 2 := by omega
          rw [hfull h2, h2]
        · have h3 : (s.memW pa).bits 63 62 = 3 := by omega
          rw [hpoison h3, h3, if_pos (hor.resolve_left (by omega))]
      obtain ⟨hwd, hwt, hpc⟩ := hdone ((s.memW pa).bits 63 62)
      exact ⟨_, hex, hwd, hwt, hpc.trans (hu.npc x.fld), (deliver_mem ..).trans hmem⟩
    · have hex := hpoison hst
      rw [if_neg (by simp [hpxr])] at hex
      obtain ⟨hcause, haddr⟩ := trap_after u { cause := 0x1B, addr := s.w x.fld.s }
      exact ⟨_, hex, hcause, haddr, hmem⟩
  · obtain ⟨hheld, hfree⟩ := exec_lock hq hdet hd hf hr ho
    refine ⟨fun hz => ?_, fun h1 hme => ?_⟩
    · obtain ⟨r, h, hex⟩ := hfree hz
      obtain ⟨hacc, hword⟩ := writeWord_done hq rfl ho h (lockWord ((s.memW pa).bits 63 63) 1 (taskNo s.cur.taskid))
      refine ⟨_, hex, ?_, hacc.dram, stk_advance hacc x.fld⟩
      rw [memW_advance, hword, lockWord, taskNo, Nat.mod_eq_of_lt (bits_lt _ 47 0), word, Nat.one_mul]
    · obtain ⟨u, hmem, hex⟩ := hheld (by simp [heldBy, h1, hme, taskNo])
      obtain ⟨hcause, haddr⟩ := trap_after u { cause := 0x1A, addr := s.w x.fld.s }
      exact ⟨_, hex, hcause, haddr, hmem⟩
  · obtain ⟨hother, hheld⟩ := exec_unlock hq hdet hd hf hr ho
    refine ⟨fun h1 hme => ?_, fun hor => ?_⟩
    · obtain ⟨r, h, hex⟩ := hheld (by simp [heldBy, h1, hme, taskNo])
      obtain ⟨hacc, hword⟩ := writeWord_done hq rfl ho h (lockWord 0 0 (taskNo s.cur.taskid))
      have hall := hacc.trans (access_clearIdv _)
      refine ⟨_, hex, ?_, hall.dram, stk_advance hall x.fld⟩
      rw [memW_advance, memW_clearIdv, hword, lockWord, taskNo, Nat.mod_eq_of_lt (bits_lt _ 47 0), word, Nat.zero_mul, Nat.zero_mul,
        Nat.zero_add]
    · obtain ⟨u, hmem, hex⟩ := hother (by
        rcases hor with h | h
        · simp [heldBy, h]
        · simp [heldBy, taskNo, h])
      obtain ⟨hcause, haddr⟩ := trap_after u { cause := 0x1A, addr := s.w x.fld.s }
      exact ⟨_, hex, hcause, haddr, hmem⟩

end Sys2Proof.Machine

/-! # Stage rings (O28) -/

namespace Sys2Proof.Machine

/-! ## A change of the executing thread that leaves its accesses alone -/

section
variable {s : State} {g : Slot → Slot}

theorem quiet_modCur (hst : ∀ t, (g t).st.hearth = t.st.hearth) (hwait : ∀ t, (g t).wait = t.wait) (had : ∀ t, (g t).adopting = t.adopting)
    (hq : Claims.Quiet s) : Claims.Quiet (s.modCur g) := by
  obtain ⟨hp, hr, ho, hc, hh, hcu, hw, ha, hex, hpk⟩ := hq
  have hlog : (s.modCur g).curK.log = s.curK.log := by rw [State.curK_modCur]; rfl
  unfold Claims.Quiet
  rw [hlog, State.cur_modCur, hst, hwait, had]
  exact ⟨hp, hr, ho, hc, hh, hcu, hw, ha, hex, hpk⟩

theorem objAt_modCur (hst : ∀ t, (g t).st = t.st) {a : Word} {n : Nat} {k : Acc} {pa : Nat} (ho : Claims.ObjAt s a n k pa) :
    Claims.ObjAt (s.modCur g) a n k pa := by
  have htlb : (s.modCur g).curK.tlb = s.curK.tlb := by rw [State.curK_modCur]; rfl
  unfold Claims.ObjAt Claims.TlbHit at ho ⊢
  rw [htlb, State.cur_modCur, hst]
  exact ho

end

/-! ## The ring -/

section
variable {s : State} {a : Word} {kh kt : Acc} {pb ps ph pt : Nat}

/-- The four words of a descriptor are reached where they stand (R80). -/
theorem withRing_next (hq : Claims.Quiet s) (hring : Claims.RingAt s a kh kt pb ps ph pt) : ∃ u, Access [] s u ∧
    ∀ go, s.withRing a kh kt go = go { head := ph, tail := pt, base := s.memW pb, slog := (s.memW ps).bits 4 0 } u := by
  obtain ⟨hb, hs, hh, ht⟩ := hring
  obtain ⟨u1, h1, -, hgo1⟩ := withObj_next hq hb
  obtain ⟨u2, h2, -, hgo2⟩ := withObj_next (h1.quiet hq) (h1.objAt hs)
  have h12 : Access [] s u2 := h1.trans h2
  obtain ⟨u3, h3, -, hgo3⟩ := withObj_next (h12.quiet hq) (h12.objAt hh)
  have h13 : Access [] s u3 := h12.trans h3
  obtain ⟨u4, h4, -, hgo4⟩ := withObj_next (h13.quiet hq) (h13.objAt ht)
  have h14 : Access [] s u4 := h13.trans h4
  refine ⟨u4, h14, fun go => ?_⟩
  rw [State.withRing, hgo1, hgo2, hgo3, hgo4, objW_quiet (h14.quiet hq), objW_quiet (h14.quiet hq), h14.memW_object rfl hb,
    h14.memW_object rfl hs]

theorem entry_eq (q t : Word) (n : Nat) : Ring.entry { head := ph, tail := pt, base := q, slog := n } t =
    q + BitVec.ofNat 64 (16 * (t.toNat % 2 ^ n)) := rfl

end

/-- Word 1 of a future where an access finds it is what stood there at first. -/
theorem Near.memW_value {s r : State} {e : Word} {k : Acc} {pe : Nat} (h : Near [] s r) (ho : Claims.ObjAt s e 16 k pe) :
    r.memW (pe + 8) = s.memW (pe + 8) := by
  obtain ⟨-, hc, hlt, hal, -⟩ := ho
  exact h.memW (paClass_aligned16 hc hal 8 (by decide)) (by omega) (by omega) fun _ hr => absurd hr List.not_mem_nil

/-! ## QPUSH -/

section
variable {s : State} {e : Word} {pe : Nat} (hq : Claims.Quiet s) (ho : Claims.ObjAt s e 16 .atomic pe)
  (hst : (s.memW pe).bits 63 62 = 0)
include hq ho hst

/-- The reserved entry, where it is empty, is claimed by the task (R300). -/
theorem pushAt_claim {f : Fld} (hf : f.f = 1) : ∃ w, Access [(pe, 8)] s w ∧
    w.memW pe = BitVec.ofNat 64 (2 ^ 62 + s.cur.taskid.bits 47 0) ∧
    s.pushAt f e = ((w.modCur Slot.unpush).clearIdv).result f f.d e := by
  obtain ⟨u, hu, -, hgo⟩ := withObj_next hq ho
  have huq := hu.quiet hq
  have hempty : futState (u.objW pe) = 0 := by rw [objW_quiet huq, hu.memW_object rfl ho, futState, hst]
  have htask : u.cur.taskid = s.cur.taskid := by
    obtain ⟨_, _, _, hcur⟩ := hu.cur
    rw [hcur]
  obtain ⟨hacc, hword⟩ := writeWord_done hq rfl ho (hu.trans (access_casRelease huq)) (futWord 1 (taskNo u.cur.taskid))
  refine ⟨_, hacc, ?_, ?_⟩
  · rw [hword, htask, taskNo, futWord_owner, Nat.one_mul]
  · rw [State.pushAt, hgo, if_neg (not_not.mpr hempty), if_pos hf]

/-- The reserved entry, where it is empty, is filled with w<d> and keeps its owner (R300). -/
theorem pushAt_fill {f : Fld} (hf : f.f = 0) : ∃ w, Access [(pe, 16)] s w ∧
    w.memW pe = BitVec.ofNat 64 (2 * 2 ^ 62 + (s.memW pe).bits 47 0) ∧ w.memW (pe + 8) = s.w f.d ∧
    s.pushAt f e = ((w.modCur Slot.unpush).clearIdv).advance f := by
  obtain ⟨u, hu, -, hgo⟩ := withObj_next hq ho
  have huq := hu.quiet hq
  have hempty : futState (u.objW pe) = 0 := by rw [objW_quiet huq, hu.memW_object rfl ho, futState, hst]
  have hpkg : Access [] s u.pkgRelease := hu.trans (access_pkgRelease huq)
  have hword := hpkg.memW_object rfl ho
  obtain ⟨-, hc, -, hal, -, hpoi, -⟩ := hpkg.objAt ho
  obtain ⟨-, -, -, -, -, -, hwait, -⟩ := hpkg.quiet hq
  obtain ⟨hacc, hw0, hw1⟩ := access_setFuture hwait hpoi (paClass_aligned16 hc hal) u.curCore 2 (u.w f.d)
  refine ⟨_, hpkg.trans hacc, ?_, hw1.trans (hu.w f.d), ?_⟩
  · rw [hw0, hword, futWord_owner]
  · rw [State.pushAt, hgo, if_neg (not_not.mpr hempty), if_neg (by rw [hf]; decide)]

end

/-- The thread reserves the entry at e for the instruction at its PC (R300). -/
def Slot.reserve (e : Word) (t : Slot) : Slot := { t with pushes := t.pushes ++ [(t.pc, e)] }

section
variable {x : RR} {s : State} {pb ps ph pt pe : Nat} (hq : Claims.Quiet s) (hdet : s.cur.st.det = false)
include hq hdet

/-- QPUSH on a ring that is not full raises TAIL behind the implicit release, and goes on with the entry that it has reserved (R300). -/
theorem exec_qpush (hr : Ready (.qpush x) s) (hpush : s.cur.push = none)
    (hring : Claims.RingAt s (s.w x.fld.s) .read .atomic pb ps ph pt)
    (hroom : (s.memW pt - s.memW ph).toNat < 2 ^ (s.memW ps).bits 4 0) {e : Word}
    (he : e = s.memW pb + BitVec.ofNat 64 (16 * ((s.memW pt).toNat % 2 ^ (s.memW ps).bits 4 0)))
    (ho : Claims.ObjAt s e 16 .atomic pe) :
    ∃ r, Access [(pt, 8)] s r ∧ r.memW pt = s.memW pt + 1 ∧ exec (.qpush x) s = .next ((r.modCur (Slot.reserve e)).pushAt x.fld e) := by
  obtain ⟨u, hu, hgo⟩ := withRing_next hq hring
  obtain ⟨hb, -, hh, ht⟩ := hring
  obtain ⟨u', hu', -, hgo'⟩ := withObj_next (hu.quiet hq) (hu.objAt ho)
  have hall : Access [] s u' := hu.trans hu'
  obtain ⟨hacc, hword⟩ := writeWord_done hq rfl ht (hall.trans (access_casRelease (hall.quiet hq))) (s.memW pt + 1)
  refine ⟨_, hacc, hword, ?_⟩
  have hmod : e.toNat % 16 = 0 := objAt_aligned ho
  have hal : (s.w x.fld.s).toNat % 8 = 0 := objAt_aligned hb
  have hex : exec (.qpush x) s = execQpush x s := rfl
  rw [execQpush, gate_next _ _ hr (checks_object hdet hal), hpush] at hex
  dsimp only at hex
  rw [hgo] at hex
  dsimp only at hex
  rw [objW_quiet (hu.quiet hq), objW_quiet (hu.quiet hq), hu.memW_object rfl ht, hu.memW_object rfl hh, if_neg (Nat.not_le.mpr hroom),
    entry_eq, ← he, if_neg (not_not.mpr hmod), hgo'] at hex
  exact hex

/-- QPOP of a full entry raises HEAD behind the implicit release and empties the entry behind the release at pkg (R301). -/
theorem exec_qpop (hr : Ready (.qpop x) s) (hf : x.f = 0) (hp : x.fld.pxr = true → x.fld.rc = 0 ∧ x.fld.sz = 0)
    (hring : Claims.RingAt s (s.w x.fld.s) .atomic .read pb ps ph pt) (hne : s.memW ph ≠ s.memW pt)
    (ho : Claims.ObjAt s (s.memW pb + BitVec.ofNat 64 (16 * ((s.memW ph).toNat % 2 ^ (s.memW ps).bits 4 0))) 16 .atomic pe)
    (hst : (s.memW pe).bits 63 62 = 2) (hapart : Claims.Apart pe 16 ph 8) :
    ∃ w, Access [(ph, 8), (pe, 8)] s w ∧ w.memW ph = s.memW ph + 1 ∧ w.memW pe = futWord 0 (taskNo noTask) ∧
      exec (.qpop x) s = .next (w.clearIdv.deliver x.fld (s.memW (pe + 8)) 2) := by
  obtain ⟨u, hu, hgo⟩ := withRing_next hq hring
  obtain ⟨hb, -, hh, ht⟩ := hring
  obtain ⟨u', hu', -, hgo'⟩ := withObj_next (hu.quiet hq) (hu.objAt ho)
  have hall : Access [] s u' := hu.trans hu'
  obtain ⟨hhead, hheadw⟩ := writeWord_done hq rfl hh (hall.trans (access_casRelease (hall.quiet hq))) (s.memW ph + 1)
  obtain ⟨r, hre⟩ := exists_eq' (a' := u'.casRelease.writeAt ph (leBytes 8 (s.memW ph + 1).toNat))
  rw [hre] at hhead hheadw
  replace hhead : Access [(ph, 8)] s r := hhead
  have hrq := hhead.quiet hq
  obtain ⟨hentry, hentryw⟩ := writeWord_done hrq rfl (hhead.objAt ho) (access_pkgRelease hrq) (futWord 0 (taskNo noTask))
  have hhead' := hhead.objAt hh
  have hmod := objAt_aligned ho
  refine ⟨_, hhead.trans hentry, ?_, hentryw, ?_⟩
  · obtain ⟨-, hc, hlt, hmod8, -⟩ := hhead'
    rw [hentry.memW hc hlt hmod8 (by simp; omega), hheadw]
  · have hal : (s.w x.fld.s).toNat % 8 = 0 := objAt_aligned hb
    have hchk : firstTrap [limits s (popLimits x.fld), detAtom s (s.w x.fld.s), alignTrap (s.w x.fld.s) 8] = none := by
      simp only [limits_popLimits (f := x.fld) (by simp [hf]) hp, firstTrap_none, checks_object hdet hal]
    have hex : exec (.qpop x) s = execQpop x s := rfl
    rw [execQpop, gate_next _ _ hr hchk, orAdopt_quiet hq, hgo] at hex
    dsimp only at hex
    rw [objW_quiet (hu.quiet hq), objW_quiet (hu.quiet hq), hu.memW_object rfl ht, hu.memW_object rfl hh, if_neg hne,
      entry_eq, if_neg (not_not.mpr hmod), hgo', objW_quiet (hall.quiet hq), objW_quiet (hall.quiet hq), hall.memW_object rfl ho,
      hall.memW_value ho, futState, hst, if_neg (lt_irrefl 2), hre, if_pos rfl] at hex
    exact hex

end

/-! ## What the instructions leave -/

/-- A delivery changes no byte. -/
theorem byte_deliver (s : State) (f : Fld) (v : Word) (status pa : Nat) : (s.deliver f v status).byte pa = s.byte pa := by
  refine State.byte_congr (deliver_mem ..) ?_ ?_ pa
  all_goals
    unfold State.deliver
    dsimp only
    split
    · rfl
    · rfl

theorem memW_deliver (s : State) (f : Fld) (v : Word) (status pa : Nat) : (s.deliver f v status).memW pa = s.memW pa :=
  congrArg (fun bs => word (leNat bs)) (State.bytes_eq_of_byte fun i _ => byte_deliver s f v status (pa + i))

section
variable {l m : List (Nat × Nat)} {s r w : State} {e : Word}

theorem dramBut_reserve (h : Access l s r) (h' : Access m (r.modCur (Slot.reserve e)) w) : Claims.DramBut s w (l ++ m) := by
  intro p hp hc hout
  rw [h'.dram p hp hc fun q hq => hout q (List.mem_append_right _ hq)]
  exact h.dram p hp hc fun q hq => hout q (List.mem_append_left _ hq)

/-- The reservation and its end leave window, PC and other words of the thread alone. -/
theorem aged_unpush (h : Access l s r) (h' : Access m (r.modCur (Slot.reserve e)) w) :
    ((w.modCur Slot.unpush).clearIdv).cur.stk = s.cur.stk ∧ ∀ f, ((w.modCur Slot.unpush).clearIdv).npc f = s.npc f := by
  obtain ⟨_, _, _, hcur⟩ := h'.cur
  have hend : ((w.modCur Slot.unpush).clearIdv).cur.stk = r.cur.stk ∧ ((w.modCur Slot.unpush).clearIdv).cur.pc = r.cur.pc := by
    rw [State.clearIdv, State.cur_modCur, State.cur_modCur, hcur, State.cur_modCur]
    exact ⟨rfl, rfl⟩
  refine ⟨hend.1.trans h.cur.stk, fun f => ?_⟩
  rw [State.npc, State.npc, hend.2, h.cur.pc]

end

/-- What QPUSH has made of TAIL and of its reserved entry when it goes on to that: both can be reached, and the entry is as it was. -/
theorem reserved {s r : State} {e a : Word} {kt k : Acc} {pt pe : Nat} (hq : Claims.Quiet s) (hacc : Access [(pt, 8)] s r)
    (ht : Claims.ObjAt s a 8 kt pt) (ho : Claims.ObjAt s e 16 k pe) (hapart : Claims.Apart pe 16 pt 8) :
    Claims.Quiet (r.modCur (Slot.reserve e)) ∧ Claims.ObjAt (r.modCur (Slot.reserve e)) a 8 kt pt ∧
      Claims.ObjAt (r.modCur (Slot.reserve e)) e 16 k pe ∧ (r.modCur (Slot.reserve e)).memW pe = s.memW pe := by
  have hst (t : Slot) : (t.reserve e).st = t.st := rfl
  refine ⟨quiet_modCur (fun _ => rfl) (fun _ => rfl) (fun _ => rfl) (hacc.quiet hq), objAt_modCur hst (hacc.objAt ht),
    objAt_modCur hst (hacc.objAt ho), ?_⟩
  obtain ⟨-, hc, hlt, hal, -⟩ := ho
  rw [State.memW_modCur, hacc.memW hc hlt (by omega) (by simp; omega)]

/-- Settles O28: the words of the ring are found as they stand, and each write leaves the other words alone. -/
theorem stageRings : Obligations.StageRings := by
  unfold Obligations.StageRings
  intro x s pb ps ph pt pe hq hdet f a hpush size h t tailAt
  refine ⟨fun hr hf hring hroom ho hst hapart => ?_, fun hr hf hring hroom ho hst hapart => ?_,
    fun hr hf hp hring hne ho hst hapart => ?_⟩
  · obtain ⟨r, hacc, htail, hex⟩ := exec_qpush hq hdet hr hpush hring hroom rfl ho
    obtain ⟨hvq, hvt, hvo, hve⟩ := reserved hq hacc hring.2.2.2 ho hapart
    obtain ⟨w, hw, hentry, hat⟩ := pushAt_claim hvq hvo (by rw [hve, hst]) (f := f) (by simp [f, hf])
    rw [hat] at hex
    obtain ⟨-, htc, htlt, htal, -⟩ := hvt
    have hpt := hw.memW htc htlt htal (by simp; omega)
    refine ⟨_, hex, ?_, ?_, ?_, (dramBut_reserve hacc hw :), ?_⟩
    · rw [State.result, memW_advance, State.setW, State.memW_modCur, memW_clearIdv, State.memW_modCur, hpt, State.memW_modCur, htail]
    · rw [State.result, memW_advance, State.setW, State.memW_modCur, memW_clearIdv, State.memW_modCur, hentry, State.cur_modCur]
      obtain ⟨_, _, _, hcur⟩ := hacc.cur
      rw [hcur]
      rfl
    · rw [State.cur_result]
      exact Slot.setW_w_same ..
    · rw [State.cur_result]
      exact (aged_unpush hacc hw).2 f
  · obtain ⟨r, hacc, htail, hex⟩ := exec_qpush hq hdet hr hpush hring hroom rfl ho
    obtain ⟨hvq, hvt, hvo, hve⟩ := reserved hq hacc hring.2.2.2 ho hapart
    obtain ⟨w, hw, hentry, hvalue, hat⟩ := pushAt_fill hvq hvo (by rw [hve, hst]) (f := f) (by simp [f, hf])
    rw [hat] at hex
    obtain ⟨-, htc, htlt, htal, -⟩ := hvt
    have hpt := hw.memW htc htlt htal (by simp; omega)
    obtain ⟨hstk, hpc⟩ := aged_unpush hacc hw
    refine ⟨_, hex, ?_, ?_, ?_, (dramBut_reserve hacc hw :), ?_, ?_⟩
    · rw [memW_advance, memW_clearIdv, State.memW_modCur, hpt, State.memW_modCur, htail]
    · rw [memW_advance, memW_clearIdv, State.memW_modCur, hentry, hve]
    · rw [memW_advance, memW_clearIdv, State.memW_modCur, hvalue, State.w, State.cur_modCur]
      exact hacc.w f.d
    · rw [State.cur_advance]
      exact hstk
    · rw [State.cur_advance]
      exact hpc f
  · obtain ⟨w, hacc, hhead, hentry, hex⟩ := exec_qpop hq hdet hr hf (fun h => ⟨(hp h).1, (hp h).2.1⟩) hring hne ho hst hapart
    obtain ⟨hwd, hwt, hpc⟩ := deliver_done (s := w.clearIdv) x.fld (RR.fld_d x ▸ x.d.isLt) (RR.fld_t_lt x) (fun h => (hp h).2.2)
      (s.memW (pe + 8)) 2
    have hall := hacc.trans (access_clearIdv w)
    refine ⟨_, hex, ?_, ?_, hwd, hwt, ?_, hpc.trans (hall.npc f)⟩
    · rw [memW_deliver, memW_clearIdv, hhead]
    · rw [memW_deliver, memW_clearIdv, hentry]
      decide
    · intro p hp hc hout
      rw [byte_deliver]
      exact hacc.dram p hp hc hout

end Sys2Proof.Machine

/-! # Deterministic phases (O51) -/

namespace Sys2Proof.Machine

/-! ## EXIT_COUNT -/

@[simp] theorem hearth_modDet (s : State) (h : Nat) (f : Det → Det) :
    (s.modDet h f).hearth h = { s.hearth h with det := f (s.hearth h).det } := State.hearth_modHearth_same ..

theorem taskQuiet_of_idle {s : State} (hp : s.pieces = []) (hr : s.reqs = []) (hy : s.replies = []) (hx : s.xadds = [])
    (hc : ∀ k ∈ s.cores, k.2.log.closed = []) (h : Nat) (task : Word) : s.taskQuiet h task = true := by
  have hcores : s.cores.any (fun k => k.2.log.closed.any fun g => g.hearth == h && g.entries.any (·.task == task)) = false := by
    simp only [List.any_eq_false]
    intro k hk
    simp [hc k hk]
  simp [State.taskQuiet, hp, hr, hy, hx, hcores]

theorem exitCount_counts {h n p : Nat} {task : Word} {s : State} (hn : (s.hearth h).det.exiting[n]? = some (p, task))
    (hq : s.taskQuiet h task = true) :
    exec (.exitCount h n) s = .next (s.modDet h fun d =>
      { d with exiting := dropNth d.exiting n, counted := task :: d.counted.filter (· != task) }) := by
  change execExitCount h n s = _
  simp [execExitCount, hn, hq]

/-! ## PHASE_COMMIT -/

section
variable {h p n : Nat} {s : State} (hcur : (s.hearth h).det.current = some (p, n))
include hcur

/-- The homes merge once every task is counted (R89). -/
theorem phaseCommit_merges (hf : (s.hearth h).det.failed = false) (ha : (s.hearth h).det.aborting = false)
    (hc : (s.hearth h).det.committing = false) : exec (.phaseCommit h) s =
      .next (if n ≤ ((s.hearth h).det.counted.filter fun t => t.bits 63 48 == p).length
        then s.modDet h fun d => { d with committing := true } else s) := by
  change execPhaseCommit h s = _
  have hcount : (s.hearth h).det.countOf p = ((s.hearth h).det.counted.filter fun t => t.bits 63 48 == p).length :=
    List.countP_eq_length_filter ..
  simp only [execPhaseCommit, hcur, hc, Det.complete, hf, ha, hcount, Bool.not_false, if_true, Bool.true_and, decide_eq_true_eq]

end

theorem hearths_writeAt (s : State) (pa : Nat) (bs : List Byte) : (s.writeAt pa bs).hearths = s.hearths := by
  rw [(written_writeAt s pa bs).rest]

theorem hearths_tryFuture (s : State) (c pa st : Nat) (v : Word) : (s.tryFuture c pa st v).hearths = s.hearths := by
  unfold State.tryFuture
  split
  · exact hearths_writeAt ..
  · rfl

/-- The futures that a commit fills lie in memory, and no hearth changes. -/
theorem hearths_applyFills (s : State) (l : List Fill) : (s.applyFills l).hearths = s.hearths :=
  foldl_keeps (P := fun t : State => t.hearths = s.hearths) rfl fun _ _ ht => (hearths_tryFuture ..).trans ht

theorem applyFills_nil (s : State) : s.applyFills [] = s := by simp [State.applyFills]

theorem deferredLeft_false {h : Nat} {s : State} (hp : (s.hearth h).det.pieces = []) (ha : (s.hearth h).det.accs = [])
    (hh : ∀ e ∈ s.homes, ∀ u ∈ e.2.holding ++ e.2.overflow, u.hearth ≠ h) : s.deferredLeft h = false := by
  have hhomes : s.homes.any (fun e => (e.2.holding ++ e.2.overflow).any fun u => u.hearth == h) = false := by
    rw [List.any_eq_false]
    intro e he
    rw [Bool.not_eq_true, List.any_eq_false]
    intro u hu
    simpa using hh e he u hu
  simp only [State.deferredLeft, hp, ha, hhomes, List.isEmpty_nil, Bool.not_true, Bool.or_false]

/-- Behind the merge the hub commits: the phase ends, and HPHASE takes its number (R89, R436). -/
theorem phaseCommit_commits {h p n : Nat} {s : State} (hcur : (s.hearth h).det.current = some (p, n))
    (hc : (s.hearth h).det.committing = true) (hleft : s.deferredLeft h = false) :
    exec (.phaseCommit h) s = .next ((((s.applyFills (s.hearth h).det.fills).dropPhaseEntries h p).modDet h Det.ended).modHearth h
      fun q => { q with phase := BitVec.ofNat 16 p }) := by
  change execPhaseCommit h s = _
  have hh : (s.applyFills (s.hearth h).det.fills).hearth h = s.hearth h := by rw [State.hearth, hearths_applyFills, State.hearth]
  simp only [execPhaseCommit, hcur, hc, hleft, State.endPhase, hh]
  rfl

theorem committed_hearth {h p n : Nat} {s u : State} (hcur : (s.hearth h).det.current = some (p, n)) (hu : u.hearths = s.hearths) :
    let t := (((u.dropPhaseEntries h p).modDet h Det.ended).modHearth h fun q => { q with phase := BitVec.ofNat 16 p })
    (t.hearth h).phase = BitVec.ofNat 16 p ∧ (t.hearth h).det.current = none ∧ (t.hearth h).det.committing = false := by
  have hh : (u.dropPhaseEntries h p).hearth h = s.hearth h := by
    rw [State.hearth, State.hearth, ← hu]
    rfl
  simp only [State.hearth_modHearth_same, hearth_modDet, hh, Det.ended, hcur]
  exact ⟨trivial, trivial, trivial⟩

/-! ## HOME_COMMIT_MERGE -/

/-- Where one element alone acts, a fold acts once. -/
theorem foldl_once {σ α : Type} {f : σ → α → σ} {l : List α} {a : α} (hn : l.Nodup) (ha : a ∈ l) (s : σ)
    (hf : ∀ x ∈ l, x ≠ a → ∀ s, f s x = s) : l.foldl f s = f s a := by
  have hid (m : List α) (hm : ∀ x ∈ m, ∀ s, f s x = s) (s : σ) : m.foldl f s = s := by
    induction m generalizing s with
    | nil => rfl
    | cons x r ih =>
      rw [List.foldl_cons, hm x List.mem_cons_self]
      exact ih (fun y hy => hm y (List.mem_cons_of_mem _ hy)) s
  obtain ⟨l1, l2, rfl⟩ := List.append_of_mem ha
  obtain ⟨-, hn2, hdis⟩ := List.nodup_append.mp hn
  have hne1 : ∀ x ∈ l1, x ≠ a := fun x hx => hdis x hx a List.mem_cons_self
  have hne2 : ∀ x ∈ l2, x ≠ a := fun x hx h => (List.nodup_cons.mp hn2).1 (h ▸ hx)
  rw [List.foldl_append, List.foldl_cons, hid l1 (fun x hx => hf x (List.mem_append_left _ hx) (hne1 x hx)),
    hid l2 fun x hx => hf x (List.mem_append_right _ (List.mem_cons_of_mem _ hx)) (hne2 x hx)]

/-- The state in which a home has made an update of memory. -/
def State.updated (s : State) (u : DetUpd) : State :=
  s.writeAt u.pa (leBytes u.size (amoFn u.op u.size (s.memNat u.pa u.size) u.value.toNat))

/-- One integer update is made once, in the turn of its operation and place (R157). -/
theorem applyInts_one (s : State) {u : DetUpd} (hop : u.op < 8) (hsz : u.size = 4 ∨ u.size = 8) (hal : u.pa % u.size = 0) :
    s.applyInts [u] = s.updated u := by
  have hat : (u.size, u.pa % 8) ∈ [(4, 0), (4, 4), (8, 0)] := by
    rcases hsz with h | h
    · rw [h] at hal ⊢
      have : u.pa % 8 = 0 ∨ u.pa % 8 = 4 := by omega
      rcases this with h' | h' <;> rw [h'] <;> decide
    · rw [h] at hal ⊢
      rw [hal]
      decide
  rw [State.applyInts, foldl_once (a := u.op) List.nodup_range (List.mem_range.mpr hop), foldl_once (a := (u.size, u.pa % 8)) (by decide) hat]
  · simp [State.updated]
  · intro k _ hk s
    have hne : (u.size == k.1 && u.pa % 8 == k.2) = false := by
      rw [Bool.and_eq_false_imp]
      intro h1
      rw [beq_eq_false_iff_ne]
      exact fun h2 => hk (Prod.ext (eq_of_beq h1).symm h2.symm)
    simp [Bool.and_assoc, hne]
  · intro op _ hne s
    have hop : (u.op == op) = false := beq_false_of_ne (Ne.symm hne)
    simp [hop]

/-- An update of an integer at a word that is sound is all that the word's merge does. -/
theorem mergeWord_one (s : State) (h : Nat) {u : DetUpd} (hs : Claims.Sound s) (hx : u.x = none) (hop : u.op < 8)
    (hsz : u.size = 4 ∨ u.size = 8) (hal : u.pa % u.size = 0) : s.mergeWord h (updLoc u) [u] = s.updated u := by
  have hint : [u].filter (fun u => u.x.isNone && u.op < 8) = [u] := by simp [hx, hop]
  have hfloat : [u].filter (fun u => u.x.isNone && 8 ≤ u.op) = [] := by simp [hx]; omega
  have hadd : [u].filter (fun u => u.x.isSome) = [] := by simp [hx]
  simp only [State.mergeWord, readLines_sound hs, poisoned_sound hs, Bool.false_eq_true, if_false]
  rw [hint, hfloat, hadd, applyInts_one s hop hsz hal]
  simp [State.applyFloats, State.applyAdds]

/-- A write at DRAM leaves a home's deferred updates alone. -/
theorem deferred_writeAt (s : State) (pa : Nat) (bs : List Byte) (k : Nat) :
    ((s.writeAt pa bs).home k).holding = (s.home k).holding ∧ ((s.writeAt pa bs).home k).overflow = (s.home k).overflow := by
  have hfire (t : State) (v : Clock) (w : Watch) : (t.fireWatch v w).homes = t.homes := by
    unfold State.fireWatch
    split
    · rfl
    · rfl
    · rfl
  have hwake (t : State) (n : Nat) : ((t.wakeHome pa n).home k).holding = (t.home k).holding ∧
      ((t.wakeHome pa n).home k).overflow = (t.home k).overflow := by
    unfold State.wakeHome
    dsimp only
    split
    · exact ⟨rfl, rfl⟩
    · have hmod : ((t.modHome (homeOf pa) fun q => { q with watches := q.watches.filter fun w => !w.hit pa n }).home k).holding =
          (t.home k).holding ∧ ((t.modHome (homeOf pa) fun q =>
            { q with watches := q.watches.filter fun w => !w.hit pa n }).home k).overflow = (t.home k).overflow := by
        rw [State.home, State.modHome, get_put]
        split
        next hk => rw [hk]; exact ⟨rfl, rfl⟩
        · exact ⟨rfl, rfl⟩
      refine foldl_keeps (P := fun u : State => (u.home k).holding = (t.home k).holding ∧ (u.home k).overflow = (t.home k).overflow)
        hmod fun u w hu => ?_
      split
      · exact hu
      · rw [State.home, hfire]
        exact hu
  have hset : (s.setBytes pa bs).home k = s.home k := by rw [State.home, State.setBytes_homes, State.home]
  unfold State.writeAt
  split
  · have hls : (s.writeLS (paCore pa) (paOff pa) bs).home k = s.home k := congrArg (fun m => get ({} : Home) m k) (State.setBytes_homes ..)
    rw [hls]
    exact ⟨rfl, rfl⟩
  · split
    · have hun : ((s.setBytes pa bs).unpoison pa bs.length).home k = s.home k := by
        rw [← hset, State.unpoison]
        split
        · rfl
        · rfl
      rw [← hun]
      exact hwake ..
    · rw [hset]
      exact ⟨rfl, rfl⟩

/-- What a merge leaves of the updates and stores that a home holds: none, and the home is marked (R157). -/
def State.mergeEnded (s : State) (hm h : Nat) : State :=
  (s.dropDeferred h (· == hm)).modDet h fun d => { d with merged := hm :: d.merged.filter (· != hm) }

theorem det_mergeEnded (s : State) (hm h : Nat) : ((s.mergeEnded hm h).hearth h).det =
    let d := (s.hearth h).det
    { d with
      pieces := d.pieces.filter fun x => !(x.home == hm)
      accs := d.accs.filter fun u => !(homeOf u.pa == hm)
      merged := hm :: d.merged.filter (· != hm) } := by
  have hh : (s.dropDeferred h (· == hm)).hearth h = (s.modDet h fun d =>
      { d with pieces := d.pieces.filter fun (x : Piece) => !(x.home == hm), accs := d.accs.filter fun (u : DetUpd) => !(homeOf u.pa == hm) }).hearth h :=
    rfl
  rw [State.mergeEnded, hearth_modDet, hh, hearth_modDet]

theorem memNat_mergeEnded (s : State) (hm h pa n : Nat) : (s.mergeEnded hm h).memNat pa n = s.memNat pa n :=
  congrArg leNat (State.bytes_congr (s := s) (t := s.mergeEnded hm h) rfl rfl rfl pa n)

/-- A merge writes DRAM where its update or store lies. -/
theorem dramBut_merged {s t : State} {pa : Nat} {n v : Nat} (hw : Wrote s t pa (leBytes n v)) (hc : ∀ i < n, paClass (pa + i) = 0)
    (hm h : Nat) : Claims.DramBut s (t.mergeEnded hm h) [(pa, n)] := by
  have hbut := dramBut_of_wrote hw (by rwa [leBytes_length])
  rw [leBytes_length] at hbut
  exact fun p hp hcp hout => hbut p hp hcp hout

theorem homeUpdates_eq {hm h : Nat} {t : State} (hhold : (t.home hm).holding = []) (hover : (t.home hm).overflow = []) :
    t.homeUpdates h hm = some ((t.hearth h).det.accs.filter fun u => homeOf u.pa == hm) := by
  simp [State.homeUpdates, hhold, hover, State.logUpdates]

section
variable {hm h : Nat} {s : State} (hc : (s.hearth h).det.committing = true) (hs : Claims.Sound s)
  (hp : (s.die (hm / 160)).powerLost = false) (hhold : (s.home hm).holding = []) (hover : (s.home hm).overflow = [])
include hc hp

/-- The merge of a home that holds the updates us once the plain stores are made (R157, R159, R407). -/
theorem homeCommitMerge_next {us : List DetUpd}
    (hus : (((s.hearth h).det.entriesAt hm).foldl (fun s e => s.applyEntry h false e) s).homeUpdates h hm = some us) :
    exec (.homeCommitMerge hm h) s = .next (((us.map updLoc).dedup.foldl (fun s w => s.mergeWord h w (us.filter fun u => updLoc u == w))
      (((s.hearth h).det.entriesAt hm).foldl (fun s e => s.applyEntry h false e) s)).mergeEnded hm h) := by
  change execHomeCommitMerge hm h s = _
  simp only [execHomeCommitMerge, hc, hp, Bool.not_false, Bool.and_self, if_true, hus]
  rfl

include hhold hover

/-- A whole word that the home holds is written (R157). -/
theorem merge_store {x : Piece} {e : LogEntry} {pa : Nat} {v : Word} (hx : (s.hearth h).det.pieces = [x]) (hhome : x.home = hm)
    (he : x.entries = [e]) (ha : (s.hearth h).det.accs = []) (hw : Claims.WholeWord s e pa v) :
    exec (.homeCommitMerge hm h) s = .next ((s.writeAt pa (leBytes 8 v.toNat)).mergeEnded hm h) := by
  obtain ⟨rfl, -, hcls, hown, hmask, rfl⟩ := hw
  have hhub : paHubReg (8 * e.wadr) = false := by simp [paHubReg, hcls]
  have hentries : (s.hearth h).det.entriesAt hm = [e] := by simp [Det.entriesAt, hx, hhome, he]
  have hstores : ((s.hearth h).det.entriesAt hm).foldl (fun s e => s.applyEntry h false e) s =
      s.writeAt (8 * e.wadr) (leBytes 8 e.data.toNat) := by simp [hentries, State.applyEntry, hhub, hmask]
  obtain ⟨hhold', hover'⟩ := deferred_writeAt s (8 * e.wadr) (leBytes 8 e.data.toNat) hm
  have hh : (s.writeAt (8 * e.wadr) (leBytes 8 e.data.toNat)).hearth h = s.hearth h := by
    rw [State.hearth, hearths_writeAt, State.hearth]
  rw [homeCommitMerge_next hc hp (us := []), hstores]
  · rfl
  · rw [hstores, homeUpdates_eq (hhold'.trans hhold) (hover'.trans hover), hh, ha]
    rfl

include hs

/-- An integer update that the home holds is made (R159). -/
theorem merge_update {u : DetUpd} (hx : (s.hearth h).det.pieces = []) (ha : (s.hearth h).det.accs = [u]) (hhome : homeOf u.pa = hm)
    (hux : u.x = none) (hop : u.op < 8) (hsz : u.size = 4 ∨ u.size = 8) (hal : u.pa % u.size = 0) :
    exec (.homeCommitMerge hm h) s = .next ((s.updated u).mergeEnded hm h) := by
  have hentries : (s.hearth h).det.entriesAt hm = [] := by simp [Det.entriesAt, hx]
  rw [homeCommitMerge_next hc hp (us := [u]), hentries]
  · simp [mergeWord_one s h hs hux hop hsz hal]
  · rw [hentries, List.foldl_nil, homeUpdates_eq hhold hover, ha]
    simp [hhome]

end

/-- Settles O51: an event applies what its hearth's state holds, and the writes of a merge change no byte of DRAM besides. -/
theorem phaseEvents : Obligations.PhaseEvents := by
  unfold Obligations.PhaseEvents
  refine ⟨fun h n p task s hn hp hr hy hx hc => ?_, fun h p n s => ?_, fun hm h s => ?_⟩
  · refine ⟨_, exitCount_counts hn (taskQuiet_of_idle hp hr hy hx hc h task), ?_, rfl, ?_⟩
    · rw [hearth_modDet]
      exact List.mem_cons_self
    · rw [Claims.Without, hearth_modDet]
      exact dropNth_eq ..
  · intro d hcur hf ha
    refine ⟨fun hc hle => ?_, fun hc hlt => ?_, fun hc hp hacc hh => ?_⟩
    · rw [phaseCommit_merges hcur hf ha hc, if_pos hle]
      exact ⟨_, rfl, by rw [hearth_modDet], rfl⟩
    · rw [phaseCommit_merges hcur hf ha hc, if_neg (Nat.not_le.mpr hlt)]
    · obtain ⟨hphase, hnone, hcom⟩ := committed_hearth hcur (hearths_applyFills s d.fills)
      refine ⟨_, phaseCommit_commits hcur hc (deferredLeft_false hp hacc hh), hphase, hnone, hcom, fun hfills => ?_⟩
      have hfills : (s.hearth h).det.fills = [] := hfills
      rw [hfills, applyFills_nil]
      rfl
  · intro d hc hs hp hhold hover
    refine ⟨fun x e pa v hx hhome he ha hw => ?_, fun u hx ha hhome hux hop hsz hal hlt hcls hown => ?_⟩
    · have hex := merge_store hc hp hhold hover hx hhome he ha hw
      obtain ⟨rfl, -, hcls, -, -, -⟩ := hw
      have hdet := det_mergeEnded (s.writeAt (8 * e.wadr) (leBytes 8 v.toNat)) hm h
      have hh : (s.writeAt (8 * e.wadr) (leBytes 8 v.toNat)).hearth h = s.hearth h := by
        rw [State.hearth, hearths_writeAt, State.hearth]
      have hal8 : 8 * e.wadr % 8 = 0 := Nat.mul_mod_right ..
      have hbut := dramBut_merged (wrote_writeAt_dram (s := s) hcls (leBytes 8 v.toNat)) (paClass_aligned hcls (.inr rfl) hal8) hm h
      refine ⟨_, hex, ?_, hbut, ?_, ?_⟩
      · rw [State.memW, memNat_mergeEnded, ← State.memW, memW_writeWord hcls hal8]
      · rw [hdet, hh]
        simp [d, hx, hhome]
      · rw [hdet]
        exact List.mem_cons_self
    · have hex := merge_update hc hs hp hhold hover hx ha hhome hux hop hsz hal
      have hdet := det_mergeEnded (s.updated u) hm h
      have hclsn := paClass_aligned hcls hsz hal
      have hw : Wrote s (s.updated u) u.pa (leBytes u.size (amoFn u.op u.size (s.memNat u.pa u.size) u.value.toNat)) :=
        wrote_writeAt_dram hcls _
      have hh : (s.updated u).hearth h = s.hearth h := by
        rw [State.hearth, State.updated, hearths_writeAt, State.hearth]
      refine ⟨_, hex, ?_, dramBut_merged hw hclsn hm h, ?_, ?_⟩
      · rw [memNat_mergeEnded, hw.memNat (plain_dram hclsn), Nat.mod_eq_of_lt (amoFn_lt (by omega) hsz),
          amoFn_eq (by omega) hsz (State.memNat_lt ..)]
      · rw [hdet, hh]
        simp [d, ha, hhome]
      · rw [hdet]
        exact List.mem_cons_self

end Sys2Proof.Machine

/-! # Words that hardware reads and writes for a hearth (O44)

Where the core's TLB serves the words of a record or ring, hardware reads what memory holds there (`hwReadWords_words`), and its writes leave
those words and nothing else of DRAM (`hwWords_words`). -/

namespace Sys2Proof.Machine

/-! ## Places of words -/

/-- What a word's place rests on: the thread's hearth, the TLB of its core, the dies and the package. -/
structure SamePlaces (s t : State) : Prop where
  hub : t.hub = s.hub
  hearth : t.cur.st.hearth = s.cur.st.hearth
  hearths : t.hearths = s.hearths
  tlb : t.curK.tlb = s.curK.tlb
  power (d : Nat) : (t.die d).powerLost = (s.die d).powerLost

theorem Near.samePlaces {l : List (Nat × Nat)} {s t : State} (h : Near l s t) : SamePlaces s t := by
  obtain ⟨_, _, _, hcur⟩ := h.cur
  obtain ⟨_, _, _, _, _, hk⟩ := h.core s.curCore
  refine ⟨h.hub, by rw [hcur], by rw [h.rest], ?_, h.powerLost⟩
  rw [State.curK, h.curCore, hk]
  rfl

theorem SamePlaces.trans {s t u : State} (h : SamePlaces s t) (h' : SamePlaces t u) : SamePlaces s u :=
  ⟨h'.hub.trans h.hub, h'.hearth.trans h.hearth, h'.hearths.trans h.hearths, h'.tlb.trans h.tlb, fun d => (h'.power d).trans (h.power d)⟩

section
variable {s t : State} {a : Word} {pa n : Nat}

theorem SamePlaces.hwWord (h : SamePlaces s t) (hw : Claims.HwWord s a pa) : Claims.HwWord t a pa := by
  obtain ⟨hcan, hwin, hc, hlt, hal, hown, hpow, hfind⟩ := hw
  refine ⟨hcan, hwin, hc, hlt, hal, (ownPackage_congr h.hub pa).trans hown, (h.power _).trans hpow, ?_⟩
  rw [h.tlb, h.hearth, State.hearth, h.hearths]
  exact hfind

theorem SamePlaces.recordOf (h : SamePlaces s t) (id : Word) : Claims.recordOf t id = Claims.recordOf s id := by
  rw [Claims.recordOf, Claims.recordOf, h.hearth, State.hearth, State.hearth, h.hearths]

theorem SamePlaces.arena (h : SamePlaces s t) (har : Claims.Arena s) : Claims.Arena t := by
  unfold Claims.Arena
  rw [h.hearth, State.hearth, h.hearths]
  exact har

theorem SamePlaces.hwWords (h : SamePlaces s t) (hw : Claims.HwWords s a pa n) : Claims.HwWords t a pa n :=
  fun i hi => h.hwWord (hw i hi)

/-- The first of n + 1 words, and the others. -/
theorem hwWords_succ (h : Claims.HwWords s a pa (n + 1)) : Claims.HwWord s a pa ∧ Claims.HwWords s (a + 8) (pa + 8) n := by
  refine ⟨?_, fun i hi => ?_⟩
  · have h0 := h 0 (Nat.succ_pos n)
    rwa [Nat.mul_zero, BitVec.add_zero, Nat.add_zero] at h0
  · have hi := h (i + 1) (Nat.succ_lt_succ hi)
    have ha : a + 8 + BitVec.ofNat 64 (8 * i) = a + BitVec.ofNat 64 (8 * (i + 1)) := by
      rw [Nat.mul_succ, Nat.add_comm (8 * i), BitVec.ofNat_add, BitVec.add_assoc]
      rfl
    have hp : pa + 8 + 8 * i = pa + 8 * (i + 1) := by omega
    rwa [ha, hp]

theorem hwWords_one (h : Claims.HwWord s a pa) : Claims.HwWords s a pa 1 := fun i hi => by
  obtain rfl : i = 0 := Nat.lt_one_iff.mp hi
  simpa using h

theorem hwWords_mono (h : Claims.HwWords s a pa n) {m : Nat} (hm : m ≤ n) : Claims.HwWords s a pa m :=
  fun i hi => h i (lt_of_lt_of_le hi hm)

end

section
variable {s : State} {a : Word} {pa : Nat} (hw : Claims.HwWord s a pa)
include hw

/-- The TLB serves a word at S for every kind of access (R107). -/
theorem hwPA_word {k : Acc} (hk : k ∈ [Acc.read, .write, .atomic]) : s.hwPA s.cur.st.hearth a k = .ok pa := by
  obtain ⟨hcan, hwin, -, -, -, -, -, hfind⟩ := hw
  obtain ⟨e, he, hall⟩ : ∃ e, s.curK.tlb.find? (fun t : TlbEntry => t.serves s.cur.st.hearth
      ((s.hearth s.cur.st.hearth).aspace.bits 63 56) (a.toNat % 2 ^ 57)) = some e ∧
      ([Acc.read, .write, .atomic].all fun k => match finishTr e.leaf (a.toNat % 2 ^ 57) 1 k with | .ok p _ => p == pa | _ => false) = true := by
    generalize List.find? _ _ = o at hfind
    cases o with
    | none => cases hfind
    | some e => exact ⟨e, rfl, hfind⟩
  have hfin := List.all_eq_true.mp hall k hk
  have hleaf : s.leafFor s.curCore s.cur.st.hearth a = .leaf e.leaf := by
    rw [State.curK] at he
    simp only [State.leafFor, asidOf, he]
  simp only [State.hwPA, hcan, hwin, hleaf, Bool.not_true, Bool.false_eq_true, if_false]
  generalize finishTr e.leaf (a.toNat % 2 ^ 57) 1 k = r at hfin ⊢
  cases r with
  | ok p at_ =>
    obtain rfl : p = pa := by simpa using hfin
    rfl
  | fault _ => cases hfin
  | wait => cases hfin

theorem hwRefused_word (h n : Nat) (write : Bool) : s.hwRefused h pa n write = none := by
  obtain ⟨-, -, hc, -, -, -, hpow, -⟩ := hw
  simp [State.hwRefused, hc, hpow]

theorem hwRead_word (hs : Claims.Sound s) : s.hwRead s.cur.st.hearth a 8 = .ok (s.memNat pa 8) := by
  simp [State.hwRead, hwPA_word hw, hwRefused_word hw, poisoned_sound hs]

theorem hwWrite_word (bs : List Byte) : s.hwWrite s.cur.st.hearth a bs = .ok (s.writeAt pa bs) := by
  simp [State.hwWrite, hwPA_word hw, hwRefused_word hw]

end

/-! ## Records and rings -/

/-- Hardware reads n words as memory holds them. -/
theorem hwReadWords_words {s : State} {a : Word} {pa n : Nat} (hs : Claims.Sound s) (hw : Claims.HwWords s a pa n) :
    s.hwReadWords s.cur.st.hearth a n = .ok ((List.range n).map fun i => s.memW (pa + 8 * i)) := by
  induction n generalizing a pa with
  | zero => rfl
  | succ n ih =>
    obtain ⟨hfirst, hrest⟩ := hwWords_succ hw
    have hlist : (List.range (n + 1)).map (fun i => s.memW (pa + 8 * i)) =
        s.memW pa :: (List.range n).map fun i => s.memW (pa + 8 + 8 * i) := by
      rw [List.range_succ_eq_map, List.map_cons, List.map_map]
      refine congrArg₂ _ rfl (List.map_congr_left fun i _ => ?_)
      simp only [Function.comp_apply, Nat.succ_eq_add_one]
      congr 1
      omega
    simp only [State.hwReadWords, hwRead_word hfirst hs, ih hrest, hlist]
    rfl

/-- Ranges that cover the written ones may be named in their place. -/
theorem Access.cover {l m : List (Nat × Nat)} {s t : State} (h : Access l s t)
    (hm : ∀ p, (∀ r ∈ m, p < r.1 ∨ r.1 + r.2 ≤ p) → ∀ r ∈ l, p < r.1 ∨ r.1 + r.2 ≤ p) : Access m s t :=
  ⟨⟨h.rest, h.core, h.die, h.cur, fun p hp hc hout => h.dram p hp hc (hm p hout)⟩, h.quiet⟩

/-- Words written for a hearth stand where the TLB serves them, and nothing else of DRAM changes. -/
theorem hwWords_words {s : State} {a : Word} {pa : Nat} {ws : List Word} (hwait : s.cur.wait = .none) (hp : s.poison = [])
    (hw : Claims.HwWords s a pa ws.length) :
    ∃ t, s.hwWords s.cur.st.hearth a ws = .ok t ∧ Access [(pa, 8 * ws.length)] s t ∧
      ∀ i < ws.length, t.memW (pa + 8 * i) = ws.getD i 0 := by
  induction ws generalizing s a pa with
  | nil => exact ⟨s, rfl, (Access.refl s).mono (List.nil_subset _), fun _ h => absurd h (Nat.not_lt_zero _)⟩
  | cons w r ih =>
    obtain ⟨hfirst, hrest⟩ := hwWords_succ hw
    have hone := hwWrite_word hfirst (leBytes 8 w.toNat)
    obtain ⟨-, -, hc, hlt, hal, -⟩ := hfirst
    have hacc := access_writeWord hwait hp hc hal w
    have hword := memW_writeWord (s := s) hc hal w
    generalize s.writeAt pa (leBytes 8 w.toNat) = u at hone hacc hword
    obtain ⟨t, ht, hact, hread⟩ := ih (s := u) (hacc.cur.wait.trans hwait) (hacc.poison.trans hp) (hacc.samePlaces.hwWords hrest)
    have hhearth : u.cur.st.hearth = s.cur.st.hearth := hacc.samePlaces.hearth
    refine ⟨t, ?_, (hacc.trans hact).cover fun p hout => ?_, fun i hi => ?_⟩
    · rw [← ht, hhearth]
      simp only [State.hwWords, hone]
    · have := hout (pa, 8 * (r.length + 1)) (List.mem_singleton_self _)
      simp only [List.singleton_append, List.forall_mem_cons, List.not_mem_nil, false_implies, implies_true, and_true]
      omega
    · cases i with
      | zero =>
        rw [Nat.mul_zero, Nat.add_zero, hact.memW hc hlt hal (by simp), hword]
        rfl
      | succ i =>
        have hpi : pa + 8 * (i + 1) = pa + 8 + 8 * i := by omega
        rw [hpi, hread i (Nat.lt_of_succ_lt_succ hi)]
        rfl

end Sys2Proof.Machine

/-! # SPAWN (O44) -/

namespace Sys2Proof.Machine

/-! ## Records and their CTRL word -/

/-- CTRL with another state: its other defined fields stay, its reserved bits are 0 (R70, R499). -/
theorem setField_ctrl (c : Word) {st : Nat} (hst : st < 16) : setField (c &&& ctrlMask) 39 36 st = Claims.ctrlWith c st := by
  have hlow : (c &&& ctrlMask).toNat % 2 ^ 36 = c.toNat &&& 0xC001FC03 := by
    rw [BitVec.toNat_and, Nat.and_mod_two_pow]
    have hm : ctrlMask.toNat % 2 ^ 36 = 0xC001FC03 % 2 ^ 36 := rfl
    rw [hm, ← Nat.and_mod_two_pow, Nat.mod_eq_of_lt (lt_of_le_of_lt Nat.and_le_right (by decide))]
  have hhigh : (c &&& ctrlMask).bits 39 36 = (c &&& ctrlMask).toNat / 2 ^ 36 := by
    have hlt : (c &&& ctrlMask).toNat < 2 ^ 40 := by
      rw [BitVec.toNat_and]
      exact lt_of_le_of_lt Nat.and_le_right (by decide)
    rw [Word.bits, natBits, Nat.shiftRight_eq_div_pow]
    omega
  have hr : (c.toNat &&& 0xC001FC03) < 2 ^ 36 := lt_of_le_of_lt Nat.and_le_right (by decide)
  have hsum : (c &&& ctrlMask).toNat - (c &&& ctrlMask).bits 39 36 * 2 ^ 36 + st % 2 ^ (39 + 1 - 36) * 2 ^ 36 =
      2 ^ 36 * st + (c.toNat &&& 0xC001FC03) := by
    rw [hhigh, ← hlow, Nat.mod_eq_of_lt (by omega : st < 2 ^ (39 + 1 - 36))]
    have := Nat.div_add_mod (c &&& ctrlMask).toNat (2 ^ 36)
    omega
  rw [setField, hsum, Nat.two_pow_add_eq_or_of_lt hr, Claims.ctrlWith]
  apply BitVec.eq_of_toNat_eq
  have hst36 : 2 ^ 36 * st < 2 ^ 64 := by omega
  rw [word, BitVec.toNat_ofNat, BitVec.toNat_or, BitVec.toNat_and, BitVec.toNat_ofNat, Nat.mul_comm st, Nat.mod_eq_of_lt hst36,
    Nat.or_comm, Nat.mod_eq_of_lt (Nat.or_lt_two_pow (lt_trans hr (by decide)) hst36)]
  rfl

/-- A task's record holds its TASKID, or another (R68). -/
theorem taskRecord_word {s : State} {id : Word} {pr : Nat} (hs : Claims.Sound s) (hid : id ≠ noTask) (har : Claims.Arena s)
    (hw : Claims.HwWords s (Claims.recordOf s id) pr 1) :
    s.taskRecord s.cur.st.hearth id = if s.memW pr = id then .at (Claims.recordOf s id) else .none := by
  obtain ⟨hlo, hhi⟩ := har
  have hlog : ¬ ((s.hearth s.cur.st.hearth).trbase.bits 4 0 < 8 ∨ 24 < (s.hearth s.cur.st.hearth).trbase.bits 4 0) := by omega
  have hread : s.hwReadWords s.cur.st.hearth (recordVA (s.hearth s.cur.st.hearth) (taskNo id)) 1 = .ok [s.memW pr] := hwReadWords_words hs hw
  simp only [State.taskRecord, if_neg hid, if_neg hlog, hread]
  rfl

theorem lookup_word {s : State} {id : Word} {pr c : Nat} (hs : Claims.Sound s) (hid : id ≠ noTask) (har : Claims.Arena s)
    (hw : Claims.HwWords s (Claims.recordOf s id) pr 1) :
    s.lookup c s.cur.st.hearth id = (if s.memW pr = id then .at (Claims.recordOf s id) else .none, s) := by
  rw [State.lookup, taskRecord_word hs hid har hw]
  split
  next h =>
    split at h
    · cases h
    · cases h
  · rfl

theorem lookup_noTask (s : State) (c h : Nat) : s.lookup c h noTask = (.none, s) := by
  simp [State.lookup, State.taskRecord]

/-- A compare-and-swap of a record's state (R68, R87): it finds the state, and writes CTRL with the new one, or another, and writes nothing. -/
theorem casTask_word {s : State} {tr : Word} {pc old new : Nat} (hs : Claims.Sound s) (hnew : new < 16) (hw : Claims.HwWord s (tr + 8) pc) :
    s.casTask s.cur.st.hearth tr old new = if (s.memW pc).bits 39 36 = old
      then .ok (true, s.writeAt pc (leBytes 8 (Claims.ctrlWith (s.memW pc) new).toNat)) else .ok (false, s) := by
  simp only [State.casTask, hwReadWords_words hs (hwWords_one hw), hwWrite_word hw, List.range_one, List.map_cons, List.getD_cons_zero, setField_ctrl _ hnew,
    Nat.mul_zero, Nat.add_zero, ne_eq, ite_not]

/-! ## The queue -/

section
variable {s : State} {desc : Word} {pd : Nat} (hs : Claims.Sound s) (hd : Claims.HwWords s desc pd 4)
include hs hd

/-- A full ring takes no entry (R73). -/
theorem queuePush_full (task : Word) (hfull : 2 ^ (s.memW (pd + 8)).bits 4 0 ≤ (s.memW (pd + 24) - s.memW (pd + 16)).toNat) :
    s.queuePush s.cur.st.hearth desc task = .full := by
  simp only [State.queuePush, hwReadWords_words hs hd]
  exact if_pos hfull

/-- An entry at TAIL of a ring that is not full (R73): TAIL rises, and the entry holds the task and the new TAIL. -/
theorem queuePush_next {task : Word} {pe : Nat} (hwait : s.cur.wait = .none)
    (hroom : (s.memW (pd + 24) - s.memW (pd + 16)).toNat < 2 ^ (s.memW (pd + 8)).bits 4 0)
    (he : Claims.HwWords s (s.memW pd + BitVec.ofNat 64 (16 * ((s.memW (pd + 24)).toNat % 2 ^ (s.memW (pd + 8)).bits 4 0))) pe 2)
    (hclear : Claims.Clear pe 16 pd 32) :
    ∃ t, s.queuePush s.cur.st.hearth desc task = .ok t ∧ Access [(pd + 24, 8), (pe, 16)] s t ∧ t.memW pe = task ∧
      t.memW (pe + 8) = s.memW (pd + 24) + 1 ∧ t.memW (pd + 24) = s.memW (pd + 24) + 1 := by
  have htail : Claims.HwWords s (desc + 24) (pd + 24) 1 := hwWords_one (hd 3 (by decide))
  obtain ⟨u, hu, hacc, hread⟩ := hwWords_words (ws := [s.memW (pd + 24) + 1]) hwait hs.1 htail
  have hhearth : u.cur.st.hearth = s.cur.st.hearth := hacc.samePlaces.hearth
  obtain ⟨t, ht, hact, hreadt⟩ := hwWords_words (ws := [task, s.memW (pd + 24) + 1]) (hacc.cur.wait.trans hwait) (hacc.poison.trans hs.1)
    (hacc.samePlaces.hwWords he)
  have h0 := hread 0 Nat.zero_lt_one
  have hall : Access [(pd + 24, 8), (pe, 16)] s t := hacc.trans hact
  refine ⟨t, ?_, hall, hreadt 0 Nat.zero_lt_two, hreadt 1 Nat.one_lt_two, ?_⟩
  · rw [hhearth] at ht
    simp only [State.queuePush, hwReadWords_words hs hd]
    refine (if_neg (Nat.not_le.mpr hroom)).trans ?_
    have htail' : s.hwWords s.cur.st.hearth (desc + 24) [((List.range 4).map fun i => s.memW (pd + 8 * i)).getD 3 0 + 1] = .ok u := hu
    have hentry : u.hwWords s.cur.st.hearth (((List.range 4).map fun i => s.memW (pd + 8 * i)).getD 0 0 + word (16 *
        ((((List.range 4).map fun i => s.memW (pd + 8 * i)).getD 3 0).toNat %
          2 ^ (((List.range 4).map fun i => s.memW (pd + 8 * i)).getD 1 0).bits 4 0)))
        [task, ((List.range 4).map fun i => s.memW (pd + 8 * i)).getD 3 0 + 1] = .ok t := ht
    simp only [htail', hentry]
  · obtain ⟨-, -, hc, hlt, hal, -⟩ := htail 0 (by decide)
    rw [hact.memW hc hlt hal (by simp; omega)]
    exact h0

end

/-! ## SPAWN behind its release -/

theorem access_acquireVA {l : List (Nat × Nat)} {s t : State} (h : Access l s t) (va : Word) :
    Access l s (t.acquireVA s.curCore s.curSlot va) := by
  have hacq := h.trans (access_acquireAt t (t.clockAt (t.slot t.curCore t.curSlot).st.hearth va))
  rw [List.append_nil, h.curCore, h.curSlot] at hacq
  exact hacq

theorem memW_acquireVA (s : State) (c n : Nat) (va : Word) (pa : Nat) : (s.acquireVA c n va).memW pa = s.memW pa :=
  congrArg (fun bs => word (leNat bs)) (State.bytes_congr (s := s) (t := s.acquireVA c n va) rfl rfl rfl pa 8)

/-- The descriptor of the run queue that a record's CTRL names at a core (R73). -/
def spawnQueue (s : State) (c : Nat) (ctrl : Word) : Word := queueVA (s.hearth s.cur.st.hearth) c (ctrl.bits 1 0)

section
variable {s : State} {id : Word} {c pr pd : Nat}

theorem spawn_noTask : s.spawn noTask c false = .ok (2, false, s) := by
  simp [State.spawn, lookup_noTask]

variable (hs : Claims.Sound s) (hid : id ≠ noTask) (har : Claims.Arena s) (hw : Claims.HwWords s (Claims.recordOf s id) pr 2)
include hs hid har hw

theorem spawn_other (hne : s.memW pr ≠ id) : s.spawn id c false = .ok (2, false, s) := by
  simp [State.spawn, lookup_word hs hid har (hwWords_mono hw (by decide)), hne]

variable (hrec : s.memW pr = id) (hd : Claims.HwWords s (spawnQueue s c (s.memW (pr + 8))) pd 4)
include hrec hd

/-- SPAWN of a task's own record goes on with the entry of the queue that CTRL names. -/
theorem spawn_queue : s.spawn id c false = if (s.memW (pd + 8)).bits 8 8 = 1 then .ok (2, false, s) else
    match s.queuePush s.cur.st.hearth (spawnQueue s c (s.memW (pr + 8))) id with
    | .fault e a => .error (e, a)
    | .full => .ok (1, false, s.acquireVA s.curCore s.curSlot (spawnQueue s c (s.memW (pr + 8)) + 24))
    | .ok s' => match s'.casTask s.cur.st.hearth (Claims.recordOf s id) 0 1 with
      | .error e => .error e
      | .ok (free, s') =>
        let t := s'.acquireVA s.curCore s.curSlot (spawnQueue s c (s.memW (pr + 8)) + 24)
        .ok (if free then 0 else 2, !free, t.created s.cur.st.hearth (if free then [id] else [])) := by
  have hctrl : s.hwReadWords s.cur.st.hearth (Claims.recordOf s id + 8) 1 = .ok [s.memW (pr + 8)] :=
    hwReadWords_words hs (hwWords_mono (hwWords_succ hw).2 (by decide))
  have hdesc : s.hwReadWords s.cur.st.hearth (spawnQueue s c (s.memW (pr + 8))) 2 = .ok [s.memW pd, s.memW (pd + 8)] :=
    hwReadWords_words hs (hwWords_mono hd (by decide))
  have hlook := lookup_word (c := s.curCore) hs hid har (hwWords_mono hw (by decide))
  rw [if_pos hrec] at hlook
  simp only [State.spawn, hlook, hctrl]
  change (match s.hwReadWords s.cur.st.hearth (spawnQueue s c (s.memW (pr + 8))) 2 with
    | .error e => Except.error e
    | .ok ws => _) = _
  simp only [hdesc]
  rfl

theorem spawn_pull (hpull : (s.memW (pd + 8)).bits 8 8 = 1) : s.spawn id c false = .ok (2, false, s) := by
  rw [spawn_queue hs hid har hw hrec hd, if_pos hpull]

/-- SPAWN to a full ring acquires TAIL and gives 1. -/
theorem spawn_full (hpull : (s.memW (pd + 8)).bits 8 8 ≠ 1)
    (hfull : 2 ^ (s.memW (pd + 8)).bits 4 0 ≤ (s.memW (pd + 24) - s.memW (pd + 16)).toNat) :
    ∃ t, Access [] s t ∧ s.spawn id c false = .ok (1, false, t) := by
  refine ⟨_, access_acquireVA (.refl s) (spawnQueue s c (s.memW (pr + 8)) + 24), ?_⟩
  rw [spawn_queue hs hid har hw hrec hd, if_neg hpull, queuePush_full hs hd id hfull]

/-- SPAWN to a ring with room writes the entry, and queues the record where that is free. -/
theorem spawn_queued {pe : Nat} (hwait : s.cur.wait = .none) (hpull : (s.memW (pd + 8)).bits 8 8 ≠ 1)
    (hroom : (s.memW (pd + 24) - s.memW (pd + 16)).toNat < 2 ^ (s.memW (pd + 8)).bits 4 0)
    (he : Claims.HwWords s (s.memW pd + BitVec.ofNat 64 (16 * ((s.memW (pd + 24)).toNat % 2 ^ (s.memW (pd + 8)).bits 4 0))) pe 2)
    (hrq : Claims.Clear pr 16 pd 32) (heq : Claims.Clear pe 16 pd 32) (her : Claims.Clear pe 16 pr 16) :
    ∃ (t : State) (second : Bool) (ids : List Word), Access [(pd + 24, 8), (pe, 16), (pr + 8, 8)] s t ∧
      s.spawn id c false = .ok (if (s.memW (pr + 8)).bits 39 36 = 0 then 0 else 2, second, t.created s.cur.st.hearth ids) ∧
      t.memW pe = id ∧ t.memW (pe + 8) = s.memW (pd + 24) + 1 ∧ t.memW (pd + 24) = s.memW (pd + 24) + 1 ∧
      t.memW (pr + 8) = if (s.memW (pr + 8)).bits 39 36 = 0 then Claims.ctrlWith (s.memW (pr + 8)) 1 else s.memW (pr + 8) := by
  obtain ⟨u, hu, hacc, hpe, hpe8, htail⟩ := queuePush_next (task := id) hs hd hwait hroom he heq
  have hcw : Claims.HwWord s (Claims.recordOf s id + 8) (pr + 8) := hw 1 (by decide)
  have hplace := hacc.samePlaces.hwWord hcw
  have hcas := casTask_word (old := 0) (new := 1) ⟨hacc.poison.trans hs.1, hacc.latent.trans hs.2⟩ (by decide) hplace
  have hwait' := hacc.cur.wait.trans hwait
  have hpoi' := hacc.poison.trans hs.1
  obtain ⟨-, -, hcc, hclt, hcal, -⟩ := hcw
  have hctrl : u.memW (pr + 8) = s.memW (pr + 8) := hacc.memW hcc hclt hcal (by simp; omega)
  rw [hacc.samePlaces.hearth, hctrl] at hcas
  rw [spawn_queue hs hid har hw hrec hd, if_neg hpull, hu]
  dsimp only
  rw [hcas]
  by_cases hfree : (s.memW (pr + 8)).bits 39 36 = 0
  · rw [if_pos hfree, if_pos hfree, if_pos hfree]
    have hwr := access_writeWord hwait' hpoi' hcc hcal (Claims.ctrlWith (s.memW (pr + 8)) 1)
    have hword := memW_writeWord (s := u) hcc hcal (Claims.ctrlWith (s.memW (pr + 8)) 1)
    generalize u.writeAt (pr + 8) (leBytes 8 (Claims.ctrlWith (s.memW (pr + 8)) 1).toNat) = w at hwr hword
    have hall : Access [(pd + 24, 8), (pe, 16), (pr + 8, 8)] s w := hacc.trans hwr
    obtain ⟨⟨-, -, hc0, hlt0, hal0, -⟩, hrest⟩ := hwWords_succ he
    obtain ⟨⟨-, -, hc1, hlt1, hal1, -⟩, -⟩ := hwWords_succ hrest
    obtain ⟨-, -, hct, hltt, halt, -⟩ : Claims.HwWord s _ (pd + 24) := hd 3 (by decide)
    refine ⟨_, false, [id], access_acquireVA hall (spawnQueue s c (s.memW (pr + 8)) + 24), rfl, ?_, ?_, ?_, ?_⟩
    · rw [memW_acquireVA, hwr.memW hc0 hlt0 hal0 (by simp; omega), hpe]
    · rw [memW_acquireVA, hwr.memW hc1 hlt1 hal1 (by simp; omega), hpe8]
    · rw [memW_acquireVA, hwr.memW hct hltt halt (by simp; omega), htail]
    · rw [memW_acquireVA, hword]
  · rw [if_neg hfree, if_neg hfree, if_neg hfree]
    have hall : Access [(pd + 24, 8), (pe, 16), (pr + 8, 8)] s u := hacc.mono fun r hr => List.mem_of_mem_take (i := 2) hr
    refine ⟨_, true, [], access_acquireVA hall (spawnQueue s c (s.memW (pr + 8)) + 24), rfl, ?_, ?_, ?_, ?_⟩
    · rw [memW_acquireVA, hpe]
    · rw [memW_acquireVA, hpe8]
    · rw [memW_acquireVA, htail]
    · rw [memW_acquireVA, hctrl]

end

/-! ## The instruction -/

theorem created_eq (s : State) (h : Nat) (ids : List Word) : (s.created h ids).cur = s.cur ∧ ∀ pa, (s.created h ids).byte pa = s.byte pa := by
  unfold State.created
  split
  · exact ⟨rfl, fun _ => rfl⟩
  · exact ⟨rfl, fun _ => rfl⟩

section
variable {x : XA} {s : State} {l : List (Nat × Nat)} {t : State}

/-- SPAWN delivers its status in the state that follows its writes (R362). -/
theorem exec_spawn (hr : Ready (.spawn x) s) (hb : (x.fld 2).base = 0) (hc : coreExists ((s.w (x.fld 2).t).bits 12 0) = true)
    (hdet : s.cur.st.det = false) {st : Nat} {second : Bool} {u : State} (hu : s.cur.Aged u.cur)
    (hsp : s.pkgRelease.spawn (s.w (x.fld 2).s) ((s.w (x.fld 2).t).bits 12 0) false = .ok (st, second, u)) :
    exec (.spawn x) s = .next (u.result (x.fld 2) (x.fld 2).d (word st)) := by
  obtain ⟨_, _, _, hcur⟩ := hu
  have hudet : u.cur.st.det = false := by rw [hcur]; exact hdet
  change execSpawn x s = _
  rw [execSpawn, gate_next _ _ hr (by simp [lastBad_none (x.fld 2) s (bad := (x.fld 2).base != 0) (by simp [hb]), trapIf, hc])]
  simp only [hdet, Bool.false_and, hsp, hudet, Bool.false_eq_true, if_false]

/-- What the status leaves of the thread. -/
theorem result_frame (h : s.cur.Aged t.cur) {f : Fld} (hd : f.d < 16) (v : Word) : (t.result f f.d v).cur.w f.d = v ∧
    (t.result f f.d v).cur.pc = s.npc f ∧ ∀ n < 16, n ≠ f.d → (t.result f f.d v).cur.w n = s.cur.w n := by
  rw [State.cur_result]
  refine ⟨Slot.setW_w_same .., h.npc f, fun n hn hne => ?_⟩
  exact (Slot.setW_w_ne t.cur v hd hn hne).trans (h.w n)

end

section
variable {s r : State} (h : Access [] s r)
include h

theorem sound_access (hs : Claims.Sound s) : Claims.Sound r := ⟨h.poison.trans hs.1, h.latent.trans hs.2⟩

/-- The words of a record or ring are the same behind an access that writes nothing. -/
theorem memW_words {a : Word} {pa n : Nat} (hw : Claims.HwWords s a pa n) (i : Nat) (hi : i < n) : r.memW (pa + 8 * i) = s.memW (pa + 8 * i) := by
  obtain ⟨-, -, hc, hlt, hal, -⟩ := hw i hi
  exact h.memW hc hlt hal fun _ hr => absurd hr List.not_mem_nil

end

/-- SPAWN's clauses of O44. -/
theorem spawns (x : XA) (s : State) (pr pd pe : Nat) (hr : Ready (.spawn x) s) (hb : (x.fld 2).base = 0)
    (hc : coreExists ((s.w (x.fld 2).t).bits 12 0) = true) (hdet : s.cur.st.det = false) (hq : Claims.Quiet s) (hs : Claims.Sound s) :
    let f := x.fld 2
    let id := s.w f.s
    let c := (s.w f.t).bits 12 0
    let ctrl := s.memW (pr + 8)
    let desc : Word := (BitVec.ofNat 57 ((s.hearth s.cur.st.hearth).qtbase.bits 56 12 * 4096 + 128 * c + 32 * ctrl.bits 1 0)).signExtend 64
    let slog := (s.memW (pd + 8)).bits 4 0
    let pull := (s.memW (pd + 8)).bits 8 8 = 1
    let tail := s.memW (pd + 24)
    let waiting := (tail - s.memW (pd + 16)).toNat
    let gives (v : Word) (t : State) : Prop := exec (.spawn x) s = .next t ∧ t.cur.w f.d = v ∧ t.cur.pc = s.npc f ∧
      ∀ n < 16, n ≠ f.d → t.cur.w n = s.cur.w n
    (id = 0x0000FFFFFFFFFFFF → ∃ t : State, gives 2 t) ∧
    (id ≠ 0x0000FFFFFFFFFFFF → Claims.Arena s → Claims.HwWords s (Claims.recordOf s id) pr 2 →
      (s.memW pr ≠ id → ∃ t : State, gives 2 t) ∧
      (s.memW pr = id → Claims.HwWords s desc pd 4 →
        (pull → ∃ t : State, gives 2 t) ∧
        (¬pull → 2 ^ slog ≤ waiting → ∃ t : State, gives 1 t ∧ Claims.DramBut s t []) ∧
        (¬pull → waiting < 2 ^ slog → Claims.HwWords s (s.memW pd + BitVec.ofNat 64 (16 * (tail.toNat % 2 ^ slog))) pe 2 →
          Claims.Clear pr 16 pd 32 → Claims.Clear pe 16 pd 32 → Claims.Clear pe 16 pr 16 →
          ∃ t : State, gives (if ctrl.bits 39 36 = 0 then 0 else 2) t ∧ t.memW pe = id ∧ t.memW (pe + 8) = tail + 1 ∧
            t.memW (pd + 24) = tail + 1 ∧ t.memW (pr + 8) = (if ctrl.bits 39 36 = 0 then Claims.ctrlWith ctrl 1 else ctrl) ∧
            Claims.DramBut s t [(pe, 16), (pd + 24, 8), (pr + 8, 8)]))) := by
  intro f id c ctrl desc slog pull tail waiting gives
  have hrel := access_pkgRelease hq
  have hrs := sound_access hrel hs
  have hd16 : f.d < 16 := XA.fld_d_lt x
  have hgives {u : State} {st : Nat} {second : Bool} (hu : s.cur.Aged u.cur)
      (hsp : s.pkgRelease.spawn id c false = .ok (st, second, u)) : gives (word st) (u.result f f.d (word st)) :=
    ⟨exec_spawn hr hb hc hdet hu hsp, result_frame hu hd16 _⟩
  refine ⟨fun hid => ⟨_, hgives hrel.cur (by rw [hid]; exact spawn_noTask)⟩, fun hid har hw => ?_⟩
  have har' := hrel.samePlaces.arena har
  have hw' : Claims.HwWords s.pkgRelease (Claims.recordOf s.pkgRelease id) pr 2 := by
    rw [hrel.samePlaces.recordOf]
    exact hrel.samePlaces.hwWords hw
  have hpr : s.pkgRelease.memW pr = s.memW pr := memW_words hrel hw 0 (by decide)
  have hpr8 : s.pkgRelease.memW (pr + 8) = s.memW (pr + 8) := memW_words hrel hw 1 (by decide)
  refine ⟨fun hne => ⟨_, hgives hrel.cur (spawn_other hrs hid har' hw' (by rwa [hpr]))⟩, fun hrec hd => ?_⟩
  have hrec' : s.pkgRelease.memW pr = id := hpr.trans hrec
  have hd' : Claims.HwWords s.pkgRelease (spawnQueue s.pkgRelease c (s.pkgRelease.memW (pr + 8))) pd 4 := by
    rw [spawnQueue, hpr8, hrel.samePlaces.hearth, hrel.hearth]
    exact hrel.samePlaces.hwWords hd
  have hpd : s.pkgRelease.memW pd = s.memW pd := memW_words hrel hd 0 (by decide)
  have hpd8 : s.pkgRelease.memW (pd + 8) = s.memW (pd + 8) := memW_words hrel hd 1 (by decide)
  have hpd16 : s.pkgRelease.memW (pd + 16) = s.memW (pd + 16) := memW_words hrel hd 2 (by decide)
  have hpd24 : s.pkgRelease.memW (pd + 24) = s.memW (pd + 24) := memW_words hrel hd 3 (by decide)
  refine ⟨fun hpull => ⟨_, hgives hrel.cur (spawn_pull hrs hid har' hw' hrec' hd' (by rwa [hpd8]))⟩, fun hpull hfull => ?_,
    fun hpull hroom he hrq heq her => ?_⟩
  · obtain ⟨u, hu, hsp⟩ := spawn_full hrs hid har' hw' hrec' hd' (by rwa [hpd8]) (by rwa [hpd8, hpd16, hpd24])
    exact ⟨_, hgives (hrel.cur.trans hu.cur) hsp, (hrel.trans hu).dram⟩
  · have hwait := (hrel.cur.wait.trans (quiet_wait hq) : s.pkgRelease.cur.wait = .none)
    obtain ⟨t, second, ids, ht, hsp, hpe, hpe8, htail, hctrl⟩ := spawn_queued hrs hid har' hw' hrec' hd' hwait (by rwa [hpd8])
      (by rwa [hpd8, hpd16, hpd24]) (by rw [hpd, hpd8, hpd24]; exact hrel.samePlaces.hwWords he) hrq heq her
    obtain ⟨hcur, hbyte⟩ := created_eq t s.pkgRelease.cur.st.hearth ids
    have haged : s.cur.Aged (t.created s.pkgRelease.cur.st.hearth ids).cur := by
      rw [hcur]
      exact hrel.cur.trans ht.cur
    have hmem (v : Word) (p : Nat) : ((t.created s.pkgRelease.cur.st.hearth ids).result f f.d v).memW p = t.memW p := by
      rw [State.result, memW_advance, State.setW, State.memW_modCur, State.memW, State.memW, State.memNat, State.memNat,
        State.bytes_eq_of_byte fun i _ => hbyte (p + i)]
    have hdram : Claims.DramBut s t [(pe, 16), (pd + 24, 8), (pr + 8, 8)] :=
      ((hrel.trans ht).mono (m := [(pe, 16), (pd + 24, 8), (pr + 8, 8)]) (by simp)).dram
    rw [hpr8] at hsp hctrl
    rw [hpd24] at hpe8 htail
    have hg := hgives haged hsp
    have hword : word (if (s.memW (pr + 8)).bits 39 36 = 0 then 0 else 2) = if ctrl.bits 39 36 = 0 then 0 else 2 := by
      split
      · rfl
      · rfl
    rw [hword] at hg
    exact ⟨_, hg, (hmem _ _).trans hpe, (hmem _ _).trans hpe8, (hmem _ _).trans htail, (hmem _ _).trans hctrl,
      fun p hp hcp hout => (hbyte p).trans (hdram p hp hcp hout)⟩

end Sys2Proof.Machine

/-! # YIELDC (O44) -/

namespace Sys2Proof.Machine

/-! ## The spill of the resident frames

A spill writes local stores alone; so the checks of the next frame are those of the first state (`spillFrom_next`). -/

/-- t is s but for local stores, the windows that a view shows, what wakes cores, clocks and RC. -/
structure FramesStored (s t : State) : Prop where
  access : Access [] s t
  reqs : t.reqs = s.reqs
  core (c : Nat) : ∃ slots rcache wake gated,
    t.core c = { s.core c with slots := slots, rcache := rcache, pw := { (s.core c).pw with wake := wake, gated := gated } }
  copies : NoCopies s → NoCopies t

namespace FramesStored

variable {s t u : State}

theorem refl (s : State) : FramesStored s s := ⟨.refl s, rfl, fun _ => ⟨_, _, _, _, rfl⟩, id⟩

theorem trans (h : FramesStored s t) (h' : FramesStored t u) : FramesStored s u where
  access := h.access.trans h'.access
  reqs := h'.reqs.trans h.reqs
  core c := by
    obtain ⟨_, _, _, _, ht⟩ := h.core c
    obtain ⟨sl, rc, w, g, hu⟩ := h'.core c
    exact ⟨sl, rc, w, g, by rw [hu, ht]⟩
  copies := h'.copies ∘ h.copies

/-- The frame may be written: the check reads its core and the thread's hearth and privilege level. -/
theorem frameCheck (h : FramesStored s t) (p : Nat) (w : Bool) : (frameCheck t p w).isNone = (Machine.frameCheck s p w).isNone := by
  obtain ⟨_, _, _, hcur⟩ := h.access.cur
  obtain ⟨_, _, _, _, hk⟩ := h.core (64 * p / 2 ^ 18)
  have href (off n hearth priv : Nat) (w : Bool) : (t.core (64 * p / 2 ^ 18)).lsRefusedN off n hearth priv w =
      (s.core (64 * p / 2 ^ 18)).lsRefusedN off n hearth priv w := by
    rw [hk]
    rfl
  simp only [Machine.frameCheck, href, hcur]

/-- Nothing stands before the spill: where no copy is under way, it rests on clocks, boot tests and the thread's posted writes. -/
theorem spillBusy (h : FramesStored s t) (hc : NoCopies s) {p : Nat} (hb : spillBusy s p = false) : spillBusy t p = false := by
  obtain ⟨_, _, _, _, hcurK⟩ := h.core s.curCore
  obtain ⟨_, _, _, _, hk⟩ := h.core (64 * p / 2 ^ 18)
  simp only [Machine.spillBusy, frameBusy, Bool.or_eq_false_iff] at hb ⊢
  obtain ⟨hstall, ⟨hboot, hls⟩, hpost⟩ := hb
  have hpaused : (s.core (64 * p / 2 ^ 18)).pw.paused = false := by
    rw [State.lsStalled, State.lsStalledBut, Bool.or_eq_false_iff] at hls
    exact hls.1
  refine ⟨?_, ⟨?_, lsStalled_false (h.copies hc) ?_ ..⟩, ?_⟩
  · rw [State.curK, h.access.curCore, hcurK]
    exact hstall
  · rw [h.access.curCore, hk]
    exact hboot
  · rw [hk]
    exact hpaused
  · rw [State.postedOver, h.reqs, h.access.curCore, h.access.curSlot, lsPA, h.access.hub]
    exact hpost

end FramesStored

theorem framesStored_modCore {s : State} {c : Nat} {f : Core → Core} (hf : ∀ k, ∃ slots rcache, f k = { k with slots := slots, rcache := rcache })
    (hcur : (s.modCore c f).cur = s.cur) : FramesStored s (s.modCore c f) := by
  have hlog (k : Core) : (f k).log.held = k.log.held := by
    obtain ⟨_, _, hk⟩ := hf k
    rw [hk]
  refine ⟨.of_near ⟨rfl, fun d => ?_, fun _ => ⟨_, rfl⟩, hcur ▸ .refl _, fun _ _ _ _ => rfl⟩ (held_modCore s c hlog _) id, rfl,
    fun d => ?_, fun h => h.modCore c fun k => ?_⟩
  · by_cases hd : d = c
    · obtain ⟨sl, rc, hk⟩ := hf (s.core c)
      exact ⟨sl, rc, _, _, _, by rw [hd, State.core_modCore_same, hk]⟩
    · exact ⟨_, _, _, _, _, State.core_modCore_ne s f hd⟩
  · by_cases hd : d = c
    · obtain ⟨sl, rc, hk⟩ := hf (s.core c)
      exact ⟨sl, rc, _, _, by rw [hd, State.core_modCore_same, hk]⟩
    · exact ⟨_, _, _, _, State.core_modCore_ne s f hd⟩
  · obtain ⟨_, _, hk⟩ := hf k
    rw [hk]

/-- A view shows and takes the windows of slots (R537). -/
theorem viewWrite_slots (k : Core) (n off : Nat) (bs : List Byte) :
    ∃ slots, (bs.foldl (fun (p : Core × Nat) b => (p.1.setViewByte n (off + p.2) b, p.2 + 1)) (k, 0)).1 = { k with slots := slots } := by
  refine foldl_keeps (P := fun p : Core × Nat => ∃ slots, p.1 = { k with slots := slots }) ⟨_, rfl⟩ fun p b hp => ?_
  obtain ⟨sl, hp⟩ := hp
  dsimp only
  rw [hp]
  unfold Core.setViewByte
  dsimp only
  split
  · exact ⟨_, rfl⟩
  · split
    · exact ⟨_, rfl⟩
    · split
      · exact ⟨_, rfl⟩
      · split
        · exact ⟨_, rfl⟩
        · exact ⟨_, rfl⟩

theorem framesStored_writeLS {s : State} (hw : s.cur.wait = .none) (c off : Nat) {bs : List Byte} (hlen : bs.length ≤ 2 ^ 18) :
    FramesStored s (s.writeLS c off bs) := by
  have hwr := written_writeLS s c off bs
  have hbut : Claims.DramBut s (s.writeLS c off bs) [] := fun p hp hc hout =>
    (near_setBytes_ls fun i hi => paClass_lsPA_add s c off (lt_of_lt_of_le hi hlen)).dram p hp hc hout
  have hpoi : (s.writeLS c off bs).poison = s.poison := State.setBytes_poison ..
  have hreqs : (s.writeLS c off bs).reqs = s.reqs := State.setBytes_reqs ..
  refine ⟨access_of_written hwr hpoi hw hbut, hreqs, hwr.core, fun h => NoCopies.modCore (fun k hk => ?_) c fun k => ?_⟩
  · rw [State.setBytes_cores] at hk
    exact h k hk
  · unfold Core.roused
    split
    · rfl
    · rfl

theorem framesStored_putFrame {s : State} (hw : s.cur.wait = .none) (p : Nat) {ws : List Word} (hlen : ws.length = 8) :
    FramesStored s (s.putFrame p ws) := by
  have hcur := cur_coreWrite (s := s) (fun a m h => by rw [hw] at h; cases h) (64 * p / 2 ^ 18) (64 * p % 2 ^ 18)
    (ws.flatMap fun w => leBytes 8 w.toNat)
  rw [State.putFrame]
  unfold State.coreWrite at hcur ⊢
  split
  next hview =>
    rw [if_pos hview] at hcur
    refine framesStored_modCore (fun k => ?_) hcur
    obtain ⟨sl, hk⟩ := viewWrite_slots k s.curSlot (64 * p % 2 ^ 18) (ws.flatMap fun w => leBytes 8 w.toNat)
    exact ⟨sl, _, hk⟩
  · refine framesStored_writeLS hw _ _ ?_
    rw [length_frameBytes, hlen]
    decide

theorem framesStored_heard (s : State) (pa : Nat) : FramesStored s (s.heard pa) := by
  have hreqs (hm : Nat) : (s.hearAll hm).reqs = s.reqs := by
    unfold State.hearAll
    split
    · rfl
    · rfl
  have hcores (hm : Nat) : (s.hearAll hm).cores = s.cores := by
    unfold State.hearAll
    split
    · rfl
    · rfl
  have hcore (hm c : Nat) : (s.hearAll hm).core c = s.core c := by rw [State.core, hcores, State.core]
  refine ⟨access_heard s pa, hreqs _, fun c => ?_, fun h => ?_⟩
  · rw [State.heard, State.acquireAt, State.modSlot, State.setSlot]
    by_cases hc : c = s.curCore
    · rw [hc, State.core_modCore_same, State.core_modCore_same, hcore]
      exact ⟨_, _, _, _, rfl⟩
    · rw [State.core_modCore_ne _ _ hc, State.core_modCore_ne _ _ hc, hcore]
      exact ⟨_, _, _, _, rfl⟩
  · have hhear : NoCopies (s.hearAll (homeOf pa)) := fun k hk => h k (hcores (homeOf pa) ▸ hk)
    exact (hhear.modCore s.curCore (f := (·.setSlot s.curSlot _)) fun _ => rfl).modCore s.curCore (f := fun k => { k with rcache := [] })
      fun _ => rfl

/-- The frames from i on are spilled where no check of the first state forbids it. -/
theorem spillFrom_next {s : State} (hw : s.cur.wait = .none) (hc : NoCopies s) (i n : Nat)
    (hok : ∀ j < n, frameCheck s (s.cur.st.spillp + BitVec.ofNat 25 (i + j)).toNat true = none ∧
      spillBusy s (s.cur.st.spillp + BitVec.ofNat 25 (i + j)).toNat = false) :
    ∃ t, s.spillFrom i n = (none, t) ∧ FramesStored s t := by
  induction n generalizing s i with
  | zero => exact ⟨s, rfl, .refl s⟩
  | succ n ih =>
    obtain ⟨hcheck, hbusy⟩ := hok 0 (Nat.succ_pos n)
    have hput := framesStored_putFrame hw (s.cur.st.spillp + BitVec.ofNat 25 i).toNat
      (ws := frameWords s.cur ((oldestFrame s.cur + i) % 12)) (by simp [frameWords])
    obtain ⟨t, ht, hst⟩ := ih (hput.access.cur.wait.trans hw) (hput.copies hc) (i + 1) fun j hj => by
      obtain ⟨hcheck', hbusy'⟩ := hok (j + 1) (Nat.succ_lt_succ hj)
      obtain ⟨_, _, _, hcur⟩ := hput.access.cur
      have hidx : i + 1 + j = i + (j + 1) := by omega
      rw [hcur, hidx]
      refine ⟨Option.isNone_iff_eq_none.mp ?_, hput.spillBusy hc hbusy'⟩
      rw [hput.frameCheck, hcheck']
      rfl
    refine ⟨t, ?_, hput.trans hst⟩
    rw [Nat.add_zero] at hcheck hbusy
    rw [State.spillFrom, hcheck]
    dsimp only
    rw [if_neg (by rw [hbusy]; exact Bool.false_ne_true)]
    exact ht

/-- The thread when its frames are spilled (R363). -/
def Slot.allSpilled (t : Slot) : Slot := { t with st := { t.st with spillp := t.st.spillp + BitVec.ofNat 25 t.st.resid, resid := 0 } }

theorem spillAll_next {s : State} (hw : s.cur.wait = .none) (hc : 0 < s.cur.st.resid → NoCopies s)
    (hok : ∀ i < s.cur.st.resid, frameCheck s (s.cur.st.spillp + BitVec.ofNat 25 i).toNat true = none ∧
      spillBusy s (s.cur.st.spillp + BitVec.ofNat 25 i).toNat = false) :
    ∃ t, s.spillAll = (none, t.modCur Slot.allSpilled) ∧ Access [] s t := by
  rcases Nat.eq_zero_or_pos s.cur.st.resid with h0 | hpos
  · refine ⟨s, ?_, .refl s⟩
    rw [State.spillAll, h0, State.spillFrom]
    rfl
  · obtain ⟨t, ht, hst⟩ := spillFrom_next hw (hc hpos) 0 s.cur.st.resid (by simpa using hok)
    refine ⟨t, ?_, hst.access⟩
    rw [State.spillAll, ht]
    rfl

/-! ## The thread leaves -/

theorem access_resume (s : State) (c : Nat) (g : Core → Clock) : Access [] s (s.modCore c fun k => { k with resume := g k }) :=
  .of_near (near_modCore ⟨_, _, _, _, _, rfl⟩ fun _ => .refl _) (held_modCore s c (f := fun k => { k with resume := g k }) (fun _ => rfl) _) id

/-- A quiet core's thread that leaves releases at pkg, and its core remembers the clock (R363). -/
theorem access_leave {s : State} (hq : Claims.Quiet s) (hdet : s.cur.st.det = false) : Access [] s (s.leave s.curCore s.curSlot) := by
  have hrel := access_pkgRelease hq
  have hsend : s.sendTask s.curCore s.curSlot = s := by
    have hdet' : (s.slot s.curCore s.curSlot).st.det = false := hdet
    simp [State.sendTask, hdet']
  have hr : (s.release s.curCore s.curSlot 4 []).pieces = [] := by
    rw [release_rest]
    exact hq.1
  have hleave : s.leave s.curCore s.curSlot =
      s.pkgRelease.modCore s.curCore fun k => { k with resume := k.resume.max (k.slot s.curSlot).rc } := by
    rw [State.leave, hsend, State.pkgRelease, State.drain, settle_of_no_pieces hr]
    rfl
  rw [hleave]
  exact hrel.trans (access_resume ..)

theorem Near.tongs {l : List (Nat × Nat)} {s t : State} (h : Near l s t) (c : Nat) : (t.core c).tongs = (s.core c).tongs := by
  obtain ⟨_, _, _, _, _, hk⟩ := h.core c
  rw [hk]

theorem memW_congr {s t : State} (hm : t.mem = s.mem) (hh : t.hub = s.hub) (hs : t.stuck = s.stuck) (pa : Nat) : t.memW pa = s.memW pa := by
  rw [State.memW, State.memW, State.memNat, State.memNat, State.bytes_congr hm hh hs]

section
variable (s : State) (c n : Nat) (va : Word)

/-- What frees a slot keeps bytes and continuations. -/
theorem freeSlot_frame : (s.freeSlot c n).mem = s.mem ∧ (s.freeSlot c n).hub = s.hub ∧ (s.freeSlot c n).stuck = s.stuck ∧
    (s.freeSlot c n).conts = s.conts ∧ (s.freeSlot c n).contWaits = s.contWaits := by
  unfold State.freeSlot State.dropMisses
  split
  · exact ⟨rfl, rfl, rfl, rfl, rfl⟩
  · exact ⟨rfl, rfl, rfl, rfl, rfl⟩

theorem memW_freeSlot (pa : Nat) : (s.freeSlot c n).memW pa = s.memW pa := by
  obtain ⟨hm, hh, hs, -⟩ := freeSlot_frame s c n
  exact memW_congr hm hh hs pa

theorem memW_keepAt (pa : Nat) : (s.keepAt c n va).memW pa = s.memW pa := memW_congr (s := s) rfl rfl rfl pa

end

/-- The continuation that the executing thread leaves (R363). -/
def leaver (s : State) (stamp : Clock) (record : Word) (chan : Option (Nat × Nat)) (future : Nat) : ContWait :=
  { record := record, hearth := s.cur.st.hearth, stamp := stamp, chan := chan, future := future, core := s.curCore }

/-- The state in which a continuation is handed on or waits. -/
def State.handed (s : State) (w : ContWait) (ready : Bool) : State :=
  if ready then { s with conts := s.conts ++ [w] } else { s with contWaits := s.contWaits ++ [w] }

theorem memW_handed (s : State) (w : ContWait) (ready : Bool) (pa : Nat) : (s.handed w ready).memW pa = s.memW pa := by
  unfold State.handed
  split
  · exact memW_congr (s := s) rfl rfl rfl pa
  · exact memW_congr (s := s) rfl rfl rfl pa

/-- A thread that has left: its slot is empty, memory is as it was, and its continuation is handed on or waits. -/
theorem handed_leaves (z : State) (w : ContWait) (ready : Bool) (c n : Nat) (record : Word) :
    let t := ((z.handed w ready).keepAt c n record).freeSlot c n
    t.slot c n = {} ∧ (∀ pa, t.memW pa = z.memW pa) ∧ (ready = true → w ∈ t.conts) ∧ (ready = false → w ∈ t.contWaits) := by
  obtain ⟨-, -, -, hconts, hwaits⟩ := freeSlot_frame ((z.handed w ready).keepAt c n record) c n
  refine ⟨slot_freeSlot .., fun pa => by rw [memW_freeSlot, memW_keepAt, memW_handed], fun h => ?_, fun h => ?_⟩
  · rw [hconts, h]
    exact List.mem_append_right _ (List.mem_singleton_self _)
  · rw [hwaits, h]
    exact List.mem_append_right _ (List.mem_singleton_self _)

theorem yieldTo_eq (s : State) (record : Word) (chan : Option (Nat × Nat)) (future : Nat) (ready : State → Bool) :
    s.yieldTo record chan future ready = (((s.leave s.curCore s.curSlot).handed
      (leaver s ((s.leave s.curCore s.curSlot).slot s.curCore s.curSlot).rc record chan future)
      (ready (s.leave s.curCore s.curSlot))).keepAt s.curCore s.curSlot record).freeSlot s.curCore s.curSlot := rfl

/-! ## The record -/

theorem contWords_eq (s : State) (npc link : Word) (live : BitVec 16) : contWords s.cur npc link live = Claims.contRecord s npc link live := rfl

theorem contRecord_aged {s t : State} (h : s.cur.Aged t.cur) (npc link : Word) (live : BitVec 16) :
    Claims.contRecord t npc link live = Claims.contRecord s npc link live := by
  obtain ⟨_, _, _, hcur⟩ := h
  rw [← contWords_eq, ← contWords_eq, hcur]
  rfl

theorem aged_allSpilled {t u : Slot} (h : t.Aged u) : t.allSpilled.Aged u.allSpilled := by
  obtain ⟨rc, k, b, rfl⟩ := h
  exact ⟨rc, k, b, rfl⟩

theorem samePlaces_modCur (s : State) {g : Slot → Slot} (hst : ∀ t, (g t).st.hearth = t.st.hearth) : SamePlaces s (s.modCur g) := by
  refine ⟨rfl, ?_, rfl, ?_, fun _ => rfl⟩
  · rw [State.cur_modCur, hst]
  · rw [State.curK_modCur]
    rfl

/-- YIELDC writes the record, and the thread leaves (R363). -/
theorem yieldWrite_next {s : State} {f : Fld} {record link : Word} {chan : Option (Nat × Nat)} {future pa : Nat} {ready : State → Bool}
    (hq : Claims.Quiet s) (hdet : s.cur.st.det = false) (hs : Claims.Sound s) (hit : Claims.TlbHit s record .write pa)
    (hit' : Claims.TlbHit s (record + 168) .write (pa + 168)) (hw : Claims.HwWords s record pa 22)
    (hc : 0 < s.cur.st.resid → NoCopies s)
    (hok : ∀ i < s.cur.st.resid, frameCheck s (s.cur.st.spillp + BitVec.ofNat 25 i).toNat true = none ∧
      spillBusy s (s.cur.st.spillp + BitVec.ofNat 25 i).toNat = false) :
    ∃ (z : State) (stamp : Clock), (∀ c, (z.core c).tongs = (s.core c).tongs) ∧
      (∀ i < 22, z.memW (pa + 8 * i) = (Claims.contRecord (s.modCur Slot.allSpilled) (s.npc f) link
        (BitVec.ofNat 16 ((s.w f.t).bits 15 0))).getD i 0) ∧
      s.yieldWrite f record link chan future ready = ((z.handed (leaver s stamp record chan future) (ready z)).keepAt s.curCore s.curSlot
        record).freeSlot s.curCore s.curSlot := by
  obtain ⟨at1, htr1⟩ := translateCur_hit hit
  obtain ⟨at2, htr2⟩ := translateCur_hit hit'
  obtain ⟨-, -, hcls, -, -, hown, -⟩ : Claims.HwWord s _ pa := hw 0 (by decide)
  have hwait := quiet_wait hq
  obtain ⟨t, hsp, ht⟩ := spillAll_next hwait hc hok
  have hvq : Claims.Quiet (t.modCur Slot.allSpilled) := quiet_modCur (fun _ => rfl) (fun _ => rfl) (fun _ => rfl) (ht.quiet hq)
  have hvp : SamePlaces t (t.modCur Slot.allSpilled) := samePlaces_modCur t fun _ => rfl
  have hvaged : (s.modCur Slot.allSpilled).cur.Aged (t.modCur Slot.allSpilled).cur := by
    rw [State.cur_modCur, State.cur_modCur]
    exact aged_allSpilled ht.cur
  have hvtongs (c : Nat) : ((t.modCur Slot.allSpilled).core c).tongs = (t.core c).tongs := by
    rw [State.modCur, State.modSlot, State.setSlot]
    by_cases h : c = t.curCore
    · rw [h, State.core_modCore_same]
      rfl
    · rw [State.core_modCore_ne _ _ h]
  have hvc : (t.modCur Slot.allSpilled).curCore = s.curCore := ht.curCore
  have hvn : (t.modCur Slot.allSpilled).curSlot = s.curSlot := ht.curSlot
  have hvpoi : (t.modCur Slot.allSpilled).poison = [] := ht.poison.trans hs.1
  have hvw := hvp.hwWords (ht.samePlaces.hwWords hw)
  have hvdet : (t.modCur Slot.allSpilled).cur.st.det = false := by
    obtain ⟨_, _, _, hcur⟩ := hvaged
    rw [hcur, State.cur_modCur]
    exact hdet
  have hhearth : (t.modCur Slot.allSpilled).cur.st.hearth = s.cur.st.hearth := hvp.hearth.trans ht.samePlaces.hearth
  generalize t.modCur Slot.allSpilled = v at hsp hvq hvp hvaged hvtongs hvc hvn hvpoi hvw hvdet hhearth
  obtain ⟨y, hy, hacc, hread⟩ := hwWords_words (s := v) (ws := contWords v.cur (s.npc f) link (BitVec.ofNat 16 ((s.w f.t).bits 15 0)))
    (quiet_wait hvq) hvpoi hvw
  have hyc : y.curCore = s.curCore := hacc.curCore.trans hvc
  have hyn : y.curSlot = s.curSlot := hacc.curSlot.trans hvn
  have hydet : y.cur.st.det = false := by
    obtain ⟨_, _, _, hcur⟩ := hacc.cur
    rw [hcur]
    exact hvdet
  have hyh : y.cur.st.hearth = s.cur.st.hearth := hacc.samePlaces.hearth.trans hhearth
  have hleave := access_leave (hacc.quiet hvq) hydet
  rw [hyc, hyn] at hleave
  refine ⟨y.leave s.curCore s.curSlot, ((y.leave s.curCore s.curSlot).slot s.curCore s.curSlot).rc, fun c => ?_, fun i hi => ?_, ?_⟩
  · rw [hleave.tongs, hacc.tongs, hvtongs, ht.tongs]
  · rw [memW_words hleave (hacc.samePlaces.hwWords hvw) i hi, hread i hi, contWords_eq, contRecord_aged hvaged]
  · unfold State.yieldWrite
    rw [State.withPlace_ok htr1, State.withPlace_ok htr2, State.place_dram hcls hown, hsp]
    dsimp only
    rw [hhearth] at hy
    rw [hy]
    dsimp only
    rw [yieldTo_eq, hyc, hyn, leaver, leaver, hyh, hyc]

/-- What a thread that yields leaves: its slot is empty, its record stands, and its continuation is handed on where the state finds it ready. -/
theorem yieldWrite_leaves {s : State} {f : Fld} {record link : Word} {chan : Option (Nat × Nat)} {future pa : Nat} {ready : State → Bool}
    (hq : Claims.Quiet s) (hdet : s.cur.st.det = false) (hs : Claims.Sound s) (hit : Claims.TlbHit s record .write pa)
    (hit' : Claims.TlbHit s (record + 168) .write (pa + 168)) (hw : Claims.HwWords s record pa 22)
    (hc : 0 < s.cur.st.resid → NoCopies s)
    (hok : ∀ i < s.cur.st.resid, frameCheck s (s.cur.st.spillp + BitVec.ofNat 25 i).toNat true = none ∧
      spillBusy s (s.cur.st.spillp + BitVec.ofNat 25 i).toNat = false) :
    ∃ (t z : State) (stamp : Clock), s.yieldWrite f record link chan future ready = t ∧ t.slot s.curCore s.curSlot = {} ∧
      (∀ i < 22, t.memW (pa + 8 * i) = (Claims.contRecord (s.modCur Slot.allSpilled) (s.npc f) link
        (BitVec.ofNat 16 ((s.w f.t).bits 15 0))).getD i 0) ∧
      (∀ c ch, z.chan c ch = s.chan c ch) ∧ (ready z = true → leaver s stamp record chan future ∈ t.conts) ∧
      (ready z = false → leaver s stamp record chan future ∈ t.contWaits) := by
  obtain ⟨z, stamp, htongs, hmem, hy⟩ := yieldWrite_next (f := f) (link := link) (chan := chan) (future := future) (ready := ready)
    hq hdet hs hit hit' hw hc hok
  obtain ⟨hslot, hsame, hconts, hwaits⟩ := handed_leaves z (leaver s stamp record chan future) (ready z) s.curCore s.curSlot record
  refine ⟨_, z, stamp, hy, hslot, fun i hi => (hsame _).trans (hmem i hi), fun c ch => ?_, hconts, hwaits⟩
  rw [State.chan, State.chan, htongs]

theorem gate_yieldc {x : XA} {s : State} (hr : Ready (.yieldc x) s) (hdet : s.cur.st.det = false) (hv : s.cur.st.vclean = true)
    (hb : (x.fld 2).base < 2)
    (hal : (if (x.fld 2).base = 1 then alignTwo (s.w (x.fld 2).s) (s.w (x.fld 2).d) 16 else alignTrap (s.w (x.fld 2).s) 16) = none)
    (k : State → State) :
    gate (.yieldc x) (fun s => firstTrap [lastBad (x.fld 2) (2 ≤ (x.fld 2).base) s, trapIf s.cur.st.det 0x17 0, trapIf (!s.cur.st.vclean) 0x14 0,
      if (x.fld 2).base = 1 then alignTwo (s.w (x.fld 2).s) (s.w (x.fld 2).d) 16 else alignTrap (s.w (x.fld 2).s) 16]) k s = .next (k s) := by
  refine gate_next _ _ hr ?_
  simp only [lastBad_none (x.fld 2) s (bad := decide (2 ≤ (x.fld 2).base)) (decide_eq_false (by omega)), hal, hdet, hv, trapIf, firstTrap,
    Bool.not_true, Bool.false_eq_true, if_false]
  rfl

section
variable {x : XA} {s : State} (hr : Ready (.yieldc x) s) (hdet : s.cur.st.det = false) (hv : s.cur.st.vclean = true)
  (hdef : s.cur.deferred = []) (hl : s.cur.loads = 0) (hst : s.cur.stores = 0) (ht : s.cur.tiles = 0)
  (hal : (s.w (x.fld 2).s).toNat % 16 = 0)
include hr hdet hv hdef hl hst ht hal

theorem exec_yieldc_channel (hb : (x.fld 2).base = 0) : exec (.yieldc x) s = .next (s.yieldWrite (x.fld 2) (s.w (x.fld 2).s)
    (word (3 * 2 ^ 61 + (s.w (x.fld 2).d).bits 2 0 * 2 ^ 14 + s.curCore * 2 + 1)) (some (s.curCore, (s.w (x.fld 2).d).bits 2 0)) 0
    fun t => !(t.chan s.curCore ((s.w (x.fld 2).d).bits 2 0)).busy) := by
  change execYieldc x s = _
  rw [execYieldc, gate_yieldc hr hdet hv (by omega) (by rw [if_neg (by omega), alignTrap_none hal])]
  simp only [Slot.firstFault, hdef, List.filter_nil, leastBy, hl, hst, ht, ne_eq, not_true_eq_false, or_self, if_false, hb, if_true]

theorem exec_yieldc_future {pa o : Nat} (hq : Claims.Quiet s) (hb : (x.fld 2).base = 1) (hit : Claims.TlbHit s (s.w (x.fld 2).s) .write pa)
    (hc : paClass pa = 0) (hown : s.ownPackage pa = true) (ho : Claims.ObjAt s (s.w (x.fld 2).d) 16 .read o) :
    exec (.yieldc x) s = .next ((s.heard o).yieldWrite (x.fld 2) (s.w (x.fld 2).s)
      (word (3 * 2 ^ 61 + (s.w (x.fld 2).d).bits 56 0)) none o fun t => 2 ≤ futState (t.memW o)) := by
  have hwith := withObj_heard hq ho
  obtain ⟨hito, hco, -, -, howno, -, halo, -⟩ := ho
  obtain ⟨at1, htr1⟩ := translateCur_hit hit
  obtain ⟨at2, htr2⟩ := translateCur_hit hito
  have htwo (go : Nat → Nat → State → State) : s.withTwo (s.w (x.fld 2).s) .write (s.w (x.fld 2).d) .read go = go pa o s := by
    rw [State.withTwo]
    split
    · rw [State.withPlace_ok htr1, State.withPlace_ok htr2]
    · rw [State.withPlace_ok htr2, State.withPlace_ok htr1]
  have hdram : s.inDram pa = true := by rw [State.inDram, State.place_dram hc hown]
  have halign : alignTwo (s.w (x.fld 2).s) (s.w (x.fld 2).d) 16 = none := by
    rw [alignTwo, if_neg (fun h => h.1 hal), alignTrap_none halo]
  change execYieldc x s = _
  rw [execYieldc, gate_yieldc hr hdet hv (by omega) (by rw [if_pos hb, halign])]
  simp only [Slot.firstFault, hdef, List.filter_nil, leastBy, hl, hst, ht, ne_eq, not_true_eq_false, or_self, if_false, hb, htwo, hdram,
    Bool.not_true, Bool.false_eq_true, false_and, hwith, one_ne_zero, (access_heard s o).w]

end

/-- YIELDC's clauses of O44. -/
theorem yields (x : XA) (s : State) (pa : Nat) (l : Option Nat) (hr : Ready (.yieldc x) s) (hdet : s.cur.st.det = false)
    (hq : Claims.Quiet s) (hs : Claims.Sound s) (hv : s.cur.st.vclean = true) (hl : s.cur.loads = 0) (hst : s.cur.stores = 0)
    (htl : s.cur.tiles = 0) (hdef : s.cur.deferred = []) (hal : (s.w (x.fld 2).s).toNat % 16 = 0)
    (hb : (x.fld 2).base = if l.isSome then 1 else 0) (ho : ∀ o, l = some o → Claims.ObjAt s (s.w (x.fld 2).d) 16 .read o)
    (hit : Claims.TlbHit s (s.w (x.fld 2).s) .write pa) (hit' : Claims.TlbHit s (s.w (x.fld 2).s + 168) .write (pa + 168))
    (hw : Claims.HwWords s (s.w (x.fld 2).s) pa 22)
    (hok : ∀ i < s.cur.st.resid, frameCheck s (s.cur.st.spillp + BitVec.ofNat 25 i).toNat true = none ∧
      spillBusy s (s.cur.st.spillp + BitVec.ofNat 25 i).toNat = false)
    (hc : 0 < s.cur.st.resid → NoCopies s) :
    let f := x.fld 2
    let ch := (s.w f.d).bits 2 0
    let link : Word := if l.isSome then BitVec.ofNat 64 (3 * 2 ^ 61 + (s.w f.d).bits 56 0)
      else BitVec.ofNat 64 (3 * 2 ^ 61 + ch * 2 ^ 14 + s.curCore * 2 + 1)
    ∃ (t : State) (w : ContWait), exec (.yieldc x) s = .next t ∧ t.slot s.curCore s.curSlot = {} ∧
      (∀ i < 22, t.memW (pa + 8 * i) = (Claims.contRecord (s.modCur Slot.allSpilled) (s.npc f) link
        (BitVec.ofNat 16 ((s.w f.t).bits 15 0))).getD i 0) ∧
      w.record = s.w f.s ∧ w.hearth = s.cur.st.hearth ∧ w.core = s.curCore ∧ w.chan = (if l.isSome then none else some (s.curCore, ch)) ∧
      (∀ o, l = some o → w.future = o ∧ (w ∈ t.contWaits ∨ w ∈ t.conts)) ∧
      (l = none → (s.chan s.curCore ch).busy = true → w ∈ t.contWaits) ∧ (l = none → (s.chan s.curCore ch).busy = false → w ∈ t.conts) := by
  intro f ch link
  cases l with
  | none =>
    obtain ⟨t, z, stamp, hy, hslot, hmem, hchan, hconts, hwaits⟩ := yieldWrite_leaves (f := f) (link := link) (chan := some (s.curCore, ch))
      (future := 0) (ready := fun t => !(t.chan s.curCore ch).busy) hq hdet hs hit hit' hw hc hok
    refine ⟨t, _, (exec_yieldc_channel hr hdet hv hdef hl hst htl hal hb).trans (congrArg _ hy), hslot, hmem, rfl, rfl, rfl, rfl,
      nofun, fun _ hbusy => hwaits ?_, fun _ hbusy => hconts ?_⟩
    · rw [hchan, hbusy]
      rfl
    · rw [hchan, hbusy]
      rfl
  | some o =>
    have hst' := framesStored_heard s o
    have hacc := hst'.access
    obtain ⟨-, -, hcls, -, -, hown, -⟩ : Claims.HwWord s _ pa := hw 0 (by decide)
    obtain ⟨_, _, _, hcur⟩ := hacc.cur
    have hresid : (s.heard o).cur.st.resid = s.cur.st.resid := by rw [hcur]
    have hspillp : (s.heard o).cur.st.spillp = s.cur.st.spillp := by rw [hcur]
    have hc' : 0 < (s.heard o).cur.st.resid → NoCopies (s.heard o) := fun h => hst'.copies (hc (hresid ▸ h))
    have hok' : ∀ i < (s.heard o).cur.st.resid, frameCheck (s.heard o) ((s.heard o).cur.st.spillp + BitVec.ofNat 25 i).toNat true = none ∧
        spillBusy (s.heard o) ((s.heard o).cur.st.spillp + BitVec.ofNat 25 i).toNat = false := by
      intro i hi
      rw [hresid] at hi
      obtain ⟨hcheck, hbusy⟩ := hok i hi
      rw [hspillp]
      refine ⟨Option.isNone_iff_eq_none.mp ?_, hst'.spillBusy (hc (Nat.zero_lt_of_lt hi)) hbusy⟩
      rw [hst'.frameCheck, hcheck]
      rfl
    obtain ⟨t, z, stamp, hy, hslot, hmem, -, hconts, hwaits⟩ := yieldWrite_leaves (s := s.heard o) (f := f) (link := link) (chan := none)
      (future := o) (ready := fun t => 2 ≤ futState (t.memW o)) (hacc.quiet hq) (by rw [hcur]; exact hdet) (sound_access hacc hs)
      (hacc.tlbHit hit) (hacc.tlbHit hit') (hacc.samePlaces.hwWords hw) hc' hok'
    rw [hacc.curCore, hacc.curSlot] at hslot
    have haged : (s.modCur Slot.allSpilled).cur.Aged ((s.heard o).modCur Slot.allSpilled).cur := by
      rw [State.cur_modCur, State.cur_modCur]
      exact aged_allSpilled hacc.cur
    refine ⟨t, leaver (s.heard o) stamp (s.w f.s) none o,
      (exec_yieldc_future hr hdet hv hdef hl hst htl hal hq hb hit hcls hown (ho o rfl)).trans (congrArg _ hy), hslot, fun i hi => ?_,
      rfl, hacc.samePlaces.hearth, hacc.curCore, rfl, fun o' h => ?_, nofun, nofun⟩
    · rw [hmem i hi, contRecord_aged haged, hacc.npc, hacc.w]
    · cases h
      refine ⟨rfl, ?_⟩
      cases hready : decide (2 ≤ futState (z.memW o)) with
      | false => exact .inl (hwaits hready)
      | true => exact .inr (hconts hready)

end Sys2Proof.Machine

/-! # A thread keeps its task and its link (O44)

What a thread's end does before the thread leaves its slot (discarded commands, its units' ends, its release) may wake any thread, write memory
and report faults; it changes no thread's TASKID or LINK. One lemma per operation (`Named`). -/

namespace Sys2Proof.Machine

/-- The thread in slot n of core c has this TASKID and this LINK. -/
def Named (c n : Nat) (id link : Word) (s : State) : Prop := (s.slot c n).taskid = id ∧ (s.slot c n).link = link

section
variable {c n : Nat} {id link : Word} {s : State}

/-! ## Cores, slots and what lies beside them -/

theorem named_same {t : State} (hs : Named c n id link s) (hc : t.cores = s.cores := by rfl) : Named c n id link t := by
  rw [Named, State.slot, State.core, hc]
  exact hs

theorem named_modCore {d : Nat} {f : Core → Core} (hs : Named c n id link s)
    (hf : ∀ k m, ((f k).slot m).taskid = (k.slot m).taskid ∧ ((f k).slot m).link = (k.slot m).link := by exact fun _ _ => ⟨rfl, rfl⟩) :
    Named c n id link (s.modCore d f) := by
  by_cases hd : c = d
  · subst hd
    rw [Named, State.slot, State.core_modCore_same]
    exact ⟨(hf _ n).1.trans hs.1, (hf _ n).2.trans hs.2⟩
  · rw [Named, State.slot, State.core_modCore_ne s f hd]
    exact hs

theorem named_modSlot {d m : Nat} {f : Slot → Slot} (hs : Named c n id link s)
    (hf : ∀ t, (f t).taskid = t.taskid ∧ (f t).link = t.link := by exact fun _ => ⟨rfl, rfl⟩) : Named c n id link (s.modSlot d m f) := by
  by_cases h : c = d ∧ n = m
  · obtain ⟨rfl, rfl⟩ := h
    rw [Named, State.slot_modSlot_same]
    exact ⟨(hf _).1.trans hs.1, (hf _).2.trans hs.2⟩
  · rw [Named, State.modSlot, State.slot_setSlot_ne s _ (not_and_or.mp h)]
    exact hs

theorem named_acquireAt {d m : Nat} {clk : Clock} (hs : Named c n id link s) : Named c n id link (s.acquireAt d m clk) :=
  named_modCore (named_modSlot hs)

/-! ## Writes of memory -/

theorem named_setBytes {pa : Nat} {bs : List Byte} (hs : Named c n id link s) : Named c n id link (s.setBytes pa bs) :=
  named_same hs (State.setBytes_cores ..)

theorem named_fireWatch {clk : Clock} {w : Watch} (hs : Named c n id link s) : Named c n id link (s.fireWatch clk w) := by
  unfold State.fireWatch
  split
  · exact named_modSlot (named_acquireAt hs)
  · exact named_modSlot hs
  · exact hs

theorem named_wakeHome {pa k : Nat} (hs : Named c n id link s) : Named c n id link (s.wakeHome pa k) := by
  unfold State.wakeHome
  dsimp only
  split
  · exact hs
  · refine foldl_keeps (P := Named c n id link) hs fun t w ht => ?_
    split
    · exact ht
    · exact named_fireWatch ht

theorem wakeWatch_name (t : Slot) (pa k : Nat) : (wakeWatch t pa k).taskid = t.taskid ∧ (wakeWatch t pa k).link = t.link := by
  unfold wakeWatch
  split
  · split
    · exact ⟨rfl, rfl⟩
    · exact ⟨rfl, rfl⟩
  · exact ⟨rfl, rfl⟩

theorem named_writeLS {d off : Nat} {bs : List Byte} (hs : Named c n id link s) : Named c n id link (s.writeLS d off bs) := by
  refine named_modCore (named_setBytes hs) fun k m => ?_
  rw [Core.slot]
  dsimp only
  rw [get_map_snd (wakeWatch · _ _) (wakeWatch_of_not_waiting rfl _ _)]
  exact wakeWatch_name ..

theorem named_writeAt {pa : Nat} {bs : List Byte} (hs : Named c n id link s) : Named c n id link (s.writeAt pa bs) := by
  unfold State.writeAt
  split
  · exact named_writeLS hs
  · split
    · refine named_wakeHome ?_
      unfold State.unpoison
      split
      · exact named_setBytes hs
      · exact named_setBytes hs
    · exact named_setBytes hs

theorem named_hwWrite {h : Nat} {va : Word} {bs : List Byte} (hs : Named c n id link s) : OnOk (Named c n id link) (s.hwWrite h va bs) := by
  unfold State.hwWrite
  split
  · exact .error
  · split
    · exact .error
    · exact .ok (named_writeAt hs)

theorem named_hwWords {h : Nat} {va : Word} {l : List Word} (hs : Named c n id link s) : OnOk (Named c n id link) (s.hwWords h va l) := by
  induction l generalizing s va with
  | nil => exact .ok hs
  | cons w r ih =>
    unfold State.hwWords
    split
    · exact .error
    next t ht => exact ih ((named_hwWrite hs).of_eq ht)

/-- The words of a record are written through `hwWords`, which stands as an opaque function: the kernel would evaluate the accesses. -/
theorem named_ringWrite {r : Record} (hs : Named c n id link s) : OnSnd (OnSnd (Named c n id link)) (s.ringWrite r) := by
  have step {u v : State} {h : Nat} {va : Word} {l : List Word} (hu : Named c n id link u) (e : u.hwWords h va l = .ok v) :
      Named c n id link v := (named_hwWords hu).of_eq e
  conv => arg 2; fun; fun; delta State.ringWrite
  obtain ⟨W, hW⟩ := exists_eq' (a' := State.hwWords)
  rw [hW] at step ⊢
  extract_lets ring
  split
  · exact hs
  extract_lets wr rd lost seq at_
  split
  · exact hs
  next u hu =>
    have h1 := step hs hu
    split
    · split
      · exact h1
      next v hv => exact step h1 hv
    · split
      · exact h1
      next v hv =>
        have h2 := step h1 hv
        split
        · exact h2
        next w hw => exact step h2 hw

/-! ## Reports, lines and the hub -/

theorem named_report {r : Record} (hs : Named c n id link s) : Named c n id link (s.report r) := by
  conv => arg 5; fun; fun; delta State.report
  split
  next e =>
    have h0 := ((named_ringWrite hs).of_eq e).of_eq rfl
    extract_lets s1 ras s2 s3
    have h1 : Named c n id link s1 := by
      unfold s1
      split
      · exact h0
      · split
        · exact h0
        · exact h0
    have h2 : Named c n id link s2 := by
      unfold s2
      split
      · exact h1
      · exact h1
    have h3 : Named c n id link s3 := by
      unfold s3
      split
      · exact h2
      · exact h2
    clear_value s3
    split
    · exact named_modCore h3
    · exact h3

theorem named_modHome {hm : Nat} {f : Home → Home} (hs : Named c n id link s) : Named c n id link (s.modHome hm f) := hs

theorem named_free (hs : Named c n id link s) : Named c n id link s.free.2 := hs

theorem named_setMemW {pa : Nat} {v : Word} (hs : Named c n id link s) : Named c n id link (s.setMemW pa v) := named_setBytes hs

theorem named_setPoison {w : Nat} (hs : Named c n id link s) : Named c n id link (s.setPoison w) := by
  unfold State.setPoison
  split
  · exact hs
  · exact hs

theorem named_lineFixed {r : Record} {line errors erasures : Nat} {syms : List Nat} (hs : Named c n id link s) :
    Named c n id link (s.lineFixed r line errors erasures syms) := by
  unfold State.lineFixed
  dsimp only
  split
  · split
    · exact named_free (named_modHome hs)
    · exact named_report (named_modHome (named_free (named_modHome hs)))
  · split
    · exact named_modHome hs
    · exact named_report (named_modHome (named_modHome hs))

theorem named_readLine {r : Record} {line : Nat} (hs : Named c n id link s) : Named c n id link (s.readLine r line) := by
  unfold State.readLine
  split
  · exact hs
  · dsimp only
    split
    · exact hs
    · split
      · exact named_lineFixed hs
      · split
        · exact named_lineFixed (foldl_keeps (named_free hs) fun _ _ h => named_setMemW (named_free h))
        · exact named_report (named_modHome (foldl_keeps (named_free hs) fun _ _ => named_setPoison))

theorem named_readLines {r : Record} {pa k : Nat} (hs : Named c n id link s) : Named c n id link (s.readLines r pa k) := by
  unfold State.readLines
  split
  · exact hs
  · exact foldl_keeps hs fun _ _ => named_readLine

/-- A reduction's registers lie in its hearth. -/
theorem cores_setReductionReg (s : State) (h j r : Nat) (v : Word) (pod : Bool) : (s.setReductionReg h j r v pod).cores = s.cores := by
  have hround (s : State) (last : Option Nat) : (s.endRound h j last).cores = s.cores := by
    unfold State.endRound
    dsimp only
    split
    · rfl
    · split
      · rfl
      · rfl
  unfold State.setReductionReg
  dsimp only
  split
  · unfold State.setRedCtl
    dsimp only
    split
    · rfl
    · split
      · rfl
      · rfl
  · split
    · unfold State.contribute
      dsimp only
      split
      · rfl
      · exact hround ..
    · rfl
  · unfold State.clearRedGen
    dsimp only
    split
    · rfl
    · rfl
  · split
    · rfl
    · exact hround ..
  · rfl

theorem named_hubWrite {r : HubReg} {v : Word} {pod : Bool} (hs : Named c n id link s) : Named c n id link (s.hubWrite r v pod) := by
  unfold State.hubWrite
  split
  · unfold State.setPlimit
    split
    · exact hs
    · exact hs
  · exact hs
  · exact hs
  · exact hs
  · exact named_same hs (cores_setReductionReg ..)
  · have hboot {d : Nat} {f : BootBlock → BootBlock} : Named c n id link (s.modBoot d f) := hs
    unfold State.setBctl
    split
    · exact hs
    · split
      · exact named_modCore hboot
      · exact named_modCore hboot
  · exact hs
  · exact hs
  · exact hs

theorem named_failPhase {h unit : Nat} {r : Record} (hs : Named c n id link s) : Named c n id link (s.failPhase h unit r) := by
  unfold State.failPhase
  dsimp only
  split
  · exact hs
  · exact named_report hs

theorem named_deferPiece {p : Piece} {es : List LogEntry} (hs : Named c n id link s) : Named c n id link (s.deferPiece p es) := by
  have hmerge {h : Nat} {cs : List (Nat × Word × Word)} : Named c n id link (s.mergeFail h cs) := by
    unfold State.mergeFail
    split
    · exact hs
    · split
      · split
        · exact named_failPhase hs
  exact hmerge

/-! ## The log and the releases -/

theorem named_ringSet {d pos : Nat} {w0 w1 : Word} (hs : Named c n id link s) : Named c n id link (s.ringSet d pos w0 w1) := by
  unfold State.ringSet
  dsimp only
  split
  · exact hs
  · exact named_setBytes hs

theorem named_closeLog {d : Nat} {x : Closing} (hs : Named c n id link s) : Named c n id link (s.closeLog d x) := by
  refine named_modCore (named_ringSet hs) fun k m => ?_
  rw [Core.slot]
  dsimp only
  rw [get_map_key _ rfl]
  obtain ⟨b, h⟩ := endRegions_eq _ m (get {} k.slots m)
  rw [h]
  exact ⟨rfl, rfl⟩

theorem named_release {d m sc : Nat} {follow : List Nat} (hs : Named c n id link s) : Named c n id link (s.release d m sc follow) := by
  have hswitch {h : Nat} : Named c n id link (s.switchHearth d h) := by
    unfold State.switchHearth
    dsimp only
    split
    · exact hs
    · refine named_modCore ?_
      split
      · exact hs
      · exact named_closeLog hs
  exact named_modSlot (named_closeLog hswitch)

theorem named_publish {d h tail : Nat} {v : Clock} (hs : Named c n id link s) : Named c n id link (s.publish d h tail v) :=
  named_modCore hs fun k m => by
    split
    · exact ⟨rfl, rfl⟩
    · exact ⟨rfl, rfl⟩

theorem named_completeRelease {r : Release} (hs : Named c n id link s) : Named c n id link (s.completeRelease r) := by
  unfold State.completeRelease
  extract_lets s1 s2 s3
  have h1 : Named c n id link s1 := hs
  have h2 : Named c n id link s2 := by
    unfold s2
    split
    · exact h1
    · exact named_modCore h1
  have h3 : Named c n id link s3 := by
    unfold s3
    split
    · exact named_publish h2
    · exact h2
  split
  · split
    · exact named_modSlot h3
    · exact h3
  · exact h3

theorem named_ship {r : Release} {pod : Bool} {es : List LogEntry} (hs : Named c n id link s) : Named c n id link (s.ship r pod es) := by
  unfold State.ship
  dsimp only
  split
  · exact named_completeRelease (foldl_keeps (P := Named c n id link) hs fun _ _ h => h)
  · exact foldl_keeps (P := Named c n id link) hs fun _ _ h => h

theorem named_cuWriteback {cl w : Nat} (hs : Named c n id link s) : Named c n id link (s.cuWriteback cl w) := by
  unfold State.cuWriteback
  split
  · exact hs
  · exact named_ship hs

theorem named_stampRelease {d : Nat} (hs : Named c n id link s) : Named c n id link (s.stampRelease d) := by
  unfold State.stampRelease
  split
  · exact hs
  · extract_lets cl s1
    have h1 : Named c n id link s1 := by
      unfold s1
      split
      · exact foldl_keeps hs fun _ _ => named_cuWriteback
      · exact hs
    clear_value s1
    split
    next v s2 e2 =>
    split
    next id' s3 e3 =>
    extract_lets s4 s5 s6 s7 s8
    have h3 : Named c n id link s3 := by
      cases e2
      cases e3
      exact h1
    have h4 : Named c n id link s4 := named_modCore h3
    have h5 : Named c n id link s5 := by
      unfold s5
      split
      · exact named_publish h4
      · exact h4
    have h6 : Named c n id link s6 := by
      unfold s6
      split
      · exact named_modSlot h5
      · exact h5
    have h7 : Named c n id link s7 := by
      unfold s7
      split
      · exact named_modCore h6
      · exact h6
    exact named_ship (s := s8) h7

theorem named_applyEntry {h : Nat} {pod : Bool} {e : LogEntry} (hs : Named c n id link s) : Named c n id link (s.applyEntry h pod e) := by
  unfold State.applyEntry
  split
  · split
    · exact hs
    · split
      · exact hs
      · unfold State.hubSetBytes
        split
        · exact named_hubWrite hs
        · exact hs
  · split
    · exact named_writeAt hs
    · exact foldl_keeps (named_readLines hs) fun _ _ => named_writeAt

theorem named_applyPiece {p : Piece} (hs : Named c n id link s) : Named c n id link (s.applyPiece p) := by
  unfold State.applyPiece
  dsimp only
  split
  · exact foldl_keeps hs fun _ _ => named_applyEntry
  · exact foldl_keeps (named_deferPiece hs) fun _ _ => named_applyEntry

theorem named_ackPiece {p : Piece} (hs : Named c n id link s) : Named c n id link (s.ackPiece p) := by
  unfold State.ackPiece
  extract_lets s1 ws s2 s3
  have h1 : Named c n id link s1 := hs
  have h2 : Named c n id link s2 := by
    unfold s2
    split
    · exact h1
    · exact named_modCore h1
  have h3 : Named c n id link s3 := h2
  split
  · exact h3
  · split
    · exact named_completeRelease h3
    · exact h3

theorem named_settle (hs : Named c n id link s) : Named c n id link s.settle := by
  unfold State.settle
  refine foldl_keeps (foldl_keeps (P := Named c n id link) (foldl_keeps (P := Named c n id link) hs fun t p ht => ?_) fun t hm ht => ?_)
    fun _ _ => named_ackPiece
  · split
    · exact ht
    · exact named_applyPiece ht
  · unfold State.hearAll
    split
    · exact ht
    · exact ht

theorem named_drainN {d l : Nat} (hs : Named c n id link s) : Named c n id link (s.drainN d l) := by
  induction l generalizing s with
  | zero => exact hs
  | succ l ih =>
    unfold State.drainN
    split
    · exact ih (named_settle (named_stampRelease hs))
    · exact hs

/-! ## The end of a thread's units, and its release -/

theorem named_sendTask {d m : Nat} (hs : Named c n id link s) : Named c n id link (s.sendTask d m) := by
  obtain ⟨_, _, _, h⟩ := (learned_sendTask s d m).core c
  rw [Named, State.slot, h]
  exact hs

theorem named_leave {d m : Nat} (hs : Named c n id link s) : Named c n id link (s.leave d m) := by
  unfold State.leave
  exact named_modCore (named_drainN (named_settle (named_release (named_sendTask hs))))

theorem named_wakeBar {d m : Nat} {b : BarId} {ok phase : Bool} {clk : Clock} (hs : Named c n id link s) :
    Named c n id link (s.wakeBar d m b ok phase clk) := by
  unfold State.wakeBar
  split
  · split
    · exact hs
    · split
      · exact hs
      · extract_lets s1
        have h1 : Named c n id link s1 := named_modSlot hs fun t => by
          split
          · exact ⟨rfl, rfl⟩
          · split
            · exact ⟨rfl, rfl⟩
            · exact ⟨rfl, rfl⟩
        split
        · exact named_acquireAt h1
        · exact h1
  · exact hs

theorem named_poisonArrive {b : BarId} {hearth : Nat} (hs : Named c n id link s) : Named c n id link (s.poisonArrive b hearth) := by
  unfold State.poisonArrive
  dsimp only
  split
  · exact hs
  · exact foldl_keeps (P := Named c n id link) hs fun _ _ h => foldl_keeps h fun _ _ => named_wakeBar

theorem named_discardCmds {d m : Nat} (hs : Named c n id link s) : Named c n id link (s.discardCmds d m) := by
  unfold State.discardCmds
  extract_lets mine seq counted s1 s2 s3
  have h2 : Named c n id link s2 := named_modSlot (named_modCore hs)
  refine foldl_keeps (P := Named c n id link) h2 fun t k ht => ?_
  split
  · exact named_poisonArrive ht
  · exact ht

theorem named_endUnits {d m : Nat} (hs : Named c n id link s) : Named c n id link (s.endUnits d m) := named_modCore (named_modSlot hs)

end

end Sys2Proof.Machine

/-! # EXIT (O44) -/

namespace Sys2Proof.Machine

/-! ## The instruction -/

section
variable {x : XA} {s : State} (hr : Ready (.exit x) s) (hb : (x.fld 2).base = 0) (hfs : (x.fld 2).s = 0) (hft : (x.fld 2).t = 0)
  (hdef : ∀ d ∈ s.cur.deferred, d.count < 2)
include hr hb hfs hft hdef

theorem execExit_gate : exitFault s.cur = none ∧ ∀ k, gate (.exit x)
    (lastBad (x.fld 2) ((x.fld 2).base != 0 || (x.fld 2).s != 0 || (x.fld 2).t != 0)) k s = .next (k s) := by
  have hnil : s.cur.deferred.filter (fun d => decide (2 ≤ d.count)) = [] :=
    List.filter_eq_nil_iff.mpr fun d hd => by simpa using hdef d hd
  refine ⟨?_, fun k => gate_next _ _ hr (lastBad_none (x.fld 2) s (by rw [hb, hfs, hft]; rfl))⟩
  rw [exitFault, Slot.firstFault, hnil]
  rfl

theorem exec_exit_counts (h : s.cur.copies ≠ 0 ∨ s.cur.tiles ≠ 0) :
    exec (.exit x) s = .next (s.modCur fun t => { t with wait := .counts (2 ^ 64) (2 ^ 64) 0 0 }) := by
  obtain ⟨hnone, hgate⟩ := execExit_gate hr hb hfs hft hdef
  change execExit x s = _
  simp only [execExit, hnone, hgate, if_pos h, State.waitFor]

theorem exec_exit_ends (hc : s.cur.copies = 0) (ht : s.cur.tiles = 0) (hw : s.exitWaits s.curCore s.curSlot = false)
    (hf : s.exitFault? s.curCore s.curSlot = none) :
    exec (.exit x) s = .next ((s.discardCmds s.curCore s.curSlot).endTask s.curCore s.curSlot (s.w (x.fld 2).d)) := by
  obtain ⟨hnone, hgate⟩ := execExit_gate hr hb hfs hft hdef
  change execExit x s = _
  simp only [execExit, hnone, hgate, hc, ht, hw, hf, ne_eq, not_true_eq_false, or_self, Bool.false_eq_true, if_false]

end

/-! ## A thread that has not adopted -/

section
variable {s : State} {c n : Nat}

/-- A slot without a waiter under it is freed (R84). -/
theorem unchain_free (hl : (s.slot c n).link.bits 63 61 ≠ 2) : s.unchain c n = s.freeSlot c n := if_neg hl

theorem exitWaits_false (hl : (s.slot c n).link.bits 63 61 ≠ 2) (h : s.lookupWaits (s.slot c n).st.hearth (s.slot c n).taskid = false) :
    s.exitWaits c n = false := by
  simp [State.exitWaits, h, hl]

/-- A thread without a task ends: its slot is empty. -/
theorem endTask_noTask (hid : (s.slot c n).taskid = noTask) (hl : (s.slot c n).link.bits 63 61 ≠ 2) (v : Word) :
    ((s.discardCmds c n).endTask c n v).slot c n = {} := by
  have hnamed : Named c n (s.slot c n).taskid (s.slot c n).link (s.discardCmds c n) := named_discardCmds ⟨rfl, rfl⟩
  obtain ⟨-, hlink⟩ := named_leave (d := c) (m := n) (named_endUnits (d := c) (m := n) hnamed)
  obtain ⟨htask, -⟩ := hnamed
  rw [State.endTask, htask, hid, lookup_noTask]
  dsimp only
  rw [unchain_free (by rw [hlink]; exact hl), slot_freeSlot]

end

/-! ## The end of its units -/

/-- v is s but for the commands, streams and tiles that the executing thread had. -/
structure UnitsEnded (s v : State) : Prop where
  rest : v = { s with cores := v.cores, clusters := v.clusters }
  cluster (k : Nat) : v.cluster k = s.cluster k
  core : ∃ slots anvq seqr tiles, v.core s.curCore = { s.core s.curCore with slots := slots, anvq := anvq, seqr := seqr, tiles := tiles }
  cur : ∃ tiles streams, v.cur = { s.cur with tiles := tiles, streams := streams }

theorem UnitsEnded.trans {s t u : State} (h : UnitsEnded s t) (h' : UnitsEnded t u) : UnitsEnded s u where
  rest := by rw [h'.rest, h.rest]
  cluster k := (h'.cluster k).trans (h.cluster k)
  core := by
    obtain ⟨_, _, _, _, ht⟩ := h.core
    obtain ⟨sl, q, r, ti, hu⟩ := h'.core
    have hc : t.curCore = s.curCore := by rw [h.rest]
    rw [hc, ht] at hu
    exact ⟨sl, q, r, ti, hu⟩
  cur := by
    obtain ⟨_, _, ht⟩ := h.cur
    obtain ⟨ti, st, hu⟩ := h'.cur
    exact ⟨ti, st, by rw [hu, ht]⟩

theorem unitsEnded_modCore (s : State) {f : Core → Core} (hf : ∀ k, ∃ anvq seqr tiles, f k = { k with anvq := anvq, seqr := seqr, tiles := tiles }) :
    UnitsEnded s (s.modCore s.curCore f) where
  rest := rfl
  cluster _ := rfl
  core := by
    obtain ⟨q, r, ti, h⟩ := hf (s.core s.curCore)
    exact ⟨_, q, r, ti, by rw [State.core_modCore_same, h]⟩
  cur := ⟨_, _, State.cur_modCore (by obtain ⟨_, _, _, h⟩ := hf s.curK; rw [h])⟩

theorem unitsEnded_modCur (s : State) {f : Slot → Slot} (hf : ∀ t, ∃ tiles streams, f t = { t with tiles := tiles, streams := streams }) :
    UnitsEnded s (s.modCur f) where
  rest := rfl
  cluster _ := rfl
  core := ⟨_, _, _, _, State.core_modCore_same ..⟩
  cur := by
    rw [State.cur_modCur]
    exact hf _

/-- A thread that has no command discards none. -/
theorem unitsEnded_discardCmds {s : State} (h : ∀ y ∈ s.curK.anvq, y.slot ≠ s.curSlot) : UnitsEnded s (s.discardCmds s.curCore s.curSlot) := by
  have hnil : (s.core s.curCore).anvq.filter (·.slot == s.curSlot) = [] :=
    List.filter_eq_nil_iff.mpr fun y hy => by simpa using h y hy
  unfold State.discardCmds
  extract_lets mine seq counted s1 s2 s3
  have hmine : mine = [] := hnil
  have h1 : UnitsEnded s s1 := unitsEnded_modCore s fun _ => ⟨_, _, _, rfl⟩
  have h2 : UnitsEnded s1 s2 := unitsEnded_modCur s1 fun _ => ⟨_, _, rfl⟩
  have h3 : UnitsEnded s2 s3 := by
    refine ⟨rfl, fun k => ?_, ⟨_, _, _, _, rfl⟩, ⟨_, _, rfl⟩⟩
    by_cases hk : k = clusterOf s.curCore
    · rw [hk]
      refine (get_put_same ..).trans (if_neg fun hq => ?_)
      simp [hmine] at hq
    · exact get_put_ne _ _ _ hk
  rw [hmine, List.foldl_nil]
  exact (h1.trans h2).trans h3

theorem unitsEnded_endUnits (s : State) : UnitsEnded s (s.endUnits s.curCore s.curSlot) :=
  (unitsEnded_modCur s fun _ => ⟨_, _, rfl⟩).trans (unitsEnded_modCore _ fun _ => ⟨_, _, _, rfl⟩)

namespace UnitsEnded

variable {s v : State} (h : UnitsEnded s v)
include h

theorem curCore : v.curCore = s.curCore := by rw [h.rest]
theorem curSlot : v.curSlot = s.curSlot := by rw [h.rest]

theorem samePlaces : SamePlaces s v := by
  obtain ⟨_, _, _, _, hk⟩ := h.core
  obtain ⟨_, _, hcur⟩ := h.cur
  refine ⟨by rw [h.rest], by rw [hcur], by rw [h.rest], ?_, fun d => by rw [h.rest]; rfl⟩
  rw [State.curK, h.curCore, hk]
  rfl

theorem sound (hs : Claims.Sound s) : Claims.Sound v := by
  rw [h.rest]
  exact hs

theorem quiet (hq : Claims.Quiet s) : Claims.Quiet v := by
  obtain ⟨hp, hr, ho, hc, hh, hcu, hw, ha, hex, hpk⟩ := hq
  obtain ⟨_, _, _, _, hk⟩ := h.core
  obtain ⟨_, _, hcur⟩ := h.cur
  have hlog : v.curK.log = s.curK.log := by rw [State.curK, h.curCore, hk]; rfl
  unfold Claims.Quiet
  rw [hlog, hcur, h.curCore, h.cluster]
  refine ⟨?_, ?_, ho, hc, hh, hcu, hw, ha, hex, ?_⟩
  · rw [h.rest]
    exact hp
  · rw [h.rest]
    exact hr
  · rw [h.rest]
    exact hpk

theorem memW (pa : Nat) : v.memW pa = s.memW pa := memW_congr (by rw [h.rest]) (by rw [h.rest]) (by rw [h.rest]) pa

end UnitsEnded

/-! ## The release of a thread that ends -/

/-- The task of s has ended its units and released: nothing that its record and its place rest on has changed. -/
structure Departed (s w : State) : Prop where
  places : SamePlaces s w
  quiet : Claims.Quiet w
  sound : Claims.Sound w
  curCore : w.curCore = s.curCore
  curSlot : w.curSlot = s.curSlot
  det : w.cur.st.det = false
  taskid : w.cur.taskid = s.cur.taskid
  link : w.cur.link = s.cur.link
  words {a : Word} {pa k : Nat} : Claims.HwWords s a pa k → ∀ i < k, w.memW (pa + 8 * i) = s.memW (pa + 8 * i)

/-- EXIT goes on with the task's record behind the release (R364). -/
theorem endTask_departed {s : State} (hq : Claims.Quiet s) (hs : Claims.Sound s) (hdet : s.cur.st.det = false)
    (h : ∀ y ∈ s.curK.anvq, y.slot ≠ s.curSlot) (v : Word) :
    ∃ w, Departed s w ∧
      (w.lookup s.curCore s.cur.st.hearth s.cur.taskid = (.none, w) →
        (s.discardCmds s.curCore s.curSlot).endTask s.curCore s.curSlot v = w.unchain s.curCore s.curSlot) ∧
      ∀ tr, w.lookup s.curCore s.cur.st.hearth s.cur.taskid = (.at tr, w) → (s.discardCmds s.curCore s.curSlot).endTask s.curCore s.curSlot v =
        ((w.resultFuture s.curCore s.curSlot tr 2 v).taskDone s.curCore s.curSlot s.cur.st.hearth tr).unchain s.curCore s.curSlot := by
  have hcmds := unitsEnded_discardCmds h
  have hunits := unitsEnded_endUnits (s.discardCmds s.curCore s.curSlot)
  obtain ⟨_, _, hcurd⟩ := hcmds.cur
  rw [hcmds.curCore, hcmds.curSlot] at hunits
  have hend := hcmds.trans hunits
  have hslot : (s.discardCmds s.curCore s.curSlot).slot s.curCore s.curSlot = (s.discardCmds s.curCore s.curSlot).cur := by
    rw [State.cur, hcmds.curCore, hcmds.curSlot]
  obtain ⟨_, _, hcurv⟩ := hend.cur
  have hleave := access_leave (hend.quiet hq) (by rw [hcurv]; exact hdet)
  rw [hend.curCore, hend.curSlot] at hleave
  obtain ⟨_, _, _, hcurw⟩ := hleave.cur
  refine ⟨((s.discardCmds s.curCore s.curSlot).endUnits s.curCore s.curSlot).leave s.curCore s.curSlot,
    ⟨hend.samePlaces.trans hleave.samePlaces, hleave.quiet (hend.quiet hq), sound_access hleave (hend.sound hs),
    hleave.curCore.trans hend.curCore, hleave.curSlot.trans hend.curSlot, ?_, ?_, ?_, fun hw i hi => ?_⟩, fun hl => ?_, fun tr hl => ?_⟩
  · rw [hcurw, hcurv]
    exact hdet
  · rw [hcurw, hcurv]
  · rw [hcurw, hcurv]
  · exact (memW_words hleave (hend.samePlaces.hwWords hw) i hi).trans (hend.memW _)
  · simp only [State.endTask, hslot, hcurd, hl]
  · simp only [State.endTask, hslot, hcurd, hl]

/-! ## The task's future -/

section
variable {w : State} {tr : Word} {pr pf : Nat} (hs : Claims.Sound w) (hw : Claims.HwWords w tr pr 3) (v : Word)
include hs hw

/-- The FUTURE word of a record. -/
theorem hwRead_future : w.hwReadWords w.cur.st.hearth (tr + 0x10) 1 = .ok [w.memW (pr + 16)] :=
  hwReadWords_words hs (hwWords_one (hw 2 (by decide)))

theorem resultFuture_none (hf : w.memW (pr + 16) = 0) : w.resultFuture w.curCore w.curSlot tr 2 v = w := by
  have hread : w.hwReadWords (w.slot w.curCore w.curSlot).st.hearth (tr + 0x10) 1 = .ok [w.memW (pr + 16)] := hwRead_future hs hw
  rw [State.resultFuture, hread, hf]
  rfl

/-- An empty or claimed future becomes full with the value (R82, R364); any other stays. -/
theorem resultFuture_next (hwait : w.cur.wait = .none) (hdet : w.cur.st.det = false) (hf : w.memW (pr + 16) ≠ 0)
    (hal : (w.memW (pr + 16)).toNat % 16 = 0) (hfw : Claims.HwWords w (w.memW (pr + 16)) pf 2) :
    ∃ x, w.resultFuture w.curCore w.curSlot tr 2 v = x ∧ Access [(pf, 16)] w x ∧
      x.memW pf = (if (w.memW pf).bits 63 62 < 2 then BitVec.ofNat 64 (2 ^ 63 + (w.memW pf).bits 47 0) else w.memW pf) ∧
      x.memW (pf + 8) = (if (w.memW pf).bits 63 62 < 2 then v else w.memW (pf + 8)) := by
  have hread : w.hwReadWords (w.slot w.curCore w.curSlot).st.hearth (tr + 0x10) 1 = .ok [w.memW (pr + 16)] := hwRead_future hs hw
  have hdet' : (w.slot w.curCore w.curSlot).st.det = false := hdet
  obtain ⟨hw0, hw1⟩ := hwWords_succ hfw
  have hpa : w.hwPA (w.slot w.curCore w.curSlot).st.hearth (w.memW (pr + 16)) .atomic = .ok pf := hwPA_word hw0 (by decide)
  obtain ⟨-, -, hc0, -, hal0, hown, -⟩ := hw0
  obtain ⟨⟨-, -, hc1, -, hal1, -⟩, -⟩ := hwWords_succ hw1
  have hcls : ∀ i < 16, paClass (pf + i) = 0 := by
    intro i hi
    by_cases hi8 : i < 8
    · exact paClass_aligned hc0 (.inr rfl) hal0 i hi8
    · have h8 := paClass_aligned hc1 (.inr rfl) hal1 (i - 8) (by omega)
      rwa [Nat.add_assoc, Nat.add_sub_of_le (Nat.not_lt.mp hi8)] at h8
  have hplace : w.futurePA (w.slot w.curCore w.curSlot).st.hearth (w.memW (pr + 16)) = .ok pf := by
    simp [State.futurePA, hal, hpa, hc0, hown, poisoned_sound hs]
  have hres : w.resultFuture w.curCore w.curSlot tr 2 v = w.tryFuture w.curCore pf 2 v := by
    rw [State.resultFuture, hread]
    simp only [Except.toOption, Option.getD_some, List.getD_cons_zero, if_neg hf, hplace, hdet', Bool.false_eq_true, if_false]
  refine ⟨_, hres, ?_⟩
  rw [State.tryFuture, futState]
  split
  · obtain ⟨hacc, hq, hv⟩ := access_setFuture hwait hs.1 hcls w.curCore 2 v
    refine ⟨hacc, ?_, hv⟩
    rw [hq, futWord_owner]
    rfl
  · exact ⟨(Access.refl w).mono (List.nil_subset _), rfl, rfl⟩

end

/-! ## The task is done -/

/-- Its running record becomes done (R68, R364), and its pins go. -/
theorem taskDone_next {x : State} {tr : Word} {pr : Nat} (hs : Claims.Sound x) (hwait : x.cur.wait = .none) (hdet : x.cur.st.det = false)
    (hw : Claims.HwWord x (tr + 8) (pr + 8)) :
    ∃ y, x.taskDone x.curCore x.curSlot x.cur.st.hearth tr = y.unpin x.cur.st.hearth x.cur.taskid ∧ Access [(pr + 8, 8)] x y ∧
      y.memW (pr + 8) = if (x.memW (pr + 8)).bits 39 36 = 2 then Claims.ctrlWith (x.memW (pr + 8)) 5 else x.memW (pr + 8) := by
  have hcas := casTask_word (old := 2) (new := 5) hs (by decide) hw
  have hdet' : (x.slot x.curCore x.curSlot).st.det = false := hdet
  obtain ⟨-, -, hc, -, hal, -⟩ := hw
  have hdone (y : State) (b : Bool) (hy : x.casTask x.cur.st.hearth tr 2 5 = .ok (b, y)) :
      x.taskDone x.curCore x.curSlot x.cur.st.hearth tr = y.unpin x.cur.st.hearth x.cur.taskid := by
    rw [State.taskDone, State.casNoted, hy]
    dsimp only
    rw [hdet']
    rfl
  by_cases h : (x.memW (pr + 8)).bits 39 36 = 2
  · rw [if_pos h] at hcas ⊢
    exact ⟨_, hdone _ _ hcas, access_writeWord hwait hs.1 hc hal _, memW_writeWord hc hal _⟩
  · rw [if_neg h] at hcas ⊢
    exact ⟨x, hdone _ _ hcas, (Access.refl x).mono (List.nil_subset _), rfl⟩

theorem slot_unpin (s : State) (h : Nat) (task : Word) (c n : Nat) : (s.unpin h task).slot c n = s.slot c n := by
  rw [State.slot, State.core, State.unpin]
  dsimp only
  rw [get_map_snd (fun k : Core => { k with pins := k.pins.filter fun p => !(p.hearth == h && p.task == task) }) rfl]
  rfl

/-! ## Its pins are gone -/

/-- The task has no pin in any core. -/
def NoPins (h : Nat) (task : Word) (s : State) : Prop := ∀ e ∈ s.cores, ∀ q ∈ e.2.pins, ¬(q.hearth = h ∧ q.task = task)

section
variable {h : Nat} {task : Word} {s : State}

theorem noPins_unpin (s : State) (h : Nat) (task : Word) : NoPins h task (s.unpin h task) := by
  intro e he q hq
  obtain ⟨e', -, rfl⟩ := List.mem_map.mp he
  simpa [imp_iff_not_or] using (List.mem_filter.mp hq).2

theorem noPins_setSlot (hp : NoPins h task s) (c n : Nat) (t : Slot) : NoPins h task (s.setSlot c n t) := by
  intro e he q hq
  obtain rfl | he := mem_put he
  · obtain hd | hm := mem_of_get (d := ({} : Core)) s.cores c
    · have hnil : (s.core c).pins = [] := by rw [State.core, hd]
      change q ∈ (s.core c).pins at hq
      rw [hnil] at hq
      cases hq
    · exact hp _ hm q hq
  · exact hp e he q hq

theorem noPins_freeSlot (hp : NoPins h task s) (c n : Nat) : NoPins h task (s.freeSlot c n) := by
  have horphan : NoPins h task (s.orphan c n) := by
    intro e he q hq
    obtain ⟨e', he', rfl⟩ := List.mem_map.mp he
    refine hp e' he' q ?_
    dsimp only at hq
    split at hq
    · exact hq
    · exact hq
  refine noPins_setSlot ?_ c n {}
  unfold State.dropMisses
  split
  · exact horphan
  · exact horphan

end

/-! ## EXIT's clauses -/

/-- The record of a task that departs becomes done, its pins are gone and its slot is empty. -/
theorem done_ends {s w x : State} {l : List (Nat × Nat)} {tr : Word} {pr : Nat} (hw : Departed s w) (hx : Access l w x)
    (htr : Claims.HwWords s tr pr 3) (hl : s.cur.link.bits 63 61 ≠ 2) (hctrl : x.memW (pr + 8) = s.memW (pr + 8)) :
    ∃ t, (x.taskDone s.curCore s.curSlot s.cur.st.hearth tr).unchain s.curCore s.curSlot = t ∧ t.slot s.curCore s.curSlot = {} ∧
      t.memW (pr + 8) = (if (s.memW (pr + 8)).bits 39 36 = 2 then Claims.ctrlWith (s.memW (pr + 8)) 5 else s.memW (pr + 8)) ∧
      NoPins s.cur.st.hearth s.cur.taskid t ∧
      ∀ pa, paClass pa = 0 → pa < 2 ^ 56 → pa % 8 = 0 → (pa + 8 ≤ pr + 8 ∨ pr + 16 ≤ pa) → t.memW pa = x.memW pa := by
  obtain ⟨_, _, _, hcur⟩ := hx.cur
  have hdet : x.cur.st.det = false := by rw [hcur]; exact hw.det
  have htask : x.cur.taskid = s.cur.taskid := by rw [hcur]; exact hw.taskid
  have hlink : x.cur.link = s.cur.link := by rw [hcur]; exact hw.link
  have hplaces := hw.places.trans hx.samePlaces
  have hc : x.curCore = s.curCore := hx.curCore.trans hw.curCore
  have hn : x.curSlot = s.curSlot := hx.curSlot.trans hw.curSlot
  obtain ⟨y, hdone, hy, hword⟩ := taskDone_next ⟨hx.poison.trans hw.sound.1, hx.latent.trans hw.sound.2⟩
    (hx.cur.wait.trans (quiet_wait hw.quiet)) hdet (hplaces.hwWord (htr 1 (by decide)))
  rw [hc, hn, htask, hplaces.hearth] at hdone
  rw [hctrl] at hword
  obtain ⟨_, _, _, hcury⟩ := hy.cur
  have hliny : ((y.unpin s.cur.st.hearth s.cur.taskid).slot s.curCore s.curSlot).link = s.cur.link := by
    rw [slot_unpin, ← hc, ← hn, ← hy.curCore, ← hy.curSlot]
    change y.cur.link = _
    rw [hcury, hlink]
  have hmem (pa : Nat) : ((y.unpin s.cur.st.hearth s.cur.taskid).freeSlot s.curCore s.curSlot).memW pa = y.memW pa := by
    rw [memW_freeSlot]
    exact memW_congr (s := y) rfl rfl rfl pa
  refine ⟨_, ?_, slot_freeSlot .., (hmem _).trans hword, noPins_freeSlot (noPins_unpin y _ _) _ _, fun pa hcl hlt hal hout => ?_⟩
  · rw [hdone, unchain_free (by rw [hliny]; exact hl)]
  · rw [hmem, hy.memW hcl hlt hal (by simpa [Nat.add_assoc] using hout)]

/-- EXIT reads the record of a task: nothing keeps it from it (R68, R87). -/
theorem exit_reads {s : State} {pr : Nat} (hs : Claims.Sound s) (hid : s.cur.taskid ≠ noTask) (har : Claims.Arena s)
    (hw : Claims.HwWords s (Claims.recordOf s s.cur.taskid) pr 3) (hl : s.cur.link.bits 63 61 ≠ 2) :
    s.exitWaits s.curCore s.curSlot = false ∧ s.exitFault? s.curCore s.curSlot = none := by
  have hrec : s.taskRecord (s.slot s.curCore s.curSlot).st.hearth (s.slot s.curCore s.curSlot).taskid =
      if s.memW pr = s.cur.taskid then .at (Claims.recordOf s s.cur.taskid) else .none :=
    taskRecord_word hs hid har (hwWords_mono hw (by decide))
  have hread : s.hwReadWords (s.slot s.curCore s.curSlot).st.hearth (Claims.recordOf s s.cur.taskid + 8) 2 =
      .ok ((List.range 2).map fun i => s.memW (pr + 8 + 8 * i)) := hwReadWords_words hs (hwWords_succ hw).2
  by_cases h : s.memW pr = s.cur.taskid
  · rw [if_pos h] at hrec
    refine ⟨exitWaits_false hl ?_, ?_⟩
    · rw [State.lookupWaits, hrec]
    · rw [State.exitFault?, hrec]
      dsimp only
      rw [hread]
  · rw [if_neg h] at hrec
    refine ⟨exitWaits_false hl ?_, ?_⟩
    · rw [State.lookupWaits, hrec]
    · rw [State.exitFault?, hrec]

/-- EXIT's clauses of O44. -/
theorem exits (x : XA) (s : State) (pr pf : Nat) (hr : Ready (.exit x) s) (hb : (x.fld 2).base = 0) (hfs : (x.fld 2).s = 0)
    (hft : (x.fld 2).t = 0) (hdef : ∀ d ∈ s.cur.deferred, d.count < 2) :
    let f := x.fld 2
    let id := s.cur.taskid
    let ctrl := s.memW (pr + 8)
    let fut := s.memW (pr + 16)
    let ends (t : State) : Prop := exec (.exit x) s = .next t ∧ t.slot s.curCore s.curSlot = {}
    let done (t : State) : Prop := t.memW (pr + 8) = (if ctrl.bits 39 36 = 2 then Claims.ctrlWith ctrl 5 else ctrl) ∧
      ∀ e ∈ t.cores, ∀ q ∈ e.2.pins, ¬(q.hearth = s.cur.st.hearth ∧ q.task = id)
    (s.cur.copies ≠ 0 ∨ s.cur.tiles ≠ 0 →
      exec (.exit x) s = .next (s.modCur fun t => { t with wait := .counts (2 ^ 64) (2 ^ 64) 0 0 })) ∧
    (s.cur.copies = 0 → s.cur.tiles = 0 → s.cur.link.bits 63 61 ≠ 2 →
      (id = 0x0000FFFFFFFFFFFF → ∃ t : State, ends t) ∧
      (id ≠ 0x0000FFFFFFFFFFFF → s.cur.st.det = false → Claims.Quiet s → Claims.Sound s → Claims.Arena s →
        (∀ y ∈ s.curK.anvq, y.slot ≠ s.curSlot) → Claims.HwWords s (Claims.recordOf s id) pr 3 →
        (s.memW pr ≠ id → ∃ t : State, ends t) ∧
        (s.memW pr = id → fut = 0 → ∃ t : State, ends t ∧ done t) ∧
        (s.memW pr = id → fut ≠ 0 → fut.toNat % 16 = 0 → Claims.HwWords s fut pf 2 → Claims.Clear pf 16 pr 24 →
          ∃ t : State, ends t ∧ done t ∧
            t.memW pf = (if (s.memW pf).bits 63 62 < 2 then BitVec.ofNat 64 (2 ^ 63 + (s.memW pf).bits 47 0) else s.memW pf) ∧
            t.memW (pf + 8) = (if (s.memW pf).bits 63 62 < 2 then s.w f.d else s.memW (pf + 8))))) := by
  intro f id ctrl fut ends done
  refine ⟨exec_exit_counts hr hb hfs hft hdef, fun hc ht hl => ⟨fun hid => ?_, fun hid hdet hq hs har hcmds hw => ?_⟩⟩
  · have hrec (h : Nat) : s.taskRecord h s.cur.taskid = .none := if_pos hid
    have hwaits : s.exitWaits s.curCore s.curSlot = false := exitWaits_false hl (by rw [State.lookupWaits]; exact hrec _ ▸ rfl)
    have hfault : s.exitFault? s.curCore s.curSlot = none := by rw [State.exitFault?]; exact hrec _ ▸ rfl
    exact ⟨_, exec_exit_ends hr hb hfs hft hdef hc ht hwaits hfault, endTask_noTask hid hl _⟩
  · obtain ⟨hwaits, hfault⟩ := exit_reads hs hid har hw hl
    obtain ⟨w, hdep, hother, hend⟩ := endTask_departed hq hs hdet hcmds (s.w f.d)
    have hexec := exec_exit_ends hr hb hfs hft hdef hc ht hwaits hfault
    have hwp := hdep.places.hwWords hw
    have hwords (i : Nat) (hi : i < 3) : w.memW (pr + 8 * i) = s.memW (pr + 8 * i) := hdep.words hw i hi
    have hw0 : w.memW pr = s.memW pr := hwords 0 (by decide)
    have hw1 : w.memW (pr + 8) = s.memW (pr + 8) := hwords 1 (by decide)
    have hw2 : w.memW (pr + 16) = s.memW (pr + 16) := hwords 2 (by decide)
    have hlook : w.lookup s.curCore s.cur.st.hearth s.cur.taskid = (if s.memW pr = id then .at (Claims.recordOf s id) else .none, w) := by
      have := lookup_word (c := s.curCore) hdep.sound hid (hdep.places.arena har)
        (by rw [hdep.places.recordOf]; exact hwWords_mono hwp (by decide) : Claims.HwWords w (Claims.recordOf w id) pr 1)
      rwa [hdep.places.hearth, hdep.places.recordOf, hw0] at this
    refine ⟨fun hne => ?_, fun hown hfut => ?_, fun hown hfut hal hfw hapart => ?_⟩
    · rw [if_neg hne] at hlook
      have hslot : w.slot s.curCore s.curSlot = w.cur := by rw [State.cur, hdep.curCore, hdep.curSlot]
      refine ⟨_, hexec, ?_⟩
      rw [hother hlook, unchain_free (by rw [hslot, hdep.link]; exact hl), slot_freeSlot]
    · rw [if_pos hown] at hlook
      have hres := resultFuture_none hdep.sound hwp (s.w f.d) (hw2.trans hfut)
      rw [hdep.curCore, hdep.curSlot] at hres
      obtain ⟨t, hdone, hslot, hmem, hpins, -⟩ := done_ends hdep (.refl w) hw hl hw1
      refine ⟨t, ⟨hexec.trans (congrArg _ ?_), hslot⟩, hmem, hpins⟩
      rw [hend _ hlook, ← hdone, hres]
    · rw [if_pos hown] at hlook
      have hfwp : Claims.HwWords w (w.memW (pr + 16)) pf 2 := by
        rw [hw2]
        exact hdep.places.hwWords hfw
      obtain ⟨x, hres, hx, hxf, hxv⟩ := resultFuture_next hdep.sound hwp (s.w f.d) (quiet_wait hdep.quiet) hdep.det (by rwa [hw2]) (by rwa [hw2]) hfwp
      rw [hdep.curCore, hdep.curSlot] at hres
      have hf0 : w.memW pf = s.memW pf := hdep.words hfw 0 (by decide)
      have hf1 : w.memW (pf + 8) = s.memW (pf + 8) := hdep.words hfw 1 (by decide)
      obtain ⟨-, -, hc1, hlt1, hal1, -⟩ := hw 1 (by decide)
      have hx1 : x.memW (pr + 8) = s.memW (pr + 8) := (hx.memW hc1 hlt1 hal1 (by simp; omega)).trans hw1
      obtain ⟨t, hdone, hslot, hmem, hpins, hrest⟩ := done_ends hdep hx hw hl hx1
      obtain ⟨⟨-, -, hcf0, hltf0, half0, -⟩, hfrest⟩ := hwWords_succ hfw
      obtain ⟨⟨-, -, hcf1, hltf1, half1, -⟩, -⟩ := hwWords_succ hfrest
      refine ⟨t, ⟨hexec.trans (congrArg _ ?_), hslot⟩, ⟨hmem, hpins⟩, ?_, ?_⟩
      · rw [hend _ hlook, ← hdone, hres]
      · rw [hrest pf hcf0 hltf0 half0 (by omega), hxf, hf0]
      · rw [hrest (pf + 8) hcf1 hltf1 half1 (by omega), hxv, hf0, hf1]

/-- Settles O44: each of the three runs to a state that its words and places determine. -/
theorem tasksStartAndEnd : Obligations.TasksStartAndEnd := by
  unfold Obligations.TasksStartAndEnd
  refine ⟨fun x s pr pd pe => ?_, fun x s pa l => ?_, fun x s pr pf => ?_⟩
  · exact spawns x s pr pd pe
  · intro f a ch n p u link hr hdet hq hs hv hl hst htl hdef hal hb ho hit hit' hw hok hc
    exact yields x s pa l hr hdet hq hs hv hl hst htl hdef hal hb ho hit hit' hw hok hc
  · exact exits x s pr pf

end Sys2Proof.Machine
